-- ==== Sys2Proof/Word.lean ====
section
/-! DEFINITION. The word types of the Glanik: registers are 32 bits wide (spec/00_scope.md R15), memory is made of bytes
(R13), and 64-bit quantities stand in register pairs (R16). -/

namespace Sys2Proof

/-- A byte of memory (R13). -/
abbrev Byte := BitVec 8
/-- A 32-bit register word (R15), also a thread's vector register (spec/02_thread_groups.md). -/
abbrev W32 := BitVec 32
/-- A 64-bit word: an instruction word, a counter pair, a fence value. -/
abbrev W64 := BitVec 64
/-- A 16-bit error code (spec/00_scope.md R23). -/
abbrev Code := BitVec 16

end Sys2Proof
end

