-- ==== Sys2Proof/Syntax.lean ====
section
/-! DEFINITION. The commands of the Glanik: one constructor of `Instr` for each row of spec/opcode_table.json, with the
operands the step needs. The table gives the rows no operand fields; the operands are this model's: which core, function,
ring or unit the step is about, the value written, and what arrives from outside with the event (a host's answer, an
error the hardware finds, a measurement). -/

namespace Sys2Proof

/-- What SECDED finds on a read: nothing, a single-bit error, or an uncorrectable one in a word of the line
(spec/01_fabric_and_loft.md R37, R60 to R62). -/
inductive Ecc where
  | clean
  | single
  | double (word : Fin 8)
  deriving DecidableEq, Repr

/-- Whose request a fill or write-back of the memory controller serves (R40): the Pit's or Proscenium's, one made for a
partition, or a prefetch, a scrub or a compression engine's. -/
inductive Origin where
  | rt
  | part (p : Fin 8)
  | bulk
  deriving DecidableEq, Repr

/-- The agents other than the cores that have ports into the Loft (R40): the Pit for a stream (R187; `fifo` when what it
reads is a frame FIFO entry), Proscenium for an output, the raster block, the memory controller for an originating request,
the host interface, the Umram link for a partition, the compression engines, a tensor engine or COPY through
its core's port, the Stagehand controllers, and the internal prefetch and scrub port. -/
inductive LoftAgent where
  | pit (n : Fin 32) (fifo : Bool)
  | proscenium (o : Fin 3)
  | raster
  | memc (origin : Origin)
  | host
  | link (part : Fin 8)
  | comp
  | engine (part : Fin 8)
  | stagehand
  | internal
  deriving DecidableEq, Repr

/-- An access a block makes to a Loft bank by row: who makes it, the context it is made for, if any, and whether it has
waited 256 Loft beats (R41). -/
structure BankAcc where
  row : Fin 16384
  agent : LoftAgent
  cid : Option (Fin 1024)
  waited : Bool
  deriving DecidableEq, Repr

/-- An access a block makes to DRAM: who makes it, the context it is made for, if any, and the device address. -/
structure DramAcc where
  agent : LoftAgent
  cid : Option (Fin 1024)
  addr : BitVec 48
  deriving DecidableEq, Repr

/-- A register path (spec/18_register_map.md R529): BAR2, the BAR0 page of a function, SDIO F1, UL_RACC, or the Stagehand
controllers. -/
inductive Path where
  | bar2
  | bar0 (fn : Fin 32)
  | f1
  | racc
  | stagehand
  deriving DecidableEq, Repr

/-- A register access (R15 to R18): its path, its offset (in the global window, or in the BAR0 page), its size in bytes,
whether it writes, the data, and the W1C bits that hardware sets in the same cycle (R19). -/
structure RegAccess where
  path : Path
  off : BitVec 24
  size : Nat
  write : Bool
  data : BitVec 64
  hwSet : BitVec 32
  deriving DecidableEq, Repr

/-- A cache: the CACHE region, or a core's L1 (spec/01_fabric_and_loft.md R47). -/
inductive CacheId where
  | loft
  | l1 (c : Fin 17)
  deriving DecidableEq, Repr

/-- A region a stall monitor watches (R34): a core, with the stalled unit of CORE_STALL_STATUS.UNIT, or a Loft bank
(quadrant * 16 + bank). -/
inductive StallRegion where
  | core (c : Fin 17) (unit : Fin 8)
  | bank (b : Fin 64)
  deriving DecidableEq, Repr

/-- A region with a beat counter and rate monitor (R32). -/
inductive RateRegion where
  | core (c : Fin 17)
  | loft
  deriving DecidableEq, Repr

/-- A source of cues: a ring of a function (spec/08_prompt_desk.md R267), or a stream of the Pit (R289). -/
inductive Src where
  | ring (fn : Fin 32) (r : Fin 1024)
  | stream (n : Fin 32)
  deriving DecidableEq, Repr

/-- How a host-window access or an ATS translation fails (spec/11_translation.md R366). -/
inductive HostErr where
  | unmapped | perm | error
  deriving DecidableEq, Repr

/-- A word the host's memory returns, or the failure of the read. -/
inductive HostRead where
  | word (v : BitVec 32)
  | fail (e : HostErr)
  deriving DecidableEq, Repr

/-- A 64-byte cue as the host's memory returns it, byte 0 lowest, or the failure of the read. -/
inductive CueRead where
  | cue (bytes : BitVec 512)
  | fail (e : HostErr)
  deriving DecidableEq, Repr

/-- An instruction issue (spec/02_thread_groups.md R66, R71, R78): the core, the group slot, a lane of the subset that
issues, the 64-bit word that instruction fetch returned, and whether it is the second of a pair, issued in the beat of the
core's issue before it. -/
structure Issue where
  core : Fin 17
  slot : Fin 48
  lane : Fin 32
  word : BitVec 64
  paired : Bool
  deriving DecidableEq, Repr

/-- The function-range registers (spec/09_objects_and_fences.md R300). -/
inductive RangeReg where
  | ctxRange | fenceBase | fenceCount | semRange | partMask
  deriving DecidableEq, Repr

/-- The kinds of access a translation serves (spec/11_translation.md R362). -/
inductive XKind where
  | read | write | fetch
  deriving DecidableEq, Repr

/-- An ATS translation completion (R366): the translated page of a size with its permissions, no permission at all, or an
error. -/
inductive AtsRes where
  | ok (page : BitVec 47) (sizeLog2 : Nat) (r w : Bool)
  | fail
  deriving DecidableEq, Repr

/-- A finding of Rehearsal (spec/16_rehearsal_and_show_report.md R494 to R498): nothing, a repair entry made, a failed
core, a Loft failure beyond the spares, or another unit beyond its spares. -/
inductive Finding where
  | repair (entry : BitVec 32)
  | coreFail (c : Fin 17)
  | loftFail
  | unitFail
  deriving DecidableEq, Repr

/-- A row of the fuse array (spec/15_reset_boot_security.md R466). -/
inductive FuseRow where
  | uds | serial | ident
  | keyHash (k : Fin 4)
  | keyRevoke | svn | reach | startLimit | factoryCal | repair | ballMap
  deriving DecidableEq, Repr


/-- What the host answers a load or an atomic with: the data, or a failure (spec/11_translation.md R366). -/
inductive HostData where
  | data (v : BitVec 128)
  | fail (e : HostErr)
  deriving DecidableEq, Repr

/-- What a camera receiver receives (spec/05_the_pit.md R182): the short packet of the start or end of a frame, or of the
start or end of a line, on a virtual channel, and whether its header was corrected; a long packet with its data type, whether
its header was corrected and whether its CRC fails; a header that cannot be corrected, or a line the receiver finds
missing. -/
inductive CsiPkt where
  | frameStart (vc : Fin 16) (corrected : Bool)
  | frameEnd (vc : Fin 16) (corrected : Bool)
  | lineSync (vc : Fin 16) (corrected : Bool)
  | line (vc : Fin 16) (dt : Fin 64) (corrected crcBad : Bool) (data : List Byte)
  | headerBad
  | lineMissing (vc : Fin 16) (dt : Fin 64)
  deriving DecidableEq, Repr

/-- What a peer request does at its target (spec/12_umram_link.md R403). -/
inductive PeerOp where
  | read (n : Nat)
  | write (bytes : List Byte)
  | rmw (op size data cmp : Nat)
  deriving DecidableEq, Repr

/-- A packet of the link (R401, R403, R410, R413, R416): a unit address is the list of its positions from level 0 down. A
token is its header flit and payload. -/
inductive LinkPkt where
  | peerReq (dest src : List Nat) (xid addr : Nat) (op : PeerOp)
  | peerResp (dest src : List Nat) (xid code : Nat) (data : List Byte)
  | token (bytes : List Byte)
  | tokAck (dest src : List Nat) (xid code : Nat)
  | raccReq (dest src : List Nat) (op off data : Nat)
  | raccResp (dest src : List Nat) (data : Nat)
  deriving DecidableEq, Repr

/-- An enclosing token that a sub-token carries (R396, R397): the positions above its ring, its counter, and whether it
travels west. -/
structure UpTok where
  pre : List Nat
  counter : Nat
  west : Bool
  deriving DecidableEq, Repr

/-- An address token or sub-token (R396, R397): the positions above its ring, its counter, whether it travels west, and
for a sub-token the upper token it carries, with those that this one carries. -/
structure AddrTok where
  pre : List Nat
  counter : Nat
  west : Bool
  upper : List UpTok
  deriving DecidableEq, Repr

/-- A ring of the roster (R396, R397): the positions above it, its size, and whether it is open. -/
structure RosterRing where
  pre : List Nat
  size : Nat
  isOpen : Bool
  deriving DecidableEq, Repr

/-- A unit of the roster: its address, its role (0 none, 1 west gateway, 2 east gateway), and which of its ports E, W and U
are up. -/
structure RosterUnit where
  addr : List Nat
  gw : Nat
  up : List Bool
  deriving DecidableEq, Repr

/-- The roster (R396). -/
structure Roster where
  rings : List RosterRing
  units : List RosterUnit
  deriving DecidableEq, Repr

/-- The commands, one constructor for each row of spec/opcode_table.json, in the table's order. -/
inductive Instr where
  /-- REGISTER_WRITE (R18). -/
  | registerWrite (a : RegAccess)
  /-- STALL_DECLARED (R34). -/
  | stallDeclared (r : StallRegion)
  /-- STALL_LIMIT_WRITE (R34). -/
  | stallLimitWrite (limit : BitVec 16)
  /-- RATE_WINDOW_END (R32). -/
  | rateWindowEnd (r : RateRegion) (beats : BitVec 16)
  /-- CARVE_LOCK (R44). -/
  | carveLock
  /-- LOFT_BANK_GRANT (R41). -/
  | loftBankGrant (b : Fin 64) (acc : Option BankAcc) (ecc : Ecc) (tagBad : Bool)
  /-- LOFT_REQ_PROMOTE (R41). -/
  | loftReqPromote (b : Fin 64)
  /-- SCRUB_STEP (R64). -/
  | scrubStep (found : List (Fin 64 × Ecc))
  /-- CACHE_ENABLE (R51). -/
  | cacheEnable (c : CacheId)
  /-- CACHE_DISABLE (R52). -/
  | cacheDisable (c : CacheId)
  /-- CACHE_DISABLE_DONE (R52). -/
  | cacheDisableDone (c : CacheId)
  /-- CACHE_MODE_SET (R50). -/
  | cacheModeSet (c : CacheId) (mode : Bool)
  /-- INVALIDATE_ALL (R53). -/
  | invalidateAll (c : CacheId)
  /-- CLEAN_ALL (R53). -/
  | cleanAll (c : CacheId)
  /-- CLEAN_AND_INVALIDATE_ALL (R53). -/
  | cleanAndInvalidateAll (c : CacheId)
  /-- CLEAN_RANGE (R53). -/
  | cleanRange (c : CacheId)
  /-- INVALIDATE_RANGE (R53). -/
  | invalidateRange (c : CacheId)
  /-- CLEAN_AND_INVALIDATE_RANGE (R53). -/
  | cleanAndInvalidateRange (c : CacheId)
  /-- CACHE_CMD_DONE (R53). -/
  | cacheCmdDone (c : CacheId)
  /-- CACHE_ACCESS (R48). -/
  | cacheAccess (c : CacheId) (tagBad : Bool)
  /-- CACHE_FILL (R48). -/
  | cacheFill (c : CacheId)
  /-- PREFETCH_FILL (R56). -/
  | prefetchFill (c : CacheId)
  /-- WORKGROUP_PLACE (R70). -/
  | workgroupPlace (c : Fin 17) (src : Src)
  /-- CTRL_BRANCH (R79). -/
  | ctrlBranch (ins : Issue)
  /-- PARK_TIMEOUT (R79). -/
  | parkTimeout (c : Fin 17) (slot : Fin 48) (lane : Fin 32)
  /-- CTRL_CALL (R78). -/
  | ctrlCall (ins : Issue)
  /-- CTRL_RETURN (R78). -/
  | ctrlReturn (ins : Issue)
  /-- CTRL_NOP (R71). -/
  | ctrlNop (ins : Issue)
  /-- EXIT (R81). -/
  | exit (ins : Issue)
  /-- IALU (R72). -/
  | ialu (ins : Issue)
  /-- FALU (R72). -/
  | falu (ins : Issue)
  /-- CVT (R72). -/
  | cvt (ins : Issue)
  /-- XFN (R72). -/
  | xfn (ins : Issue)
  /-- CMP (R72). -/
  | cmp (ins : Issue)
  /-- SYS (R72). -/
  | sys (ins : Issue)
  /-- MOVI (R72). -/
  | movi (ins : Issue)
  /-- LOAD_L (R93). -/
  | loadL (ins : Issue)
  /-- STORE_L (R94). -/
  | storeL (ins : Issue)
  /-- LOAD_C (R74). -/
  | loadC (ins : Issue)
  /-- STORE_C (R74). -/
  | storeC (ins : Issue)
  /-- LOAD_CU (R74). -/
  | loadCu (ins : Issue)
  /-- LINE_ZERO (R58). -/
  | lineZero (ins : Issue)
  /-- LINE_HINT (R74). -/
  | lineHint (ins : Issue)
  /-- RMW_ADD (R75). -/
  | rmwAdd (ins : Issue)
  /-- RMW_SMIN (R75). -/
  | rmwSmin (ins : Issue)
  /-- RMW_SMAX (R75). -/
  | rmwSmax (ins : Issue)
  /-- RMW_UMIN (R75). -/
  | rmwUmin (ins : Issue)
  /-- RMW_UMAX (R75). -/
  | rmwUmax (ins : Issue)
  /-- RMW_AND (R75). -/
  | rmwAnd (ins : Issue)
  /-- RMW_OR (R75). -/
  | rmwOr (ins : Issue)
  /-- RMW_XOR (R75). -/
  | rmwXor (ins : Issue)
  /-- RMW_SWAP (R75). -/
  | rmwSwap (ins : Issue)
  /-- RMW_CMPSWAP (R75). -/
  | rmwCmpswap (ins : Issue)
  /-- RMW_FADD (R75). -/
  | rmwFadd (ins : Issue)
  /-- MEMORY_RESPONSE (R38). -/
  | memoryResponse (c : Fin 17) (slot : Fin 48) (host : HostData)
  /-- BAR_WAIT (R83). -/
  | barWait (ins : Issue)
  /-- BAR_PASS (R84). -/
  | barPass (ins : Issue)
  /-- FENCE (R99). -/
  | fence (ins : Issue)
  /-- MREGION_BEGIN (R86). -/
  | mregionBegin (ins : Issue)
  /-- MREGION_END (R86). -/
  | mregionEnd (ins : Issue)
  /-- GMAC (R87). -/
  | gmac (ins : Issue)
  /-- GMAC_Z (R87). -/
  | gmacZ (ins : Issue)
  /-- LANE_GET (R77). -/
  | laneGet (ins : Issue)
  /-- LANE_ROT (R77). -/
  | laneRot (ins : Issue)
  /-- LANE_PAIR (R77). -/
  | lanePair (ins : Issue)
  /-- LANE_LEAD (R77). -/
  | laneLead (ins : Issue)
  /-- POLL_EVERY (R77). -/
  | pollEvery (ins : Issue)
  /-- POLL_SOME (R77). -/
  | pollSome (ins : Issue)
  /-- POLL_MASK (R77). -/
  | pollMask (ins : Issue)
  /-- POLL_COUNT (R77). -/
  | pollCount (ins : Issue)
  /-- FOLD_ADD (R77). -/
  | foldAdd (ins : Issue)
  /-- FOLD_MIN (R77). -/
  | foldMin (ins : Issue)
  /-- FOLD_MAX (R77). -/
  | foldMax (ins : Issue)
  /-- FOLD_RUN (R77). -/
  | foldRun (ins : Issue)
  /-- BARRIER_DEADLOCK (R92). -/
  | barrierDeadlock (c : Fin 17) (slot : Fin 48)
  /-- CORE_FAULT_STOPPED (R105). -/
  | coreFaultStopped (c : Fin 17)
  /-- TENSOR_GEMM (R119). -/
  | tensorGemm (c : Fin 17) (src : Src)
  /-- TENSOR_CONV1D_CAUSAL (R122). -/
  | tensorConv1dCausal (c : Fin 17) (src : Src)
  /-- TENSOR_RECUR (R124). -/
  | tensorRecur (c : Fin 17) (src : Src)
  /-- TENSOR_SCAN (R129). -/
  | tensorScan (c : Fin 17) (src : Src)
  /-- TENSOR_ROUTE (R131). -/
  | tensorRoute (c : Fin 17) (src : Src)
  /-- TILE_START (R141). -/
  | tileStart (c : Fin 17)
  /-- PROMPTER_FETCH (R140). -/
  | prompterFetch (c : Fin 17)
  /-- PROMPTER_PREFETCH_NEXT (R147). -/
  | prompterPrefetchNext (c : Fin 17)
  /-- TILE_FINISH (R112): the beats the tile took, those it waited for memory, those beyond its declared cost, and the part of
  them after the end of the context's slice (R334, R345). -/
  | tileFinish (c : Fin 17) (beats wait extra dup : Nat)
  /-- ROUTE_PAIR_HANDOVER (R134): the beats it took (R334). -/
  | routePairHandover (c : Fin 17) (beats : Nat)
  /-- ROUTE_COMPLETE (R134). -/
  | routeComplete (c : Fin 17)
  /-- TENSOR_OP_COMPLETE (R152). -/
  | tensorOpComplete (c : Fin 17)
  /-- TENSOR_ABORT (R150): with the beats of the tile cut short, as for TILE_FINISH. -/
  | tensorAbort (src : Src) (beats extra dup : Nat)
  /-- TENSOR_RESUME (R149). -/
  | tensorResume (cores : List (Fin 17)) (ecc : Ecc)
  /-- FRAME_START (R181). -/
  | frameStart (p : Fin 4) (ins : List (List (BitVec 32)))
  /-- SAP_CFG_WRITE (R181). -/
  | sapCfgWrite (p : Fin 4) (v : BitVec 32)
  /-- CSI_PACKET (R182). -/
  | csiPacket (c : Fin 2) (pkt : CsiPkt)
  /-- CHAIN_HEAD_ISSUE (R189). -/
  | chainHeadIssue (n : Fin 32)
  /-- BLOCK_DEADLINE (R190). -/
  | blockDeadline (n : Fin 32)
  /-- CHAIN_COMPLETE (R195). -/
  | chainComplete (n : Fin 32) (beats : Nat)
  /-- OUTPUT_POINT (R197). -/
  | outputPoint (n : Fin 32)
  /-- STREAM_ARM (R200). -/
  | streamArm (n : Fin 32)
  /-- STREAM_DISARM (R205). -/
  | streamDisarm (n : Fin 32)
  /-- FORCED_DISARM_DONE (R205). -/
  | forcedDisarmDone (n : Fin 32)
  /-- XTAL_WINDOW_END (R211). -/
  | xtalWindowEnd (x : Fin 2) (edges : Nat)
  /-- LOOP_LOCKED (R211). -/
  | loopLocked (n : Fin 6)
  /-- PIT_CLK_RESTORE (R212). -/
  | pitClkRestore
  /-- WORD_CLOCK_LOST (R213). -/
  | wordClockLost (p : Fin 4)
  /-- RASTER_PASS_START (R220). -/
  | rasterPassStart (src : Src)
  /-- DRAW_FETCH (R220). -/
  | drawFetch
  /-- VERTEX_BATCH_LAUNCH (R221). -/
  | vertexBatchLaunch (c : Fin 17)
  /-- VERTEX_BATCH_DONE (R222). -/
  | vertexBatchDone
  /-- PARTIAL_RENDER_DONE (R236): the beats of the section beyond FLUSH_BEATS, and the part of them after the end of the
  context's slice (R345). -/
  | partialRenderDone (extra dup : Nat)
  /-- TILE_PHASE_TILE (R229). -/
  | tilePhaseTile
  /-- FRAGMENT_GROUP_LAUNCH (R232). -/
  | fragmentGroupLaunch (c : Fin 17)
  /-- FRAGMENT_GROUP_DONE (R233). -/
  | fragmentGroupDone
  /-- TILE_WRITE_OUT (R229). -/
  | tileWriteOut
  /-- RASTER_PASS_END (R242). -/
  | rasterPassEnd (extra dup : Nat)
  /-- RASTER_YIELD (R238). -/
  | rasterYield
  /-- RASTER_RESUME (R238). -/
  | rasterResume (ecc : Ecc)
  /-- RASTER_ABORT (R241). -/
  | rasterAbort (src : Src) (extra dup : Nat)
  /-- FLIP_ISSUE (R248). -/
  | flipIssue (src : Src)
  /-- LATCH_INSTANT (R250). -/
  | latchInstant (o : Fin 3)
  /-- DEADLINE_NEAR (R258). -/
  | deadlineNear (o : Fin 3)
  /-- SCAN_LINE (R263). -/
  | scanLine (o : Fin 3) (under : List (Fin 24 × Nat)) (bad : Bool)
  /-- OUTPUT_ENABLE (R246). -/
  | outputEnable (o : Fin 3) (en : Bool)
  /-- CURTAIN_ENABLE (R259). -/
  | curtainEnable (o : Fin 3)
  /-- CURTAIN_FLIP (R261). -/
  | curtainFlip (o : Fin 3)
  /-- CURTAIN_LOCK (R262). -/
  | curtainLock (o : Fin 3)
  /-- AUX_NATIVE_WRITE (R244). -/
  | auxNativeWrite (o : Fin 3) (len : Fin 32) (addr : BitVec 20)
  /-- AUX_NATIVE_READ (R244). -/
  | auxNativeRead (o : Fin 3) (len : Fin 32) (addr : BitVec 20)
  /-- I2C_OVER_AUX_WRITE (R244). -/
  | i2cOverAuxWrite (o : Fin 3) (len : Fin 32) (addr : BitVec 20)
  /-- I2C_OVER_AUX_READ (R244). -/
  | i2cOverAuxRead (o : Fin 3) (len : Fin 32) (addr : BitVec 20)
  /-- DSI_DCS_SHORT_WRITE (R244). -/
  | dsiDcsShortWrite (o : Fin 3) (len : Fin 32) (addr : BitVec 20)
  /-- DSI_DCS_LONG_WRITE (R244). -/
  | dsiDcsLongWrite (o : Fin 3) (len : Fin 32) (addr : BitVec 20)
  /-- DSI_GENERIC_WRITE (R244). -/
  | dsiGenericWrite (o : Fin 3) (len : Fin 32) (addr : BitVec 20)
  /-- DSI_DCS_READ (R244). -/
  | dsiDcsRead (o : Fin 3) (len : Fin 32) (addr : BitVec 20)
  /-- SIDE_TRANSACTION_DONE (R244). -/
  | sideTransactionDone (o : Fin 3) (result : Fin 4) (data : BitVec 128)
  /-- HPD_IRQ (R244). -/
  | hpdIrq (o : Fin 2) (level : Bool)
  /-- RING_ENABLE (R269): the doorbell word, and whether the write of WAKE fails (R276), here and below. -/
  | ringEnable (fn : Fin 32) (door : HostRead) (wake : Option HostErr)
  /-- RING_DISABLE (R298). -/
  | ringDisable (fn : Fin 32)
  /-- RING_RESUME (R296). -/
  | ringResume (fn : Fin 32) (failAt : Option Nat) (wake : Option HostErr)
  /-- RING_ABORT (R297). -/
  | ringAbort (fn : Fin 32) (fetched : List CueRead)
  /-- RING_ABORT_DONE (R297). -/
  | ringAbortDone (fn : Fin 32) (r : Fin 1024) (wake : Option HostErr)
  /-- RING_DISABLE_DONE (R298). -/
  | ringDisableDone (fn : Fin 32) (r : Fin 1024)
  /-- RING_BELL (R275). -/
  | ringBell (fn : Fin 32) (v : BitVec 32) (wake : Option HostErr)
  /-- DOORBELL_PI_READ_DONE (R273). -/
  | doorbellPiReadDone (fn : Fin 32) (r : Fin 1024) (door : HostRead) (wake : Option HostErr)
  /-- CUE_FETCH (R281). -/
  | cueFetch (fn : Fin 32) (r : Fin 1024) (c : CueRead)
  /-- CUE_NOP (R278). -/
  | cueNop (src : Src)
  /-- CUE_LAUNCH (R279). -/
  | cueLaunch (src : Src)
  /-- CUE_COPY (R280). -/
  | cueCopy (src : Src)
  /-- COPY_CHUNK (R280). -/
  | copyChunk (src : Src)
  /-- COPY_ABORT (R280). -/
  | copyAbort (src : Src)
  /-- CUE_CACHE (R278). -/
  | cueCache (src : Src)
  /-- CUE_WRITE (R278). -/
  | cueWrite (src : Src)
  /-- SEM_ACQUIRE (R319). -/
  | semAcquire (src : Src)
  /-- SEM_RELEASE (R320). -/
  | semRelease (src : Src)
  /-- CUE_COMPLETE (R287). -/
  | cueComplete (src : Src) (fail : Option HostErr)
  /-- FOLLOW_ON_READ (R288). -/
  | followOnRead (src : Src)
  /-- CONS_POLL (R292). -/
  | consPoll (fn : Fin 32) (r : Fin 1024) (cons : HostRead) (failAt : Option Nat) (wake : Option HostErr)
  /-- FN_RANGE_WRITE (R300). -/
  | fnRangeWrite (reg : RangeReg) (fn : Fin 32) (v : BitVec 32)
  /-- CTX_CREATE (R301). -/
  | ctxCreate (fn : Fin 32)
  /-- CTX_DESTROY (R322). -/
  | ctxDestroy (fn : Fin 32)
  /-- CTX_DESTROY_DONE (R322). -/
  | ctxDestroyDone (cid : Fin 1024)
  /-- CONTEXT_FAULT_REPORT (R303). -/
  | contextFaultReport
  /-- CONTEXT_STOP_DONE (R303). -/
  | contextStopDone (cid : Fin 1024)
  /-- FENCE_ALLOC (R315). -/
  | fenceAlloc (fn : Fin 32)
  /-- FENCE_SIGNAL (R316). -/
  | fenceSignal (fn : Fin 32)
  /-- FENCE_ERROR (R316). -/
  | fenceError (fn : Fin 32)
  /-- FENCE_FREE (R315). -/
  | fenceFree (fn : Fin 32)
  /-- SEM_ALLOC (R318). -/
  | semAlloc (fn : Fin 32)
  /-- SEM_FREE (R318). -/
  | semFree (fn : Fin 32)
  /-- CTX_SHARE_WRITE (R335). -/
  | ctxShareWrite (fn : Fin 32) (v : BitVec 32)
  /-- SLICE_END (R337). -/
  | sliceEnd (cid : Fin 1024)
  /-- WORK_PLACE (R337). -/
  | workPlace (p : Fin 8)
  /-- GANG_PLACE (R337). -/
  | gangPlace (src : Src) (cores : List (Fin 17))
  /-- PREEMPT_POINT_REACHED (R339). -/
  | preemptPointReached (cid : Fin 1024) (late : Nat)
  /-- SAVE_PAGES_RELEASED (R341). -/
  | savePagesReleased (p : Fin 8)
  /-- WORK_RESUME (R342). -/
  | workResume (c : Fin 17) (ecc : Ecc)
  /-- MAX_BEATS_ABORT (R346): the cue's number and the beats it has held an engine. -/
  | maxBeatsAbort (uid held : Nat)
  /-- REGULATOR_RELEASE (R351). -/
  | regulatorRelease (p : Fin 8) (kind : Fin 3) (cycles : Nat)
  /-- SC_COMMIT (R354). -/
  | scCommit
  /-- SC_UNIT_APPLY (R355). -/
  | scUnitApply (u : Fin 26)
  /-- PAGE_WALK (R362). -/
  | pageWalk (cid : Fin 1024) (va : BitVec 64) (kind : XKind)
  /-- ATS_TRANSLATION_RESPONSE (R366). -/
  | atsTranslationResponse (fn : Fin 32) (page : BitVec 47) (res : AtsRes)
  /-- ATS_INVALIDATION_REQUEST (R378). -/
  | atsInvalidationRequest (fn : Fin 32) (itag : BitVec 5) (lo : BitVec 47) (size : BitVec 47)
  /-- XLAT_INV_CMD (R381). -/
  | xlatInvCmd (fn : Fin 32)
  /-- CTX_ROOT_WRITE (R378). -/
  | ctxRootWrite (fn : Fin 32) (hi : BitVec 32)
  /-- INVALIDATION_DRAINED (R378). -/
  | invalidationDrained (id : Nat)
  /-- REVOKE_TIMEOUT (R379). -/
  | revokeTimeout (id : Nat)
  /-- TAG_WRITE (R374). -/
  | tagWrite
  /-- TAG_READ (R372). -/
  | tagRead
  /-- TAG_GRANULE_APPLY (R375). -/
  | tagGranuleApply
  /-- PORT_TRAINED (R389). -/
  | portTrained (p kind : Fin 3) (lanes : BitVec 4) (reversed : Bool)
  /-- TRAIN_FAIL (R389). -/
  | trainFail (p : Fin 3)
  /-- FLIT_RECEIVE (R390). -/
  | flitReceive (p : Fin 3) (flit : BitVec 576)
  /-- NEGATIVE_ACK (R390). -/
  | negativeAck (p : Fin 3) (ack : BitVec 10)
  /-- LANE_FAIL (R391). -/
  | laneFail (p : Fin 3) (l : Fin 4)
  /-- LANE_ERR_WINDOW_END (R391). -/
  | laneErrWindowEnd (p : Fin 3) (errs : List Nat)
  /-- RETRAIN (R392). -/
  | retrain (p : Fin 3)
  /-- ADDRESS_TOKEN (R396). -/
  | addressToken (p : Fin 3) (t : AddrTok) (own : Bool)
  /-- TOKEN_TIMEOUT (R397). -/
  | tokenTimeout
  /-- ROSTER (R396): the port it arrives on, or none where the head makes it. -/
  | roster (q : Option (Fin 3)) (r : Roster) (gap : List Nat)
  /-- TOPOLOGY_UPDATE (R402): the port it arrives on; the unit whose port has gone up or down. -/
  | topologyUpdate (q : Fin 3) (u : List Nat) (p : Fin 3) (up : Bool)
  /-- LINK_PACKET_FORWARD (R401). -/
  | linkPacketForward (p : Option (Fin 3)) (n cls : Nat) (pkt : LinkPkt)
  /-- PEER_REQUEST (R403): what SECDED says of its read, and whether the tag read is uncorrectable (R376). -/
  | peerRequest (ecc : Ecc) (tagBad : Bool)
  /-- PEER_RESPONSE (R403). -/
  | peerResponse
  /-- TOKEN_DELIVER (R412). -/
  | tokenDeliver
  /-- TOKEN_ACK (R413). -/
  | tokenAck
  /-- ENTRY_RING_ENABLE (R411). -/
  | entryRingEnable (n : Fin 256)
  /-- ENTRY_RING_DISABLE (R411). -/
  | entryRingDisable (n : Fin 256)
  /-- RACC_READ (R416). -/
  | raccRead
  /-- RACC_WRITE (R416). -/
  | raccWrite
  /-- RACC_RESET (R416). -/
  | raccReset
  /-- RACC_RESPONSE (R416). -/
  | raccResponse
  /-- RACC_TIMEOUT (R416). -/
  | raccTimeout
  /-- CUE_COMPRESS (R428). -/
  | cueCompress (src : Src)
  /-- CUE_DECOMPRESS (R428). -/
  | cueDecompress (src : Src)
  /-- COMPRESS_BLOCK_DONE (R430). -/
  | compressBlockDone (e : Fin 2)
  /-- DECOMPRESS_BLOCK_DONE (R429). -/
  | decompressBlockDone (e : Fin 2)
  /-- COMPRESS_ABORT (R432). -/
  | compressAbort (src : Src)
  /-- DOMAIN_WAKE_DONE (R434). -/
  | domainWakeDone (d : Fin 28)
  /-- DOMAIN_GATE (R435). -/
  | domainGate (d : Fin 28)
  /-- PWR_GREEN_ROOM_REQ (R442). -/
  | pwrGreenRoomReq (link : Bool)
  /-- PWR_DARK_REQ (R442). -/
  | pwrDarkReq (link : Bool)
  /-- PWR_SHUTDOWN_REQ (R442). -/
  | pwrShutdownReq (ms : Fin 1000)
  /-- PWR_WAKE_REQ (R440). -/
  | pwrWakeReq
  /-- AUTO_STATE_ENTRY (R441). -/
  | autoStateEntry (link : Bool)
  /-- STATE_ENTRY_COMMIT (R439). -/
  | stateEntryCommit
  /-- STATE_EXIT (R440). -/
  | stateExit (loft : List (Fin 0x4000000 × BitVec 8))
  /-- PCIE_L12_EXIT (R440). -/
  | pcieL12Exit
  /-- GR_PERIOD_TICK (R445). -/
  | grPeriodTick
  /-- GR_SAMPLE_DONE (R445). -/
  | grSampleDone (block : List (BitVec 32))
  /-- PWR_OP_REQ_WRITE (R447). -/
  | pwrOpReqWrite (op : BitVec 3)
  /-- PWR_VOTE_WRITE (R447). -/
  | pwrVoteWrite (fn : Fin 32) (opMin deepest : BitVec 3)
  /-- AVS_FRAME_ACK (R449). -/
  | avsFrameAck (rail : Fin 2) (good : Bool)
  /-- AVS_STATUS_POLL (R449). -/
  | avsStatusPoll (core loft : Bool) (mv : BitVec 16)
  /-- AVS_STEP_TIMEOUT (R450). -/
  | avsStepTimeout
  /-- HELD_POLL (R450). -/
  | heldPoll (good : Bool)
  /-- OP_MOVE_DONE (R447). -/
  | opMoveDone
  /-- DRAM_RATE_SWITCH (R451). -/
  | dramRateSwitch
  /-- DRAM_RATE_SWITCH_DONE (R451). -/
  | dramRateSwitchDone
  /-- THERMAL_CAP_STEP (R452). -/
  | thermalCapStep (tj : BitVec 8)
  /-- FIO_TRIM (R455). -/
  | fioTrim (trim : BitVec 10)
  /-- CLK_RESTORE (R455). -/
  | clkRestore
  /-- OSC_DELAY_EXPIRE (R456). -/
  | oscDelayExpire (x : Fin 2)
  /-- XTAL_START_TIMEOUT (R457). -/
  | xtalStartTimeout (x : Fin 2)
  /-- REFCLK_WINDOW_END (R458). -/
  | refclkWindowEnd (edges : Nat)
  /-- CLKREQ_ASSERT (R458). -/
  | clkreqAssert
  /-- POWER_ON (R468). -/
  | powerOn
  /-- RESET_N_ASSERT (R521). Here and in the sources below, `same` tells that it asserts in the SIO cycle in which the source
  before it did (R463). -/
  | resetNAssert (same : Bool)
  /-- PERST_ASSERT (R460). -/
  | perstAssert (same : Bool)
  /-- PERST_DEASSERT (R464). -/
  | perstDeassert
  /-- PCIE_HOT_RESET (R460). -/
  | pcieHotReset (same : Bool)
  /-- FLR_PF (R460). -/
  | flrPf (same : Bool)
  /-- FLR_VF (R460). -/
  | flrVf (fn : Fin 32) (same : Bool)
  /-- SDIO_CCCR_RES (R461). -/
  | sdioCccrRes (same : Bool)
  /-- SDIO_FULL_RESET (R460). -/
  | sdioFullReset (key : BitVec 32) (same : Bool)
  /-- THERMAL_TRIP (R516). -/
  | thermalTrip (same : Bool)
  /-- THERMAL_TRIP_RELEASE (R462). -/
  | thermalTripRelease
  /-- WATCHDOG_EXPIRE (R469). -/
  | watchdogExpire (same : Bool)
  /-- WDOG_KICK (R460). -/
  | wdogKick (path : Path) (v : BitVec 32)
  /-- RST_FW_REQ (R461). -/
  | rstFwReq (path : Path) (v : BitVec 32)
  /-- RESET_RELEASE (R464). -/
  | resetRelease (fn : Option (Fin 32)) (resetN : Bool)
  /-- HELD_RELEASE (R465). -/
  | heldRelease (d : Fin 28)
  /-- AON_RELEASE (R468). -/
  | aonRelease (osc : Fin 8) (head : Bool)
  /-- FUSE_READ_DONE (R468). -/
  | fuseReadDone (bad : List FuseRow)
  /-- BOOT_ROM_START (R468). -/
  | bootRomStart
  /-- FETCH_HOST (R468). -/
  | fetchHost
  /-- START_F2 (R476). -/
  | startF2
  /-- VERIFY_F2 (R473). -/
  | verifyF2
  /-- IMAGE_TAKEN (R468). -/
  | imageTaken (fail : Option HostErr)
  /-- IMAGE_VERIFY_DONE (R470). -/
  | imageVerifyDone
  /-- KEYS_DERIVED (R482). -/
  | keysDerived (calFail : Bool) (gib : Fin 33) (channels : Fin 16)
  /-- START_OK (R468). -/
  | startOk (path : Path) (cut : Option Nat)
  /-- FUSE_BURN (R467). -/
  | fuseBurn (stuck : BitVec 64)
  /-- FUSE_READ (R467). -/
  | fuseRead
  /-- FUSE_LOCK (R467). -/
  | fuseLock
  /-- SDIO_CMD0 (R474). -/
  | sdioCmd0
  /-- SDIO_CMD3 (R474). -/
  | sdioCmd3
  /-- SDIO_CMD5 (R474). -/
  | sdioCmd5 (v18 : Bool)
  /-- SDIO_CMD7 (R474). -/
  | sdioCmd7 (rca : BitVec 16)
  /-- SDIO_CMD11 (R474). -/
  | sdioCmd11 (v18 : Bool)
  /-- SDIO_CMD15 (R474). -/
  | sdioCmd15 (rca : BitVec 16)
  /-- SDIO_CMD19 (R474). -/
  | sdioCmd19
  /-- SDIO_CMD52_READ (R475). -/
  | sdioCmd52Read (func : Fin 3) (addr : BitVec 17)
  /-- SDIO_CMD52_WRITE (R475). -/
  | sdioCmd52Write (func : Fin 3) (addr : BitVec 17) (data : Byte)
  /-- SDIO_CMD53_READ (R475). -/
  | sdioCmd53Read (func : Fin 3) (addr : BitVec 17) (incr : Bool) (count : BitVec 18)
  /-- SDIO_CMD53_WRITE (R475). -/
  | sdioCmd53Write (addr : BitVec 17) (incr : Bool) (data : List Byte)
  /-- SDIO_F2_WRITE (R476). -/
  | sdioF2Write (addr : BitVec 17) (incr : Bool) (data : List Byte)
  /-- MBOX_IN_POST (R477). -/
  | mboxInPost
  /-- MBOX_IN_CLEAR (R477). -/
  | mboxInClear
  /-- MBOX_OUT_POST (R477). -/
  | mboxOutPost (msg : BitVec 512)
  /-- MBOX_OUT_CLEAR (R477). -/
  | mboxOutClear
  /-- ATT_REPORT (R484). -/
  | attReport (fn : Fin 32)
  /-- ATT_ALIAS_CERT (R484). -/
  | attAliasCert (fn : Fin 32)
  /-- ATT_IDENTITY_CERT (R484). -/
  | attIdentityCert (fn : Fin 32)
  /-- ATT_SIGNING_START (R485). -/
  | attSigningStart
  /-- ATT_DONE (R484). -/
  | attDone (fail : Option HostErr)
  /-- MR_EXTEND (R486). -/
  | mrExtend (fn : Fin 32)
  /-- MR_EXTEND_DONE (R486). -/
  | mrExtendDone (fn : Fin 32)
  /-- TAKEOVER_TEST_DONE (R488). -/
  | takeoverTestDone (c : Fin 17) (pass : Bool)
  /-- RT_SLICE_START (R491). -/
  | rtSliceStart
  /-- RT_HANDOVER (R492). -/
  | rtHandover
  /-- RT_CORE_TEST_DONE (R492). -/
  | rtCoreTestDone (pass : Bool)
  /-- RT_PIT_SLICE_DONE (R493). -/
  | rtPitSliceDone (match_ : Bool)
  /-- RT_CURTAIN_SLICE_DONE (R493). -/
  | rtCurtainSliceDone (o : Fin 3)
  /-- REHEARSAL_WAVE_DONE (R494). -/
  | rehearsalWaveDone (found : List Finding)
  /-- REHEARSAL_DONE (R496). -/
  | rehearsalDone (flashOk : Bool)
  /-- SHOW_RECORD_WRITE (R502). -/
  | showRecordWrite (ms : Fin 1000)
  /-- FLASH_RECORD_DONE (R504). -/
  | flashRecordDone (ok : Bool)
  /-- OPSEC_TICK (R499). -/
  | opsecTick
  /-- SHOW_FREEZE (R505). -/
  | showFreeze
  /-- SHOW_THAW (R505). -/
  | showThaw
  /-- SHOW_FREEZE_EXPIRE (R505). -/
  | showFreezeExpire
  /-- SHOW_LOAD (R506). -/
  | showLoad
  /-- SHOW_LOAD_DONE (R506). -/
  | showLoadDone
  /-- SHOW_ERASE (R506). -/
  | showErase
  /-- MSIX_UNMASK (R526). -/
  | msixUnmask (fn : Fin 32) (v : Fin 64)
  /-- DRAM_ACCESS (R534). -/
  | dramAccess (acc : Option DramAcc) (ecc : Ecc) (tagBad : Bool)
  /-- MEMC_SCRUB_STEP (R535). -/
  | memcScrubStep (found : List (Fin 4 × Ecc))
  /-- HOST_COMPLETION_TIMEOUT (R366). -/
  | hostCompletionTimeout (fn : Fin 32) (page : BitVec 47)
  /-- CLKREQ_RELEASE (R458). -/
  | clkreqRelease (l12 : Bool)
  /-- PCIE_LINK_UP (R394). -/
  | pcieLinkUp (ats : BitVec 32)
  /-- SUPPLY_REMOVAL (R512). -/
  | supplyRemoval
  /-- CRYSTAL_RESTART (R462). -/
  | crystalRestart
  /-- TRAINING_RETRY (R389). -/
  | trainingRetry (p : Fin 3)
  /-- FSYNC_EDGE_WHILE_LOST (R213). -/
  | fsyncEdgeWhileLost (p : Fin 4) (good : Bool)
  deriving DecidableEq, Repr

end Sys2Proof
end

