-- ==== Sys2Proof/Config.lean ====
section
/-! DEFINITION. What the spec leaves open, as constants without a body: nothing can be proved about which value they
hold. A counter of the state, or the operands, is their argument. -/

namespace Sys2Proof

/-- A value the spec leaves undefined, one for each use (the counter `State.free` is its argument). -/
opaque Config.freeNat : Nat → Nat

/-- The k index that an invalid step of a ROUTE's softmax is counted at, by its token and expert (R132 gives its other
indices; R108 makes it the same in every run). -/
opaque Config.softmaxIndex : (token expert : Nat) → Nat

/-- An OP that is defined for a class whose encodings the spec does not give: CTRL, IALU, FALU, CVT, XFN, CMP, SYS and MOVI
(spec/02_thread_groups.md R71, R72: each class has operations, and their numbers are not stated), and which others are. -/
opaque Config.firstOp : (cls : Nat) → Fin 64
opaque Config.moreOps : (cls op : Nat) → Bool

/-- Whether OP is defined for such a class. -/
def Config.opDefined (cls op : Nat) : Bool := op == (Config.firstOp cls).val || Config.moreOps cls op

/-- The result of an instruction of IALU, FALU, CVT or XFN: class, OP, the low 16 bits of format A, and the three
operands (R72: the operations of these classes are named, their encodings and results are not stated). -/
opaque Config.pipe : (cls op low a b c : Nat) → Nat

/-- The predicate a CMP instruction writes: OP, the low 16 bits of format A, and the operands (R72). -/
opaque Config.compare : (op low a b c : Nat) → Bool

/-- The scheduler of a group slot (R66: there are four, of 12 slots each; which slots are whose is not stated). -/
opaque Config.scheduler : (slot : Nat) → Fin 4

/-- Which of the thread, group, workgroup and launch values a SYS instruction reads: OP and the immediate (R72, R279). -/
opaque Config.sysIndex : (op imm : Nat) → Nat

/-- The bytes of a line's pixels as an output sends them, over which OUT_CRC runs: BPC and the pixels, red at bit 0, green
at bit 16, blue at bit 32 (spec/07_proscenium.md R262 does not say how they are packed). -/
opaque Config.packLine : (bpc : Nat) → List Nat → List Byte

/-- A 10-bit Curtain channel on an 8-bit output (R260 states the wider case only). -/
opaque Config.narrow : (code : Nat) → Nat

/-- The coded payload of a block at a level: length table and bit stream (spec/13_compression.md R425 leaves the choice of
matches and lengths to the part). -/
opaque Config.coded : (level : Nat) → List Byte → List Byte

/-- The flits of a packet other than a token, from its fields as numbers (spec/12_umram_link.md gives no encoding). -/
opaque Config.packetFlits : List Nat → List (List Byte)

/-- The voltage windows that the SDIO port reports, with VDD_SDIO at 1.8 V or not, and the bytes of function 0 that the spec
does not give, by address (spec/15_reset_boot_security.md R474 names SDIO 3.0, and does not define it). -/
opaque Config.sdioOcr : (v18 : Bool) → Nat
opaque Config.sdioCccr : (addr : Nat) → Nat

/-- Where the card information structure of a function lies, which SDIO 3.0 leaves to the card. -/
opaque Config.sdioCis : (func : Nat) → Nat

end Sys2Proof
end

