-- ==== Sys2Proof/Machine/Bits.lean ====
section
/-! DEFINITION. Bit-field, byte-order and list helpers that every meaning uses (spec/00_scope.md R13, R15). Numbers that
the manual counts are naturals here; a register word is a bit vector. -/

namespace Sys2Proof.Machine

/-- Bits `hi` down to `lo` of a number. -/
def bits (v hi lo : Nat) : Nat := v / 2 ^ lo % 2 ^ (hi + 1 - lo)

/-- Bit `i` of a number. -/
def bit (v i : Nat) : Bool := v / 2 ^ i % 2 == 1

/-- The number `v` with bits `hi` down to `lo` replaced by the low bits of `x`. -/
def putBits (v hi lo x : Nat) : Nat :=
  v % 2 ^ lo + 2 ^ lo * (x % 2 ^ (hi + 1 - lo)) + 2 ^ (hi + 1) * (v / 2 ^ (hi + 1))

/-- One for true, zero for false. -/
def b2n (b : Bool) : Nat := if b then 1 else 0

/-- Little-endian number of a list of bytes, the first the lowest (R13). -/
def leNat : List Byte → Nat
  | [] => 0
  | b :: bs => b.toNat + 256 * leNat bs

/-- The `n` bytes of a number, little-endian (R13). -/
def leBytes : Nat → Nat → List Byte
  | 0, _ => []
  | n + 1, v => BitVec.ofNat 8 v :: leBytes n (v / 256)

/-- Bytes `off` to `off + n - 1` of a record as a little-endian number; bytes past its end count as zero. -/
def field (r : List Byte) (off n : Nat) : Nat := leNat ((r.drop off).take n)

/-- True when bytes `off` to `off + n - 1` of a record are all zero. -/
def zeros (r : List Byte) (off n : Nat) : Bool := ((r.drop off).take n).all (· == 0)

/-- A record padded with zero bytes to, or cut at, `n` bytes. -/
def padTo (n : Nat) (r : List Byte) : List Byte := (r ++ List.replicate (n - r.length) 0).take n

/-- The signed number of a `w`-bit two's complement value. -/
def sx (w v : Nat) : Int := if v % 2 ^ w < 2 ^ (w - 1) then (v % 2 ^ w : Nat) else ((v % 2 ^ w : Nat) : Int) - 2 ^ w

/-- The `w`-bit two's complement value of a signed number, wrapped. -/
def ux (w : Nat) (i : Int) : Nat := (i % (2 ^ w : Nat)).toNat

/-- Least multiple of `a` at or above `v`. -/
def alignUp (v a : Nat) : Nat := (v + a - 1) / a * a

/-- Division rounded up. -/
def ceilDiv (a b : Nat) : Nat := (a + b - 1) / b

/-- Whether `[a, a + n)` and `[b, b + m)` share an address. -/
def overlaps (a n b m : Nat) : Bool := decide (0 < n) && decide (0 < m) && decide (a < b + m) && decide (b < a + n)

/-- Serial comparison of 64-bit values: `a` at or beyond `b` (spec/09_objects_and_fences.md R309). -/
def atOrBeyond (a b : W64) : Bool := decide ((a - b).toNat < 2 ^ 63)

/-- Serial comparison of 64-bit values: `a` strictly beyond `b` (R309). -/
def strictlyBeyond (a b : W64) : Bool := decide (0 < (a - b).toNat) && decide ((a - b).toNat < 2 ^ 63)

/-- The list with its first element that meets `p` replaced by its image. -/
def mapFirst {α : Type} (p : α → Bool) (f : α → α) : List α → List α
  | [] => []
  | x :: xs => if p x then f x :: xs else x :: mapFirst p f xs

/-- The list without its first element that meets `p`. -/
def dropFirst {α : Type} (p : α → Bool) : List α → List α
  | [] => []
  | x :: xs => if p x then xs else x :: dropFirst p xs

/-- Apply `f` to every element that meets `p`. -/
def mapWhere {α : Type} (p : α → Bool) (f : α → α) (l : List α) : List α := l.map fun x => if p x then f x else x

/-- The `n` numbers from 0. -/
def upTo (n : Nat) : List Nat := List.range n

/-- The number of elements that meet `p`. -/
def countWhere {α : Type} (p : α → Bool) (l : List α) : Nat := (l.filter p).length

/-- The element of least key, the earliest on a tie. -/
def minBy {α : Type} (key : α → Nat) : List α → Option α
  | [] => none
  | x :: xs => match minBy key xs with
    | none => some x
    | some y => if key y < key x then some y else some x

/-- The sum of a key over a list. -/
def sumBy {α : Type} (key : α → Nat) (l : List α) : Nat := l.foldl (fun a x => a + key x) 0

/-- The positions of the one bits of a mask of `n` bits, lowest first. -/
def onesOf (n mask : Nat) : List Nat := (upTo n).filter (bit mask)

/-- One byte into a CRC-32C register (spec/13_compression.md R420): the reflected polynomial 0x82F6_3B78. -/
def crcByte (c : Nat) (b : Byte) : Nat :=
  (upTo 8).foldl (fun c _ => if c % 2 = 1 then (c / 2) ^^^ 0x82F63B78 else c / 2) (c ^^^ b.toNat)

/-- Bytes into a CRC-32C register, and the CRC-32C of bytes (R420). -/
def crcRun (c : Nat) (bs : List Byte) : Nat := bs.foldl crcByte c
def crc32c (bs : List Byte) : Nat := crcRun 0xFFFFFFFF bs ^^^ 0xFFFFFFFF

/-- Saturating addition at `cap`. -/
def satAdd (cap a b : Nat) : Nat := min cap (a + b)

end Sys2Proof.Machine
end

