-- ==== Sys2Proof/Machine/RegTypes.lean ====
section
/-! DEFINITION. What a register table is made of: field places, access codes (spec/00_scope.md R18), flags with event
counters (R20), and rows with reset levels (R21, R22). -/

namespace Sys2Proof.Machine

/-- Access codes of R18. `cmd` marks a readable field whose write is a row of the opcode table of its own. -/
inductive Acc where
  | rw | ro | wo | w1c | w1s | rwl | cmd
  deriving DecidableEq, Repr

/-- A field of a register: the register's address and the field's highest and lowest bit. -/
structure Fld where
  reg : Nat
  hi : Nat
  lo : Nat
  deriving DecidableEq, Repr

/-- A W1C flag and its 16-bit event counter (R20). -/
structure Flag where
  bit : Fld
  evt : Fld
  deriving DecidableEq, Repr

/-- One field in a row of the register table. -/
structure FldRow where
  hi : Nat
  lo : Nat
  acc : Acc
  reset : Nat
  deriving DecidableEq, Repr

/-- One row of the register table: the first address, `n1` outer instances `s1` bytes apart and `n2` inner ones `s2`
bytes apart, the narrowest reset level that restores it (R21; 4 where the register holds nothing), and its fields. -/
structure RegRow where
  addr : Nat
  n1 : Nat
  s1 : Nat
  n2 : Nat
  s2 : Nat
  level : Nat
  fields : List FldRow
  deriving DecidableEq, Repr

/-- One W1C flag in the flag table: the row of its status register as in `RegRow`, its bit, the address of its event
counter in the first instance and the counter's lowest bit. -/
structure FlagRow where
  addr : Nat
  n1 : Nat
  s1 : Nat
  n2 : Nat
  s2 : Nat
  bit : Nat
  evtAddr : Nat
  evtLo : Nat
  deriving DecidableEq, Repr

end Sys2Proof.Machine
end

