-- ==== Sys2Proof/Machine/Regs.lean ====
section
/-! DEFINITION. The register map (spec/18_register_map.md and every chapter's register table): the address of each
register (`R.<NAME>`), its fields (`F.<NAME>.<FIELD>`), and the flags with their event counters (`E.<NAME>.<FLAG>`).
Addresses are offsets in the global window; the BAR0 page of function n stands at 0x1000000 + n * 0x10000. -/

namespace Sys2Proof.Machine

/-- CHIP_ID, 18_register_map.md. -/
abbrev R.CHIP_ID : Nat := 0x0
abbrev F.CHIP_ID.PART : Fld := ⟨R.CHIP_ID, 15, 0⟩
abbrev F.CHIP_ID.STEP : Fld := ⟨R.CHIP_ID, 23, 16⟩
abbrev F.CHIP_ID.FAMILY : Fld := ⟨R.CHIP_ID, 31, 24⟩
/-- CHIP_VARIANT, 18_register_map.md. -/
abbrev R.CHIP_VARIANT : Nat := 0x4
abbrev F.CHIP_VARIANT.VARIANT : Fld := ⟨R.CHIP_VARIANT, 1, 0⟩
abbrev F.CHIP_VARIANT.MAX_OP : Fld := ⟨R.CHIP_VARIANT, 6, 4⟩
abbrev F.CHIP_VARIANT.PCI_VENDOR : Fld := ⟨R.CHIP_VARIANT, 31, 16⟩
/-- CHIP_CAP0, 18_register_map.md. -/
abbrev R.CHIP_CAP0 : Nat := 0x8
abbrev F.CHIP_CAP0.PCORES : Fld := ⟨R.CHIP_CAP0, 4, 0⟩
abbrev F.CHIP_CAP0.LCORES : Fld := ⟨R.CHIP_CAP0, 9, 5⟩
abbrev F.CHIP_CAP0.PARTITIONS : Fld := ⟨R.CHIP_CAP0, 13, 10⟩
abbrev F.CHIP_CAP0.FUNCTIONS : Fld := ⟨R.CHIP_CAP0, 21, 16⟩
abbrev F.CHIP_CAP0.UL_PORTS : Fld := ⟨R.CHIP_CAP0, 25, 24⟩
abbrev F.CHIP_CAP0.OUTPUTS : Fld := ⟨R.CHIP_CAP0, 29, 28⟩
/-- CHIP_CAP1, 18_register_map.md. -/
abbrev R.CHIP_CAP1 : Nat := 0xC
abbrev F.CHIP_CAP1.CTX_LOG2 : Fld := ⟨R.CHIP_CAP1, 7, 0⟩
abbrev F.CHIP_CAP1.FENCE_LOG2 : Fld := ⟨R.CHIP_CAP1, 15, 8⟩
abbrev F.CHIP_CAP1.SEM_LOG2 : Fld := ⟨R.CHIP_CAP1, 23, 16⟩
abbrev F.CHIP_CAP1.RINGS_LOG2 : Fld := ⟨R.CHIP_CAP1, 31, 24⟩
/-- CHIP_CAP2, 18_register_map.md. -/
abbrev R.CHIP_CAP2 : Nat := 0x10
abbrev F.CHIP_CAP2.STREAMS : Fld := ⟨R.CHIP_CAP2, 5, 0⟩
abbrev F.CHIP_CAP2.LAYERS : Fld := ⟨R.CHIP_CAP2, 12, 8⟩
abbrev F.CHIP_CAP2.LOFT_MIB : Fld := ⟨R.CHIP_CAP2, 22, 16⟩
abbrev F.CHIP_CAP2.DRAM_MAX_GIB : Fld := ⟨R.CHIP_CAP2, 29, 24⟩
/-- CHIP_CAP3, 18_register_map.md. -/
abbrev R.CHIP_CAP3 : Nat := 0x14
abbrev F.CHIP_CAP3.FEATURES : Fld := ⟨R.CHIP_CAP3, 5, 0⟩
/-- CHIP_FW_VERSION, 18_register_map.md. -/
abbrev R.CHIP_FW_VERSION : Nat := 0x20
abbrev F.CHIP_FW_VERSION.VERSION : Fld := ⟨R.CHIP_FW_VERSION, 31, 0⟩
/-- RST_CAUSE, 15_reset_boot_security.md. -/
abbrev R.RST_CAUSE : Nat := 0x10000
abbrev F.RST_CAUSE.SOURCE : Fld := ⟨R.RST_CAUSE, 3, 0⟩
abbrev F.RST_CAUSE.LEVEL : Fld := ⟨R.RST_CAUSE, 6, 4⟩
abbrev F.RST_CAUSE.FUNCTION : Fld := ⟨R.RST_CAUSE, 12, 8⟩
/-- RST_BOOT_STATE, 15_reset_boot_security.md. -/
abbrev R.RST_BOOT_STATE : Nat := 0x10004
abbrev F.RST_BOOT_STATE.STATE : Fld := ⟨R.RST_BOOT_STATE, 3, 0⟩
/-- RST_START_FAILS, 15_reset_boot_security.md. -/
abbrev R.RST_START_FAILS : Nat := 0x10008
abbrev F.RST_START_FAILS.COUNT : Fld := ⟨R.RST_START_FAILS, 3, 0⟩
abbrev F.RST_START_FAILS.LIMIT : Fld := ⟨R.RST_START_FAILS, 6, 4⟩
/-- RST_PENDING, 15_reset_boot_security.md. -/
abbrev R.RST_PENDING : Nat := 0x1000C
abbrev F.RST_PENDING.PENDING : Fld := ⟨R.RST_PENDING, 27, 0⟩
/-- RST_EVENT, 15_reset_boot_security.md. -/
abbrev R.RST_EVENT : Nat := 0x10010
abbrev F.RST_EVENT.HELD : Fld := ⟨R.RST_EVENT, 0, 0⟩
abbrev F.RST_EVENT.REACH_BAD : Fld := ⟨R.RST_EVENT, 1, 1⟩
abbrev F.RST_EVENT.ABSORBED : Fld := ⟨R.RST_EVENT, 2, 2⟩
abbrev F.RST_EVENT.START_FAIL : Fld := ⟨R.RST_EVENT, 3, 3⟩
abbrev F.RST_EVENT.HOUSE_LIGHTS : Fld := ⟨R.RST_EVENT, 4, 4⟩
/-- RST_EVT0, 15_reset_boot_security.md. -/
abbrev R.RST_EVT0 : Nat := 0x10014
abbrev F.RST_EVT0.HELD_EVT : Fld := ⟨R.RST_EVT0, 15, 0⟩
abbrev F.RST_EVT0.REACH_BAD_EVT : Fld := ⟨R.RST_EVT0, 31, 16⟩
/-- RST_EVT1, 15_reset_boot_security.md. -/
abbrev R.RST_EVT1 : Nat := 0x10018
abbrev F.RST_EVT1.ABSORBED_EVT : Fld := ⟨R.RST_EVT1, 15, 0⟩
abbrev F.RST_EVT1.START_FAIL_EVT : Fld := ⟨R.RST_EVT1, 31, 16⟩
/-- RST_EVT2, 15_reset_boot_security.md. -/
abbrev R.RST_EVT2 : Nat := 0x1001C
abbrev F.RST_EVT2.HOUSE_LIGHTS_EVT : Fld := ⟨R.RST_EVT2, 15, 0⟩
/-- RST_SRC_CNT, 15_reset_boot_security.md. -/
abbrev R.RST_SRC_CNT (k : Nat) : Nat := 0x10020 + k * 0x4
abbrev F.RST_SRC_CNT.EVEN (k : Nat) : Fld := ⟨R.RST_SRC_CNT k, 15, 0⟩
abbrev F.RST_SRC_CNT.ODD (k : Nat) : Fld := ⟨R.RST_SRC_CNT k, 31, 16⟩
/-- RST_START_TIMEOUT, 15_reset_boot_security.md. -/
abbrev R.RST_START_TIMEOUT : Nat := 0x10040
abbrev F.RST_START_TIMEOUT.TIMEOUT : Fld := ⟨R.RST_START_TIMEOUT, 21, 0⟩
/-- RST_WDOG_PERIOD, 15_reset_boot_security.md. -/
abbrev R.RST_WDOG_PERIOD : Nat := 0x10044
abbrev F.RST_WDOG_PERIOD.PERIOD : Fld := ⟨R.RST_WDOG_PERIOD, 21, 0⟩
/-- RST_WDOG_KICK, 15_reset_boot_security.md. -/
abbrev R.RST_WDOG_KICK : Nat := 0x10048
abbrev F.RST_WDOG_KICK.KICK : Fld := ⟨R.RST_WDOG_KICK, 31, 0⟩
/-- RST_FW_REQ, 15_reset_boot_security.md. -/
abbrev R.RST_FW_REQ : Nat := 0x1004C
abbrev F.RST_FW_REQ.LEVEL : Fld := ⟨R.RST_FW_REQ, 1, 0⟩
abbrev F.RST_FW_REQ.GO : Fld := ⟨R.RST_FW_REQ, 4, 4⟩
/-- RST_START_OK, 15_reset_boot_security.md. -/
abbrev R.RST_START_OK : Nat := 0x10050
abbrev F.RST_START_OK.START_OK : Fld := ⟨R.RST_START_OK, 0, 0⟩
/-- RST_HELD_ACCESS, 15_reset_boot_security.md. -/
abbrev R.RST_HELD_ACCESS : Nat := 0x10054
abbrev F.RST_HELD_ACCESS.COUNT : Fld := ⟨R.RST_HELD_ACCESS, 31, 0⟩
/-- RST_SDIO_IRQ_EN, 15_reset_boot_security.md. -/
abbrev R.RST_SDIO_IRQ_EN : Nat := 0x10058
abbrev F.RST_SDIO_IRQ_EN.EN : Fld := ⟨R.RST_SDIO_IRQ_EN, 4, 0⟩
/-- RST_SDIO_FULL_RESET, 15_reset_boot_security.md. -/
abbrev R.RST_SDIO_FULL_RESET : Nat := 0x10060
abbrev F.RST_SDIO_FULL_RESET.KEY : Fld := ⟨R.RST_SDIO_FULL_RESET, 31, 0⟩
/-- RST_MBOX_IN, 15_reset_boot_security.md. -/
abbrev R.RST_MBOX_IN (k : Nat) : Nat := 0x10100 + k * 0x4
abbrev F.RST_MBOX_IN.DATA (k : Nat) : Fld := ⟨R.RST_MBOX_IN k, 31, 0⟩
/-- RST_MBOX_CTRL, 15_reset_boot_security.md. -/
abbrev R.RST_MBOX_CTRL : Nat := 0x10140
abbrev F.RST_MBOX_CTRL.IN_FULL : Fld := ⟨R.RST_MBOX_CTRL, 0, 0⟩
abbrev F.RST_MBOX_CTRL.OUT_FULL : Fld := ⟨R.RST_MBOX_CTRL, 1, 1⟩
/-- RST_MBOX_EVT, 15_reset_boot_security.md. -/
abbrev R.RST_MBOX_EVT : Nat := 0x10144
abbrev F.RST_MBOX_EVT.OUT_FULL_EVT : Fld := ⟨R.RST_MBOX_EVT, 15, 0⟩
/-- RST_MBOX_OUT, 15_reset_boot_security.md. -/
abbrev R.RST_MBOX_OUT (k : Nat) : Nat := 0x10180 + k * 0x4
abbrev F.RST_MBOX_OUT.DATA (k : Nat) : Fld := ⟨R.RST_MBOX_OUT k, 31, 0⟩
/-- CLK_SRC_STATUS, 14_power_and_clocks.md. -/
abbrev R.CLK_SRC_STATUS : Nat := 0x20000
abbrev F.CLK_SRC_STATUS.XA_OK : Fld := ⟨R.CLK_SRC_STATUS, 0, 0⟩
abbrev F.CLK_SRC_STATUS.XB_OK : Fld := ⟨R.CLK_SRC_STATUS, 1, 1⟩
abbrev F.CLK_SRC_STATUS.REFCLK_OK : Fld := ⟨R.CLK_SRC_STATUS, 2, 2⟩
abbrev F.CLK_SRC_STATUS.FIO_TRIMMED : Fld := ⟨R.CLK_SRC_STATUS, 3, 3⟩
abbrev F.CLK_SRC_STATUS.OSC_DLY : Fld := ⟨R.CLK_SRC_STATUS, 6, 4⟩
/-- CLK_LOOP_REF, 14_power_and_clocks.md. -/
abbrev R.CLK_LOOP_REF : Nat := 0x20004
abbrev F.CLK_LOOP_REF.ALT : Fld := ⟨R.CLK_LOOP_REF, 5, 0⟩
/-- CLK_EVENT, 14_power_and_clocks.md. -/
abbrev R.CLK_EVENT : Nat := 0x20008
abbrev F.CLK_EVENT.XA_FAIL : Fld := ⟨R.CLK_EVENT, 0, 0⟩
abbrev F.CLK_EVENT.XB_FAIL : Fld := ⟨R.CLK_EVENT, 1, 1⟩
abbrev F.CLK_EVENT.REFCLK_LOST : Fld := ⟨R.CLK_EVENT, 2, 2⟩
abbrev F.CLK_EVENT.FAILOVER : Fld := ⟨R.CLK_EVENT, 3, 3⟩
/-- CLK_EVT0, 14_power_and_clocks.md. -/
abbrev R.CLK_EVT0 : Nat := 0x2000C
abbrev F.CLK_EVT0.XA_FAIL_EVT : Fld := ⟨R.CLK_EVT0, 15, 0⟩
abbrev F.CLK_EVT0.XB_FAIL_EVT : Fld := ⟨R.CLK_EVT0, 31, 16⟩
/-- CLK_EVT1, 14_power_and_clocks.md. -/
abbrev R.CLK_EVT1 : Nat := 0x20010
abbrev F.CLK_EVT1.REFCLK_LOST_EVT : Fld := ⟨R.CLK_EVT1, 15, 0⟩
abbrev F.CLK_EVT1.FAILOVER_EVT : Fld := ⟨R.CLK_EVT1, 31, 16⟩
/-- CLK_RESTORE, 14_power_and_clocks.md. -/
abbrev R.CLK_RESTORE : Nat := 0x20014
abbrev F.CLK_RESTORE.RESTORE : Fld := ⟨R.CLK_RESTORE, 0, 0⟩
/-- CLK_FIO_TRIM, 14_power_and_clocks.md. -/
abbrev R.CLK_FIO_TRIM : Nat := 0x20018
abbrev F.CLK_FIO_TRIM.TRIM : Fld := ⟨R.CLK_FIO_TRIM, 15, 0⟩
/-- CLK_ML_FREQ, 14_power_and_clocks.md. -/
abbrev R.CLK_ML_FREQ (k : Nat) : Nat := 0x20020 + k * 0x4
abbrev F.CLK_ML_FREQ.KHZ (k : Nat) : Fld := ⟨R.CLK_ML_FREQ k, 22, 0⟩
abbrev F.CLK_ML_FREQ.LOCKED (k : Nat) : Fld := ⟨R.CLK_ML_FREQ k, 31, 31⟩
/-- PWR_STATE, 14_power_and_clocks.md. -/
abbrev R.PWR_STATE : Nat := 0x30000
abbrev F.PWR_STATE.STATE : Fld := ⟨R.PWR_STATE, 2, 0⟩
abbrev F.PWR_STATE.CUR_OP : Fld := ⟨R.PWR_STATE, 6, 4⟩
abbrev F.PWR_STATE.TARGET_OP : Fld := ⟨R.PWR_STATE, 10, 8⟩
abbrev F.PWR_STATE.CAP_OP : Fld := ⟨R.PWR_STATE, 14, 12⟩
abbrev F.PWR_STATE.MOVING : Fld := ⟨R.PWR_STATE, 16, 16⟩
abbrev F.PWR_STATE.HELD : Fld := ⟨R.PWR_STATE, 17, 17⟩
/-- PWR_OP_REQ, 14_power_and_clocks.md. -/
abbrev R.PWR_OP_REQ : Nat := 0x30004
abbrev F.PWR_OP_REQ.OP : Fld := ⟨R.PWR_OP_REQ, 2, 0⟩
/-- PWR_STATE_REQ, 14_power_and_clocks.md. -/
abbrev R.PWR_STATE_REQ : Nat := 0x30008
abbrev F.PWR_STATE_REQ.OP : Fld := ⟨R.PWR_STATE_REQ, 2, 0⟩
/-- PWR_AUTO, 14_power_and_clocks.md. -/
abbrev R.PWR_AUTO : Nat := 0x3000C
abbrev F.PWR_AUTO.MASK : Fld := ⟨R.PWR_AUTO, 2, 0⟩
abbrev F.PWR_AUTO.GATE_DELAY : Fld := ⟨R.PWR_AUTO, 15, 8⟩
/-- PWR_VOTE_MASK, 14_power_and_clocks.md. -/
abbrev R.PWR_VOTE_MASK : Nat := 0x30010
abbrev F.PWR_VOTE_MASK.MASK : Fld := ⟨R.PWR_VOTE_MASK, 31, 0⟩
/-- PWR_DOMAIN_ON, 14_power_and_clocks.md. -/
abbrev R.PWR_DOMAIN_ON : Nat := 0x30014
abbrev F.PWR_DOMAIN_ON.ON : Fld := ⟨R.PWR_DOMAIN_ON, 27, 0⟩
/-- PWR_DOMAIN_KEEP, 14_power_and_clocks.md. -/
abbrev R.PWR_DOMAIN_KEEP : Nat := 0x30018
abbrev F.PWR_DOMAIN_KEEP.KEEP : Fld := ⟨R.PWR_DOMAIN_KEEP, 27, 0⟩
/-- PWR_WAKE_STALL, 14_power_and_clocks.md. -/
abbrev R.PWR_WAKE_STALL : Nat := 0x3001C
abbrev F.PWR_WAKE_STALL.COUNT : Fld := ⟨R.PWR_WAKE_STALL, 31, 0⟩
/-- PWR_GR_CFG, 14_power_and_clocks.md. -/
abbrev R.PWR_GR_CFG : Nat := 0x30020
abbrev F.PWR_GR_CFG.PORT : Fld := ⟨R.PWR_GR_CFG, 1, 0⟩
abbrev F.PWR_GR_CFG.SLOT : Fld := ⟨R.PWR_GR_CFG, 6, 2⟩
abbrev F.PWR_GR_CFG.BLOCK : Fld := ⟨R.PWR_GR_CFG, 9, 7⟩
abbrev F.PWR_GR_CFG.HITS : Fld := ⟨R.PWR_GR_CFG, 12, 10⟩
abbrev F.PWR_GR_CFG.WAKE_SEL : Fld := ⟨R.PWR_GR_CFG, 13, 13⟩
/-- PWR_GR_THRESH, 14_power_and_clocks.md. -/
abbrev R.PWR_GR_THRESH : Nat := 0x30024
abbrev F.PWR_GR_THRESH.THRESH : Fld := ⟨R.PWR_GR_THRESH, 30, 0⟩
/-- PWR_GR_PERIOD, 14_power_and_clocks.md. -/
abbrev R.PWR_GR_PERIOD : Nat := 0x30028
abbrev F.PWR_GR_PERIOD.PERIOD : Fld := ⟨R.PWR_GR_PERIOD, 19, 0⟩
/-- PWR_GR_PEAK, 14_power_and_clocks.md. -/
abbrev R.PWR_GR_PEAK : Nat := 0x3002C
abbrev F.PWR_GR_PEAK.PEAK : Fld := ⟨R.PWR_GR_PEAK, 30, 0⟩
/-- PWR_DARK_CFG, 14_power_and_clocks.md. -/
abbrev R.PWR_DARK_CFG : Nat := 0x30030
abbrev F.PWR_DARK_CFG.LOFT_RET : Fld := ⟨R.PWR_DARK_CFG, 0, 0⟩
/-- PWR_STATUS, 14_power_and_clocks.md. -/
abbrev R.PWR_STATUS : Nat := 0x30040
abbrev F.PWR_STATUS.GR_HIT : Fld := ⟨R.PWR_STATUS, 0, 0⟩
abbrev F.PWR_STATUS.REFUSED : Fld := ⟨R.PWR_STATUS, 1, 1⟩
abbrev F.PWR_STATUS.HELD : Fld := ⟨R.PWR_STATUS, 2, 2⟩
abbrev F.PWR_STATUS.THROTTLE : Fld := ⟨R.PWR_STATUS, 3, 3⟩
/-- PWR_EVT0, 14_power_and_clocks.md. -/
abbrev R.PWR_EVT0 : Nat := 0x30044
abbrev F.PWR_EVT0.GR_HIT_EVT : Fld := ⟨R.PWR_EVT0, 15, 0⟩
abbrev F.PWR_EVT0.REFUSED_EVT : Fld := ⟨R.PWR_EVT0, 31, 16⟩
/-- PWR_EVT1, 14_power_and_clocks.md. -/
abbrev R.PWR_EVT1 : Nat := 0x30048
abbrev F.PWR_EVT1.HELD_EVT : Fld := ⟨R.PWR_EVT1, 15, 0⟩
abbrev F.PWR_EVT1.THROTTLE_EVT : Fld := ⟨R.PWR_EVT1, 31, 16⟩
/-- PWR_REFUSE_LAST, 14_power_and_clocks.md. -/
abbrev R.PWR_REFUSE_LAST : Nat := 0x3004C
abbrev F.PWR_REFUSE_LAST.REFUSER : Fld := ⟨R.PWR_REFUSE_LAST, 3, 0⟩
abbrev F.PWR_REFUSE_LAST.KIND : Fld := ⟨R.PWR_REFUSE_LAST, 4, 4⟩
abbrev F.PWR_REFUSE_LAST.TARGET : Fld := ⟨R.PWR_REFUSE_LAST, 10, 8⟩
abbrev F.PWR_REFUSE_LAST.CODE : Fld := ⟨R.PWR_REFUSE_LAST, 31, 16⟩
/-- PWR_REFUSE_CNT, 14_power_and_clocks.md. -/
abbrev R.PWR_REFUSE_CNT (k : Nat) : Nat := 0x30050 + k * 0x4
abbrev F.PWR_REFUSE_CNT.ODD (k : Nat) : Fld := ⟨R.PWR_REFUSE_CNT k, 15, 0⟩
abbrev F.PWR_REFUSE_CNT.EVEN (k : Nat) : Fld := ⟨R.PWR_REFUSE_CNT k, 31, 16⟩
/-- PWR_AVS_CFG, 14_power_and_clocks.md. -/
abbrev R.PWR_AVS_CFG : Nat := 0x30060
abbrev F.PWR_AVS_CFG.RAIL_CORE : Fld := ⟨R.PWR_AVS_CFG, 3, 0⟩
abbrev F.PWR_AVS_CFG.RAIL_LOFT : Fld := ⟨R.PWR_AVS_CFG, 7, 4⟩
abbrev F.PWR_AVS_CFG.SLEW : Fld := ⟨R.PWR_AVS_CFG, 15, 8⟩
/-- PWR_AVS_STATUS, 14_power_and_clocks.md. -/
abbrev R.PWR_AVS_STATUS : Nat := 0x30064
abbrev F.PWR_AVS_STATUS.MV : Fld := ⟨R.PWR_AVS_STATUS, 15, 0⟩
abbrev F.PWR_AVS_STATUS.TIMEOUTS : Fld := ⟨R.PWR_AVS_STATUS, 31, 16⟩
/-- PWR_THERM_CFG, 14_power_and_clocks.md. -/
abbrev R.PWR_THERM_CFG : Nat := 0x30070
abbrev F.PWR_THERM_CFG.CAP_TEMP : Fld := ⟨R.PWR_THERM_CFG, 7, 0⟩
abbrev F.PWR_THERM_CFG.RELEASE : Fld := ⟨R.PWR_THERM_CFG, 15, 8⟩
/-- PWR_THERM, 14_power_and_clocks.md. -/
abbrev R.PWR_THERM : Nat := 0x30074
abbrev F.PWR_THERM.TJ : Fld := ⟨R.PWR_THERM, 7, 0⟩
/-- SEC_IMG_ADDR_LO, 15_reset_boot_security.md. -/
abbrev R.SEC_IMG_ADDR_LO : Nat := 0x40000
abbrev F.SEC_IMG_ADDR_LO.ADDR : Fld := ⟨R.SEC_IMG_ADDR_LO, 31, 0⟩
/-- SEC_IMG_ADDR_HI, 15_reset_boot_security.md. -/
abbrev R.SEC_IMG_ADDR_HI : Nat := 0x40004
abbrev F.SEC_IMG_ADDR_HI.ADDR : Fld := ⟨R.SEC_IMG_ADDR_HI, 14, 0⟩
/-- SEC_IMG_LEN, 15_reset_boot_security.md. -/
abbrev R.SEC_IMG_LEN : Nat := 0x40008
abbrev F.SEC_IMG_LEN.LEN : Fld := ⟨R.SEC_IMG_LEN, 21, 0⟩
/-- SEC_IMG_CMD, 15_reset_boot_security.md. -/
abbrev R.SEC_IMG_CMD : Nat := 0x4000C
abbrev F.SEC_IMG_CMD.OP : Fld := ⟨R.SEC_IMG_CMD, 1, 0⟩
/-- SEC_IMG_STATUS, 15_reset_boot_security.md. -/
abbrev R.SEC_IMG_STATUS : Nat := 0x40010
abbrev F.SEC_IMG_STATUS.STATE : Fld := ⟨R.SEC_IMG_STATUS, 2, 0⟩
abbrev F.SEC_IMG_STATUS.CODE : Fld := ⟨R.SEC_IMG_STATUS, 31, 16⟩
/-- SEC_F2_COUNT, 15_reset_boot_security.md. -/
abbrev R.SEC_F2_COUNT : Nat := 0x40014
abbrev F.SEC_F2_COUNT.COUNT : Fld := ⟨R.SEC_F2_COUNT, 21, 0⟩
/-- SEC_SVN, 15_reset_boot_security.md. -/
abbrev R.SEC_SVN : Nat := 0x40018
abbrev F.SEC_SVN.FW_SVN : Fld := ⟨R.SEC_SVN, 7, 0⟩
abbrev F.SEC_SVN.FUSE_SVN : Fld := ⟨R.SEC_SVN, 15, 8⟩
abbrev F.SEC_SVN.KEY_SLOT : Fld := ⟨R.SEC_SVN, 17, 16⟩
abbrev F.SEC_SVN.SLOTS_LIVE : Fld := ⟨R.SEC_SVN, 23, 20⟩
/-- SEC_FW_DIGEST, 15_reset_boot_security.md. -/
abbrev R.SEC_FW_DIGEST (k : Nat) : Nat := 0x40040 + k * 0x4
abbrev F.SEC_FW_DIGEST.DIGEST (k : Nat) : Fld := ⟨R.SEC_FW_DIGEST k, 31, 0⟩
/-- SEC_IK_PK, 15_reset_boot_security.md. -/
abbrev R.SEC_IK_PK (k : Nat) : Nat := 0x40080 + k * 0x4
abbrev F.SEC_IK_PK.PK (k : Nat) : Fld := ⟨R.SEC_IK_PK k, 31, 0⟩
/-- SEC_SERIAL, 15_reset_boot_security.md. -/
abbrev R.SEC_SERIAL (k : Nat) : Nat := 0x400B0 + k * 0x4
abbrev F.SEC_SERIAL.SERIAL (k : Nat) : Fld := ⟨R.SEC_SERIAL k, 31, 0⟩
/-- SEC_CAL_ADDR_LO, 15_reset_boot_security.md. -/
abbrev R.SEC_CAL_ADDR_LO : Nat := 0x400C0
abbrev F.SEC_CAL_ADDR_LO.ADDR : Fld := ⟨R.SEC_CAL_ADDR_LO, 31, 0⟩
/-- SEC_CAL_ADDR_HI, 15_reset_boot_security.md. -/
abbrev R.SEC_CAL_ADDR_HI : Nat := 0x400C4
abbrev F.SEC_CAL_ADDR_HI.ADDR : Fld := ⟨R.SEC_CAL_ADDR_HI, 14, 0⟩
/-- SEC_CAL_LEN, 15_reset_boot_security.md. -/
abbrev R.SEC_CAL_LEN : Nat := 0x400C8
abbrev F.SEC_CAL_LEN.LEN : Fld := ⟨R.SEC_CAL_LEN, 12, 0⟩
/-- SEC_CAL_STATUS, 15_reset_boot_security.md. -/
abbrev R.SEC_CAL_STATUS : Nat := 0x400CC
abbrev F.SEC_CAL_STATUS.SOURCE : Fld := ⟨R.SEC_CAL_STATUS, 1, 0⟩
abbrev F.SEC_CAL_STATUS.APPLIED : Fld := ⟨R.SEC_CAL_STATUS, 25, 16⟩
/-- SEC_CAL_COUNT, 15_reset_boot_security.md. -/
abbrev R.SEC_CAL_COUNT : Nat := 0x400D0
abbrev F.SEC_CAL_COUNT.CLAMPED : Fld := ⟨R.SEC_CAL_COUNT, 9, 0⟩
abbrev F.SEC_CAL_COUNT.IGNORED : Fld := ⟨R.SEC_CAL_COUNT, 25, 16⟩
/-- SEC_FUSE_ROW, 15_reset_boot_security.md. -/
abbrev R.SEC_FUSE_ROW : Nat := 0x40100
abbrev F.SEC_FUSE_ROW.ROW : Fld := ⟨R.SEC_FUSE_ROW, 0, 0⟩
/-- SEC_FUSE_DATA_LO, 15_reset_boot_security.md. -/
abbrev R.SEC_FUSE_DATA_LO : Nat := 0x40104
abbrev F.SEC_FUSE_DATA_LO.DATA : Fld := ⟨R.SEC_FUSE_DATA_LO, 31, 0⟩
/-- SEC_FUSE_DATA_HI, 15_reset_boot_security.md. -/
abbrev R.SEC_FUSE_DATA_HI : Nat := 0x40108
abbrev F.SEC_FUSE_DATA_HI.DATA : Fld := ⟨R.SEC_FUSE_DATA_HI, 31, 0⟩
/-- SEC_FUSE_CMD, 15_reset_boot_security.md. -/
abbrev R.SEC_FUSE_CMD : Nat := 0x4010C
abbrev F.SEC_FUSE_CMD.OP : Fld := ⟨R.SEC_FUSE_CMD, 1, 0⟩
/-- SEC_FUSE_LOCK, 15_reset_boot_security.md. -/
abbrev R.SEC_FUSE_LOCK : Nat := 0x40110
abbrev F.SEC_FUSE_LOCK.LOCK : Fld := ⟨R.SEC_FUSE_LOCK, 0, 0⟩
/-- SEC_EVENT, 15_reset_boot_security.md. -/
abbrev R.SEC_EVENT : Nat := 0x40120
abbrev F.SEC_EVENT.IMG_REJECTED : Fld := ⟨R.SEC_EVENT, 0, 0⟩
abbrev F.SEC_EVENT.CAL_BAD : Fld := ⟨R.SEC_EVENT, 1, 1⟩
abbrev F.SEC_EVENT.CAL_CLAMPED : Fld := ⟨R.SEC_EVENT, 2, 2⟩
abbrev F.SEC_EVENT.FUSE_BAD : Fld := ⟨R.SEC_EVENT, 3, 3⟩
abbrev F.SEC_EVENT.FUSE_FAULT : Fld := ⟨R.SEC_EVENT, 4, 4⟩
abbrev F.SEC_EVENT.F2_OVERFLOW : Fld := ⟨R.SEC_EVENT, 5, 5⟩
/-- SEC_EVT0, 15_reset_boot_security.md. -/
abbrev R.SEC_EVT0 : Nat := 0x40124
abbrev F.SEC_EVT0.IMG_REJECTED_EVT : Fld := ⟨R.SEC_EVT0, 15, 0⟩
abbrev F.SEC_EVT0.CAL_BAD_EVT : Fld := ⟨R.SEC_EVT0, 31, 16⟩
/-- SEC_EVT1, 15_reset_boot_security.md. -/
abbrev R.SEC_EVT1 : Nat := 0x40128
abbrev F.SEC_EVT1.CAL_CLAMPED_EVT : Fld := ⟨R.SEC_EVT1, 15, 0⟩
abbrev F.SEC_EVT1.FUSE_BAD_EVT : Fld := ⟨R.SEC_EVT1, 31, 16⟩
/-- SEC_EVT2, 15_reset_boot_security.md. -/
abbrev R.SEC_EVT2 : Nat := 0x4012C
abbrev F.SEC_EVT2.FUSE_FAULT_EVT : Fld := ⟨R.SEC_EVT2, 15, 0⟩
abbrev F.SEC_EVT2.F2_OVERFLOW_EVT : Fld := ⟨R.SEC_EVT2, 31, 16⟩
/-- SHOW_CTRL, 16_rehearsal_and_show_report.md. -/
abbrev R.SHOW_CTRL : Nat := 0x50000
abbrev F.SHOW_CTRL.FREEZE : Fld := ⟨R.SHOW_CTRL, 0, 0⟩
/-- SHOW_FREEZE_LIMIT, 16_rehearsal_and_show_report.md. -/
abbrev R.SHOW_FREEZE_LIMIT : Nat := 0x50004
abbrev F.SHOW_FREEZE_LIMIT.LIMIT : Fld := ⟨R.SHOW_FREEZE_LIMIT, 21, 0⟩
/-- SHOW_STATE, 16_rehearsal_and_show_report.md. -/
abbrev R.SHOW_STATE : Nat := 0x50008
abbrev F.SHOW_STATE.COUNT : Fld := ⟨R.SHOW_STATE, 8, 0⟩
abbrev F.SHOW_STATE.PENDING : Fld := ⟨R.SHOW_STATE, 21, 16⟩
abbrev F.SHOW_STATE.FLASH_OK : Fld := ⟨R.SHOW_STATE, 31, 31⟩
/-- SHOW_EVENT, 16_rehearsal_and_show_report.md. -/
abbrev R.SHOW_EVENT : Nat := 0x5000C
abbrev F.SHOW_EVENT.DROPPED : Fld := ⟨R.SHOW_EVENT, 0, 0⟩
abbrev F.SHOW_EVENT.SUPPRESSED : Fld := ⟨R.SHOW_EVENT, 1, 1⟩
abbrev F.SHOW_EVENT.FLASH_ERR : Fld := ⟨R.SHOW_EVENT, 2, 2⟩
abbrev F.SHOW_EVENT.THAWED : Fld := ⟨R.SHOW_EVENT, 3, 3⟩
/-- SHOW_EVT0, 16_rehearsal_and_show_report.md. -/
abbrev R.SHOW_EVT0 : Nat := 0x50010
abbrev F.SHOW_EVT0.DROPPED_EVT : Fld := ⟨R.SHOW_EVT0, 15, 0⟩
abbrev F.SHOW_EVT0.SUPPRESSED_EVT : Fld := ⟨R.SHOW_EVT0, 31, 16⟩
/-- SHOW_EVT1, 16_rehearsal_and_show_report.md. -/
abbrev R.SHOW_EVT1 : Nat := 0x50014
abbrev F.SHOW_EVT1.FLASH_ERR_EVT : Fld := ⟨R.SHOW_EVT1, 15, 0⟩
abbrev F.SHOW_EVT1.THAWED_EVT : Fld := ⟨R.SHOW_EVT1, 31, 16⟩
/-- SHOW_OPSEC, 16_rehearsal_and_show_report.md. -/
abbrev R.SHOW_OPSEC : Nat := 0x50018
abbrev F.SHOW_OPSEC.OPSEC : Fld := ⟨R.SHOW_OPSEC, 31, 0⟩
/-- SHOW_POWER_CYCLES, 16_rehearsal_and_show_report.md. -/
abbrev R.SHOW_POWER_CYCLES : Nat := 0x5001C
abbrev F.SHOW_POWER_CYCLES.COUNT : Fld := ⟨R.SHOW_POWER_CYCLES, 31, 0⟩
/-- SHOW_SEQ, 16_rehearsal_and_show_report.md. -/
abbrev R.SHOW_SEQ : Nat := 0x50020
abbrev F.SHOW_SEQ.SEQ : Fld := ⟨R.SHOW_SEQ, 31, 0⟩
/-- SHOW_DROPPED_COUNT, 16_rehearsal_and_show_report.md. -/
abbrev R.SHOW_DROPPED_COUNT : Nat := 0x50024
abbrev F.SHOW_DROPPED_COUNT.COUNT : Fld := ⟨R.SHOW_DROPPED_COUNT, 31, 0⟩
/-- SHOW_SUPPRESSED_COUNT, 16_rehearsal_and_show_report.md. -/
abbrev R.SHOW_SUPPRESSED_COUNT : Nat := 0x50028
abbrev F.SHOW_SUPPRESSED_COUNT.COUNT : Fld := ⟨R.SHOW_SUPPRESSED_COUNT, 31, 0⟩
/-- SHOW_RD_SEL, 16_rehearsal_and_show_report.md. -/
abbrev R.SHOW_RD_SEL : Nat := 0x50040
abbrev F.SHOW_RD_SEL.AGE : Fld := ⟨R.SHOW_RD_SEL, 15, 0⟩
abbrev F.SHOW_RD_SEL.SRC : Fld := ⟨R.SHOW_RD_SEL, 31, 31⟩
/-- SHOW_CMD, 16_rehearsal_and_show_report.md. -/
abbrev R.SHOW_CMD : Nat := 0x50044
abbrev F.SHOW_CMD.OP : Fld := ⟨R.SHOW_CMD, 1, 0⟩
/-- SHOW_RD_STATUS, 16_rehearsal_and_show_report.md. -/
abbrev R.SHOW_RD_STATUS : Nat := 0x50048
abbrev F.SHOW_RD_STATUS.BUSY : Fld := ⟨R.SHOW_RD_STATUS, 0, 0⟩
abbrev F.SHOW_RD_STATUS.VALID : Fld := ⟨R.SHOW_RD_STATUS, 1, 1⟩
abbrev F.SHOW_RD_STATUS.EMPTY : Fld := ⟨R.SHOW_RD_STATUS, 2, 2⟩
/-- SHOW_RD_DATA, 16_rehearsal_and_show_report.md. -/
abbrev R.SHOW_RD_DATA (k : Nat) : Nat := 0x50080 + k * 0x4
abbrev F.SHOW_RD_DATA.DATA (k : Nat) : Fld := ⟨R.SHOW_RD_DATA k, 31, 0⟩
/-- LOFT_CTRL, 01_fabric_and_loft.md. -/
abbrev R.LOFT_CTRL : Nat := 0x80000
abbrev F.LOFT_CTRL.CARVE_LOCK : Fld := ⟨R.LOFT_CTRL, 0, 0⟩
/-- LOFT_SCRATCH_SIZE, 01_fabric_and_loft.md. -/
abbrev R.LOFT_SCRATCH_SIZE : Nat := 0x80010
abbrev F.LOFT_SCRATCH_SIZE.SCRATCH_MIB : Fld := ⟨R.LOFT_SCRATCH_SIZE, 6, 0⟩
/-- LOFT_CACHE_SIZE, 01_fabric_and_loft.md. -/
abbrev R.LOFT_CACHE_SIZE : Nat := 0x80014
abbrev F.LOFT_CACHE_SIZE.CACHE_MIB : Fld := ⟨R.LOFT_CACHE_SIZE, 5, 0⟩
/-- LOFT_BIN_SIZE, 01_fabric_and_loft.md. -/
abbrev R.LOFT_BIN_SIZE : Nat := 0x80018
abbrev F.LOFT_BIN_SIZE.BIN_MIB : Fld := ⟨R.LOFT_BIN_SIZE, 5, 0⟩
/-- LOFT_PIT_SIZE, 01_fabric_and_loft.md. -/
abbrev R.LOFT_PIT_SIZE : Nat := 0x8001C
abbrev F.LOFT_PIT_SIZE.PIT_MIB : Fld := ⟨R.LOFT_PIT_SIZE, 3, 0⟩
/-- LOFT_SAVE_SIZE, 01_fabric_and_loft.md. -/
abbrev R.LOFT_SAVE_SIZE : Nat := 0x80020
abbrev F.LOFT_SAVE_SIZE.SAVE_MIB : Fld := ⟨R.LOFT_SAVE_SIZE, 5, 0⟩
/-- LOFT_CARVE_STATUS, 01_fabric_and_loft.md. -/
abbrev R.LOFT_CARVE_STATUS : Nat := 0x80024
abbrev F.LOFT_CARVE_STATUS.CARVE_ERR : Fld := ⟨R.LOFT_CARVE_STATUS, 0, 0⟩
abbrev F.LOFT_CARVE_STATUS.CARVE_ERR_EVT : Fld := ⟨R.LOFT_CARVE_STATUS, 31, 16⟩
/-- LOFT_CACHE_CTRL, 01_fabric_and_loft.md. -/
abbrev R.LOFT_CACHE_CTRL : Nat := 0x80040
abbrev F.LOFT_CACHE_CTRL.EN : Fld := ⟨R.LOFT_CACHE_CTRL, 0, 0⟩
abbrev F.LOFT_CACHE_CTRL.MODE : Fld := ⟨R.LOFT_CACHE_CTRL, 1, 1⟩
abbrev F.LOFT_CACHE_CTRL.PF_EN : Fld := ⟨R.LOFT_CACHE_CTRL, 2, 2⟩
abbrev F.LOFT_CACHE_CTRL.STREAM_EN : Fld := ⟨R.LOFT_CACHE_CTRL, 3, 3⟩
abbrev F.LOFT_CACHE_CTRL.PF_DIST : Fld := ⟨R.LOFT_CACHE_CTRL, 13, 8⟩
/-- LOFT_CACHE_CMD, 01_fabric_and_loft.md. -/
abbrev R.LOFT_CACHE_CMD : Nat := 0x80044
abbrev F.LOFT_CACHE_CMD.OP : Fld := ⟨R.LOFT_CACHE_CMD, 3, 0⟩
/-- LOFT_CMO_ADDR_LO, 01_fabric_and_loft.md. -/
abbrev R.LOFT_CMO_ADDR_LO : Nat := 0x80048
abbrev F.LOFT_CMO_ADDR_LO.ADDR : Fld := ⟨R.LOFT_CMO_ADDR_LO, 31, 6⟩
/-- LOFT_CMO_ADDR_HI, 01_fabric_and_loft.md. -/
abbrev R.LOFT_CMO_ADDR_HI : Nat := 0x8004C
abbrev F.LOFT_CMO_ADDR_HI.ADDR : Fld := ⟨R.LOFT_CMO_ADDR_HI, 15, 0⟩
/-- LOFT_CMO_LEN, 01_fabric_and_loft.md. -/
abbrev R.LOFT_CMO_LEN : Nat := 0x80050
abbrev F.LOFT_CMO_LEN.LEN : Fld := ⟨R.LOFT_CMO_LEN, 31, 0⟩
/-- LOFT_CACHE_STATUS, 01_fabric_and_loft.md. -/
abbrev R.LOFT_CACHE_STATUS : Nat := 0x80054
abbrev F.LOFT_CACHE_STATUS.EN_STATE : Fld := ⟨R.LOFT_CACHE_STATUS, 0, 0⟩
abbrev F.LOFT_CACHE_STATUS.INV_VALID : Fld := ⟨R.LOFT_CACHE_STATUS, 1, 1⟩
abbrev F.LOFT_CACHE_STATUS.BUSY : Fld := ⟨R.LOFT_CACHE_STATUS, 2, 2⟩
abbrev F.LOFT_CACHE_STATUS.ENABLE_REFUSED : Fld := ⟨R.LOFT_CACHE_STATUS, 3, 3⟩
abbrev F.LOFT_CACHE_STATUS.CMD_REFUSED : Fld := ⟨R.LOFT_CACHE_STATUS, 4, 4⟩
/-- LOFT_CACHE_EVT, 01_fabric_and_loft.md. -/
abbrev R.LOFT_CACHE_EVT : Nat := 0x80058
abbrev F.LOFT_CACHE_EVT.ENABLE_REFUSED_EVT : Fld := ⟨R.LOFT_CACHE_EVT, 15, 0⟩
abbrev F.LOFT_CACHE_EVT.CMD_REFUSED_EVT : Fld := ⟨R.LOFT_CACHE_EVT, 31, 16⟩
/-- LOFT_ECC_CE_COUNT, 01_fabric_and_loft.md. -/
abbrev R.LOFT_ECC_CE_COUNT : Nat := 0x80080
abbrev F.LOFT_ECC_CE_COUNT.CE_COUNT : Fld := ⟨R.LOFT_ECC_CE_COUNT, 31, 0⟩
/-- LOFT_ECC_UE_COUNT, 01_fabric_and_loft.md. -/
abbrev R.LOFT_ECC_UE_COUNT : Nat := 0x80084
abbrev F.LOFT_ECC_UE_COUNT.UE_COUNT : Fld := ⟨R.LOFT_ECC_UE_COUNT, 31, 0⟩
/-- LOFT_ECC_STATUS, 01_fabric_and_loft.md. -/
abbrev R.LOFT_ECC_STATUS : Nat := 0x80088
abbrev F.LOFT_ECC_STATUS.CE : Fld := ⟨R.LOFT_ECC_STATUS, 0, 0⟩
abbrev F.LOFT_ECC_STATUS.UE : Fld := ⟨R.LOFT_ECC_STATUS, 1, 1⟩
abbrev F.LOFT_ECC_STATUS.REFETCH : Fld := ⟨R.LOFT_ECC_STATUS, 2, 2⟩
/-- LOFT_ECC_ADDR_LO, 01_fabric_and_loft.md. -/
abbrev R.LOFT_ECC_ADDR_LO : Nat := 0x8008C
abbrev F.LOFT_ECC_ADDR_LO.ADDR : Fld := ⟨R.LOFT_ECC_ADDR_LO, 31, 0⟩
/-- LOFT_ECC_ADDR_HI, 01_fabric_and_loft.md. -/
abbrev R.LOFT_ECC_ADDR_HI : Nat := 0x80090
abbrev F.LOFT_ECC_ADDR_HI.ADDR : Fld := ⟨R.LOFT_ECC_ADDR_HI, 15, 0⟩
/-- LOFT_SCRUB_INTERVAL, 01_fabric_and_loft.md. -/
abbrev R.LOFT_SCRUB_INTERVAL : Nat := 0x80094
abbrev F.LOFT_SCRUB_INTERVAL.INTERVAL : Fld := ⟨R.LOFT_SCRUB_INTERVAL, 15, 0⟩
/-- LOFT_ECC_EVT0, 01_fabric_and_loft.md. -/
abbrev R.LOFT_ECC_EVT0 : Nat := 0x80098
abbrev F.LOFT_ECC_EVT0.CE_EVT : Fld := ⟨R.LOFT_ECC_EVT0, 15, 0⟩
abbrev F.LOFT_ECC_EVT0.UE_EVT : Fld := ⟨R.LOFT_ECC_EVT0, 31, 16⟩
/-- LOFT_ECC_EVT1, 01_fabric_and_loft.md. -/
abbrev R.LOFT_ECC_EVT1 : Nat := 0x8009C
abbrev F.LOFT_ECC_EVT1.REFETCH_EVT : Fld := ⟨R.LOFT_ECC_EVT1, 15, 0⟩
/-- LOFT_FAB_STALL_LIMIT, 01_fabric_and_loft.md. -/
abbrev R.LOFT_FAB_STALL_LIMIT : Nat := 0x800C0
abbrev F.LOFT_FAB_STALL_LIMIT.LIMIT : Fld := ⟨R.LOFT_FAB_STALL_LIMIT, 15, 0⟩
/-- LOFT_FAB_STALL_STATUS, 01_fabric_and_loft.md. -/
abbrev R.LOFT_FAB_STALL_STATUS : Nat := 0x800C4
abbrev F.LOFT_FAB_STALL_STATUS.LOFT_STALL : Fld := ⟨R.LOFT_FAB_STALL_STATUS, 0, 0⟩
abbrev F.LOFT_FAB_STALL_STATUS.BANK : Fld := ⟨R.LOFT_FAB_STALL_STATUS, 7, 2⟩
abbrev F.LOFT_FAB_STALL_STATUS.LOFT_STALL_EVT : Fld := ⟨R.LOFT_FAB_STALL_STATUS, 31, 16⟩
/-- LOFT_BEAT_COUNT_LO, 01_fabric_and_loft.md. -/
abbrev R.LOFT_BEAT_COUNT_LO : Nat := 0x800D0
abbrev F.LOFT_BEAT_COUNT_LO.COUNT : Fld := ⟨R.LOFT_BEAT_COUNT_LO, 31, 0⟩
/-- LOFT_BEAT_COUNT_HI, 01_fabric_and_loft.md. -/
abbrev R.LOFT_BEAT_COUNT_HI : Nat := 0x800D4
abbrev F.LOFT_BEAT_COUNT_HI.COUNT : Fld := ⟨R.LOFT_BEAT_COUNT_HI, 31, 0⟩
/-- LOFT_RATE, 01_fabric_and_loft.md. -/
abbrev R.LOFT_RATE : Nat := 0x800D8
abbrev F.LOFT_RATE.PER_US : Fld := ⟨R.LOFT_RATE, 15, 0⟩
/-- XLAT_STATUS, 11_translation.md. -/
abbrev R.XLAT_STATUS : Nat := 0xC0000
abbrev F.XLAT_STATUS.INV_ACTIVE : Fld := ⟨R.XLAT_STATUS, 5, 0⟩
abbrev F.XLAT_STATUS.TAG_BUSY : Fld := ⟨R.XLAT_STATUS, 8, 8⟩
abbrev F.XLAT_STATUS.CODE : Fld := ⟨R.XLAT_STATUS, 31, 16⟩
/-- XLAT_EVENT, 11_translation.md. -/
abbrev R.XLAT_EVENT : Nat := 0xC0004
abbrev F.XLAT_EVENT.REVOKE_ABORT : Fld := ⟨R.XLAT_EVENT, 0, 0⟩
abbrev F.XLAT_EVENT.TAG_REFUSED : Fld := ⟨R.XLAT_EVENT, 1, 1⟩
abbrev F.XLAT_EVENT.OTT_UE : Fld := ⟨R.XLAT_EVENT, 2, 2⟩
abbrev F.XLAT_EVENT.HOST_ERR : Fld := ⟨R.XLAT_EVENT, 3, 3⟩
/-- XLAT_EVT0, 11_translation.md. -/
abbrev R.XLAT_EVT0 : Nat := 0xC0008
abbrev F.XLAT_EVT0.REVOKE_ABORT_EVT : Fld := ⟨R.XLAT_EVT0, 15, 0⟩
abbrev F.XLAT_EVT0.TAG_REFUSED_EVT : Fld := ⟨R.XLAT_EVT0, 31, 16⟩
/-- XLAT_EVT1, 11_translation.md. -/
abbrev R.XLAT_EVT1 : Nat := 0xC000C
abbrev F.XLAT_EVT1.OTT_UE_EVT : Fld := ⟨R.XLAT_EVT1, 15, 0⟩
abbrev F.XLAT_EVT1.HOST_ERR_EVT : Fld := ⟨R.XLAT_EVT1, 31, 16⟩
/-- XLAT_TAG_SEL, 11_translation.md. -/
abbrev R.XLAT_TAG_SEL : Nat := 0xC0010
abbrev F.XLAT_TAG_SEL.GRANULE : Fld := ⟨R.XLAT_TAG_SEL, 16, 0⟩
abbrev F.XLAT_TAG_SEL.SPACE : Fld := ⟨R.XLAT_TAG_SEL, 31, 31⟩
/-- XLAT_TAG_COUNT, 11_translation.md. -/
abbrev R.XLAT_TAG_COUNT : Nat := 0xC0014
abbrev F.XLAT_TAG_COUNT.COUNT : Fld := ⟨R.XLAT_TAG_COUNT, 17, 0⟩
/-- XLAT_TAG_VALUE, 11_translation.md. -/
abbrev R.XLAT_TAG_VALUE : Nat := 0xC0018
abbrev F.XLAT_TAG_VALUE.TAG : Fld := ⟨R.XLAT_TAG_VALUE, 31, 0⟩
/-- XLAT_TAG_CMD, 11_translation.md. -/
abbrev R.XLAT_TAG_CMD : Nat := 0xC001C
abbrev F.XLAT_TAG_CMD.OP : Fld := ⟨R.XLAT_TAG_CMD, 1, 0⟩
/-- XLAT_TAG_READ, 11_translation.md. -/
abbrev R.XLAT_TAG_READ : Nat := 0xC0020
abbrev F.XLAT_TAG_READ.TAG : Fld := ⟨R.XLAT_TAG_READ, 31, 0⟩
/-- XLAT_OTT_UE_GRANULE, 11_translation.md. -/
abbrev R.XLAT_OTT_UE_GRANULE : Nat := 0xC0030
abbrev F.XLAT_OTT_UE_GRANULE.GRANULE : Fld := ⟨R.XLAT_OTT_UE_GRANULE, 16, 0⟩
abbrev F.XLAT_OTT_UE_GRANULE.SPACE : Fld := ⟨R.XLAT_OTT_UE_GRANULE, 31, 31⟩
/-- XLAT_TC_HIT, 11_translation.md. -/
abbrev R.XLAT_TC_HIT : Nat := 0xC0040
abbrev F.XLAT_TC_HIT.COUNT : Fld := ⟨R.XLAT_TC_HIT, 31, 0⟩
/-- XLAT_WALKS, 11_translation.md. -/
abbrev R.XLAT_WALKS : Nat := 0xC0044
abbrev F.XLAT_WALKS.COUNT : Fld := ⟨R.XLAT_WALKS, 31, 0⟩
/-- XLAT_ATS_REQ, 11_translation.md. -/
abbrev R.XLAT_ATS_REQ : Nat := 0xC0048
abbrev F.XLAT_ATS_REQ.COUNT : Fld := ⟨R.XLAT_ATS_REQ, 31, 0⟩
/-- XLAT_INV_COUNT, 11_translation.md. -/
abbrev R.XLAT_INV_COUNT : Nat := 0xC004C
abbrev F.XLAT_INV_COUNT.COUNT : Fld := ⟨R.XLAT_INV_COUNT, 31, 0⟩
/-- XLAT_P_LOFT_TAGGED, 11_translation.md. -/
abbrev R.XLAT_P_LOFT_TAGGED (k : Nat) : Nat := 0xC0100 + k * 0x4
abbrev F.XLAT_P_LOFT_TAGGED.TAGGED (k : Nat) : Fld := ⟨R.XLAT_P_LOFT_TAGGED k, 12, 0⟩
/-- XLAT_FN_CFG, 11_translation.md. -/
abbrev R.XLAT_FN_CFG (k : Nat) : Nat := 0xC0200 + k * 0x4
abbrev F.XLAT_FN_CFG.HOSTWIN_EN (k : Nat) : Fld := ⟨R.XLAT_FN_CFG k, 0, 0⟩
abbrev F.XLAT_FN_CFG.PEER_EN (k : Nat) : Fld := ⟨R.XLAT_FN_CFG k, 1, 1⟩
/-- PDESK_PARK_USED, 08_prompt_desk.md. -/
abbrev R.PDESK_PARK_USED : Nat := 0x100000
abbrev F.PDESK_PARK_USED.USED : Fld := ⟨R.PDESK_PARK_USED, 9, 0⟩
/-- PDESK_PARK_LOST, 08_prompt_desk.md. -/
abbrev R.PDESK_PARK_LOST : Nat := 0x100004
abbrev F.PDESK_PARK_LOST.COUNT : Fld := ⟨R.PDESK_PARK_LOST, 31, 0⟩
/-- PDESK_G5_MODE, 08_prompt_desk.md. -/
abbrev R.PDESK_G5_MODE : Nat := 0x100008
abbrev F.PDESK_G5_MODE.MASK : Fld := ⟨R.PDESK_G5_MODE, 31, 0⟩
/-- PDESK_CUE_COUNT_LO, 08_prompt_desk.md. -/
abbrev R.PDESK_CUE_COUNT_LO : Nat := 0x100010
abbrev F.PDESK_CUE_COUNT_LO.COUNT : Fld := ⟨R.PDESK_CUE_COUNT_LO, 31, 0⟩
/-- PDESK_CUE_COUNT_HI, 08_prompt_desk.md. -/
abbrev R.PDESK_CUE_COUNT_HI : Nat := 0x100014
abbrev F.PDESK_CUE_COUNT_HI.COUNT : Fld := ⟨R.PDESK_CUE_COUNT_HI, 31, 0⟩
/-- PDESK_FN_CTX_RANGE, 08_prompt_desk.md. -/
abbrev R.PDESK_FN_CTX_RANGE (k : Nat) : Nat := 0x101000 + k * 0x10
abbrev F.PDESK_FN_CTX_RANGE.CTX_BASE (k : Nat) : Fld := ⟨R.PDESK_FN_CTX_RANGE k, 9, 0⟩
abbrev F.PDESK_FN_CTX_RANGE.CTX_COUNT (k : Nat) : Fld := ⟨R.PDESK_FN_CTX_RANGE k, 26, 16⟩
/-- PDESK_FN_FENCE_BASE, 08_prompt_desk.md. -/
abbrev R.PDESK_FN_FENCE_BASE (k : Nat) : Nat := 0x101004 + k * 0x10
abbrev F.PDESK_FN_FENCE_BASE.FENCE_BASE (k : Nat) : Fld := ⟨R.PDESK_FN_FENCE_BASE k, 15, 0⟩
/-- PDESK_FN_FENCE_COUNT, 08_prompt_desk.md. -/
abbrev R.PDESK_FN_FENCE_COUNT (k : Nat) : Nat := 0x101008 + k * 0x10
abbrev F.PDESK_FN_FENCE_COUNT.FENCE_COUNT (k : Nat) : Fld := ⟨R.PDESK_FN_FENCE_COUNT k, 16, 0⟩
/-- PDESK_FN_SEM_RANGE, 08_prompt_desk.md. -/
abbrev R.PDESK_FN_SEM_RANGE (k : Nat) : Nat := 0x10100C + k * 0x10
abbrev F.PDESK_FN_SEM_RANGE.SEM_BASE (k : Nat) : Fld := ⟨R.PDESK_FN_SEM_RANGE k, 11, 0⟩
abbrev F.PDESK_FN_SEM_RANGE.SEM_COUNT (k : Nat) : Fld := ⟨R.PDESK_FN_SEM_RANGE k, 28, 16⟩
/-- PDESK_FN_PART_MASK, 08_prompt_desk.md. -/
abbrev R.PDESK_FN_PART_MASK (k : Nat) : Nat := 0x101200 + k * 0x4
abbrev F.PDESK_FN_PART_MASK.PART_MASK (k : Nat) : Fld := ⟨R.PDESK_FN_PART_MASK k, 7, 0⟩
/-- PDESK_FNRANGE_STATUS, 08_prompt_desk.md. -/
abbrev R.PDESK_FNRANGE_STATUS : Nat := 0x101300
abbrev F.PDESK_FNRANGE_STATUS.FN_CFG_REFUSED : Fld := ⟨R.PDESK_FNRANGE_STATUS, 0, 0⟩
/-- PDESK_FNRANGE_EVT, 08_prompt_desk.md. -/
abbrev R.PDESK_FNRANGE_EVT : Nat := 0x101304
abbrev F.PDESK_FNRANGE_EVT.FN_CFG_REFUSED_EVT : Fld := ⟨R.PDESK_FNRANGE_EVT, 15, 0⟩
/-- PDESK_FENCE_REGRESS_COUNT, 08_prompt_desk.md. -/
abbrev R.PDESK_FENCE_REGRESS_COUNT : Nat := 0x101308
abbrev F.PDESK_FENCE_REGRESS_COUNT.COUNT : Fld := ⟨R.PDESK_FENCE_REGRESS_COUNT, 31, 0⟩
/-- PDESK_FENCE_ECC_COUNT, 08_prompt_desk.md. -/
abbrev R.PDESK_FENCE_ECC_COUNT : Nat := 0x10130C
abbrev F.PDESK_FENCE_ECC_COUNT.COUNT : Fld := ⟨R.PDESK_FENCE_ECC_COUNT, 31, 0⟩
/-- SMGR_SC_COMMIT, 10_stage_manager.md. -/
abbrev R.SMGR_SC_COMMIT : Nat := 0x140000
abbrev F.SMGR_SC_COMMIT.COMMIT : Fld := ⟨R.SMGR_SC_COMMIT, 0, 0⟩
/-- SMGR_SC_GEN, 10_stage_manager.md. -/
abbrev R.SMGR_SC_GEN : Nat := 0x140004
abbrev F.SMGR_SC_GEN.GEN : Fld := ⟨R.SMGR_SC_GEN, 31, 0⟩
/-- SMGR_SC_PENDING, 10_stage_manager.md. -/
abbrev R.SMGR_SC_PENDING : Nat := 0x140008
abbrev F.SMGR_SC_PENDING.PENDING : Fld := ⟨R.SMGR_SC_PENDING, 25, 0⟩
/-- SMGR_SC_STATUS, 10_stage_manager.md. -/
abbrev R.SMGR_SC_STATUS : Nat := 0x14000C
abbrev F.SMGR_SC_STATUS.SC_DONE : Fld := ⟨R.SMGR_SC_STATUS, 0, 0⟩
abbrev F.SMGR_SC_STATUS.SC_REFUSED : Fld := ⟨R.SMGR_SC_STATUS, 1, 1⟩
abbrev F.SMGR_SC_STATUS.CODE : Fld := ⟨R.SMGR_SC_STATUS, 31, 16⟩
/-- SMGR_SC_EVT, 10_stage_manager.md. -/
abbrev R.SMGR_SC_EVT : Nat := 0x140010
abbrev F.SMGR_SC_EVT.SC_DONE_EVT : Fld := ⟨R.SMGR_SC_EVT, 15, 0⟩
abbrev F.SMGR_SC_EVT.SC_REFUSED_EVT : Fld := ⟨R.SMGR_SC_EVT, 31, 16⟩
/-- SMGR_EVENT, 10_stage_manager.md. -/
abbrev R.SMGR_EVENT : Nat := 0x140014
abbrev F.SMGR_EVENT.SAVE_WAIT : Fld := ⟨R.SMGR_EVENT, 0, 0⟩
abbrev F.SMGR_EVENT.OVERRUN : Fld := ⟨R.SMGR_EVENT, 1, 1⟩
/-- SMGR_EVT, 10_stage_manager.md. -/
abbrev R.SMGR_EVT : Nat := 0x140018
abbrev F.SMGR_EVT.SAVE_WAIT_EVT : Fld := ⟨R.SMGR_EVT, 15, 0⟩
abbrev F.SMGR_EVT.OVERRUN_EVT : Fld := ⟨R.SMGR_EVT, 31, 16⟩
/-- SMGR_SC_APPLIED, 10_stage_manager.md. -/
abbrev R.SMGR_SC_APPLIED (k : Nat) : Nat := 0x140100 + k * 0x4
abbrev F.SMGR_SC_APPLIED.GEN (k : Nat) : Fld := ⟨R.SMGR_SC_APPLIED k, 31, 0⟩
/-- SMGR_P_CFG, 10_stage_manager.md. -/
abbrev R.SMGR_P_CFG (k : Nat) : Nat := 0x141000 + k * 0x40
abbrev F.SMGR_P_CFG.EN (k : Nat) : Fld := ⟨R.SMGR_P_CFG k, 0, 0⟩
abbrev F.SMGR_P_CFG.PRIV (k : Nat) : Fld := ⟨R.SMGR_P_CFG k, 1, 1⟩
abbrev F.SMGR_P_CFG.CORE_MASK (k : Nat) : Fld := ⟨R.SMGR_P_CFG k, 31, 16⟩
/-- SMGR_P_LOFT_QUOTA, 10_stage_manager.md. -/
abbrev R.SMGR_P_LOFT_QUOTA (k : Nat) : Nat := 0x141004 + k * 0x40
abbrev F.SMGR_P_LOFT_QUOTA.QUOTA (k : Nat) : Fld := ⟨R.SMGR_P_LOFT_QUOTA k, 12, 0⟩
/-- SMGR_P_SAVE, 10_stage_manager.md. -/
abbrev R.SMGR_P_SAVE (k : Nat) : Nat := 0x141008 + k * 0x40
abbrev F.SMGR_P_SAVE.SAVE_BASE (k : Nat) : Fld := ⟨R.SMGR_P_SAVE k, 4, 0⟩
abbrev F.SMGR_P_SAVE.SAVE_MIB (k : Nat) : Fld := ⟨R.SMGR_P_SAVE k, 13, 8⟩
/-- SMGR_P_SLICE, 10_stage_manager.md. -/
abbrev R.SMGR_P_SLICE (k : Nat) : Nat := 0x14100C + k * 0x40
abbrev F.SMGR_P_SLICE.SLICE (k : Nat) : Fld := ⟨R.SMGR_P_SLICE k, 31, 0⟩
/-- SMGR_P_NPL, 10_stage_manager.md. -/
abbrev R.SMGR_P_NPL (k : Nat) : Nat := 0x141010 + k * 0x40
abbrev F.SMGR_P_NPL.NPL (k : Nat) : Fld := ⟨R.SMGR_P_NPL k, 31, 0⟩
/-- SMGR_P_DRAM_BW, 10_stage_manager.md. -/
abbrev R.SMGR_P_DRAM_BW (k : Nat) : Nat := 0x141014 + k * 0x40
abbrev F.SMGR_P_DRAM_BW.RATE (k : Nat) : Fld := ⟨R.SMGR_P_DRAM_BW k, 15, 0⟩
abbrev F.SMGR_P_DRAM_BW.BURST (k : Nat) : Fld := ⟨R.SMGR_P_DRAM_BW k, 31, 16⟩
/-- SMGR_P_LOFT_BW, 10_stage_manager.md. -/
abbrev R.SMGR_P_LOFT_BW (k : Nat) : Nat := 0x141018 + k * 0x40
abbrev F.SMGR_P_LOFT_BW.RATE (k : Nat) : Fld := ⟨R.SMGR_P_LOFT_BW k, 15, 0⟩
abbrev F.SMGR_P_LOFT_BW.BURST (k : Nat) : Fld := ⟨R.SMGR_P_LOFT_BW k, 31, 16⟩
/-- SMGR_P_HOST_BW, 10_stage_manager.md. -/
abbrev R.SMGR_P_HOST_BW (k : Nat) : Nat := 0x14101C + k * 0x40
abbrev F.SMGR_P_HOST_BW.RATE (k : Nat) : Fld := ⟨R.SMGR_P_HOST_BW k, 15, 0⟩
abbrev F.SMGR_P_HOST_BW.BURST (k : Nat) : Fld := ⟨R.SMGR_P_HOST_BW k, 31, 16⟩
/-- SMGR_P_CFG_APPLIED, 10_stage_manager.md. -/
abbrev R.SMGR_P_CFG_APPLIED (k : Nat) : Nat := 0x142000 + k * 0x40
abbrev F.SMGR_P_CFG_APPLIED.EN (k : Nat) : Fld := ⟨R.SMGR_P_CFG_APPLIED k, 0, 0⟩
abbrev F.SMGR_P_CFG_APPLIED.PRIV (k : Nat) : Fld := ⟨R.SMGR_P_CFG_APPLIED k, 1, 1⟩
abbrev F.SMGR_P_CFG_APPLIED.CORE_MASK (k : Nat) : Fld := ⟨R.SMGR_P_CFG_APPLIED k, 31, 16⟩
/-- SMGR_P_LOFT_QUOTA_APPLIED, 10_stage_manager.md. -/
abbrev R.SMGR_P_LOFT_QUOTA_APPLIED (k : Nat) : Nat := 0x142004 + k * 0x40
abbrev F.SMGR_P_LOFT_QUOTA_APPLIED.QUOTA (k : Nat) : Fld := ⟨R.SMGR_P_LOFT_QUOTA_APPLIED k, 12, 0⟩
/-- SMGR_P_SAVE_APPLIED, 10_stage_manager.md. -/
abbrev R.SMGR_P_SAVE_APPLIED (k : Nat) : Nat := 0x142008 + k * 0x40
abbrev F.SMGR_P_SAVE_APPLIED.SAVE_BASE (k : Nat) : Fld := ⟨R.SMGR_P_SAVE_APPLIED k, 4, 0⟩
abbrev F.SMGR_P_SAVE_APPLIED.SAVE_MIB (k : Nat) : Fld := ⟨R.SMGR_P_SAVE_APPLIED k, 13, 8⟩
/-- SMGR_P_SLICE_APPLIED, 10_stage_manager.md. -/
abbrev R.SMGR_P_SLICE_APPLIED (k : Nat) : Nat := 0x14200C + k * 0x40
abbrev F.SMGR_P_SLICE_APPLIED.SLICE (k : Nat) : Fld := ⟨R.SMGR_P_SLICE_APPLIED k, 31, 0⟩
/-- SMGR_P_NPL_APPLIED, 10_stage_manager.md. -/
abbrev R.SMGR_P_NPL_APPLIED (k : Nat) : Nat := 0x142010 + k * 0x40
abbrev F.SMGR_P_NPL_APPLIED.NPL (k : Nat) : Fld := ⟨R.SMGR_P_NPL_APPLIED k, 31, 0⟩
/-- SMGR_P_DRAM_BW_APPLIED, 10_stage_manager.md. -/
abbrev R.SMGR_P_DRAM_BW_APPLIED (k : Nat) : Nat := 0x142014 + k * 0x40
abbrev F.SMGR_P_DRAM_BW_APPLIED.RATE (k : Nat) : Fld := ⟨R.SMGR_P_DRAM_BW_APPLIED k, 15, 0⟩
abbrev F.SMGR_P_DRAM_BW_APPLIED.BURST (k : Nat) : Fld := ⟨R.SMGR_P_DRAM_BW_APPLIED k, 31, 16⟩
/-- SMGR_P_LOFT_BW_APPLIED, 10_stage_manager.md. -/
abbrev R.SMGR_P_LOFT_BW_APPLIED (k : Nat) : Nat := 0x142018 + k * 0x40
abbrev F.SMGR_P_LOFT_BW_APPLIED.RATE (k : Nat) : Fld := ⟨R.SMGR_P_LOFT_BW_APPLIED k, 15, 0⟩
abbrev F.SMGR_P_LOFT_BW_APPLIED.BURST (k : Nat) : Fld := ⟨R.SMGR_P_LOFT_BW_APPLIED k, 31, 16⟩
/-- SMGR_P_HOST_BW_APPLIED, 10_stage_manager.md. -/
abbrev R.SMGR_P_HOST_BW_APPLIED (k : Nat) : Nat := 0x14201C + k * 0x40
abbrev F.SMGR_P_HOST_BW_APPLIED.RATE (k : Nat) : Fld := ⟨R.SMGR_P_HOST_BW_APPLIED k, 15, 0⟩
abbrev F.SMGR_P_HOST_BW_APPLIED.BURST (k : Nat) : Fld := ⟨R.SMGR_P_HOST_BW_APPLIED k, 31, 16⟩
/-- SMGR_P_STATE, 10_stage_manager.md. -/
abbrev R.SMGR_P_STATE (k : Nat) : Nat := 0x143000 + k * 0x20
abbrev F.SMGR_P_STATE.LEAD (k : Nat) : Fld := ⟨R.SMGR_P_STATE k, 3, 0⟩
abbrev F.SMGR_P_STATE.HOLDERS (k : Nat) : Fld := ⟨R.SMGR_P_STATE k, 15, 8⟩
abbrev F.SMGR_P_STATE.READY (k : Nat) : Fld := ⟨R.SMGR_P_STATE k, 31, 16⟩
/-- SMGR_P_SAVE_USED, 10_stage_manager.md. -/
abbrev R.SMGR_P_SAVE_USED (k : Nat) : Nat := 0x143004 + k * 0x20
abbrev F.SMGR_P_SAVE_USED.SAVE_USED_KIB (k : Nat) : Fld := ⟨R.SMGR_P_SAVE_USED k, 15, 0⟩
/-- SMGR_P_PREEMPTS, 10_stage_manager.md. -/
abbrev R.SMGR_P_PREEMPTS (k : Nat) : Nat := 0x143008 + k * 0x20
abbrev F.SMGR_P_PREEMPTS.COUNT (k : Nat) : Fld := ⟨R.SMGR_P_PREEMPTS k, 31, 0⟩
/-- SMGR_P_DEBT_TOTAL, 10_stage_manager.md. -/
abbrev R.SMGR_P_DEBT_TOTAL (k : Nat) : Nat := 0x14300C + k * 0x20
abbrev F.SMGR_P_DEBT_TOTAL.BEATS (k : Nat) : Fld := ⟨R.SMGR_P_DEBT_TOTAL k, 31, 0⟩
/-- SMGR_P_EVT, 10_stage_manager.md. -/
abbrev R.SMGR_P_EVT (k : Nat) : Nat := 0x143010 + k * 0x20
abbrev F.SMGR_P_EVT.DEADLINE_EVT (k : Nat) : Fld := ⟨R.SMGR_P_EVT k, 15, 0⟩
abbrev F.SMGR_P_EVT.BOOST_EVT (k : Nat) : Fld := ⟨R.SMGR_P_EVT k, 31, 16⟩
/-- CORE_ID, 02_thread_groups.md. -/
abbrev R.CORE_ID (n : Nat) : Nat := 0x200000 + n * 0x10000
abbrev F.CORE_ID.PHYS (n : Nat) : Fld := ⟨R.CORE_ID n, 4, 0⟩
abbrev F.CORE_ID.ROLE (n : Nat) : Fld := ⟨R.CORE_ID n, 9, 8⟩
abbrev F.CORE_ID.LOGICAL (n : Nat) : Fld := ⟨R.CORE_ID n, 15, 12⟩
/-- CORE_STATE, 02_thread_groups.md. -/
abbrev R.CORE_STATE (n : Nat) : Nat := 0x200004 + n * 0x10000
abbrev F.CORE_STATE.SPLIT (n : Nat) : Fld := ⟨R.CORE_STATE n, 1, 0⟩
abbrev F.CORE_STATE.GROUPS (n : Nat) : Fld := ⟨R.CORE_STATE n, 13, 8⟩
abbrev F.CORE_STATE.WORKGROUPS (n : Nat) : Fld := ⟨R.CORE_STATE n, 21, 16⟩
/-- CORE_BEAT_COUNT_LO, 02_thread_groups.md. -/
abbrev R.CORE_BEAT_COUNT_LO (n : Nat) : Nat := 0x200010 + n * 0x10000
abbrev F.CORE_BEAT_COUNT_LO.COUNT (n : Nat) : Fld := ⟨R.CORE_BEAT_COUNT_LO n, 31, 0⟩
/-- CORE_BEAT_COUNT_HI, 02_thread_groups.md. -/
abbrev R.CORE_BEAT_COUNT_HI (n : Nat) : Nat := 0x200014 + n * 0x10000
abbrev F.CORE_BEAT_COUNT_HI.COUNT (n : Nat) : Fld := ⟨R.CORE_BEAT_COUNT_HI n, 31, 0⟩
/-- CORE_RATE, 02_thread_groups.md. -/
abbrev R.CORE_RATE (n : Nat) : Nat := 0x200018 + n * 0x10000
abbrev F.CORE_RATE.PER_US (n : Nat) : Fld := ⟨R.CORE_RATE n, 15, 0⟩
/-- CORE_STALL_STATUS, 02_thread_groups.md. -/
abbrev R.CORE_STALL_STATUS (n : Nat) : Nat := 0x200020 + n * 0x10000
abbrev F.CORE_STALL_STATUS.STALL (n : Nat) : Fld := ⟨R.CORE_STALL_STATUS n, 0, 0⟩
abbrev F.CORE_STALL_STATUS.UNIT (n : Nat) : Fld := ⟨R.CORE_STALL_STATUS n, 7, 4⟩
abbrev F.CORE_STALL_STATUS.STALL_EVT (n : Nat) : Fld := ⟨R.CORE_STALL_STATUS n, 31, 16⟩
/-- CORE_L1_CTRL, 02_thread_groups.md. -/
abbrev R.CORE_L1_CTRL (n : Nat) : Nat := 0x200040 + n * 0x10000
abbrev F.CORE_L1_CTRL.EN (n : Nat) : Fld := ⟨R.CORE_L1_CTRL n, 0, 0⟩
abbrev F.CORE_L1_CTRL.MODE (n : Nat) : Fld := ⟨R.CORE_L1_CTRL n, 1, 1⟩
abbrev F.CORE_L1_CTRL.PF_EN (n : Nat) : Fld := ⟨R.CORE_L1_CTRL n, 2, 2⟩
abbrev F.CORE_L1_CTRL.STREAM_EN (n : Nat) : Fld := ⟨R.CORE_L1_CTRL n, 3, 3⟩
abbrev F.CORE_L1_CTRL.PF_DIST (n : Nat) : Fld := ⟨R.CORE_L1_CTRL n, 13, 8⟩
/-- CORE_L1_CMD, 02_thread_groups.md. -/
abbrev R.CORE_L1_CMD (n : Nat) : Nat := 0x200044 + n * 0x10000
abbrev F.CORE_L1_CMD.OP (n : Nat) : Fld := ⟨R.CORE_L1_CMD n, 3, 0⟩
/-- CORE_L1_CMO_ADDR_LO, 02_thread_groups.md. -/
abbrev R.CORE_L1_CMO_ADDR_LO (n : Nat) : Nat := 0x200048 + n * 0x10000
abbrev F.CORE_L1_CMO_ADDR_LO.ADDR (n : Nat) : Fld := ⟨R.CORE_L1_CMO_ADDR_LO n, 31, 6⟩
/-- CORE_L1_CMO_ADDR_HI, 02_thread_groups.md. -/
abbrev R.CORE_L1_CMO_ADDR_HI (n : Nat) : Nat := 0x20004C + n * 0x10000
abbrev F.CORE_L1_CMO_ADDR_HI.ADDR (n : Nat) : Fld := ⟨R.CORE_L1_CMO_ADDR_HI n, 15, 0⟩
/-- CORE_L1_CMO_LEN, 02_thread_groups.md. -/
abbrev R.CORE_L1_CMO_LEN (n : Nat) : Nat := 0x200050 + n * 0x10000
abbrev F.CORE_L1_CMO_LEN.LEN (n : Nat) : Fld := ⟨R.CORE_L1_CMO_LEN n, 31, 0⟩
/-- CORE_L1_STATUS, 02_thread_groups.md. -/
abbrev R.CORE_L1_STATUS (n : Nat) : Nat := 0x200054 + n * 0x10000
abbrev F.CORE_L1_STATUS.EN_STATE (n : Nat) : Fld := ⟨R.CORE_L1_STATUS n, 0, 0⟩
abbrev F.CORE_L1_STATUS.INV_VALID (n : Nat) : Fld := ⟨R.CORE_L1_STATUS n, 1, 1⟩
abbrev F.CORE_L1_STATUS.BUSY (n : Nat) : Fld := ⟨R.CORE_L1_STATUS n, 2, 2⟩
abbrev F.CORE_L1_STATUS.ENABLE_REFUSED (n : Nat) : Fld := ⟨R.CORE_L1_STATUS n, 3, 3⟩
abbrev F.CORE_L1_STATUS.CMD_REFUSED (n : Nat) : Fld := ⟨R.CORE_L1_STATUS n, 4, 4⟩
/-- CORE_L1_EVT, 02_thread_groups.md. -/
abbrev R.CORE_L1_EVT (n : Nat) : Nat := 0x200058 + n * 0x10000
abbrev F.CORE_L1_EVT.ENABLE_REFUSED_EVT (n : Nat) : Fld := ⟨R.CORE_L1_EVT n, 15, 0⟩
abbrev F.CORE_L1_EVT.CMD_REFUSED_EVT (n : Nat) : Fld := ⟨R.CORE_L1_EVT n, 31, 16⟩
/-- CORE_FAULT_STATUS, 02_thread_groups.md. -/
abbrev R.CORE_FAULT_STATUS (n : Nat) : Nat := 0x200080 + n * 0x10000
abbrev F.CORE_FAULT_STATUS.FAULT (n : Nat) : Fld := ⟨R.CORE_FAULT_STATUS n, 0, 0⟩
abbrev F.CORE_FAULT_STATUS.DEADLOCK (n : Nat) : Fld := ⟨R.CORE_FAULT_STATUS n, 1, 1⟩
/-- CORE_FAULT_EVT, 02_thread_groups.md. -/
abbrev R.CORE_FAULT_EVT (n : Nat) : Nat := 0x200084 + n * 0x10000
abbrev F.CORE_FAULT_EVT.FAULT_EVT (n : Nat) : Fld := ⟨R.CORE_FAULT_EVT n, 15, 0⟩
abbrev F.CORE_FAULT_EVT.DEADLOCK_EVT (n : Nat) : Fld := ⟨R.CORE_FAULT_EVT n, 31, 16⟩
/-- CORE_FAULT_REC, 02_thread_groups.md. -/
abbrev R.CORE_FAULT_REC (n : Nat) (k : Nat) : Nat := 0x200088 + n * 0x10000 + k * 0x4
abbrev F.CORE_FAULT_REC.REC (n : Nat) (k : Nat) : Fld := ⟨R.CORE_FAULT_REC n k, 31, 0⟩
/-- CORE_REPLAY_COUNT, 02_thread_groups.md. -/
abbrev R.CORE_REPLAY_COUNT (n : Nat) : Nat := 0x2000C0 + n * 0x10000
abbrev F.CORE_REPLAY_COUNT.COUNT (n : Nat) : Fld := ⟨R.CORE_REPLAY_COUNT n, 31, 0⟩
/-- CORE_TE_STATUS, 02_thread_groups.md. -/
abbrev R.CORE_TE_STATUS (n : Nat) : Nat := 0x200100 + n * 0x10000
abbrev F.CORE_TE_STATUS.BUSY (n : Nat) : Fld := ⟨R.CORE_TE_STATUS n, 0, 0⟩
abbrev F.CORE_TE_STATUS.OPC (n : Nat) : Fld := ⟨R.CORE_TE_STATUS n, 3, 1⟩
abbrev F.CORE_TE_STATUS.RESIDENT (n : Nat) : Fld := ⟨R.CORE_TE_STATUS n, 4, 4⟩
abbrev F.CORE_TE_STATUS.GANGED (n : Nat) : Fld := ⟨R.CORE_TE_STATUS n, 5, 5⟩
abbrev F.CORE_TE_STATUS.GANG_IDX (n : Nat) : Fld := ⟨R.CORE_TE_STATUS n, 11, 8⟩
/-- CORE_TE_TILE, 02_thread_groups.md. -/
abbrev R.CORE_TE_TILE (n : Nat) : Nat := 0x200104 + n * 0x10000
abbrev F.CORE_TE_TILE.TILE (n : Nat) : Fld := ⟨R.CORE_TE_TILE n, 31, 0⟩
/-- CORE_TE_BEAT_COUNT_LO, 02_thread_groups.md. -/
abbrev R.CORE_TE_BEAT_COUNT_LO (n : Nat) : Nat := 0x200108 + n * 0x10000
abbrev F.CORE_TE_BEAT_COUNT_LO.COUNT (n : Nat) : Fld := ⟨R.CORE_TE_BEAT_COUNT_LO n, 31, 0⟩
/-- CORE_TE_BEAT_COUNT_HI, 02_thread_groups.md. -/
abbrev R.CORE_TE_BEAT_COUNT_HI (n : Nat) : Nat := 0x20010C + n * 0x10000
abbrev F.CORE_TE_BEAT_COUNT_HI.COUNT (n : Nat) : Fld := ⟨R.CORE_TE_BEAT_COUNT_HI n, 31, 0⟩
/-- CORE_TE_BOUND_RETRY, 02_thread_groups.md. -/
abbrev R.CORE_TE_BOUND_RETRY (n : Nat) : Nat := 0x200110 + n * 0x10000
abbrev F.CORE_TE_BOUND_RETRY.COUNT (n : Nat) : Fld := ⟨R.CORE_TE_BOUND_RETRY n, 31, 0⟩
/-- CORE_TE_EVENT, 02_thread_groups.md. -/
abbrev R.CORE_TE_EVENT (n : Nat) : Nat := 0x200114 + n * 0x10000
abbrev F.CORE_TE_EVENT.XLAT_FAULT (n : Nat) : Fld := ⟨R.CORE_TE_EVENT n, 0, 0⟩
abbrev F.CORE_TE_EVENT.DESC_INVALID (n : Nat) : Fld := ⟨R.CORE_TE_EVENT n, 1, 1⟩
/-- CORE_TE_EVT, 02_thread_groups.md. -/
abbrev R.CORE_TE_EVT (n : Nat) : Nat := 0x200118 + n * 0x10000
abbrev F.CORE_TE_EVT.XLAT_FAULT_EVT (n : Nat) : Fld := ⟨R.CORE_TE_EVT n, 15, 0⟩
abbrev F.CORE_TE_EVT.DESC_INVALID_EVT (n : Nat) : Fld := ⟨R.CORE_TE_EVT n, 31, 16⟩
/-- CORE_TE_DESC_LO, 02_thread_groups.md. -/
abbrev R.CORE_TE_DESC_LO (n : Nat) : Nat := 0x20011C + n * 0x10000
abbrev F.CORE_TE_DESC_LO.ADDR (n : Nat) : Fld := ⟨R.CORE_TE_DESC_LO n, 31, 0⟩
/-- CORE_TE_DESC_HI, 02_thread_groups.md. -/
abbrev R.CORE_TE_DESC_HI (n : Nat) : Nat := 0x200120 + n * 0x10000
abbrev F.CORE_TE_DESC_HI.ADDR (n : Nat) : Fld := ⟨R.CORE_TE_DESC_HI n, 15, 0⟩
/-- CORE_PR_CTRL, 02_thread_groups.md. -/
abbrev R.CORE_PR_CTRL (n : Nat) : Nat := 0x200124 + n * 0x10000
abbrev F.CORE_PR_CTRL.RUNAHEAD_KIB (n : Nat) : Fld := ⟨R.CORE_PR_CTRL n, 6, 0⟩
abbrev F.CORE_PR_CTRL.PF_TAGS (n : Nat) : Fld := ⟨R.CORE_PR_CTRL n, 8, 8⟩
/-- CORE_PR_WAIT, 02_thread_groups.md. -/
abbrev R.CORE_PR_WAIT (n : Nat) : Nat := 0x200128 + n * 0x10000
abbrev F.CORE_PR_WAIT.COUNT (n : Nat) : Fld := ⟨R.CORE_PR_WAIT n, 31, 0⟩
/-- CORE_PR_XLAT, 02_thread_groups.md. -/
abbrev R.CORE_PR_XLAT (n : Nat) : Nat := 0x20012C + n * 0x10000
abbrev F.CORE_PR_XLAT.COUNT (n : Nat) : Fld := ⟨R.CORE_PR_XLAT n, 31, 0⟩
/-- RAS_STATUS, 06_raster.md. -/
abbrev R.RAS_STATUS : Nat := 0x400000
abbrev F.RAS_STATUS.BUSY : Fld := ⟨R.RAS_STATUS, 0, 0⟩
abbrev F.RAS_STATUS.PHASE : Fld := ⟨R.RAS_STATUS, 2, 1⟩
abbrev F.RAS_STATUS.CID : Fld := ⟨R.RAS_STATUS, 25, 16⟩
/-- RAS_EVENT, 06_raster.md. -/
abbrev R.RAS_EVENT : Nat := 0x400004
abbrev F.RAS_EVENT.PARTIAL : Fld := ⟨R.RAS_EVENT, 0, 0⟩
abbrev F.RAS_EVENT.BIN_LOST : Fld := ⟨R.RAS_EVENT, 1, 1⟩
abbrev F.RAS_EVENT.DRAW_INVALID : Fld := ⟨R.RAS_EVENT, 2, 2⟩
abbrev F.RAS_EVENT.FAULT : Fld := ⟨R.RAS_EVENT, 3, 3⟩
/-- RAS_EVT0, 06_raster.md. -/
abbrev R.RAS_EVT0 : Nat := 0x400008
abbrev F.RAS_EVT0.PARTIAL_EVT : Fld := ⟨R.RAS_EVT0, 15, 0⟩
abbrev F.RAS_EVT0.BIN_LOST_EVT : Fld := ⟨R.RAS_EVT0, 31, 16⟩
/-- RAS_EVT1, 06_raster.md. -/
abbrev R.RAS_EVT1 : Nat := 0x40000C
abbrev F.RAS_EVT1.DRAW_INVALID_EVT : Fld := ⟨R.RAS_EVT1, 15, 0⟩
abbrev F.RAS_EVT1.FAULT_EVT : Fld := ⟨R.RAS_EVT1, 31, 16⟩
/-- RAS_PASS_LO, 06_raster.md. -/
abbrev R.RAS_PASS_LO : Nat := 0x400010
abbrev F.RAS_PASS_LO.ADDR : Fld := ⟨R.RAS_PASS_LO, 31, 0⟩
/-- RAS_PASS_HI, 06_raster.md. -/
abbrev R.RAS_PASS_HI : Nat := 0x400014
abbrev F.RAS_PASS_HI.ADDR : Fld := ⟨R.RAS_PASS_HI, 15, 0⟩
/-- RAS_TILE, 06_raster.md. -/
abbrev R.RAS_TILE : Nat := 0x400018
abbrev F.RAS_TILE.TILE : Fld := ⟨R.RAS_TILE, 13, 0⟩
/-- RAS_BIN_USED, 06_raster.md. -/
abbrev R.RAS_BIN_USED : Nat := 0x40001C
abbrev F.RAS_BIN_USED.USED_KIB : Fld := ⟨R.RAS_BIN_USED, 15, 0⟩
/-- RAS_BIN_PEAK, 06_raster.md. -/
abbrev R.RAS_BIN_PEAK : Nat := 0x400020
abbrev F.RAS_BIN_PEAK.PEAK_KIB : Fld := ⟨R.RAS_BIN_PEAK, 15, 0⟩
/-- RAS_PASS_COUNT, 06_raster.md. -/
abbrev R.RAS_PASS_COUNT : Nat := 0x400024
abbrev F.RAS_PASS_COUNT.COUNT : Fld := ⟨R.RAS_PASS_COUNT, 31, 0⟩
/-- RAS_PRIM_COUNT_LO, 06_raster.md. -/
abbrev R.RAS_PRIM_COUNT_LO : Nat := 0x400028
abbrev F.RAS_PRIM_COUNT_LO.COUNT : Fld := ⟨R.RAS_PRIM_COUNT_LO, 31, 0⟩
/-- RAS_PRIM_COUNT_HI, 06_raster.md. -/
abbrev R.RAS_PRIM_COUNT_HI : Nat := 0x40002C
abbrev F.RAS_PRIM_COUNT_HI.COUNT : Fld := ⟨R.RAS_PRIM_COUNT_HI, 31, 0⟩
/-- PROSC_DO_CFG, 07_proscenium.md. -/
abbrev R.PROSC_DO_CFG (n : Nat) : Nat := 0x480000 + n * 0x100
abbrev F.PROSC_DO_CFG.EN (n : Nat) : Fld := ⟨R.PROSC_DO_CFG n, 0, 0⟩
abbrev F.PROSC_DO_CFG.BPC (n : Nat) : Fld := ⟨R.PROSC_DO_CFG n, 1, 1⟩
abbrev F.PROSC_DO_CFG.TRANSFER (n : Nat) : Fld := ⟨R.PROSC_DO_CFG n, 2, 2⟩
abbrev F.PROSC_DO_CFG.ORDER_MODE (n : Nat) : Fld := ⟨R.PROSC_DO_CFG n, 3, 3⟩
abbrev F.PROSC_DO_CFG.LANES (n : Nat) : Fld := ⟨R.PROSC_DO_CFG n, 5, 4⟩
abbrev F.PROSC_DO_CFG.RATE (n : Nat) : Fld := ⟨R.PROSC_DO_CFG n, 7, 6⟩
abbrev F.PROSC_DO_CFG.SSC (n : Nat) : Fld := ⟨R.PROSC_DO_CFG n, 8, 8⟩
abbrev F.PROSC_DO_CFG.HS_POL (n : Nat) : Fld := ⟨R.PROSC_DO_CFG n, 9, 9⟩
abbrev F.PROSC_DO_CFG.VS_POL (n : Nat) : Fld := ⟨R.PROSC_DO_CFG n, 10, 10⟩
abbrev F.PROSC_DO_CFG.DO2_SRC (n : Nat) : Fld := ⟨R.PROSC_DO_CFG n, 11, 11⟩
abbrev F.PROSC_DO_CFG.EDP (n : Nat) : Fld := ⟨R.PROSC_DO_CFG n, 12, 12⟩
/-- PROSC_DO_HTIME, 07_proscenium.md. -/
abbrev R.PROSC_DO_HTIME (n : Nat) : Nat := 0x480004 + n * 0x100
abbrev F.PROSC_DO_HTIME.HACTIVE (n : Nat) : Fld := ⟨R.PROSC_DO_HTIME n, 15, 0⟩
abbrev F.PROSC_DO_HTIME.HTOTAL (n : Nat) : Fld := ⟨R.PROSC_DO_HTIME n, 31, 16⟩
/-- PROSC_DO_HSYNC, 07_proscenium.md. -/
abbrev R.PROSC_DO_HSYNC (n : Nat) : Nat := 0x480008 + n * 0x100
abbrev F.PROSC_DO_HSYNC.HS_START (n : Nat) : Fld := ⟨R.PROSC_DO_HSYNC n, 15, 0⟩
abbrev F.PROSC_DO_HSYNC.HS_END (n : Nat) : Fld := ⟨R.PROSC_DO_HSYNC n, 31, 16⟩
/-- PROSC_DO_VTIME, 07_proscenium.md. -/
abbrev R.PROSC_DO_VTIME (n : Nat) : Nat := 0x48000C + n * 0x100
abbrev F.PROSC_DO_VTIME.VACTIVE (n : Nat) : Fld := ⟨R.PROSC_DO_VTIME n, 15, 0⟩
abbrev F.PROSC_DO_VTIME.VTOTAL (n : Nat) : Fld := ⟨R.PROSC_DO_VTIME n, 31, 16⟩
/-- PROSC_DO_VSYNC, 07_proscenium.md. -/
abbrev R.PROSC_DO_VSYNC (n : Nat) : Nat := 0x480010 + n * 0x100
abbrev F.PROSC_DO_VSYNC.VS_START (n : Nat) : Fld := ⟨R.PROSC_DO_VSYNC n, 15, 0⟩
abbrev F.PROSC_DO_VSYNC.VS_END (n : Nat) : Fld := ⟨R.PROSC_DO_VSYNC n, 31, 16⟩
/-- PROSC_DO_PCLK, 07_proscenium.md. -/
abbrev R.PROSC_DO_PCLK (n : Nat) : Nat := 0x480014 + n * 0x100
abbrev F.PROSC_DO_PCLK.PCLK_KHZ (n : Nat) : Fld := ⟨R.PROSC_DO_PCLK n, 31, 0⟩
/-- PROSC_DO_BG, 07_proscenium.md. -/
abbrev R.PROSC_DO_BG (n : Nat) : Nat := 0x480018 + n * 0x100
abbrev F.PROSC_DO_BG.BG (n : Nat) : Fld := ⟨R.PROSC_DO_BG n, 29, 0⟩
/-- PROSC_DO_DEADLINE, 07_proscenium.md. -/
abbrev R.PROSC_DO_DEADLINE (n : Nat) : Nat := 0x48001C + n * 0x100
abbrev F.PROSC_DO_DEADLINE.LINE (n : Nat) : Fld := ⟨R.PROSC_DO_DEADLINE n, 15, 0⟩
/-- PROSC_DO_SCAN, 07_proscenium.md. -/
abbrev R.PROSC_DO_SCAN (n : Nat) : Nat := 0x480020 + n * 0x100
abbrev F.PROSC_DO_SCAN.LINE (n : Nat) : Fld := ⟨R.PROSC_DO_SCAN n, 15, 0⟩
/-- PROSC_DO_FRAME, 07_proscenium.md. -/
abbrev R.PROSC_DO_FRAME (n : Nat) : Nat := 0x480024 + n * 0x100
abbrev F.PROSC_DO_FRAME.FRAME (n : Nat) : Fld := ⟨R.PROSC_DO_FRAME n, 31, 0⟩
/-- PROSC_DO_STATUS, 07_proscenium.md. -/
abbrev R.PROSC_DO_STATUS (n : Nat) : Nat := 0x480028 + n * 0x100
abbrev F.PROSC_DO_STATUS.DEADLINE_NEAR (n : Nat) : Fld := ⟨R.PROSC_DO_STATUS n, 0, 0⟩
abbrev F.PROSC_DO_STATUS.HPD_IRQ (n : Nat) : Fld := ⟨R.PROSC_DO_STATUS n, 1, 1⟩
abbrev F.PROSC_DO_STATUS.CURTAIN_FAULT (n : Nat) : Fld := ⟨R.PROSC_DO_STATUS n, 2, 2⟩
abbrev F.PROSC_DO_STATUS.AUX_DONE (n : Nat) : Fld := ⟨R.PROSC_DO_STATUS n, 3, 3⟩
abbrev F.PROSC_DO_STATUS.HPD (n : Nat) : Fld := ⟨R.PROSC_DO_STATUS n, 4, 4⟩
/-- PROSC_DO_EVT0, 07_proscenium.md. -/
abbrev R.PROSC_DO_EVT0 (n : Nat) : Nat := 0x48002C + n * 0x100
abbrev F.PROSC_DO_EVT0.DEADLINE_EVT (n : Nat) : Fld := ⟨R.PROSC_DO_EVT0 n, 15, 0⟩
abbrev F.PROSC_DO_EVT0.HPD_IRQ_EVT (n : Nat) : Fld := ⟨R.PROSC_DO_EVT0 n, 31, 16⟩
/-- PROSC_DO_EVT1, 07_proscenium.md. -/
abbrev R.PROSC_DO_EVT1 (n : Nat) : Nat := 0x480030 + n * 0x100
abbrev F.PROSC_DO_EVT1.CURTAIN_FAULT_EVT (n : Nat) : Fld := ⟨R.PROSC_DO_EVT1 n, 15, 0⟩
abbrev F.PROSC_DO_EVT1.AUX_DONE_EVT (n : Nat) : Fld := ⟨R.PROSC_DO_EVT1 n, 31, 16⟩
/-- PROSC_DO_OUT_CRC, 07_proscenium.md. -/
abbrev R.PROSC_DO_OUT_CRC (n : Nat) : Nat := 0x480034 + n * 0x100
abbrev F.PROSC_DO_OUT_CRC.CRC (n : Nat) : Fld := ⟨R.PROSC_DO_OUT_CRC n, 31, 0⟩
/-- PROSC_DO_CURTAIN_CRC, 07_proscenium.md. -/
abbrev R.PROSC_DO_CURTAIN_CRC (n : Nat) : Nat := 0x480038 + n * 0x100
abbrev F.PROSC_DO_CURTAIN_CRC.CRC (n : Nat) : Fld := ⟨R.PROSC_DO_CURTAIN_CRC n, 31, 0⟩
/-- PROSC_DO_CURTAIN_CTRL, 07_proscenium.md. -/
abbrev R.PROSC_DO_CURTAIN_CTRL (n : Nat) : Nat := 0x480040 + n * 0x100
abbrev F.PROSC_DO_CURTAIN_CTRL.EN (n : Nat) : Fld := ⟨R.PROSC_DO_CURTAIN_CTRL n, 0, 0⟩
abbrev F.PROSC_DO_CURTAIN_CTRL.FMT (n : Nat) : Fld := ⟨R.PROSC_DO_CURTAIN_CTRL n, 3, 1⟩
abbrev F.PROSC_DO_CURTAIN_CTRL.LOCK (n : Nat) : Fld := ⟨R.PROSC_DO_CURTAIN_CTRL n, 4, 4⟩
abbrev F.PROSC_DO_CURTAIN_CTRL.CID (n : Nat) : Fld := ⟨R.PROSC_DO_CURTAIN_CTRL n, 25, 16⟩
/-- PROSC_DO_CURTAIN_POS, 07_proscenium.md. -/
abbrev R.PROSC_DO_CURTAIN_POS (n : Nat) : Nat := 0x480044 + n * 0x100
abbrev F.PROSC_DO_CURTAIN_POS.X (n : Nat) : Fld := ⟨R.PROSC_DO_CURTAIN_POS n, 15, 0⟩
abbrev F.PROSC_DO_CURTAIN_POS.Y (n : Nat) : Fld := ⟨R.PROSC_DO_CURTAIN_POS n, 31, 16⟩
/-- PROSC_DO_CURTAIN_SIZE, 07_proscenium.md. -/
abbrev R.PROSC_DO_CURTAIN_SIZE (n : Nat) : Nat := 0x480048 + n * 0x100
abbrev F.PROSC_DO_CURTAIN_SIZE.W (n : Nat) : Fld := ⟨R.PROSC_DO_CURTAIN_SIZE n, 15, 0⟩
abbrev F.PROSC_DO_CURTAIN_SIZE.H (n : Nat) : Fld := ⟨R.PROSC_DO_CURTAIN_SIZE n, 31, 16⟩
/-- PROSC_DO_CURTAIN_STRIDE, 07_proscenium.md. -/
abbrev R.PROSC_DO_CURTAIN_STRIDE (n : Nat) : Nat := 0x48004C + n * 0x100
abbrev F.PROSC_DO_CURTAIN_STRIDE.STRIDE (n : Nat) : Fld := ⟨R.PROSC_DO_CURTAIN_STRIDE n, 31, 0⟩
/-- PROSC_DO_CURTAIN_FALLBACK, 07_proscenium.md. -/
abbrev R.PROSC_DO_CURTAIN_FALLBACK (n : Nat) : Nat := 0x480050 + n * 0x100
abbrev F.PROSC_DO_CURTAIN_FALLBACK.FALLBACK (n : Nat) : Fld := ⟨R.PROSC_DO_CURTAIN_FALLBACK n, 29, 0⟩
/-- PROSC_DO_CURTAIN_ADDR_LO, 07_proscenium.md. -/
abbrev R.PROSC_DO_CURTAIN_ADDR_LO (n : Nat) : Nat := 0x480054 + n * 0x100
abbrev F.PROSC_DO_CURTAIN_ADDR_LO.ADDR (n : Nat) : Fld := ⟨R.PROSC_DO_CURTAIN_ADDR_LO n, 31, 0⟩
/-- PROSC_DO_CURTAIN_ADDR_HI, 07_proscenium.md. -/
abbrev R.PROSC_DO_CURTAIN_ADDR_HI (n : Nat) : Nat := 0x480058 + n * 0x100
abbrev F.PROSC_DO_CURTAIN_ADDR_HI.ADDR (n : Nat) : Fld := ⟨R.PROSC_DO_CURTAIN_ADDR_HI n, 15, 0⟩
/-- PROSC_DO_CURTAIN_FLIP, 07_proscenium.md. -/
abbrev R.PROSC_DO_CURTAIN_FLIP (n : Nat) : Nat := 0x48005C + n * 0x100
abbrev F.PROSC_DO_CURTAIN_FLIP.FLIP (n : Nat) : Fld := ⟨R.PROSC_DO_CURTAIN_FLIP n, 0, 0⟩
/-- PROSC_DO_MATRIX, 07_proscenium.md. -/
abbrev R.PROSC_DO_MATRIX (n : Nat) (k : Nat) : Nat := 0x480080 + n * 0x100 + k * 0x4
abbrev F.PROSC_DO_MATRIX.M (n : Nat) (k : Nat) : Fld := ⟨R.PROSC_DO_MATRIX n k, 31, 0⟩
/-- PROSC_DO_SIDE_CMD, 07_proscenium.md. -/
abbrev R.PROSC_DO_SIDE_CMD (n : Nat) : Nat := 0x4800C0 + n * 0x100
abbrev F.PROSC_DO_SIDE_CMD.KIND (n : Nat) : Fld := ⟨R.PROSC_DO_SIDE_CMD n, 3, 0⟩
abbrev F.PROSC_DO_SIDE_CMD.LEN (n : Nat) : Fld := ⟨R.PROSC_DO_SIDE_CMD n, 8, 4⟩
abbrev F.PROSC_DO_SIDE_CMD.ADDR (n : Nat) : Fld := ⟨R.PROSC_DO_SIDE_CMD n, 31, 12⟩
/-- PROSC_DO_SIDE_DATA, 07_proscenium.md. -/
abbrev R.PROSC_DO_SIDE_DATA (n : Nat) (k : Nat) : Nat := 0x4800C4 + n * 0x100 + k * 0x4
abbrev F.PROSC_DO_SIDE_DATA.DATA (n : Nat) (k : Nat) : Fld := ⟨R.PROSC_DO_SIDE_DATA n k, 31, 0⟩
/-- PROSC_DO_SIDE_STATUS, 07_proscenium.md. -/
abbrev R.PROSC_DO_SIDE_STATUS (n : Nat) : Nat := 0x4800D4 + n * 0x100
abbrev F.PROSC_DO_SIDE_STATUS.RESULT (n : Nat) : Fld := ⟨R.PROSC_DO_SIDE_STATUS n, 3, 0⟩
/-- PROSC_L_CTRL, 07_proscenium.md. -/
abbrev R.PROSC_L_CTRL (n : Nat) : Nat := 0x481000 + n * 0x40
abbrev F.PROSC_L_CTRL.EN (n : Nat) : Fld := ⟨R.PROSC_L_CTRL n, 0, 0⟩
abbrev F.PROSC_L_CTRL.OUTPUT (n : Nat) : Fld := ⟨R.PROSC_L_CTRL n, 2, 1⟩
abbrev F.PROSC_L_CTRL.ZORDER (n : Nat) : Fld := ⟨R.PROSC_L_CTRL n, 8, 4⟩
abbrev F.PROSC_L_CTRL.OWNER (n : Nat) : Fld := ⟨R.PROSC_L_CTRL n, 25, 16⟩
/-- PROSC_L_STATE, 07_proscenium.md. -/
abbrev R.PROSC_L_STATE (n : Nat) : Nat := 0x481004 + n * 0x40
abbrev F.PROSC_L_STATE.QUEUED (n : Nat) : Fld := ⟨R.PROSC_L_STATE n, 2, 0⟩
abbrev F.PROSC_L_STATE.LATCHED (n : Nat) : Fld := ⟨R.PROSC_L_STATE n, 3, 3⟩
/-- PROSC_L_STATUS, 07_proscenium.md. -/
abbrev R.PROSC_L_STATUS (n : Nat) : Nat := 0x481008 + n * 0x40
abbrev F.PROSC_L_STATUS.UNDERRUN (n : Nat) : Fld := ⟨R.PROSC_L_STATUS n, 0, 0⟩
abbrev F.PROSC_L_STATUS.REVOKED (n : Nat) : Fld := ⟨R.PROSC_L_STATUS n, 1, 1⟩
/-- PROSC_L_EVT, 07_proscenium.md. -/
abbrev R.PROSC_L_EVT (n : Nat) : Nat := 0x48100C + n * 0x40
abbrev F.PROSC_L_EVT.UNDERRUN_EVT (n : Nat) : Fld := ⟨R.PROSC_L_EVT n, 15, 0⟩
abbrev F.PROSC_L_EVT.REVOKED_EVT (n : Nat) : Fld := ⟨R.PROSC_L_EVT n, 31, 16⟩
/-- PROSC_L_BUF_LO, 07_proscenium.md. -/
abbrev R.PROSC_L_BUF_LO (n : Nat) : Nat := 0x481010 + n * 0x40
abbrev F.PROSC_L_BUF_LO.ADDR (n : Nat) : Fld := ⟨R.PROSC_L_BUF_LO n, 31, 0⟩
/-- PROSC_L_BUF_HI, 07_proscenium.md. -/
abbrev R.PROSC_L_BUF_HI (n : Nat) : Nat := 0x481014 + n * 0x40
abbrev F.PROSC_L_BUF_HI.ADDR (n : Nat) : Fld := ⟨R.PROSC_L_BUF_HI n, 15, 0⟩
/-- PROSC_MATRIX, 07_proscenium.md. -/
abbrev R.PROSC_MATRIX (n : Nat) (k : Nat) : Nat := 0x483000 + n * 0x40 + k * 0x4
abbrev F.PROSC_MATRIX.M (n : Nat) (k : Nat) : Fld := ⟨R.PROSC_MATRIX n k, 31, 0⟩
/-- PIT_CLK_STATUS, 05_the_pit.md. -/
abbrev R.PIT_CLK_STATUS : Nat := 0x500000
abbrev F.PIT_CLK_STATUS.XA_OK : Fld := ⟨R.PIT_CLK_STATUS, 0, 0⟩
abbrev F.PIT_CLK_STATUS.XB_OK : Fld := ⟨R.PIT_CLK_STATUS, 1, 1⟩
abbrev F.PIT_CLK_STATUS.ML4_ON_XB : Fld := ⟨R.PIT_CLK_STATUS, 2, 2⟩
abbrev F.PIT_CLK_STATUS.ML5_ON_XA : Fld := ⟨R.PIT_CLK_STATUS, 3, 3⟩
abbrev F.PIT_CLK_STATUS.FAILOVER : Fld := ⟨R.PIT_CLK_STATUS, 4, 4⟩
abbrev F.PIT_CLK_STATUS.FAILOVER_EVT : Fld := ⟨R.PIT_CLK_STATUS, 31, 16⟩
/-- PIT_CLK_CMD, 05_the_pit.md. -/
abbrev R.PIT_CLK_CMD : Nat := 0x500004
abbrev F.PIT_CLK_CMD.RESTORE : Fld := ⟨R.PIT_CLK_CMD, 0, 0⟩
/-- PIT_SAP_CFG, 05_the_pit.md. -/
abbrev R.PIT_SAP_CFG (k : Nat) : Nat := 0x500100 + k * 0x10
abbrev F.PIT_SAP_CFG.MODE (k : Nat) : Fld := ⟨R.PIT_SAP_CFG k, 1, 0⟩
abbrev F.PIT_SAP_CFG.ROLE (k : Nat) : Fld := ⟨R.PIT_SAP_CFG k, 2, 2⟩
abbrev F.PIT_SAP_CFG.FAMILY (k : Nat) : Fld := ⟨R.PIT_SAP_CFG k, 3, 3⟩
abbrev F.PIT_SAP_CFG.MULT (k : Nat) : Fld := ⟨R.PIT_SAP_CFG k, 5, 4⟩
abbrev F.PIT_SAP_CFG.SLOTS (k : Nat) : Fld := ⟨R.PIT_SAP_CFG k, 8, 6⟩
abbrev F.PIT_SAP_CFG.FS_SHAPE (k : Nat) : Fld := ⟨R.PIT_SAP_CFG k, 9, 9⟩
abbrev F.PIT_SAP_CFG.FS_POL (k : Nat) : Fld := ⟨R.PIT_SAP_CFG k, 10, 10⟩
abbrev F.PIT_SAP_CFG.DELAY (k : Nat) : Fld := ⟨R.PIT_SAP_CFG k, 11, 11⟩
abbrev F.PIT_SAP_CFG.BCLK_INV (k : Nat) : Fld := ⟨R.PIT_SAP_CFG k, 12, 12⟩
abbrev F.PIT_SAP_CFG.SYNC_SRC (k : Nat) : Fld := ⟨R.PIT_SAP_CFG k, 14, 13⟩
abbrev F.PIT_SAP_CFG.MCLK (k : Nat) : Fld := ⟨R.PIT_SAP_CFG k, 17, 16⟩
/-- PIT_SAP_STATUS, 05_the_pit.md. -/
abbrev R.PIT_SAP_STATUS (k : Nat) : Nat := 0x500104 + k * 0x10
abbrev F.PIT_SAP_STATUS.CLOCK_LOST (k : Nat) : Fld := ⟨R.PIT_SAP_STATUS k, 0, 0⟩
abbrev F.PIT_SAP_STATUS.CFG_REFUSED (k : Nat) : Fld := ⟨R.PIT_SAP_STATUS k, 1, 1⟩
abbrev F.PIT_SAP_STATUS.LOST (k : Nat) : Fld := ⟨R.PIT_SAP_STATUS k, 2, 2⟩
abbrev F.PIT_SAP_STATUS.CLOCK_LOST_EVT (k : Nat) : Fld := ⟨R.PIT_SAP_STATUS k, 31, 16⟩
/-- PIT_SAP_EVT, 05_the_pit.md. -/
abbrev R.PIT_SAP_EVT (k : Nat) : Nat := 0x500108 + k * 0x10
abbrev F.PIT_SAP_EVT.CFG_REFUSED_EVT (k : Nat) : Fld := ⟨R.PIT_SAP_EVT k, 15, 0⟩
/-- PIT_SAP_FRAME, 05_the_pit.md. -/
abbrev R.PIT_SAP_FRAME (k : Nat) : Nat := 0x50010C + k * 0x10
abbrev F.PIT_SAP_FRAME.FRAME (k : Nat) : Fld := ⟨R.PIT_SAP_FRAME k, 31, 0⟩
/-- PIT_CSI_CFG, 05_the_pit.md. -/
abbrev R.PIT_CSI_CFG (k : Nat) : Nat := 0x500200 + k * 0x10
abbrev F.PIT_CSI_CFG.EN (k : Nat) : Fld := ⟨R.PIT_CSI_CFG k, 0, 0⟩
abbrev F.PIT_CSI_CFG.LANES (k : Nat) : Fld := ⟨R.PIT_CSI_CFG k, 2, 1⟩
/-- PIT_CSI_STATUS, 05_the_pit.md. -/
abbrev R.PIT_CSI_STATUS (k : Nat) : Nat := 0x500204 + k * 0x10
abbrev F.PIT_CSI_STATUS.CRC_ERR (k : Nat) : Fld := ⟨R.PIT_CSI_STATUS k, 0, 0⟩
abbrev F.PIT_CSI_STATUS.LINE_LOST (k : Nat) : Fld := ⟨R.PIT_CSI_STATUS k, 1, 1⟩
abbrev F.PIT_CSI_STATUS.HDR_CORR (k : Nat) : Fld := ⟨R.PIT_CSI_STATUS k, 2, 2⟩
abbrev F.PIT_CSI_STATUS.CRC_ERR_EVT (k : Nat) : Fld := ⟨R.PIT_CSI_STATUS k, 31, 16⟩
/-- PIT_CSI_EVT, 05_the_pit.md. -/
abbrev R.PIT_CSI_EVT (k : Nat) : Nat := 0x500208 + k * 0x10
abbrev F.PIT_CSI_EVT.LINE_LOST_EVT (k : Nat) : Fld := ⟨R.PIT_CSI_EVT k, 15, 0⟩
abbrev F.PIT_CSI_EVT.HDR_CORR_EVT (k : Nat) : Fld := ⟨R.PIT_CSI_EVT k, 31, 16⟩
/-- PIT_CSI_FRAME, 05_the_pit.md. -/
abbrev R.PIT_CSI_FRAME (k : Nat) : Nat := 0x50020C + k * 0x10
abbrev F.PIT_CSI_FRAME.FRAMES (k : Nat) : Fld := ⟨R.PIT_CSI_FRAME k, 31, 0⟩
/-- PIT_S_CFG, 05_the_pit.md. -/
abbrev R.PIT_S_CFG (n : Nat) : Nat := 0x501000 + n * 0x100
abbrev F.PIT_S_CFG.PORT (n : Nat) : Fld := ⟨R.PIT_S_CFG n, 3, 0⟩
abbrev F.PIT_S_CFG.OUT_PORT (n : Nat) : Fld := ⟨R.PIT_S_CFG n, 5, 4⟩
abbrev F.PIT_S_CFG.OUT_EN (n : Nat) : Fld := ⟨R.PIT_S_CFG n, 6, 6⟩
abbrev F.PIT_S_CFG.FIRST_SLOT (n : Nat) : Fld := ⟨R.PIT_S_CFG n, 11, 7⟩
abbrev F.PIT_S_CFG.CHANNELS (n : Nat) : Fld := ⟨R.PIT_S_CFG n, 17, 12⟩
abbrev F.PIT_S_CFG.BLOCK (n : Nat) : Fld := ⟨R.PIT_S_CFG n, 20, 18⟩
abbrev F.PIT_S_CFG.FORMAT (n : Nat) : Fld := ⟨R.PIT_S_CFG n, 22, 21⟩
abbrev F.PIT_S_CFG.LAYOUT (n : Nat) : Fld := ⟨R.PIT_S_CFG n, 23, 23⟩
abbrev F.PIT_S_CFG.FILL (n : Nat) : Fld := ⟨R.PIT_S_CFG n, 24, 24⟩
abbrev F.PIT_S_CFG.PRIV (n : Nat) : Fld := ⟨R.PIT_S_CFG n, 25, 25⟩
abbrev F.PIT_S_CFG.FLOOR_OP (n : Nat) : Fld := ⟨R.PIT_S_CFG n, 28, 26⟩
/-- PIT_S_OWNER, 05_the_pit.md. -/
abbrev R.PIT_S_OWNER (n : Nat) : Nat := 0x501004 + n * 0x100
abbrev F.PIT_S_OWNER.CID (n : Nat) : Fld := ⟨R.PIT_S_OWNER n, 9, 0⟩
abbrev F.PIT_S_OWNER.PARTITION (n : Nat) : Fld := ⟨R.PIT_S_OWNER n, 14, 12⟩
abbrev F.PIT_S_OWNER.HOME_CORE (n : Nat) : Fld := ⟨R.PIT_S_OWNER n, 19, 16⟩
abbrev F.PIT_S_OWNER.OUT_SLOT (n : Nat) : Fld := ⟨R.PIT_S_OWNER n, 28, 24⟩
/-- PIT_S_VIDEO, 05_the_pit.md. -/
abbrev R.PIT_S_VIDEO (n : Nat) : Nat := 0x501008 + n * 0x100
abbrev F.PIT_S_VIDEO.LINE_BYTES (n : Nat) : Fld := ⟨R.PIT_S_VIDEO n, 15, 0⟩
abbrev F.PIT_S_VIDEO.DT (n : Nat) : Fld := ⟨R.PIT_S_VIDEO n, 21, 16⟩
abbrev F.PIT_S_VIDEO.VC (n : Nat) : Fld := ⟨R.PIT_S_VIDEO n, 23, 22⟩
/-- PIT_S_CMD, 05_the_pit.md. -/
abbrev R.PIT_S_CMD (n : Nat) : Nat := 0x50100C + n * 0x100
abbrev F.PIT_S_CMD.ARM (n : Nat) : Fld := ⟨R.PIT_S_CMD n, 0, 0⟩
abbrev F.PIT_S_CMD.DISARM (n : Nat) : Fld := ⟨R.PIT_S_CMD n, 1, 1⟩
/-- PIT_S_STATE, 05_the_pit.md. -/
abbrev R.PIT_S_STATE (n : Nat) : Nat := 0x501010 + n * 0x100
abbrev F.PIT_S_STATE.STATE (n : Nat) : Fld := ⟨R.PIT_S_STATE n, 2, 0⟩
abbrev F.PIT_S_STATE.GEN (n : Nat) : Fld := ⟨R.PIT_S_STATE n, 3, 3⟩
abbrev F.PIT_S_STATE.CODE (n : Nat) : Fld := ⟨R.PIT_S_STATE n, 31, 16⟩
/-- PIT_S_STATE_BYTES, 05_the_pit.md. -/
abbrev R.PIT_S_STATE_BYTES (n : Nat) : Nat := 0x501014 + n * 0x100
abbrev F.PIT_S_STATE_BYTES.STATE_BYTES (n : Nat) : Fld := ⟨R.PIT_S_STATE_BYTES n, 17, 0⟩
/-- PIT_S_CHAIN_BEATS, 05_the_pit.md. -/
abbrev R.PIT_S_CHAIN_BEATS (n : Nat) : Nat := 0x501018 + n * 0x100
abbrev F.PIT_S_CHAIN_BEATS.CHAIN_BEATS (n : Nat) : Fld := ⟨R.PIT_S_CHAIN_BEATS n, 31, 0⟩
/-- PIT_S_CRING_SIZE, 05_the_pit.md. -/
abbrev R.PIT_S_CRING_SIZE (n : Nat) : Nat := 0x50101C + n * 0x100
abbrev F.PIT_S_CRING_SIZE.CRING_LOG2 (n : Nat) : Fld := ⟨R.PIT_S_CRING_SIZE n, 3, 0⟩
/-- PIT_S_IN0_LO, 05_the_pit.md. -/
abbrev R.PIT_S_IN0_LO (n : Nat) : Nat := 0x501020 + n * 0x100
abbrev F.PIT_S_IN0_LO.ADDR (n : Nat) : Fld := ⟨R.PIT_S_IN0_LO n, 31, 0⟩
/-- PIT_S_IN0_HI, 05_the_pit.md. -/
abbrev R.PIT_S_IN0_HI (n : Nat) : Nat := 0x501024 + n * 0x100
abbrev F.PIT_S_IN0_HI.ADDR (n : Nat) : Fld := ⟨R.PIT_S_IN0_HI n, 15, 0⟩
/-- PIT_S_IN1_LO, 05_the_pit.md. -/
abbrev R.PIT_S_IN1_LO (n : Nat) : Nat := 0x501028 + n * 0x100
abbrev F.PIT_S_IN1_LO.ADDR (n : Nat) : Fld := ⟨R.PIT_S_IN1_LO n, 31, 0⟩
/-- PIT_S_IN1_HI, 05_the_pit.md. -/
abbrev R.PIT_S_IN1_HI (n : Nat) : Nat := 0x50102C + n * 0x100
abbrev F.PIT_S_IN1_HI.ADDR (n : Nat) : Fld := ⟨R.PIT_S_IN1_HI n, 15, 0⟩
/-- PIT_S_OUT0_LO, 05_the_pit.md. -/
abbrev R.PIT_S_OUT0_LO (n : Nat) : Nat := 0x501030 + n * 0x100
abbrev F.PIT_S_OUT0_LO.ADDR (n : Nat) : Fld := ⟨R.PIT_S_OUT0_LO n, 31, 0⟩
/-- PIT_S_OUT0_HI, 05_the_pit.md. -/
abbrev R.PIT_S_OUT0_HI (n : Nat) : Nat := 0x501034 + n * 0x100
abbrev F.PIT_S_OUT0_HI.ADDR (n : Nat) : Fld := ⟨R.PIT_S_OUT0_HI n, 15, 0⟩
/-- PIT_S_OUT1_LO, 05_the_pit.md. -/
abbrev R.PIT_S_OUT1_LO (n : Nat) : Nat := 0x501038 + n * 0x100
abbrev F.PIT_S_OUT1_LO.ADDR (n : Nat) : Fld := ⟨R.PIT_S_OUT1_LO n, 31, 0⟩
/-- PIT_S_OUT1_HI, 05_the_pit.md. -/
abbrev R.PIT_S_OUT1_HI (n : Nat) : Nat := 0x50103C + n * 0x100
abbrev F.PIT_S_OUT1_HI.ADDR (n : Nat) : Fld := ⟨R.PIT_S_OUT1_HI n, 15, 0⟩
/-- PIT_S_STATE0_LO, 05_the_pit.md. -/
abbrev R.PIT_S_STATE0_LO (n : Nat) : Nat := 0x501040 + n * 0x100
abbrev F.PIT_S_STATE0_LO.ADDR (n : Nat) : Fld := ⟨R.PIT_S_STATE0_LO n, 31, 0⟩
/-- PIT_S_STATE0_HI, 05_the_pit.md. -/
abbrev R.PIT_S_STATE0_HI (n : Nat) : Nat := 0x501044 + n * 0x100
abbrev F.PIT_S_STATE0_HI.ADDR (n : Nat) : Fld := ⟨R.PIT_S_STATE0_HI n, 15, 0⟩
/-- PIT_S_STATE1_LO, 05_the_pit.md. -/
abbrev R.PIT_S_STATE1_LO (n : Nat) : Nat := 0x501048 + n * 0x100
abbrev F.PIT_S_STATE1_LO.ADDR (n : Nat) : Fld := ⟨R.PIT_S_STATE1_LO n, 31, 0⟩
/-- PIT_S_STATE1_HI, 05_the_pit.md. -/
abbrev R.PIT_S_STATE1_HI (n : Nat) : Nat := 0x50104C + n * 0x100
abbrev F.PIT_S_STATE1_HI.ADDR (n : Nat) : Fld := ⟨R.PIT_S_STATE1_HI n, 15, 0⟩
/-- PIT_S_CHAIN0_LO, 05_the_pit.md. -/
abbrev R.PIT_S_CHAIN0_LO (n : Nat) : Nat := 0x501050 + n * 0x100
abbrev F.PIT_S_CHAIN0_LO.ADDR (n : Nat) : Fld := ⟨R.PIT_S_CHAIN0_LO n, 31, 0⟩
/-- PIT_S_CHAIN0_HI, 05_the_pit.md. -/
abbrev R.PIT_S_CHAIN0_HI (n : Nat) : Nat := 0x501054 + n * 0x100
abbrev F.PIT_S_CHAIN0_HI.ADDR (n : Nat) : Fld := ⟨R.PIT_S_CHAIN0_HI n, 15, 0⟩
/-- PIT_S_CHAIN1_LO, 05_the_pit.md. -/
abbrev R.PIT_S_CHAIN1_LO (n : Nat) : Nat := 0x501058 + n * 0x100
abbrev F.PIT_S_CHAIN1_LO.ADDR (n : Nat) : Fld := ⟨R.PIT_S_CHAIN1_LO n, 31, 0⟩
/-- PIT_S_CHAIN1_HI, 05_the_pit.md. -/
abbrev R.PIT_S_CHAIN1_HI (n : Nat) : Nat := 0x50105C + n * 0x100
abbrev F.PIT_S_CHAIN1_HI.ADDR (n : Nat) : Fld := ⟨R.PIT_S_CHAIN1_HI n, 15, 0⟩
/-- PIT_S_INFO_LO, 05_the_pit.md. -/
abbrev R.PIT_S_INFO_LO (n : Nat) : Nat := 0x501060 + n * 0x100
abbrev F.PIT_S_INFO_LO.ADDR (n : Nat) : Fld := ⟨R.PIT_S_INFO_LO n, 31, 0⟩
/-- PIT_S_INFO_HI, 05_the_pit.md. -/
abbrev R.PIT_S_INFO_HI (n : Nat) : Nat := 0x501064 + n * 0x100
abbrev F.PIT_S_INFO_HI.ADDR (n : Nat) : Fld := ⟨R.PIT_S_INFO_HI n, 15, 0⟩
/-- PIT_S_CRING_LO, 05_the_pit.md. -/
abbrev R.PIT_S_CRING_LO (n : Nat) : Nat := 0x501068 + n * 0x100
abbrev F.PIT_S_CRING_LO.ADDR (n : Nat) : Fld := ⟨R.PIT_S_CRING_LO n, 31, 0⟩
/-- PIT_S_CRING_HI, 05_the_pit.md. -/
abbrev R.PIT_S_CRING_HI (n : Nat) : Nat := 0x50106C + n * 0x100
abbrev F.PIT_S_CRING_HI.ADDR (n : Nat) : Fld := ⟨R.PIT_S_CRING_HI n, 15, 0⟩
/-- PIT_S_CRING_WR, 05_the_pit.md. -/
abbrev R.PIT_S_CRING_WR (n : Nat) : Nat := 0x501070 + n * 0x100
abbrev F.PIT_S_CRING_WR.CRING_WR (n : Nat) : Fld := ⟨R.PIT_S_CRING_WR n, 31, 0⟩
/-- PIT_S_BLOCK_LO, 05_the_pit.md. -/
abbrev R.PIT_S_BLOCK_LO (n : Nat) : Nat := 0x501074 + n * 0x100
abbrev F.PIT_S_BLOCK_LO.BLOCK (n : Nat) : Fld := ⟨R.PIT_S_BLOCK_LO n, 31, 0⟩
/-- PIT_S_BLOCK_HI, 05_the_pit.md. -/
abbrev R.PIT_S_BLOCK_HI (n : Nat) : Nat := 0x501078 + n * 0x100
abbrev F.PIT_S_BLOCK_HI.BLOCK (n : Nat) : Fld := ⟨R.PIT_S_BLOCK_HI n, 31, 0⟩
/-- PIT_S_PEAK, 05_the_pit.md. -/
abbrev R.PIT_S_PEAK (n : Nat) : Nat := 0x50107C + n * 0x100
abbrev F.PIT_S_PEAK.PEAK_BEATS (n : Nat) : Fld := ⟨R.PIT_S_PEAK n, 31, 0⟩
/-- PIT_S_STATUS, 05_the_pit.md. -/
abbrev R.PIT_S_STATUS (n : Nat) : Nat := 0x501080 + n * 0x100
abbrev F.PIT_S_STATUS.DEADLINE (n : Nat) : Fld := ⟨R.PIT_S_STATUS n, 0, 0⟩
abbrev F.PIT_S_STATUS.UNDERRUN (n : Nat) : Fld := ⟨R.PIT_S_STATUS n, 1, 1⟩
abbrev F.PIT_S_STATUS.REPLAYED (n : Nat) : Fld := ⟨R.PIT_S_STATUS n, 2, 2⟩
abbrev F.PIT_S_STATUS.FAULTED (n : Nat) : Fld := ⟨R.PIT_S_STATUS n, 3, 3⟩
abbrev F.PIT_S_STATUS.ARM_REFUSED (n : Nat) : Fld := ⟨R.PIT_S_STATUS n, 4, 4⟩
abbrev F.PIT_S_STATUS.CFG_REFUSED (n : Nat) : Fld := ⟨R.PIT_S_STATUS n, 5, 5⟩
/-- PIT_S_EVT0, 05_the_pit.md. -/
abbrev R.PIT_S_EVT0 (n : Nat) : Nat := 0x501084 + n * 0x100
abbrev F.PIT_S_EVT0.DEADLINE_EVT (n : Nat) : Fld := ⟨R.PIT_S_EVT0 n, 15, 0⟩
abbrev F.PIT_S_EVT0.UNDERRUN_EVT (n : Nat) : Fld := ⟨R.PIT_S_EVT0 n, 31, 16⟩
/-- PIT_S_EVT1, 05_the_pit.md. -/
abbrev R.PIT_S_EVT1 (n : Nat) : Nat := 0x501088 + n * 0x100
abbrev F.PIT_S_EVT1.REPLAYED_EVT (n : Nat) : Fld := ⟨R.PIT_S_EVT1 n, 15, 0⟩
abbrev F.PIT_S_EVT1.FAULTED_EVT (n : Nat) : Fld := ⟨R.PIT_S_EVT1 n, 31, 16⟩
/-- PIT_S_EVT2, 05_the_pit.md. -/
abbrev R.PIT_S_EVT2 (n : Nat) : Nat := 0x50108C + n * 0x100
abbrev F.PIT_S_EVT2.ARM_REFUSED_EVT (n : Nat) : Fld := ⟨R.PIT_S_EVT2 n, 15, 0⟩
abbrev F.PIT_S_EVT2.CFG_REFUSED_EVT (n : Nat) : Fld := ⟨R.PIT_S_EVT2 n, 31, 16⟩
/-- UL_SELF, 12_umram_link.md. -/
abbrev R.UL_SELF : Nat := 0x580000
abbrev F.UL_SELF.UNIT : Fld := ⟨R.UL_SELF, 23, 0⟩
abbrev F.UL_SELF.DEPTH : Fld := ⟨R.UL_SELF, 26, 24⟩
abbrev F.UL_SELF.HEAD : Fld := ⟨R.UL_SELF, 28, 28⟩
abbrev F.UL_SELF.GATEWAY : Fld := ⟨R.UL_SELF, 30, 29⟩
abbrev F.UL_SELF.ADDR_DONE : Fld := ⟨R.UL_SELF, 31, 31⟩
/-- UL_RING, 12_umram_link.md. -/
abbrev R.UL_RING : Nat := 0x580004
abbrev F.UL_RING.SIZE : Fld := ⟨R.UL_RING, 3, 0⟩
abbrev F.UL_RING.OPEN : Fld := ⟨R.UL_RING, 4, 4⟩
abbrev F.UL_RING.UP_SIZE : Fld := ⟨R.UL_RING, 11, 8⟩
abbrev F.UL_RING.UP_OPEN : Fld := ⟨R.UL_RING, 12, 12⟩
/-- UL_STATUS, 12_umram_link.md. -/
abbrev R.UL_STATUS : Nat := 0x580008
abbrev F.UL_STATUS.LANE_FAIL : Fld := ⟨R.UL_STATUS, 0, 0⟩
abbrev F.UL_STATUS.PORT_DOWN : Fld := ⟨R.UL_STATUS, 1, 1⟩
abbrev F.UL_STATUS.PORT_UP : Fld := ⟨R.UL_STATUS, 2, 2⟩
abbrev F.UL_STATUS.TOPO_ERR : Fld := ⟨R.UL_STATUS, 3, 3⟩
abbrev F.UL_STATUS.HEAD_CONFLICT : Fld := ⟨R.UL_STATUS, 4, 4⟩
abbrev F.UL_STATUS.UNREACH : Fld := ⟨R.UL_STATUS, 5, 5⟩
abbrev F.UL_STATUS.ER_REFUSED : Fld := ⟨R.UL_STATUS, 6, 6⟩
abbrev F.UL_STATUS.CODE : Fld := ⟨R.UL_STATUS, 31, 16⟩
/-- UL_EVT0, 12_umram_link.md. -/
abbrev R.UL_EVT0 : Nat := 0x58000C
abbrev F.UL_EVT0.LANE_FAIL_EVT : Fld := ⟨R.UL_EVT0, 15, 0⟩
abbrev F.UL_EVT0.PORT_DOWN_EVT : Fld := ⟨R.UL_EVT0, 31, 16⟩
/-- UL_EVT1, 12_umram_link.md. -/
abbrev R.UL_EVT1 : Nat := 0x580010
abbrev F.UL_EVT1.PORT_UP_EVT : Fld := ⟨R.UL_EVT1, 15, 0⟩
abbrev F.UL_EVT1.TOPO_ERR_EVT : Fld := ⟨R.UL_EVT1, 31, 16⟩
/-- UL_EVT2, 12_umram_link.md. -/
abbrev R.UL_EVT2 : Nat := 0x580014
abbrev F.UL_EVT2.HEAD_CONFLICT_EVT : Fld := ⟨R.UL_EVT2, 15, 0⟩
abbrev F.UL_EVT2.UNREACH_EVT : Fld := ⟨R.UL_EVT2, 31, 16⟩
/-- UL_EVT3, 12_umram_link.md. -/
abbrev R.UL_EVT3 : Nat := 0x580018
abbrev F.UL_EVT3.ER_REFUSED_EVT : Fld := ⟨R.UL_EVT3, 15, 0⟩
/-- UL_CMD, 12_umram_link.md. -/
abbrev R.UL_CMD : Nat := 0x580020
abbrev F.UL_CMD.RETRAIN : Fld := ⟨R.UL_CMD, 2, 0⟩
/-- UL_TOK_SENT, 12_umram_link.md. -/
abbrev R.UL_TOK_SENT : Nat := 0x580030
abbrev F.UL_TOK_SENT.COUNT : Fld := ⟨R.UL_TOK_SENT, 31, 0⟩
/-- UL_TOK_DELIVERED, 12_umram_link.md. -/
abbrev R.UL_TOK_DELIVERED : Nat := 0x580034
abbrev F.UL_TOK_DELIVERED.COUNT : Fld := ⟨R.UL_TOK_DELIVERED, 31, 0⟩
/-- UL_TOK_REFUSED, 12_umram_link.md. -/
abbrev R.UL_TOK_REFUSED : Nat := 0x580038
abbrev F.UL_TOK_REFUSED.COUNT : Fld := ⟨R.UL_TOK_REFUSED, 31, 0⟩
/-- UL_DUP_DROPPED, 12_umram_link.md. -/
abbrev R.UL_DUP_DROPPED : Nat := 0x58003C
abbrev F.UL_DUP_DROPPED.COUNT : Fld := ⟨R.UL_DUP_DROPPED, 31, 0⟩
/-- UL_P_CFG, 12_umram_link.md. -/
abbrev R.UL_P_CFG (k : Nat) : Nat := 0x580100 + k * 0x20
abbrev F.UL_P_CFG.EN (k : Nat) : Fld := ⟨R.UL_P_CFG k, 0, 0⟩
abbrev F.UL_P_CFG.RATE (k : Nat) : Fld := ⟨R.UL_P_CFG k, 1, 1⟩
abbrev F.UL_P_CFG.LANE_ERR_LIMIT (k : Nat) : Fld := ⟨R.UL_P_CFG k, 15, 8⟩
/-- UL_P_STATE, 12_umram_link.md. -/
abbrev R.UL_P_STATE (k : Nat) : Nat := 0x580104 + k * 0x20
abbrev F.UL_P_STATE.STATE (k : Nat) : Fld := ⟨R.UL_P_STATE k, 2, 0⟩
abbrev F.UL_P_STATE.LANES_OK (k : Nat) : Fld := ⟨R.UL_P_STATE k, 7, 4⟩
abbrev F.UL_P_STATE.PEER_KIND (k : Nat) : Fld := ⟨R.UL_P_STATE k, 9, 8⟩
abbrev F.UL_P_STATE.REVERSED (k : Nat) : Fld := ⟨R.UL_P_STATE k, 10, 10⟩
/-- UL_P_CRC_ERR, 12_umram_link.md. -/
abbrev R.UL_P_CRC_ERR (k : Nat) : Nat := 0x580108 + k * 0x20
abbrev F.UL_P_CRC_ERR.COUNT (k : Nat) : Fld := ⟨R.UL_P_CRC_ERR k, 31, 0⟩
/-- UL_P_REPLAY, 12_umram_link.md. -/
abbrev R.UL_P_REPLAY (k : Nat) : Nat := 0x58010C + k * 0x20
abbrev F.UL_P_REPLAY.COUNT (k : Nat) : Fld := ⟨R.UL_P_REPLAY k, 31, 0⟩
/-- UL_P_TX_FLITS_LO, 12_umram_link.md. -/
abbrev R.UL_P_TX_FLITS_LO (k : Nat) : Nat := 0x580110 + k * 0x20
abbrev F.UL_P_TX_FLITS_LO.COUNT (k : Nat) : Fld := ⟨R.UL_P_TX_FLITS_LO k, 31, 0⟩
/-- UL_P_TX_FLITS_HI, 12_umram_link.md. -/
abbrev R.UL_P_TX_FLITS_HI (k : Nat) : Nat := 0x580114 + k * 0x20
abbrev F.UL_P_TX_FLITS_HI.COUNT (k : Nat) : Fld := ⟨R.UL_P_TX_FLITS_HI k, 31, 0⟩
/-- UL_P_TRAIN_FAIL, 12_umram_link.md. -/
abbrev R.UL_P_TRAIN_FAIL (k : Nat) : Nat := 0x580118 + k * 0x20
abbrev F.UL_P_TRAIN_FAIL.COUNT (k : Nat) : Fld := ⟨R.UL_P_TRAIN_FAIL k, 31, 0⟩
/-- UL_P_CREDITS, 12_umram_link.md. -/
abbrev R.UL_P_CREDITS (k : Nat) : Nat := 0x580200 + k * 0x4
abbrev F.UL_P_CREDITS.CREDITS (k : Nat) : Fld := ⟨R.UL_P_CREDITS k, 9, 0⟩
/-- UL_P_CRED_USED, 12_umram_link.md. -/
abbrev R.UL_P_CRED_USED (k : Nat) : Nat := 0x580220 + k * 0x4
abbrev F.UL_P_CRED_USED.IN_USE (k : Nat) : Fld := ⟨R.UL_P_CRED_USED k, 9, 0⟩
/-- UL_RACC_UNIT, 12_umram_link.md. -/
abbrev R.UL_RACC_UNIT : Nat := 0x580300
abbrev F.UL_RACC_UNIT.UNIT : Fld := ⟨R.UL_RACC_UNIT, 23, 0⟩
abbrev F.UL_RACC_UNIT.DEPTH : Fld := ⟨R.UL_RACC_UNIT, 26, 24⟩
/-- UL_RACC_OFF, 12_umram_link.md. -/
abbrev R.UL_RACC_OFF : Nat := 0x580304
abbrev F.UL_RACC_OFF.OFF : Fld := ⟨R.UL_RACC_OFF, 23, 2⟩
/-- UL_RACC_DATA, 12_umram_link.md. -/
abbrev R.UL_RACC_DATA : Nat := 0x580308
abbrev F.UL_RACC_DATA.DATA : Fld := ⟨R.UL_RACC_DATA, 31, 0⟩
/-- UL_RACC_CMD, 12_umram_link.md. -/
abbrev R.UL_RACC_CMD : Nat := 0x58030C
abbrev F.UL_RACC_CMD.OP : Fld := ⟨R.UL_RACC_CMD, 1, 0⟩
/-- UL_RACC_STATUS, 12_umram_link.md. -/
abbrev R.UL_RACC_STATUS : Nat := 0x580310
abbrev F.UL_RACC_STATUS.BUSY : Fld := ⟨R.UL_RACC_STATUS, 0, 0⟩
abbrev F.UL_RACC_STATUS.RESULT : Fld := ⟨R.UL_RACC_STATUS, 31, 16⟩
/-- UL_ER_CFG, 12_umram_link.md. -/
abbrev R.UL_ER_CFG (k : Nat) : Nat := 0x581000 + k * 0x20
abbrev F.UL_ER_CFG.EN (k : Nat) : Fld := ⟨R.UL_ER_CFG k, 0, 0⟩
abbrev F.UL_ER_CFG.COUNT_LOG2 (k : Nat) : Fld := ⟨R.UL_ER_CFG k, 7, 4⟩
abbrev F.UL_ER_CFG.SLOT_LOG2 (k : Nat) : Fld := ⟨R.UL_ER_CFG k, 11, 8⟩
abbrev F.UL_ER_CFG.CID (k : Nat) : Fld := ⟨R.UL_ER_CFG k, 25, 16⟩
/-- UL_ER_FENCE, 12_umram_link.md. -/
abbrev R.UL_ER_FENCE (k : Nat) : Nat := 0x581004 + k * 0x20
abbrev F.UL_ER_FENCE.FENCE (k : Nat) : Fld := ⟨R.UL_ER_FENCE k, 15, 0⟩
/-- UL_ER_BASE_LO, 12_umram_link.md. -/
abbrev R.UL_ER_BASE_LO (k : Nat) : Nat := 0x581008 + k * 0x20
abbrev F.UL_ER_BASE_LO.ADDR (k : Nat) : Fld := ⟨R.UL_ER_BASE_LO k, 31, 0⟩
/-- UL_ER_BASE_HI, 12_umram_link.md. -/
abbrev R.UL_ER_BASE_HI (k : Nat) : Nat := 0x58100C + k * 0x20
abbrev F.UL_ER_BASE_HI.ADDR (k : Nat) : Fld := ⟨R.UL_ER_BASE_HI k, 15, 0⟩
/-- UL_ER_RD_LO, 12_umram_link.md. -/
abbrev R.UL_ER_RD_LO (k : Nat) : Nat := 0x581010 + k * 0x20
abbrev F.UL_ER_RD_LO.ADDR (k : Nat) : Fld := ⟨R.UL_ER_RD_LO k, 31, 0⟩
/-- UL_ER_RD_HI, 12_umram_link.md. -/
abbrev R.UL_ER_RD_HI (k : Nat) : Nat := 0x581014 + k * 0x20
abbrev F.UL_ER_RD_HI.ADDR (k : Nat) : Fld := ⟨R.UL_ER_RD_HI k, 15, 0⟩
/-- UL_ER_WR, 12_umram_link.md. -/
abbrev R.UL_ER_WR (k : Nat) : Nat := 0x581018 + k * 0x20
abbrev F.UL_ER_WR.WR (k : Nat) : Fld := ⟨R.UL_ER_WR k, 31, 0⟩
/-- UL_ER_STATUS, 12_umram_link.md. -/
abbrev R.UL_ER_STATUS (k : Nat) : Nat := 0x58101C + k * 0x20
abbrev F.UL_ER_STATUS.FULL (k : Nat) : Fld := ⟨R.UL_ER_STATUS k, 0, 0⟩
abbrev F.UL_ER_STATUS.FULL_EVT (k : Nat) : Fld := ⟨R.UL_ER_STATUS k, 31, 16⟩
/-- UL_DIR_LO, 12_umram_link.md. -/
abbrev R.UL_DIR_LO (k : Nat) : Nat := 0x588000 + k * 0x8
abbrev F.UL_DIR_LO.ENTRY (k : Nat) : Fld := ⟨R.UL_DIR_LO k, 31, 0⟩
/-- UL_DIR_HI, 12_umram_link.md. -/
abbrev R.UL_DIR_HI (k : Nat) : Nat := 0x588004 + k * 0x8
abbrev F.UL_DIR_HI.ENTRY (k : Nat) : Fld := ⟨R.UL_DIR_HI k, 31, 0⟩
/-- XFER_E_STATUS, 13_compression.md. -/
abbrev R.XFER_E_STATUS (n : Nat) : Nat := 0x600000 + n * 0x20
abbrev F.XFER_E_STATUS.BUSY (n : Nat) : Fld := ⟨R.XFER_E_STATUS n, 0, 0⟩
abbrev F.XFER_E_STATUS.OP (n : Nat) : Fld := ⟨R.XFER_E_STATUS n, 1, 1⟩
abbrev F.XFER_E_STATUS.LEVEL (n : Nat) : Fld := ⟨R.XFER_E_STATUS n, 7, 4⟩
abbrev F.XFER_E_STATUS.CID (n : Nat) : Fld := ⟨R.XFER_E_STATUS n, 25, 16⟩
/-- XFER_E_BLOCK, 13_compression.md. -/
abbrev R.XFER_E_BLOCK (n : Nat) : Nat := 0x600004 + n * 0x20
abbrev F.XFER_E_BLOCK.BLOCK (n : Nat) : Fld := ⟨R.XFER_E_BLOCK n, 8, 0⟩
/-- XFER_E_EVENT, 13_compression.md. -/
abbrev R.XFER_E_EVENT (n : Nat) : Nat := 0x600008 + n * 0x20
abbrev F.XFER_E_EVENT.FORMAT_ERR (n : Nat) : Fld := ⟨R.XFER_E_EVENT n, 0, 0⟩
abbrev F.XFER_E_EVENT.CHECK_ERR (n : Nat) : Fld := ⟨R.XFER_E_EVENT n, 1, 1⟩
abbrev F.XFER_E_EVENT.NO_SPACE (n : Nat) : Fld := ⟨R.XFER_E_EVENT n, 2, 2⟩
/-- XFER_E_EVT0, 13_compression.md. -/
abbrev R.XFER_E_EVT0 (n : Nat) : Nat := 0x60000C + n * 0x20
abbrev F.XFER_E_EVT0.FORMAT_ERR_EVT (n : Nat) : Fld := ⟨R.XFER_E_EVT0 n, 15, 0⟩
abbrev F.XFER_E_EVT0.CHECK_ERR_EVT (n : Nat) : Fld := ⟨R.XFER_E_EVT0 n, 31, 16⟩
/-- XFER_E_EVT1, 13_compression.md. -/
abbrev R.XFER_E_EVT1 (n : Nat) : Nat := 0x600010 + n * 0x20
abbrev F.XFER_E_EVT1.NO_SPACE_EVT (n : Nat) : Fld := ⟨R.XFER_E_EVT1 n, 15, 0⟩
/-- XFER_E_CBLOCKS, 13_compression.md. -/
abbrev R.XFER_E_CBLOCKS (n : Nat) : Nat := 0x600014 + n * 0x20
abbrev F.XFER_E_CBLOCKS.COUNT (n : Nat) : Fld := ⟨R.XFER_E_CBLOCKS n, 31, 0⟩
/-- XFER_E_DBLOCKS, 13_compression.md. -/
abbrev R.XFER_E_DBLOCKS (n : Nat) : Nat := 0x600018 + n * 0x20
abbrev F.XFER_E_DBLOCKS.COUNT (n : Nat) : Fld := ⟨R.XFER_E_DBLOCKS n, 31, 0⟩
/-- XFER_E_STORED, 13_compression.md. -/
abbrev R.XFER_E_STORED (n : Nat) : Nat := 0x60001C + n * 0x20
abbrev F.XFER_E_STORED.COUNT (n : Nat) : Fld := ⟨R.XFER_E_STORED n, 31, 0⟩
/-- MEMC_CFG, 18_register_map.md. -/
abbrev R.MEMC_CFG : Nat := 0x680000
abbrev F.MEMC_CFG.GIB : Fld := ⟨R.MEMC_CFG, 5, 0⟩
abbrev F.MEMC_CFG.CH_MASK : Fld := ⟨R.MEMC_CFG, 11, 8⟩
abbrev F.MEMC_CFG.MTS : Fld := ⟨R.MEMC_CFG, 31, 16⟩
/-- MEMC_STATE, 18_register_map.md. -/
abbrev R.MEMC_STATE : Nat := 0x680004
abbrev F.MEMC_STATE.TRAINED : Fld := ⟨R.MEMC_STATE, 0, 0⟩
abbrev F.MEMC_STATE.SELF_REFRESH : Fld := ⟨R.MEMC_STATE, 1, 1⟩
abbrev F.MEMC_STATE.SWITCHING : Fld := ⟨R.MEMC_STATE, 2, 2⟩
/-- MEMC_ECC_CE_COUNT, 18_register_map.md. -/
abbrev R.MEMC_ECC_CE_COUNT : Nat := 0x680008
abbrev F.MEMC_ECC_CE_COUNT.COUNT : Fld := ⟨R.MEMC_ECC_CE_COUNT, 31, 0⟩
/-- MEMC_ECC_UE_COUNT, 18_register_map.md. -/
abbrev R.MEMC_ECC_UE_COUNT : Nat := 0x68000C
abbrev F.MEMC_ECC_UE_COUNT.COUNT : Fld := ⟨R.MEMC_ECC_UE_COUNT, 31, 0⟩
/-- MEMC_ECC_STATUS, 18_register_map.md. -/
abbrev R.MEMC_ECC_STATUS : Nat := 0x680010
abbrev F.MEMC_ECC_STATUS.CE : Fld := ⟨R.MEMC_ECC_STATUS, 0, 0⟩
abbrev F.MEMC_ECC_STATUS.UE : Fld := ⟨R.MEMC_ECC_STATUS, 1, 1⟩
/-- MEMC_ECC_EVT, 18_register_map.md. -/
abbrev R.MEMC_ECC_EVT : Nat := 0x680014
abbrev F.MEMC_ECC_EVT.CE_EVT : Fld := ⟨R.MEMC_ECC_EVT, 15, 0⟩
abbrev F.MEMC_ECC_EVT.UE_EVT : Fld := ⟨R.MEMC_ECC_EVT, 31, 16⟩
/-- MEMC_ECC_ADDR_LO, 18_register_map.md. -/
abbrev R.MEMC_ECC_ADDR_LO : Nat := 0x680018
abbrev F.MEMC_ECC_ADDR_LO.ADDR : Fld := ⟨R.MEMC_ECC_ADDR_LO, 31, 0⟩
/-- MEMC_ECC_ADDR_HI, 18_register_map.md. -/
abbrev R.MEMC_ECC_ADDR_HI : Nat := 0x68001C
abbrev F.MEMC_ECC_ADDR_HI.ADDR : Fld := ⟨R.MEMC_ECC_ADDR_HI, 15, 0⟩
/-- MEMC_SCRUB_INTERVAL, 18_register_map.md. -/
abbrev R.MEMC_SCRUB_INTERVAL : Nat := 0x680020
abbrev F.MEMC_SCRUB_INTERVAL.INTERVAL : Fld := ⟨R.MEMC_SCRUB_INTERVAL, 15, 0⟩
/-- TEST_RT_CFG, 16_rehearsal_and_show_report.md. -/
abbrev R.TEST_RT_CFG : Nat := 0x700000
abbrev F.TEST_RT_CFG.EN : Fld := ⟨R.TEST_RT_CFG, 0, 0⟩
abbrev F.TEST_RT_CFG.ALL : Fld := ⟨R.TEST_RT_CFG, 1, 1⟩
abbrev F.TEST_RT_CFG.PIT_EN : Fld := ⟨R.TEST_RT_CFG, 2, 2⟩
abbrev F.TEST_RT_CFG.CURTAIN_EN : Fld := ⟨R.TEST_RT_CFG, 3, 3⟩
abbrev F.TEST_RT_CFG.TRANSIENT_LIMIT : Fld := ⟨R.TEST_RT_CFG, 5, 4⟩
abbrev F.TEST_RT_CFG.EXP_VALID : Fld := ⟨R.TEST_RT_CFG, 10, 8⟩
abbrev F.TEST_RT_CFG.PERIOD : Fld := ⟨R.TEST_RT_CFG, 31, 16⟩
/-- TEST_RT_STATE, 16_rehearsal_and_show_report.md. -/
abbrev R.TEST_RT_STATE : Nat := 0x700004
abbrev F.TEST_RT_STATE.PHASE : Fld := ⟨R.TEST_RT_STATE, 1, 0⟩
abbrev F.TEST_RT_STATE.PCORE : Fld := ⟨R.TEST_RT_STATE, 12, 8⟩
abbrev F.TEST_RT_STATE.LOGICAL : Fld := ⟨R.TEST_RT_STATE, 19, 16⟩
abbrev F.TEST_RT_STATE.UNDERSTUDY : Fld := ⟨R.TEST_RT_STATE, 28, 24⟩
/-- TEST_EVENT, 16_rehearsal_and_show_report.md. -/
abbrev R.TEST_EVENT : Nat := 0x700008
abbrev F.TEST_EVENT.RT_CORE_FAIL : Fld := ⟨R.TEST_EVENT, 0, 0⟩
abbrev F.TEST_EVENT.TAKEOVER : Fld := ⟨R.TEST_EVENT, 1, 1⟩
abbrev F.TEST_EVENT.PIT_RT_FAIL : Fld := ⟨R.TEST_EVENT, 2, 2⟩
abbrev F.TEST_EVENT.CURTAIN_RT_FAIL : Fld := ⟨R.TEST_EVENT, 3, 3⟩
abbrev F.TEST_EVENT.RT_ABANDONED : Fld := ⟨R.TEST_EVENT, 4, 4⟩
/-- TEST_EVT0, 16_rehearsal_and_show_report.md. -/
abbrev R.TEST_EVT0 : Nat := 0x70000C
abbrev F.TEST_EVT0.RT_CORE_FAIL_EVT : Fld := ⟨R.TEST_EVT0, 15, 0⟩
abbrev F.TEST_EVT0.TAKEOVER_EVT : Fld := ⟨R.TEST_EVT0, 31, 16⟩
/-- TEST_EVT1, 16_rehearsal_and_show_report.md. -/
abbrev R.TEST_EVT1 : Nat := 0x700010
abbrev F.TEST_EVT1.PIT_RT_FAIL_EVT : Fld := ⟨R.TEST_EVT1, 15, 0⟩
abbrev F.TEST_EVT1.CURTAIN_RT_FAIL_EVT : Fld := ⟨R.TEST_EVT1, 31, 16⟩
/-- TEST_EVT2, 16_rehearsal_and_show_report.md. -/
abbrev R.TEST_EVT2 : Nat := 0x700014
abbrev F.TEST_EVT2.RT_ABANDONED_EVT : Fld := ⟨R.TEST_EVT2, 15, 0⟩
/-- TEST_RT_COUNT, 16_rehearsal_and_show_report.md. -/
abbrev R.TEST_RT_COUNT : Nat := 0x700018
abbrev F.TEST_RT_COUNT.COUNT : Fld := ⟨R.TEST_RT_COUNT, 31, 0⟩
/-- TEST_CORE_FAILED, 16_rehearsal_and_show_report.md. -/
abbrev R.TEST_CORE_FAILED : Nat := 0x700020
abbrev F.TEST_CORE_FAILED.FAILED : Fld := ⟨R.TEST_CORE_FAILED, 16, 0⟩
/-- TEST_TRANSIENT0, 16_rehearsal_and_show_report.md. -/
abbrev R.TEST_TRANSIENT0 : Nat := 0x700024
abbrev F.TEST_TRANSIENT0.COUNT : Fld := ⟨R.TEST_TRANSIENT0, 31, 0⟩
/-- TEST_TRANSIENT1, 16_rehearsal_and_show_report.md. -/
abbrev R.TEST_TRANSIENT1 : Nat := 0x700028
abbrev F.TEST_TRANSIENT1.COUNT : Fld := ⟨R.TEST_TRANSIENT1, 1, 0⟩
/-- TEST_REPAIR_STATE, 16_rehearsal_and_show_report.md. -/
abbrev R.TEST_REPAIR_STATE : Nat := 0x700040
abbrev F.TEST_REPAIR_STATE.SOFT : Fld := ⟨R.TEST_REPAIR_STATE, 8, 0⟩
abbrev F.TEST_REPAIR_STATE.FUSED : Fld := ⟨R.TEST_REPAIR_STATE, 22, 16⟩
abbrev F.TEST_REPAIR_STATE.FUSE_FULL : Fld := ⟨R.TEST_REPAIR_STATE, 31, 31⟩
/-- TEST_REH_CFG, 16_rehearsal_and_show_report.md. -/
abbrev R.TEST_REH_CFG : Nat := 0x700044
abbrev F.TEST_REH_CFG.WAVE : Fld := ⟨R.TEST_REH_CFG, 2, 0⟩
/-- TEST_CURTAIN_EXP, 16_rehearsal_and_show_report.md. -/
abbrev R.TEST_CURTAIN_EXP (k : Nat) : Nat := 0x700050 + k * 0x4
abbrev F.TEST_CURTAIN_EXP.CRC (k : Nat) : Fld := ⟨R.TEST_CURTAIN_EXP k, 31, 0⟩
/-- FN_ID, 08_prompt_desk.md. -/
abbrev R.FN_ID (n : Nat) : Nat := 0x1000000 + n * 0x10000
abbrev F.FN_ID.FN (n : Nat) : Fld := ⟨R.FN_ID n, 4, 0⟩
abbrev F.FN_ID.VF (n : Nat) : Fld := ⟨R.FN_ID n, 5, 5⟩
abbrev F.FN_ID.PART (n : Nat) : Fld := ⟨R.FN_ID n, 31, 16⟩
/-- ATT_NONCE, 08_prompt_desk.md. -/
abbrev R.ATT_NONCE (n : Nat) (k : Nat) : Nat := 0x1000400 + n * 0x10000 + k * 0x4
abbrev F.ATT_NONCE.NONCE (n : Nat) (k : Nat) : Fld := ⟨R.ATT_NONCE n k, 31, 0⟩
/-- ATT_ADDR_LO, 08_prompt_desk.md. -/
abbrev R.ATT_ADDR_LO (n : Nat) : Nat := 0x1000420 + n * 0x10000
abbrev F.ATT_ADDR_LO.ADDR (n : Nat) : Fld := ⟨R.ATT_ADDR_LO n, 31, 6⟩
/-- ATT_ADDR_HI, 08_prompt_desk.md. -/
abbrev R.ATT_ADDR_HI (n : Nat) : Nat := 0x1000424 + n * 0x10000
abbrev F.ATT_ADDR_HI.ADDR (n : Nat) : Fld := ⟨R.ATT_ADDR_HI n, 14, 0⟩
/-- ATT_LEN, 08_prompt_desk.md. -/
abbrev R.ATT_LEN (n : Nat) : Nat := 0x1000428 + n * 0x10000
abbrev F.ATT_LEN.LEN (n : Nat) : Fld := ⟨R.ATT_LEN n, 31, 0⟩
/-- ATT_CMD, 08_prompt_desk.md. -/
abbrev R.ATT_CMD (n : Nat) : Nat := 0x100042C + n * 0x10000
abbrev F.ATT_CMD.OP (n : Nat) : Fld := ⟨R.ATT_CMD n, 1, 0⟩
/-- ATT_STATUS, 08_prompt_desk.md. -/
abbrev R.ATT_STATUS (n : Nat) : Nat := 0x1000430 + n * 0x10000
abbrev F.ATT_STATUS.BUSY (n : Nat) : Fld := ⟨R.ATT_STATUS n, 0, 0⟩
abbrev F.ATT_STATUS.DONE (n : Nat) : Fld := ⟨R.ATT_STATUS n, 1, 1⟩
abbrev F.ATT_STATUS.CODE (n : Nat) : Fld := ⟨R.ATT_STATUS n, 31, 16⟩
/-- ATT_EVT, 08_prompt_desk.md. -/
abbrev R.ATT_EVT (n : Nat) : Nat := 0x1000434 + n * 0x10000
abbrev F.ATT_EVT.DONE_EVT (n : Nat) : Fld := ⟨R.ATT_EVT n, 15, 0⟩
/-- MR_SEL, 08_prompt_desk.md. -/
abbrev R.MR_SEL (n : Nat) : Nat := 0x1000440 + n * 0x10000
abbrev F.MR_SEL.MR_SEL (n : Nat) : Fld := ⟨R.MR_SEL n, 2, 0⟩
/-- MR_DATA, 08_prompt_desk.md. -/
abbrev R.MR_DATA (n : Nat) (k : Nat) : Nat := 0x1000444 + n * 0x10000 + k * 0x4
abbrev F.MR_DATA.DATA (n : Nat) (k : Nat) : Fld := ⟨R.MR_DATA n k, 31, 0⟩
/-- MR_CMD, 08_prompt_desk.md. -/
abbrev R.MR_CMD (n : Nat) : Nat := 0x1000484 + n * 0x10000
abbrev F.MR_CMD.EXTEND (n : Nat) : Fld := ⟨R.MR_CMD n, 0, 0⟩
/-- MR_STATUS, 08_prompt_desk.md. -/
abbrev R.MR_STATUS (n : Nat) : Nat := 0x1000488 + n * 0x10000
abbrev F.MR_STATUS.BUSY (n : Nat) : Fld := ⟨R.MR_STATUS n, 0, 0⟩
/-- PDESK_RING_SEL, 08_prompt_desk.md. -/
abbrev R.PDESK_RING_SEL (n : Nat) : Nat := 0x1001000 + n * 0x10000
abbrev F.PDESK_RING_SEL.RING (n : Nat) : Fld := ⟨R.PDESK_RING_SEL n, 9, 0⟩
/-- PDESK_RING_CMD, 08_prompt_desk.md. -/
abbrev R.PDESK_RING_CMD (n : Nat) : Nat := 0x1001020 + n * 0x10000
abbrev F.PDESK_RING_CMD.OP (n : Nat) : Fld := ⟨R.PDESK_RING_CMD n, 2, 0⟩
/-- PDESK_DB_BASE_LO, 08_prompt_desk.md. -/
abbrev R.PDESK_DB_BASE_LO (n : Nat) : Nat := 0x1001040 + n * 0x10000
abbrev F.PDESK_DB_BASE_LO.DB_BASE (n : Nat) : Fld := ⟨R.PDESK_DB_BASE_LO n, 31, 12⟩
/-- PDESK_DB_BASE_HI, 08_prompt_desk.md. -/
abbrev R.PDESK_DB_BASE_HI (n : Nat) : Nat := 0x1001044 + n * 0x10000
abbrev F.PDESK_DB_BASE_HI.DB_BASE (n : Nat) : Fld := ⟨R.PDESK_DB_BASE_HI n, 14, 0⟩
/-- PDESK_FN_STATUS, 08_prompt_desk.md. -/
abbrev R.PDESK_FN_STATUS (n : Nat) : Nat := 0x1001048 + n * 0x10000
abbrev F.PDESK_FN_STATUS.DB_FAULT (n : Nat) : Fld := ⟨R.PDESK_FN_STATUS n, 0, 0⟩
abbrev F.PDESK_FN_STATUS.DB_FAULT_EVT (n : Nat) : Fld := ⟨R.PDESK_FN_STATUS n, 31, 16⟩
/-- PDESK_BELL_IGNORED, 08_prompt_desk.md. -/
abbrev R.PDESK_BELL_IGNORED (n : Nat) : Nat := 0x100104C + n * 0x10000
abbrev F.PDESK_BELL_IGNORED.COUNT (n : Nat) : Fld := ⟨R.PDESK_BELL_IGNORED n, 31, 0⟩
/-- PDESK_CTX_SEL, 08_prompt_desk.md. -/
abbrev R.PDESK_CTX_SEL (n : Nat) : Nat := 0x1001200 + n * 0x10000
abbrev F.PDESK_CTX_SEL.CID (n : Nat) : Fld := ⟨R.PDESK_CTX_SEL n, 9, 0⟩
/-- PDESK_CTX_CFG, 08_prompt_desk.md. -/
abbrev R.PDESK_CTX_CFG (n : Nat) : Nat := 0x1001204 + n * 0x10000
abbrev F.PDESK_CTX_CFG.PARTITION (n : Nat) : Fld := ⟨R.PDESK_CTX_CFG n, 2, 0⟩
/-- PDESK_CTX_CMD, 08_prompt_desk.md. -/
abbrev R.PDESK_CTX_CMD (n : Nat) : Nat := 0x1001208 + n * 0x10000
abbrev F.PDESK_CTX_CMD.OP (n : Nat) : Fld := ⟨R.PDESK_CTX_CMD n, 1, 0⟩
/-- PDESK_CTX_STATUS, 08_prompt_desk.md. -/
abbrev R.PDESK_CTX_STATUS (n : Nat) : Nat := 0x1001210 + n * 0x10000
abbrev F.PDESK_CTX_STATUS.FAULTED (n : Nat) : Fld := ⟨R.PDESK_CTX_STATUS n, 0, 0⟩
abbrev F.PDESK_CTX_STATUS.DESTROYED (n : Nat) : Fld := ⟨R.PDESK_CTX_STATUS n, 1, 1⟩
abbrev F.PDESK_CTX_STATUS.CFG_REFUSED (n : Nat) : Fld := ⟨R.PDESK_CTX_STATUS n, 2, 2⟩
/-- PDESK_CTX_EVT0, 08_prompt_desk.md. -/
abbrev R.PDESK_CTX_EVT0 (n : Nat) : Nat := 0x1001214 + n * 0x10000
abbrev F.PDESK_CTX_EVT0.FAULTED_EVT (n : Nat) : Fld := ⟨R.PDESK_CTX_EVT0 n, 15, 0⟩
abbrev F.PDESK_CTX_EVT0.DESTROYED_EVT (n : Nat) : Fld := ⟨R.PDESK_CTX_EVT0 n, 31, 16⟩
/-- PDESK_CTX_EVT1, 08_prompt_desk.md. -/
abbrev R.PDESK_CTX_EVT1 (n : Nat) : Nat := 0x1001218 + n * 0x10000
abbrev F.PDESK_CTX_EVT1.CFG_REFUSED_EVT (n : Nat) : Fld := ⟨R.PDESK_CTX_EVT1 n, 15, 0⟩
/-- PDESK_FENCE_SEL, 08_prompt_desk.md. -/
abbrev R.PDESK_FENCE_SEL (n : Nat) : Nat := 0x1001240 + n * 0x10000
abbrev F.PDESK_FENCE_SEL.FENCE (n : Nat) : Fld := ⟨R.PDESK_FENCE_SEL n, 15, 0⟩
/-- PDESK_FENCE_CFG, 08_prompt_desk.md. -/
abbrev R.PDESK_FENCE_CFG (n : Nat) : Nat := 0x1001244 + n * 0x10000
abbrev F.PDESK_FENCE_CFG.OWNER (n : Nat) : Fld := ⟨R.PDESK_FENCE_CFG n, 9, 0⟩
abbrev F.PDESK_FENCE_CFG.SHARE_FN (n : Nat) : Fld := ⟨R.PDESK_FENCE_CFG n, 20, 16⟩
abbrev F.PDESK_FENCE_CFG.SHARED (n : Nat) : Fld := ⟨R.PDESK_FENCE_CFG n, 21, 21⟩
/-- PDESK_FENCE_ARG_LO, 08_prompt_desk.md. -/
abbrev R.PDESK_FENCE_ARG_LO (n : Nat) : Nat := 0x1001250 + n * 0x10000
abbrev F.PDESK_FENCE_ARG_LO.ARG (n : Nat) : Fld := ⟨R.PDESK_FENCE_ARG_LO n, 31, 0⟩
/-- PDESK_FENCE_ARG_HI, 08_prompt_desk.md. -/
abbrev R.PDESK_FENCE_ARG_HI (n : Nat) : Nat := 0x1001254 + n * 0x10000
abbrev F.PDESK_FENCE_ARG_HI.ARG (n : Nat) : Fld := ⟨R.PDESK_FENCE_ARG_HI n, 31, 0⟩
/-- PDESK_FENCE_CMD, 08_prompt_desk.md. -/
abbrev R.PDESK_FENCE_CMD (n : Nat) : Nat := 0x1001258 + n * 0x10000
abbrev F.PDESK_FENCE_CMD.OP (n : Nat) : Fld := ⟨R.PDESK_FENCE_CMD n, 2, 0⟩
/-- PDESK_FENCE_STATUS, 08_prompt_desk.md. -/
abbrev R.PDESK_FENCE_STATUS (n : Nat) : Nat := 0x1001264 + n * 0x10000
abbrev F.PDESK_FENCE_STATUS.CFG_REFUSED (n : Nat) : Fld := ⟨R.PDESK_FENCE_STATUS n, 0, 0⟩
abbrev F.PDESK_FENCE_STATUS.REGRESSION (n : Nat) : Fld := ⟨R.PDESK_FENCE_STATUS n, 1, 1⟩
/-- PDESK_FENCE_EVT, 08_prompt_desk.md. -/
abbrev R.PDESK_FENCE_EVT (n : Nat) : Nat := 0x1001268 + n * 0x10000
abbrev F.PDESK_FENCE_EVT.CFG_REFUSED_EVT (n : Nat) : Fld := ⟨R.PDESK_FENCE_EVT n, 15, 0⟩
abbrev F.PDESK_FENCE_EVT.REGRESSION_EVT (n : Nat) : Fld := ⟨R.PDESK_FENCE_EVT n, 31, 16⟩
/-- PDESK_SEM_SEL, 08_prompt_desk.md. -/
abbrev R.PDESK_SEM_SEL (n : Nat) : Nat := 0x1001280 + n * 0x10000
abbrev F.PDESK_SEM_SEL.SEM (n : Nat) : Fld := ⟨R.PDESK_SEM_SEL n, 11, 0⟩
/-- PDESK_SEM_CFG, 08_prompt_desk.md. -/
abbrev R.PDESK_SEM_CFG (n : Nat) : Nat := 0x1001284 + n * 0x10000
abbrev F.PDESK_SEM_CFG.COUNT (n : Nat) : Fld := ⟨R.PDESK_SEM_CFG n, 15, 0⟩
abbrev F.PDESK_SEM_CFG.SHARE_FN (n : Nat) : Fld := ⟨R.PDESK_SEM_CFG n, 20, 16⟩
abbrev F.PDESK_SEM_CFG.SHARED (n : Nat) : Fld := ⟨R.PDESK_SEM_CFG n, 21, 21⟩
/-- PDESK_SEM_CMD, 08_prompt_desk.md. -/
abbrev R.PDESK_SEM_CMD (n : Nat) : Nat := 0x1001288 + n * 0x10000
abbrev F.PDESK_SEM_CMD.OP (n : Nat) : Fld := ⟨R.PDESK_SEM_CMD n, 1, 0⟩
/-- PDESK_SEM_STATUS, 08_prompt_desk.md. -/
abbrev R.PDESK_SEM_STATUS (n : Nat) : Nat := 0x10012C0 + n * 0x10000
abbrev F.PDESK_SEM_STATUS.CFG_REFUSED (n : Nat) : Fld := ⟨R.PDESK_SEM_STATUS n, 0, 0⟩
/-- PDESK_SEM_EVT, 08_prompt_desk.md. -/
abbrev R.PDESK_SEM_EVT (n : Nat) : Nat := 0x10012C4 + n * 0x10000
abbrev F.PDESK_SEM_EVT.CFG_REFUSED_EVT (n : Nat) : Fld := ⟨R.PDESK_SEM_EVT n, 15, 0⟩
/-- XLAT_INV_ADDR_LO, 08_prompt_desk.md. -/
abbrev R.XLAT_INV_ADDR_LO (n : Nat) : Nat := 0x1001348 + n * 0x10000
abbrev F.XLAT_INV_ADDR_LO.ADDR (n : Nat) : Fld := ⟨R.XLAT_INV_ADDR_LO n, 31, 16⟩
/-- XLAT_INV_ADDR_HI, 08_prompt_desk.md. -/
abbrev R.XLAT_INV_ADDR_HI (n : Nat) : Nat := 0x100134C + n * 0x10000
abbrev F.XLAT_INV_ADDR_HI.ADDR (n : Nat) : Fld := ⟨R.XLAT_INV_ADDR_HI n, 15, 0⟩
/-- XLAT_INV_LEN, 08_prompt_desk.md. -/
abbrev R.XLAT_INV_LEN (n : Nat) : Nat := 0x1001350 + n * 0x10000
abbrev F.XLAT_INV_LEN.LEN (n : Nat) : Fld := ⟨R.XLAT_INV_LEN n, 31, 0⟩
/-- XLAT_INV_CMD, 08_prompt_desk.md. -/
abbrev R.XLAT_INV_CMD (n : Nat) : Nat := 0x1001354 + n * 0x10000
abbrev F.XLAT_INV_CMD.GO (n : Nat) : Fld := ⟨R.XLAT_INV_CMD n, 0, 0⟩
/-- XLAT_INV_STATUS, 08_prompt_desk.md. -/
abbrev R.XLAT_INV_STATUS (n : Nat) : Nat := 0x1001358 + n * 0x10000
abbrev F.XLAT_INV_STATUS.BUSY (n : Nat) : Fld := ⟨R.XLAT_INV_STATUS n, 0, 0⟩
abbrev F.XLAT_INV_STATUS.DONE (n : Nat) : Fld := ⟨R.XLAT_INV_STATUS n, 1, 1⟩
abbrev F.XLAT_INV_STATUS.REFUSED (n : Nat) : Fld := ⟨R.XLAT_INV_STATUS n, 2, 2⟩
abbrev F.XLAT_INV_STATUS.ABORTED (n : Nat) : Fld := ⟨R.XLAT_INV_STATUS n, 3, 3⟩
/-- XLAT_INV_EVT0, 08_prompt_desk.md. -/
abbrev R.XLAT_INV_EVT0 (n : Nat) : Nat := 0x100135C + n * 0x10000
abbrev F.XLAT_INV_EVT0.DONE_EVT (n : Nat) : Fld := ⟨R.XLAT_INV_EVT0 n, 15, 0⟩
abbrev F.XLAT_INV_EVT0.ABORTED_EVT (n : Nat) : Fld := ⟨R.XLAT_INV_EVT0 n, 31, 16⟩
/-- XLAT_INV_EVT1, 08_prompt_desk.md. -/
abbrev R.XLAT_INV_EVT1 (n : Nat) : Nat := 0x1001360 + n * 0x10000
abbrev F.XLAT_INV_EVT1.REFUSED_EVT (n : Nat) : Fld := ⟨R.XLAT_INV_EVT1 n, 15, 0⟩
/-- PDESK_IRQ_MAP, 08_prompt_desk.md. -/
abbrev R.PDESK_IRQ_MAP (n : Nat) : Nat := 0x1002000 + n * 0x10000
abbrev F.PDESK_IRQ_MAP.FAULT_VEC (n : Nat) : Fld := ⟨R.PDESK_IRQ_MAP n, 5, 0⟩
abbrev F.PDESK_IRQ_MAP.FAULT_EN (n : Nat) : Fld := ⟨R.PDESK_IRQ_MAP n, 7, 7⟩
abbrev F.PDESK_IRQ_MAP.PIT_VEC (n : Nat) : Fld := ⟨R.PDESK_IRQ_MAP n, 13, 8⟩
abbrev F.PDESK_IRQ_MAP.PIT_EN (n : Nat) : Fld := ⟨R.PDESK_IRQ_MAP n, 15, 15⟩
abbrev F.PDESK_IRQ_MAP.DISPLAY_VEC (n : Nat) : Fld := ⟨R.PDESK_IRQ_MAP n, 21, 16⟩
abbrev F.PDESK_IRQ_MAP.DISPLAY_EN (n : Nat) : Fld := ⟨R.PDESK_IRQ_MAP n, 23, 23⟩
abbrev F.PDESK_IRQ_MAP.SYSTEM_VEC (n : Nat) : Fld := ⟨R.PDESK_IRQ_MAP n, 29, 24⟩
abbrev F.PDESK_IRQ_MAP.SYSTEM_EN (n : Nat) : Fld := ⟨R.PDESK_IRQ_MAP n, 31, 31⟩
/-- PWR_VOTE, 08_prompt_desk.md. -/
abbrev R.PWR_VOTE (n : Nat) : Nat := 0x1003000 + n * 0x10000
abbrev F.PWR_VOTE.OP_MIN (n : Nat) : Fld := ⟨R.PWR_VOTE n, 2, 0⟩
abbrev F.PWR_VOTE.DEEPEST (n : Nat) : Fld := ⟨R.PWR_VOTE n, 6, 4⟩
/-- PWR_LATENCY_BUDGET, 08_prompt_desk.md. -/
abbrev R.PWR_LATENCY_BUDGET (n : Nat) : Nat := 0x1003004 + n * 0x10000
abbrev F.PWR_LATENCY_BUDGET.BUDGET (n : Nat) : Fld := ⟨R.PWR_LATENCY_BUDGET n, 23, 0⟩
/-- PDESK_RING_BELL, 08_prompt_desk.md. -/
abbrev R.PDESK_RING_BELL (n : Nat) : Nat := 0x100F000 + n * 0x10000
abbrev F.PDESK_RING_BELL.RING (n : Nat) : Fld := ⟨R.PDESK_RING_BELL n, 31, 0⟩

/-! The W1C flags with their event counters (R20). -/
abbrev E.RST_EVENT.HELD : Flag := ⟨F.RST_EVENT.HELD, F.RST_EVT0.HELD_EVT⟩
abbrev E.RST_EVENT.REACH_BAD : Flag := ⟨F.RST_EVENT.REACH_BAD, F.RST_EVT0.REACH_BAD_EVT⟩
abbrev E.RST_EVENT.ABSORBED : Flag := ⟨F.RST_EVENT.ABSORBED, F.RST_EVT1.ABSORBED_EVT⟩
abbrev E.RST_EVENT.START_FAIL : Flag := ⟨F.RST_EVENT.START_FAIL, F.RST_EVT1.START_FAIL_EVT⟩
abbrev E.RST_EVENT.HOUSE_LIGHTS : Flag := ⟨F.RST_EVENT.HOUSE_LIGHTS, F.RST_EVT2.HOUSE_LIGHTS_EVT⟩
abbrev E.RST_MBOX_CTRL.OUT_FULL : Flag := ⟨F.RST_MBOX_CTRL.OUT_FULL, F.RST_MBOX_EVT.OUT_FULL_EVT⟩
abbrev E.CLK_EVENT.XA_FAIL : Flag := ⟨F.CLK_EVENT.XA_FAIL, F.CLK_EVT0.XA_FAIL_EVT⟩
abbrev E.CLK_EVENT.XB_FAIL : Flag := ⟨F.CLK_EVENT.XB_FAIL, F.CLK_EVT0.XB_FAIL_EVT⟩
abbrev E.CLK_EVENT.REFCLK_LOST : Flag := ⟨F.CLK_EVENT.REFCLK_LOST, F.CLK_EVT1.REFCLK_LOST_EVT⟩
abbrev E.CLK_EVENT.FAILOVER : Flag := ⟨F.CLK_EVENT.FAILOVER, F.CLK_EVT1.FAILOVER_EVT⟩
abbrev E.PWR_STATUS.GR_HIT : Flag := ⟨F.PWR_STATUS.GR_HIT, F.PWR_EVT0.GR_HIT_EVT⟩
abbrev E.PWR_STATUS.REFUSED : Flag := ⟨F.PWR_STATUS.REFUSED, F.PWR_EVT0.REFUSED_EVT⟩
abbrev E.PWR_STATUS.HELD : Flag := ⟨F.PWR_STATUS.HELD, F.PWR_EVT1.HELD_EVT⟩
abbrev E.PWR_STATUS.THROTTLE : Flag := ⟨F.PWR_STATUS.THROTTLE, F.PWR_EVT1.THROTTLE_EVT⟩
abbrev E.SEC_EVENT.IMG_REJECTED : Flag := ⟨F.SEC_EVENT.IMG_REJECTED, F.SEC_EVT0.IMG_REJECTED_EVT⟩
abbrev E.SEC_EVENT.CAL_BAD : Flag := ⟨F.SEC_EVENT.CAL_BAD, F.SEC_EVT0.CAL_BAD_EVT⟩
abbrev E.SEC_EVENT.CAL_CLAMPED : Flag := ⟨F.SEC_EVENT.CAL_CLAMPED, F.SEC_EVT1.CAL_CLAMPED_EVT⟩
abbrev E.SEC_EVENT.FUSE_BAD : Flag := ⟨F.SEC_EVENT.FUSE_BAD, F.SEC_EVT1.FUSE_BAD_EVT⟩
abbrev E.SEC_EVENT.FUSE_FAULT : Flag := ⟨F.SEC_EVENT.FUSE_FAULT, F.SEC_EVT2.FUSE_FAULT_EVT⟩
abbrev E.SEC_EVENT.F2_OVERFLOW : Flag := ⟨F.SEC_EVENT.F2_OVERFLOW, F.SEC_EVT2.F2_OVERFLOW_EVT⟩
abbrev E.SHOW_EVENT.DROPPED : Flag := ⟨F.SHOW_EVENT.DROPPED, F.SHOW_EVT0.DROPPED_EVT⟩
abbrev E.SHOW_EVENT.SUPPRESSED : Flag := ⟨F.SHOW_EVENT.SUPPRESSED, F.SHOW_EVT0.SUPPRESSED_EVT⟩
abbrev E.SHOW_EVENT.FLASH_ERR : Flag := ⟨F.SHOW_EVENT.FLASH_ERR, F.SHOW_EVT1.FLASH_ERR_EVT⟩
abbrev E.SHOW_EVENT.THAWED : Flag := ⟨F.SHOW_EVENT.THAWED, F.SHOW_EVT1.THAWED_EVT⟩
abbrev E.LOFT_CARVE_STATUS.CARVE_ERR : Flag := ⟨F.LOFT_CARVE_STATUS.CARVE_ERR, F.LOFT_CARVE_STATUS.CARVE_ERR_EVT⟩
abbrev E.LOFT_CACHE_STATUS.ENABLE_REFUSED : Flag := ⟨F.LOFT_CACHE_STATUS.ENABLE_REFUSED, F.LOFT_CACHE_EVT.ENABLE_REFUSED_EVT⟩
abbrev E.LOFT_CACHE_STATUS.CMD_REFUSED : Flag := ⟨F.LOFT_CACHE_STATUS.CMD_REFUSED, F.LOFT_CACHE_EVT.CMD_REFUSED_EVT⟩
abbrev E.LOFT_ECC_STATUS.CE : Flag := ⟨F.LOFT_ECC_STATUS.CE, F.LOFT_ECC_EVT0.CE_EVT⟩
abbrev E.LOFT_ECC_STATUS.UE : Flag := ⟨F.LOFT_ECC_STATUS.UE, F.LOFT_ECC_EVT0.UE_EVT⟩
abbrev E.LOFT_ECC_STATUS.REFETCH : Flag := ⟨F.LOFT_ECC_STATUS.REFETCH, F.LOFT_ECC_EVT1.REFETCH_EVT⟩
abbrev E.LOFT_FAB_STALL_STATUS.LOFT_STALL : Flag := ⟨F.LOFT_FAB_STALL_STATUS.LOFT_STALL, F.LOFT_FAB_STALL_STATUS.LOFT_STALL_EVT⟩
abbrev E.XLAT_EVENT.REVOKE_ABORT : Flag := ⟨F.XLAT_EVENT.REVOKE_ABORT, F.XLAT_EVT0.REVOKE_ABORT_EVT⟩
abbrev E.XLAT_EVENT.TAG_REFUSED : Flag := ⟨F.XLAT_EVENT.TAG_REFUSED, F.XLAT_EVT0.TAG_REFUSED_EVT⟩
abbrev E.XLAT_EVENT.OTT_UE : Flag := ⟨F.XLAT_EVENT.OTT_UE, F.XLAT_EVT1.OTT_UE_EVT⟩
abbrev E.XLAT_EVENT.HOST_ERR : Flag := ⟨F.XLAT_EVENT.HOST_ERR, F.XLAT_EVT1.HOST_ERR_EVT⟩
abbrev E.PDESK_FNRANGE_STATUS.FN_CFG_REFUSED : Flag := ⟨F.PDESK_FNRANGE_STATUS.FN_CFG_REFUSED, F.PDESK_FNRANGE_EVT.FN_CFG_REFUSED_EVT⟩
abbrev E.SMGR_SC_STATUS.SC_DONE : Flag := ⟨F.SMGR_SC_STATUS.SC_DONE, F.SMGR_SC_EVT.SC_DONE_EVT⟩
abbrev E.SMGR_SC_STATUS.SC_REFUSED : Flag := ⟨F.SMGR_SC_STATUS.SC_REFUSED, F.SMGR_SC_EVT.SC_REFUSED_EVT⟩
abbrev E.SMGR_EVENT.SAVE_WAIT : Flag := ⟨F.SMGR_EVENT.SAVE_WAIT, F.SMGR_EVT.SAVE_WAIT_EVT⟩
abbrev E.SMGR_EVENT.OVERRUN : Flag := ⟨F.SMGR_EVENT.OVERRUN, F.SMGR_EVT.OVERRUN_EVT⟩
abbrev E.CORE_STALL_STATUS.STALL (n : Nat) : Flag := ⟨(F.CORE_STALL_STATUS.STALL n), (F.CORE_STALL_STATUS.STALL_EVT n)⟩
abbrev E.CORE_L1_STATUS.ENABLE_REFUSED (n : Nat) : Flag := ⟨(F.CORE_L1_STATUS.ENABLE_REFUSED n), (F.CORE_L1_EVT.ENABLE_REFUSED_EVT n)⟩
abbrev E.CORE_L1_STATUS.CMD_REFUSED (n : Nat) : Flag := ⟨(F.CORE_L1_STATUS.CMD_REFUSED n), (F.CORE_L1_EVT.CMD_REFUSED_EVT n)⟩
abbrev E.CORE_FAULT_STATUS.FAULT (n : Nat) : Flag := ⟨(F.CORE_FAULT_STATUS.FAULT n), (F.CORE_FAULT_EVT.FAULT_EVT n)⟩
abbrev E.CORE_FAULT_STATUS.DEADLOCK (n : Nat) : Flag := ⟨(F.CORE_FAULT_STATUS.DEADLOCK n), (F.CORE_FAULT_EVT.DEADLOCK_EVT n)⟩
abbrev E.CORE_TE_EVENT.XLAT_FAULT (n : Nat) : Flag := ⟨(F.CORE_TE_EVENT.XLAT_FAULT n), (F.CORE_TE_EVT.XLAT_FAULT_EVT n)⟩
abbrev E.CORE_TE_EVENT.DESC_INVALID (n : Nat) : Flag := ⟨(F.CORE_TE_EVENT.DESC_INVALID n), (F.CORE_TE_EVT.DESC_INVALID_EVT n)⟩
abbrev E.RAS_EVENT.PARTIAL : Flag := ⟨F.RAS_EVENT.PARTIAL, F.RAS_EVT0.PARTIAL_EVT⟩
abbrev E.RAS_EVENT.BIN_LOST : Flag := ⟨F.RAS_EVENT.BIN_LOST, F.RAS_EVT0.BIN_LOST_EVT⟩
abbrev E.RAS_EVENT.DRAW_INVALID : Flag := ⟨F.RAS_EVENT.DRAW_INVALID, F.RAS_EVT1.DRAW_INVALID_EVT⟩
abbrev E.RAS_EVENT.FAULT : Flag := ⟨F.RAS_EVENT.FAULT, F.RAS_EVT1.FAULT_EVT⟩
abbrev E.PROSC_DO_STATUS.DEADLINE_NEAR (n : Nat) : Flag := ⟨(F.PROSC_DO_STATUS.DEADLINE_NEAR n), (F.PROSC_DO_EVT0.DEADLINE_EVT n)⟩
abbrev E.PROSC_DO_STATUS.HPD_IRQ (n : Nat) : Flag := ⟨(F.PROSC_DO_STATUS.HPD_IRQ n), (F.PROSC_DO_EVT0.HPD_IRQ_EVT n)⟩
abbrev E.PROSC_DO_STATUS.CURTAIN_FAULT (n : Nat) : Flag := ⟨(F.PROSC_DO_STATUS.CURTAIN_FAULT n), (F.PROSC_DO_EVT1.CURTAIN_FAULT_EVT n)⟩
abbrev E.PROSC_DO_STATUS.AUX_DONE (n : Nat) : Flag := ⟨(F.PROSC_DO_STATUS.AUX_DONE n), (F.PROSC_DO_EVT1.AUX_DONE_EVT n)⟩
abbrev E.PROSC_L_STATUS.UNDERRUN (n : Nat) : Flag := ⟨(F.PROSC_L_STATUS.UNDERRUN n), (F.PROSC_L_EVT.UNDERRUN_EVT n)⟩
abbrev E.PROSC_L_STATUS.REVOKED (n : Nat) : Flag := ⟨(F.PROSC_L_STATUS.REVOKED n), (F.PROSC_L_EVT.REVOKED_EVT n)⟩
abbrev E.PIT_CLK_STATUS.FAILOVER : Flag := ⟨F.PIT_CLK_STATUS.FAILOVER, F.PIT_CLK_STATUS.FAILOVER_EVT⟩
abbrev E.PIT_SAP_STATUS.CLOCK_LOST (k : Nat) : Flag := ⟨(F.PIT_SAP_STATUS.CLOCK_LOST k), (F.PIT_SAP_STATUS.CLOCK_LOST_EVT k)⟩
abbrev E.PIT_SAP_STATUS.CFG_REFUSED (k : Nat) : Flag := ⟨(F.PIT_SAP_STATUS.CFG_REFUSED k), (F.PIT_SAP_EVT.CFG_REFUSED_EVT k)⟩
abbrev E.PIT_CSI_STATUS.CRC_ERR (k : Nat) : Flag := ⟨(F.PIT_CSI_STATUS.CRC_ERR k), (F.PIT_CSI_STATUS.CRC_ERR_EVT k)⟩
abbrev E.PIT_CSI_STATUS.LINE_LOST (k : Nat) : Flag := ⟨(F.PIT_CSI_STATUS.LINE_LOST k), (F.PIT_CSI_EVT.LINE_LOST_EVT k)⟩
abbrev E.PIT_CSI_STATUS.HDR_CORR (k : Nat) : Flag := ⟨(F.PIT_CSI_STATUS.HDR_CORR k), (F.PIT_CSI_EVT.HDR_CORR_EVT k)⟩
abbrev E.PIT_S_STATUS.DEADLINE (n : Nat) : Flag := ⟨(F.PIT_S_STATUS.DEADLINE n), (F.PIT_S_EVT0.DEADLINE_EVT n)⟩
abbrev E.PIT_S_STATUS.UNDERRUN (n : Nat) : Flag := ⟨(F.PIT_S_STATUS.UNDERRUN n), (F.PIT_S_EVT0.UNDERRUN_EVT n)⟩
abbrev E.PIT_S_STATUS.REPLAYED (n : Nat) : Flag := ⟨(F.PIT_S_STATUS.REPLAYED n), (F.PIT_S_EVT1.REPLAYED_EVT n)⟩
abbrev E.PIT_S_STATUS.FAULTED (n : Nat) : Flag := ⟨(F.PIT_S_STATUS.FAULTED n), (F.PIT_S_EVT1.FAULTED_EVT n)⟩
abbrev E.PIT_S_STATUS.ARM_REFUSED (n : Nat) : Flag := ⟨(F.PIT_S_STATUS.ARM_REFUSED n), (F.PIT_S_EVT2.ARM_REFUSED_EVT n)⟩
abbrev E.PIT_S_STATUS.CFG_REFUSED (n : Nat) : Flag := ⟨(F.PIT_S_STATUS.CFG_REFUSED n), (F.PIT_S_EVT2.CFG_REFUSED_EVT n)⟩
abbrev E.UL_STATUS.LANE_FAIL : Flag := ⟨F.UL_STATUS.LANE_FAIL, F.UL_EVT0.LANE_FAIL_EVT⟩
abbrev E.UL_STATUS.PORT_DOWN : Flag := ⟨F.UL_STATUS.PORT_DOWN, F.UL_EVT0.PORT_DOWN_EVT⟩
abbrev E.UL_STATUS.PORT_UP : Flag := ⟨F.UL_STATUS.PORT_UP, F.UL_EVT1.PORT_UP_EVT⟩
abbrev E.UL_STATUS.TOPO_ERR : Flag := ⟨F.UL_STATUS.TOPO_ERR, F.UL_EVT1.TOPO_ERR_EVT⟩
abbrev E.UL_STATUS.HEAD_CONFLICT : Flag := ⟨F.UL_STATUS.HEAD_CONFLICT, F.UL_EVT2.HEAD_CONFLICT_EVT⟩
abbrev E.UL_STATUS.UNREACH : Flag := ⟨F.UL_STATUS.UNREACH, F.UL_EVT2.UNREACH_EVT⟩
abbrev E.UL_STATUS.ER_REFUSED : Flag := ⟨F.UL_STATUS.ER_REFUSED, F.UL_EVT3.ER_REFUSED_EVT⟩
abbrev E.UL_ER_STATUS.FULL (k : Nat) : Flag := ⟨(F.UL_ER_STATUS.FULL k), (F.UL_ER_STATUS.FULL_EVT k)⟩
abbrev E.XFER_E_EVENT.FORMAT_ERR (n : Nat) : Flag := ⟨(F.XFER_E_EVENT.FORMAT_ERR n), (F.XFER_E_EVT0.FORMAT_ERR_EVT n)⟩
abbrev E.XFER_E_EVENT.CHECK_ERR (n : Nat) : Flag := ⟨(F.XFER_E_EVENT.CHECK_ERR n), (F.XFER_E_EVT0.CHECK_ERR_EVT n)⟩
abbrev E.XFER_E_EVENT.NO_SPACE (n : Nat) : Flag := ⟨(F.XFER_E_EVENT.NO_SPACE n), (F.XFER_E_EVT1.NO_SPACE_EVT n)⟩
abbrev E.MEMC_ECC_STATUS.CE : Flag := ⟨F.MEMC_ECC_STATUS.CE, F.MEMC_ECC_EVT.CE_EVT⟩
abbrev E.MEMC_ECC_STATUS.UE : Flag := ⟨F.MEMC_ECC_STATUS.UE, F.MEMC_ECC_EVT.UE_EVT⟩
abbrev E.TEST_EVENT.RT_CORE_FAIL : Flag := ⟨F.TEST_EVENT.RT_CORE_FAIL, F.TEST_EVT0.RT_CORE_FAIL_EVT⟩
abbrev E.TEST_EVENT.TAKEOVER : Flag := ⟨F.TEST_EVENT.TAKEOVER, F.TEST_EVT0.TAKEOVER_EVT⟩
abbrev E.TEST_EVENT.PIT_RT_FAIL : Flag := ⟨F.TEST_EVENT.PIT_RT_FAIL, F.TEST_EVT1.PIT_RT_FAIL_EVT⟩
abbrev E.TEST_EVENT.CURTAIN_RT_FAIL : Flag := ⟨F.TEST_EVENT.CURTAIN_RT_FAIL, F.TEST_EVT1.CURTAIN_RT_FAIL_EVT⟩
abbrev E.TEST_EVENT.RT_ABANDONED : Flag := ⟨F.TEST_EVENT.RT_ABANDONED, F.TEST_EVT2.RT_ABANDONED_EVT⟩
abbrev E.ATT_STATUS.DONE (n : Nat) : Flag := ⟨(F.ATT_STATUS.DONE n), (F.ATT_EVT.DONE_EVT n)⟩
abbrev E.PDESK_FN_STATUS.DB_FAULT (n : Nat) : Flag := ⟨(F.PDESK_FN_STATUS.DB_FAULT n), (F.PDESK_FN_STATUS.DB_FAULT_EVT n)⟩
abbrev E.PDESK_CTX_STATUS.FAULTED (n : Nat) : Flag := ⟨(F.PDESK_CTX_STATUS.FAULTED n), (F.PDESK_CTX_EVT0.FAULTED_EVT n)⟩
abbrev E.PDESK_CTX_STATUS.DESTROYED (n : Nat) : Flag := ⟨(F.PDESK_CTX_STATUS.DESTROYED n), (F.PDESK_CTX_EVT0.DESTROYED_EVT n)⟩
abbrev E.PDESK_CTX_STATUS.CFG_REFUSED (n : Nat) : Flag := ⟨(F.PDESK_CTX_STATUS.CFG_REFUSED n), (F.PDESK_CTX_EVT1.CFG_REFUSED_EVT n)⟩
abbrev E.PDESK_FENCE_STATUS.CFG_REFUSED (n : Nat) : Flag := ⟨(F.PDESK_FENCE_STATUS.CFG_REFUSED n), (F.PDESK_FENCE_EVT.CFG_REFUSED_EVT n)⟩
abbrev E.PDESK_FENCE_STATUS.REGRESSION (n : Nat) : Flag := ⟨(F.PDESK_FENCE_STATUS.REGRESSION n), (F.PDESK_FENCE_EVT.REGRESSION_EVT n)⟩
abbrev E.PDESK_SEM_STATUS.CFG_REFUSED (n : Nat) : Flag := ⟨(F.PDESK_SEM_STATUS.CFG_REFUSED n), (F.PDESK_SEM_EVT.CFG_REFUSED_EVT n)⟩
abbrev E.XLAT_INV_STATUS.DONE (n : Nat) : Flag := ⟨(F.XLAT_INV_STATUS.DONE n), (F.XLAT_INV_EVT0.DONE_EVT n)⟩
abbrev E.XLAT_INV_STATUS.REFUSED (n : Nat) : Flag := ⟨(F.XLAT_INV_STATUS.REFUSED n), (F.XLAT_INV_EVT1.REFUSED_EVT n)⟩
abbrev E.XLAT_INV_STATUS.ABORTED (n : Nat) : Flag := ⟨(F.XLAT_INV_STATUS.ABORTED n), (F.XLAT_INV_EVT0.ABORTED_EVT n)⟩

end Sys2Proof.Machine
end

