-- ==== Sys2Proof/Machine/RegTable.lean ====
section
/-! DEFINITION. The register table: for every register its place, its instances and the access code, reset level and
reset value of each field (spec/18_register_map.md R528 to R535 and the chapters' register tables), and the words that
are not zero after a cold reset. Fields marked `.cmd` are those whose write is a row of the opcode table of its own. -/

namespace Sys2Proof.Machine

/-- Rows of the register table, part 0. -/
def regTable0 : List RegRow := [
  ⟨0x0, 1, 0x0, 1, 0x4, 0, [⟨15, 0, .ro, 0x1617⟩, ⟨23, 16, .ro, 0x1⟩, ⟨31, 24, .ro, 0x4E⟩]⟩,
  ⟨0x4, 1, 0x0, 1, 0x4, 0, [⟨1, 0, .ro, 0x0⟩, ⟨6, 4, .ro, 0x7⟩, ⟨31, 16, .ro, 0x0⟩]⟩,
  ⟨0x8, 1, 0x0, 1, 0x4, 0, [⟨4, 0, .ro, 0x11⟩, ⟨9, 5, .ro, 0x10⟩, ⟨13, 10, .ro, 0x8⟩, ⟨21, 16, .ro, 0x20⟩, ⟨25, 24, .ro, 0x3⟩, ⟨29, 28, .ro, 0x3⟩]⟩,
  ⟨0xC, 1, 0x0, 1, 0x4, 0, [⟨7, 0, .ro, 0xA⟩, ⟨15, 8, .ro, 0x10⟩, ⟨23, 16, .ro, 0xC⟩, ⟨31, 24, .ro, 0xA⟩]⟩,
  ⟨0x10, 1, 0x0, 1, 0x4, 0, [⟨5, 0, .ro, 0x20⟩, ⟨12, 8, .ro, 0x18⟩, ⟨22, 16, .ro, 0x40⟩, ⟨29, 24, .ro, 0x20⟩]⟩,
  ⟨0x14, 1, 0x0, 1, 0x4, 0, [⟨5, 0, .ro, 0x3F⟩]⟩,
  ⟨0x20, 1, 0x0, 1, 0x4, 1, [⟨31, 0, .ro, 0x0⟩]⟩,
  ⟨0x10000, 1, 0x0, 1, 0x4, 0, [⟨3, 0, .ro, 0x0⟩, ⟨6, 4, .ro, 0x0⟩, ⟨12, 8, .ro, 0x0⟩]⟩,
  ⟨0x10004, 1, 0x0, 1, 0x4, 0, [⟨3, 0, .ro, 0x0⟩]⟩,
  ⟨0x10008, 1, 0x0, 1, 0x4, 0, [⟨3, 0, .ro, 0x0⟩, ⟨6, 4, .ro, 0x3⟩]⟩,
  ⟨0x1000C, 1, 0x0, 1, 0x4, 0, [⟨27, 0, .ro, 0x0⟩]⟩,
  ⟨0x10010, 1, 0x0, 1, 0x4, 0, [⟨0, 0, .w1c, 0x0⟩, ⟨1, 1, .w1c, 0x0⟩, ⟨2, 2, .w1c, 0x0⟩, ⟨3, 3, .w1c, 0x0⟩, ⟨4, 4, .w1c, 0x0⟩]⟩,
  ⟨0x10014, 1, 0x0, 1, 0x4, 0, [⟨15, 0, .ro, 0x0⟩, ⟨31, 16, .ro, 0x0⟩]⟩,
  ⟨0x10018, 1, 0x0, 1, 0x4, 0, [⟨15, 0, .ro, 0x0⟩, ⟨31, 16, .ro, 0x0⟩]⟩,
  ⟨0x1001C, 1, 0x0, 1, 0x4, 0, [⟨15, 0, .ro, 0x0⟩]⟩,
  ⟨0x10020, 1, 0x0, 8, 0x4, 0, [⟨15, 0, .ro, 0x0⟩, ⟨31, 16, .ro, 0x0⟩]⟩,
  ⟨0x10040, 1, 0x0, 1, 0x4, 0, [⟨21, 0, .rw, 0x61A80⟩]⟩,
  ⟨0x10044, 1, 0x0, 1, 0x4, 0, [⟨21, 0, .rw, 0x9C40⟩]⟩,
  ⟨0x10048, 1, 0x0, 1, 0x4, 0, [⟨31, 0, .wo, 0x0⟩]⟩,
  ⟨0x1004C, 1, 0x0, 1, 0x4, 0, [⟨1, 0, .wo, 0x0⟩, ⟨4, 4, .wo, 0x0⟩]⟩,
  ⟨0x10050, 1, 0x0, 1, 0x4, 1, [⟨0, 0, .w1s, 0x0⟩]⟩,
  ⟨0x10054, 1, 0x0, 1, 0x4, 0, [⟨31, 0, .ro, 0x0⟩]⟩,
  ⟨0x10058, 1, 0x0, 1, 0x4, 0, [⟨4, 0, .rw, 0x10⟩]⟩,
  ⟨0x10060, 1, 0x0, 1, 0x4, 0, [⟨31, 0, .wo, 0x0⟩]⟩,
  ⟨0x10100, 1, 0x0, 16, 0x4, 0, [⟨31, 0, .rw, 0x0⟩]⟩,
  ⟨0x10140, 1, 0x0, 1, 0x4, 0, [⟨0, 0, .w1s, 0x0⟩, ⟨1, 1, .w1c, 0x0⟩]⟩,
  ⟨0x10144, 1, 0x0, 1, 0x4, 0, [⟨15, 0, .ro, 0x0⟩]⟩,
  ⟨0x10180, 1, 0x0, 16, 0x4, 0, [⟨31, 0, .ro, 0x0⟩]⟩,
  ⟨0x20000, 1, 0x0, 1, 0x4, 0, [⟨0, 0, .ro, 0x0⟩, ⟨1, 1, .ro, 0x0⟩, ⟨2, 2, .ro, 0x0⟩, ⟨3, 3, .ro, 0x0⟩, ⟨6, 4, .ro, 0x0⟩]⟩,
  ⟨0x20004, 1, 0x0, 1, 0x4, 0, [⟨5, 0, .ro, 0x0⟩]⟩,
  ⟨0x20008, 1, 0x0, 1, 0x4, 0, [⟨0, 0, .w1c, 0x0⟩, ⟨1, 1, .w1c, 0x0⟩, ⟨2, 2, .w1c, 0x0⟩, ⟨3, 3, .w1c, 0x0⟩]⟩,
  ⟨0x2000C, 1, 0x0, 1, 0x4, 0, [⟨15, 0, .ro, 0x0⟩, ⟨31, 16, .ro, 0x0⟩]⟩,
  ⟨0x20010, 1, 0x0, 1, 0x4, 0, [⟨15, 0, .ro, 0x0⟩, ⟨31, 16, .ro, 0x0⟩]⟩,
  ⟨0x20014, 1, 0x0, 1, 0x4, 0, [⟨0, 0, .wo, 0x0⟩]⟩,
  ⟨0x20018, 1, 0x0, 1, 0x4, 0, [⟨15, 0, .ro, 0x0⟩]⟩,
  ⟨0x20020, 1, 0x0, 6, 0x4, 0, [⟨22, 0, .ro, 0x0⟩, ⟨31, 31, .ro, 0x0⟩]⟩,
  ⟨0x30000, 1, 0x0, 1, 0x4, 0, [⟨2, 0, .ro, 0x0⟩, ⟨6, 4, .ro, 0x0⟩, ⟨10, 8, .ro, 0x0⟩, ⟨14, 12, .ro, 0x7⟩, ⟨16, 16, .ro, 0x0⟩, ⟨17, 17, .ro, 0x0⟩]⟩,
  ⟨0x30004, 1, 0x0, 1, 0x4, 0, [⟨2, 0, .cmd, 0x0⟩]⟩,
  ⟨0x30008, 1, 0x0, 1, 0x4, 0, [⟨2, 0, .wo, 0x0⟩]⟩,
  ⟨0x3000C, 1, 0x0, 1, 0x4, 0, [⟨2, 0, .rw, 0x1⟩, ⟨15, 8, .rw, 0x64⟩]⟩,
  ⟨0x30010, 1, 0x0, 1, 0x4, 0, [⟨31, 0, .rw, 0x1⟩]⟩,
  ⟨0x30014, 1, 0x0, 1, 0x4, 0, [⟨27, 0, .ro, 0x0⟩]⟩,
  ⟨0x30018, 1, 0x0, 1, 0x4, 0, [⟨27, 0, .rw, 0x0⟩]⟩,
  ⟨0x3001C, 1, 0x0, 1, 0x4, 0, [⟨31, 0, .ro, 0x0⟩]⟩,
  ⟨0x30020, 1, 0x0, 1, 0x4, 0, [⟨1, 0, .rw, 0x0⟩, ⟨6, 2, .rw, 0x0⟩, ⟨9, 7, .rw, 0x0⟩, ⟨12, 10, .rw, 0x0⟩, ⟨13, 13, .rw, 0x0⟩]⟩,
  ⟨0x30024, 1, 0x0, 1, 0x4, 0, [⟨30, 0, .rw, 0x8000000⟩]⟩,
  ⟨0x30028, 1, 0x0, 1, 0x4, 0, [⟨19, 0, .rw, 0xFA0⟩]⟩,
  ⟨0x3002C, 1, 0x0, 1, 0x4, 0, [⟨30, 0, .ro, 0x0⟩]⟩,
  ⟨0x30030, 1, 0x0, 1, 0x4, 0, [⟨0, 0, .rw, 0x1⟩]⟩,
  ⟨0x30040, 1, 0x0, 1, 0x4, 0, [⟨0, 0, .w1c, 0x0⟩, ⟨1, 1, .w1c, 0x0⟩, ⟨2, 2, .w1c, 0x0⟩, ⟨3, 3, .w1c, 0x0⟩]⟩,
  ⟨0x30044, 1, 0x0, 1, 0x4, 0, [⟨15, 0, .ro, 0x0⟩, ⟨31, 16, .ro, 0x0⟩]⟩,
  ⟨0x30048, 1, 0x0, 1, 0x4, 0, [⟨15, 0, .ro, 0x0⟩, ⟨31, 16, .ro, 0x0⟩]⟩,
  ⟨0x3004C, 1, 0x0, 1, 0x4, 0, [⟨3, 0, .ro, 0x0⟩, ⟨4, 4, .ro, 0x0⟩, ⟨10, 8, .ro, 0x0⟩, ⟨31, 16, .ro, 0x0⟩]⟩,
  ⟨0x30050, 1, 0x0, 4, 0x4, 0, [⟨15, 0, .ro, 0x0⟩, ⟨31, 16, .ro, 0x0⟩]⟩,
  ⟨0x30060, 1, 0x0, 1, 0x4, 0, [⟨3, 0, .rw, 0x0⟩, ⟨7, 4, .rw, 0x1⟩, ⟨15, 8, .rw, 0x5⟩]⟩,
  ⟨0x30064, 1, 0x0, 1, 0x4, 0, [⟨15, 0, .ro, 0x0⟩, ⟨31, 16, .ro, 0x0⟩]⟩,
  ⟨0x30070, 1, 0x0, 1, 0x4, 0, [⟨7, 0, .rw, 0x64⟩, ⟨15, 8, .rw, 0x5F⟩]⟩,
  ⟨0x30074, 1, 0x0, 1, 0x4, 0, [⟨7, 0, .ro, 0x0⟩]⟩,
  ⟨0x40000, 1, 0x0, 1, 0x4, 1, [⟨31, 0, .rw, 0x0⟩]⟩,
  ⟨0x40004, 1, 0x0, 1, 0x4, 1, [⟨14, 0, .rw, 0x0⟩]⟩]

/-- Rows of the register table, part 1. -/
def regTable1 : List RegRow := [
  ⟨0x40008, 1, 0x0, 1, 0x4, 1, [⟨21, 0, .rw, 0x0⟩]⟩,
  ⟨0x4000C, 1, 0x0, 1, 0x4, 1, [⟨1, 0, .wo, 0x0⟩]⟩,
  ⟨0x40010, 1, 0x0, 1, 0x4, 1, [⟨2, 0, .ro, 0x0⟩, ⟨31, 16, .ro, 0x0⟩]⟩,
  ⟨0x40014, 1, 0x0, 1, 0x4, 1, [⟨21, 0, .ro, 0x0⟩]⟩,
  ⟨0x40018, 1, 0x0, 1, 0x4, 1, [⟨7, 0, .ro, 0x0⟩, ⟨15, 8, .ro, 0x0⟩, ⟨17, 16, .ro, 0x0⟩, ⟨23, 20, .ro, 0x0⟩]⟩,
  ⟨0x40040, 1, 0x0, 16, 0x4, 1, [⟨31, 0, .ro, 0x0⟩]⟩,
  ⟨0x40080, 1, 0x0, 12, 0x4, 0, [⟨31, 0, .ro, 0x0⟩]⟩,
  ⟨0x400B0, 1, 0x0, 4, 0x4, 0, [⟨31, 0, .ro, 0x0⟩]⟩,
  ⟨0x400C0, 1, 0x0, 1, 0x4, 1, [⟨31, 0, .rw, 0x0⟩]⟩,
  ⟨0x400C4, 1, 0x0, 1, 0x4, 1, [⟨14, 0, .rw, 0x0⟩]⟩,
  ⟨0x400C8, 1, 0x0, 1, 0x4, 1, [⟨12, 0, .rw, 0x0⟩]⟩,
  ⟨0x400CC, 1, 0x0, 1, 0x4, 1, [⟨1, 0, .ro, 0x0⟩, ⟨25, 16, .ro, 0x0⟩]⟩,
  ⟨0x400D0, 1, 0x0, 1, 0x4, 1, [⟨9, 0, .ro, 0x0⟩, ⟨25, 16, .ro, 0x0⟩]⟩,
  ⟨0x40100, 1, 0x0, 1, 0x4, 1, [⟨0, 0, .rw, 0x0⟩]⟩,
  ⟨0x40104, 1, 0x0, 1, 0x4, 1, [⟨31, 0, .rw, 0x0⟩]⟩,
  ⟨0x40108, 1, 0x0, 1, 0x4, 1, [⟨31, 0, .rw, 0x0⟩]⟩,
  ⟨0x4010C, 1, 0x0, 1, 0x4, 1, [⟨1, 0, .wo, 0x0⟩]⟩,
  ⟨0x40110, 1, 0x0, 1, 0x4, 1, [⟨0, 0, .w1s, 0x0⟩]⟩,
  ⟨0x40120, 1, 0x0, 1, 0x4, 0, [⟨0, 0, .w1c, 0x0⟩, ⟨1, 1, .w1c, 0x0⟩, ⟨2, 2, .w1c, 0x0⟩, ⟨3, 3, .w1c, 0x0⟩, ⟨4, 4, .w1c, 0x0⟩, ⟨5, 5, .w1c, 0x0⟩]⟩,
  ⟨0x40124, 1, 0x0, 1, 0x4, 0, [⟨15, 0, .ro, 0x0⟩, ⟨31, 16, .ro, 0x0⟩]⟩,
  ⟨0x40128, 1, 0x0, 1, 0x4, 0, [⟨15, 0, .ro, 0x0⟩, ⟨31, 16, .ro, 0x0⟩]⟩,
  ⟨0x4012C, 1, 0x0, 1, 0x4, 0, [⟨15, 0, .ro, 0x0⟩, ⟨31, 16, .ro, 0x0⟩]⟩,
  ⟨0x50000, 1, 0x0, 1, 0x4, 0, [⟨0, 0, .cmd, 0x0⟩]⟩,
  ⟨0x50004, 1, 0x0, 1, 0x4, 0, [⟨21, 0, .rw, 0x61A80⟩]⟩,
  ⟨0x50008, 1, 0x0, 1, 0x4, 0, [⟨8, 0, .ro, 0x0⟩, ⟨21, 16, .ro, 0x0⟩, ⟨31, 31, .ro, 0x0⟩]⟩,
  ⟨0x5000C, 1, 0x0, 1, 0x4, 0, [⟨0, 0, .w1c, 0x0⟩, ⟨1, 1, .w1c, 0x0⟩, ⟨2, 2, .w1c, 0x0⟩, ⟨3, 3, .w1c, 0x0⟩]⟩,
  ⟨0x50010, 1, 0x0, 1, 0x4, 0, [⟨15, 0, .ro, 0x0⟩, ⟨31, 16, .ro, 0x0⟩]⟩,
  ⟨0x50014, 1, 0x0, 1, 0x4, 0, [⟨15, 0, .ro, 0x0⟩, ⟨31, 16, .ro, 0x0⟩]⟩,
  ⟨0x50018, 1, 0x0, 1, 0x4, 0, [⟨31, 0, .ro, 0x0⟩]⟩,
  ⟨0x5001C, 1, 0x0, 1, 0x4, 0, [⟨31, 0, .ro, 0x0⟩]⟩,
  ⟨0x50020, 1, 0x0, 1, 0x4, 0, [⟨31, 0, .ro, 0x0⟩]⟩,
  ⟨0x50024, 1, 0x0, 1, 0x4, 0, [⟨31, 0, .ro, 0x0⟩]⟩,
  ⟨0x50028, 1, 0x0, 1, 0x4, 0, [⟨31, 0, .ro, 0x0⟩]⟩,
  ⟨0x50040, 1, 0x0, 1, 0x4, 0, [⟨15, 0, .rw, 0x0⟩, ⟨31, 31, .rw, 0x0⟩]⟩,
  ⟨0x50044, 1, 0x0, 1, 0x4, 0, [⟨1, 0, .wo, 0x0⟩]⟩,
  ⟨0x50048, 1, 0x0, 1, 0x4, 0, [⟨0, 0, .ro, 0x0⟩, ⟨1, 1, .ro, 0x0⟩, ⟨2, 2, .ro, 0x0⟩]⟩,
  ⟨0x50080, 1, 0x0, 16, 0x4, 0, [⟨31, 0, .ro, 0x0⟩]⟩,
  ⟨0x80000, 1, 0x0, 1, 0x4, 1, [⟨0, 0, .w1s, 0x0⟩]⟩,
  ⟨0x80010, 1, 0x0, 1, 0x4, 1, [⟨6, 0, .ro, 0x40⟩]⟩,
  ⟨0x80014, 1, 0x0, 1, 0x4, 1, [⟨5, 0, .rwl, 0x0⟩]⟩,
  ⟨0x80018, 1, 0x0, 1, 0x4, 1, [⟨5, 0, .rwl, 0x8⟩]⟩,
  ⟨0x8001C, 1, 0x0, 1, 0x4, 1, [⟨3, 0, .rwl, 0x2⟩]⟩,
  ⟨0x80020, 1, 0x0, 1, 0x4, 1, [⟨5, 0, .rwl, 0x8⟩]⟩,
  ⟨0x80024, 1, 0x0, 1, 0x4, 1, [⟨0, 0, .w1c, 0x0⟩, ⟨31, 16, .ro, 0x0⟩]⟩,
  ⟨0x80040, 1, 0x0, 1, 0x4, 1, [⟨0, 0, .cmd, 0x0⟩, ⟨1, 1, .cmd, 0x1⟩, ⟨2, 2, .rw, 0x1⟩, ⟨3, 3, .rw, 0x1⟩, ⟨13, 8, .rw, 0x8⟩]⟩,
  ⟨0x80044, 1, 0x0, 1, 0x4, 1, [⟨3, 0, .wo, 0x0⟩]⟩,
  ⟨0x80048, 1, 0x0, 1, 0x4, 1, [⟨31, 6, .rw, 0x0⟩]⟩,
  ⟨0x8004C, 1, 0x0, 1, 0x4, 1, [⟨15, 0, .rw, 0x0⟩]⟩,
  ⟨0x80050, 1, 0x0, 1, 0x4, 1, [⟨31, 0, .rw, 0x0⟩]⟩,
  ⟨0x80054, 1, 0x0, 1, 0x4, 1, [⟨0, 0, .ro, 0x0⟩, ⟨1, 1, .ro, 0x0⟩, ⟨2, 2, .ro, 0x0⟩, ⟨3, 3, .w1c, 0x0⟩, ⟨4, 4, .w1c, 0x0⟩]⟩,
  ⟨0x80058, 1, 0x0, 1, 0x4, 1, [⟨15, 0, .ro, 0x0⟩, ⟨31, 16, .ro, 0x0⟩]⟩,
  ⟨0x80080, 1, 0x0, 1, 0x4, 1, [⟨31, 0, .ro, 0x0⟩]⟩,
  ⟨0x80084, 1, 0x0, 1, 0x4, 1, [⟨31, 0, .ro, 0x0⟩]⟩,
  ⟨0x80088, 1, 0x0, 1, 0x4, 1, [⟨0, 0, .w1c, 0x0⟩, ⟨1, 1, .w1c, 0x0⟩, ⟨2, 2, .w1c, 0x0⟩]⟩,
  ⟨0x8008C, 1, 0x0, 1, 0x4, 1, [⟨31, 0, .ro, 0x0⟩]⟩,
  ⟨0x80090, 1, 0x0, 1, 0x4, 1, [⟨15, 0, .ro, 0x0⟩]⟩,
  ⟨0x80094, 1, 0x0, 1, 0x4, 1, [⟨15, 0, .rw, 0xC0⟩]⟩,
  ⟨0x80098, 1, 0x0, 1, 0x4, 1, [⟨15, 0, .ro, 0x0⟩, ⟨31, 16, .ro, 0x0⟩]⟩,
  ⟨0x8009C, 1, 0x0, 1, 0x4, 1, [⟨15, 0, .ro, 0x0⟩]⟩,
  ⟨0x800C0, 1, 0x0, 1, 0x4, 1, [⟨15, 0, .cmd, 0x1000⟩]⟩]

/-- Rows of the register table, part 2. -/
def regTable2 : List RegRow := [
  ⟨0x800C4, 1, 0x0, 1, 0x4, 1, [⟨0, 0, .w1c, 0x0⟩, ⟨7, 2, .ro, 0x0⟩, ⟨31, 16, .ro, 0x0⟩]⟩,
  ⟨0x800D0, 1, 0x0, 1, 0x4, 1, [⟨31, 0, .ro, 0x0⟩]⟩,
  ⟨0x800D4, 1, 0x0, 1, 0x4, 1, [⟨31, 0, .ro, 0x0⟩]⟩,
  ⟨0x800D8, 1, 0x0, 1, 0x4, 1, [⟨15, 0, .ro, 0x0⟩]⟩,
  ⟨0xC0000, 1, 0x0, 1, 0x4, 1, [⟨5, 0, .ro, 0x0⟩, ⟨8, 8, .ro, 0x0⟩, ⟨31, 16, .ro, 0x0⟩]⟩,
  ⟨0xC0004, 1, 0x0, 1, 0x4, 1, [⟨0, 0, .w1c, 0x0⟩, ⟨1, 1, .w1c, 0x0⟩, ⟨2, 2, .w1c, 0x0⟩, ⟨3, 3, .w1c, 0x0⟩]⟩,
  ⟨0xC0008, 1, 0x0, 1, 0x4, 1, [⟨15, 0, .ro, 0x0⟩, ⟨31, 16, .ro, 0x0⟩]⟩,
  ⟨0xC000C, 1, 0x0, 1, 0x4, 1, [⟨15, 0, .ro, 0x0⟩, ⟨31, 16, .ro, 0x0⟩]⟩,
  ⟨0xC0010, 1, 0x0, 1, 0x4, 1, [⟨16, 0, .rw, 0x0⟩, ⟨31, 31, .rw, 0x0⟩]⟩,
  ⟨0xC0014, 1, 0x0, 1, 0x4, 1, [⟨17, 0, .rw, 0x1⟩]⟩,
  ⟨0xC0018, 1, 0x0, 1, 0x4, 1, [⟨31, 0, .rw, 0x0⟩]⟩,
  ⟨0xC001C, 1, 0x0, 1, 0x4, 1, [⟨1, 0, .wo, 0x0⟩]⟩,
  ⟨0xC0020, 1, 0x0, 1, 0x4, 1, [⟨31, 0, .ro, 0x0⟩]⟩,
  ⟨0xC0030, 1, 0x0, 1, 0x4, 1, [⟨16, 0, .ro, 0x0⟩, ⟨31, 31, .ro, 0x0⟩]⟩,
  ⟨0xC0040, 1, 0x0, 1, 0x4, 1, [⟨31, 0, .ro, 0x0⟩]⟩,
  ⟨0xC0044, 1, 0x0, 1, 0x4, 1, [⟨31, 0, .ro, 0x0⟩]⟩,
  ⟨0xC0048, 1, 0x0, 1, 0x4, 1, [⟨31, 0, .ro, 0x0⟩]⟩,
  ⟨0xC004C, 1, 0x0, 1, 0x4, 1, [⟨31, 0, .ro, 0x0⟩]⟩,
  ⟨0xC0100, 1, 0x0, 8, 0x4, 1, [⟨12, 0, .ro, 0x0⟩]⟩,
  ⟨0xC0200, 1, 0x0, 32, 0x4, 1, [⟨0, 0, .rw, 0x1⟩, ⟨1, 1, .rw, 0x0⟩]⟩,
  ⟨0x100000, 1, 0x0, 1, 0x4, 1, [⟨9, 0, .ro, 0x0⟩]⟩,
  ⟨0x100004, 1, 0x0, 1, 0x4, 1, [⟨31, 0, .ro, 0x0⟩]⟩,
  ⟨0x100008, 1, 0x0, 1, 0x4, 1, [⟨31, 0, .rwl, 0x0⟩]⟩,
  ⟨0x100010, 1, 0x0, 1, 0x4, 1, [⟨31, 0, .ro, 0x0⟩]⟩,
  ⟨0x100014, 1, 0x0, 1, 0x4, 1, [⟨31, 0, .ro, 0x0⟩]⟩,
  ⟨0x101000, 1, 0x0, 32, 0x10, 1, [⟨9, 0, .cmd, 0x0⟩, ⟨26, 16, .cmd, 0x0⟩]⟩,
  ⟨0x101004, 1, 0x0, 32, 0x10, 1, [⟨15, 0, .cmd, 0x0⟩]⟩,
  ⟨0x101008, 1, 0x0, 32, 0x10, 1, [⟨16, 0, .cmd, 0x0⟩]⟩,
  ⟨0x10100C, 1, 0x0, 32, 0x10, 1, [⟨11, 0, .cmd, 0x0⟩, ⟨28, 16, .cmd, 0x0⟩]⟩,
  ⟨0x101200, 1, 0x0, 32, 0x4, 1, [⟨7, 0, .cmd, 0x0⟩]⟩,
  ⟨0x101300, 1, 0x0, 1, 0x4, 1, [⟨0, 0, .w1c, 0x0⟩]⟩,
  ⟨0x101304, 1, 0x0, 1, 0x4, 1, [⟨15, 0, .ro, 0x0⟩]⟩,
  ⟨0x101308, 1, 0x0, 1, 0x4, 1, [⟨31, 0, .ro, 0x0⟩]⟩,
  ⟨0x10130C, 1, 0x0, 1, 0x4, 1, [⟨31, 0, .ro, 0x0⟩]⟩,
  ⟨0x140000, 1, 0x0, 1, 0x4, 1, [⟨0, 0, .wo, 0x0⟩]⟩,
  ⟨0x140004, 1, 0x0, 1, 0x4, 1, [⟨31, 0, .ro, 0x0⟩]⟩,
  ⟨0x140008, 1, 0x0, 1, 0x4, 1, [⟨25, 0, .ro, 0x0⟩]⟩,
  ⟨0x14000C, 1, 0x0, 1, 0x4, 1, [⟨0, 0, .w1c, 0x0⟩, ⟨1, 1, .w1c, 0x0⟩, ⟨31, 16, .ro, 0x0⟩]⟩,
  ⟨0x140010, 1, 0x0, 1, 0x4, 1, [⟨15, 0, .ro, 0x0⟩, ⟨31, 16, .ro, 0x0⟩]⟩,
  ⟨0x140014, 1, 0x0, 1, 0x4, 1, [⟨0, 0, .w1c, 0x0⟩, ⟨1, 1, .w1c, 0x0⟩]⟩,
  ⟨0x140018, 1, 0x0, 1, 0x4, 1, [⟨15, 0, .ro, 0x0⟩, ⟨31, 16, .ro, 0x0⟩]⟩,
  ⟨0x140100, 1, 0x0, 26, 0x4, 1, [⟨31, 0, .ro, 0x0⟩]⟩,
  ⟨0x141000, 1, 0x0, 8, 0x40, 1, [⟨0, 0, .rw, 0x0⟩, ⟨1, 1, .rw, 0x0⟩, ⟨31, 16, .rw, 0x0⟩]⟩,
  ⟨0x141004, 1, 0x0, 8, 0x40, 1, [⟨12, 0, .rw, 0x0⟩]⟩,
  ⟨0x141008, 1, 0x0, 8, 0x40, 1, [⟨4, 0, .rw, 0x0⟩, ⟨13, 8, .rw, 0x0⟩]⟩,
  ⟨0x14100C, 1, 0x0, 8, 0x40, 1, [⟨31, 0, .rw, 0x1E8480⟩]⟩,
  ⟨0x141010, 1, 0x0, 8, 0x40, 1, [⟨31, 0, .rw, 0x30D40⟩]⟩,
  ⟨0x141014, 1, 0x0, 8, 0x40, 1, [⟨15, 0, .rw, 0x0⟩, ⟨31, 16, .rw, 0x0⟩]⟩,
  ⟨0x141018, 1, 0x0, 8, 0x40, 1, [⟨15, 0, .rw, 0x0⟩, ⟨31, 16, .rw, 0x0⟩]⟩,
  ⟨0x14101C, 1, 0x0, 8, 0x40, 1, [⟨15, 0, .rw, 0x0⟩, ⟨31, 16, .rw, 0x0⟩]⟩,
  ⟨0x142000, 1, 0x0, 8, 0x40, 1, [⟨0, 0, .ro, 0x0⟩, ⟨1, 1, .ro, 0x0⟩, ⟨31, 16, .ro, 0x0⟩]⟩,
  ⟨0x142004, 1, 0x0, 8, 0x40, 1, [⟨12, 0, .ro, 0x0⟩]⟩,
  ⟨0x142008, 1, 0x0, 8, 0x40, 1, [⟨4, 0, .ro, 0x0⟩, ⟨13, 8, .ro, 0x0⟩]⟩,
  ⟨0x14200C, 1, 0x0, 8, 0x40, 1, [⟨31, 0, .ro, 0x1E8480⟩]⟩,
  ⟨0x142010, 1, 0x0, 8, 0x40, 1, [⟨31, 0, .ro, 0x30D40⟩]⟩,
  ⟨0x142014, 1, 0x0, 8, 0x40, 1, [⟨15, 0, .ro, 0x0⟩, ⟨31, 16, .ro, 0x0⟩]⟩,
  ⟨0x142018, 1, 0x0, 8, 0x40, 1, [⟨15, 0, .ro, 0x0⟩, ⟨31, 16, .ro, 0x0⟩]⟩,
  ⟨0x14201C, 1, 0x0, 8, 0x40, 1, [⟨15, 0, .ro, 0x0⟩, ⟨31, 16, .ro, 0x0⟩]⟩,
  ⟨0x143000, 1, 0x0, 8, 0x20, 1, [⟨3, 0, .ro, 0x0⟩, ⟨15, 8, .ro, 0x0⟩, ⟨31, 16, .ro, 0x0⟩]⟩,
  ⟨0x143004, 1, 0x0, 8, 0x20, 1, [⟨15, 0, .ro, 0x0⟩]⟩]

/-- Rows of the register table, part 3. -/
def regTable3 : List RegRow := [
  ⟨0x143008, 1, 0x0, 8, 0x20, 1, [⟨31, 0, .ro, 0x0⟩]⟩,
  ⟨0x14300C, 1, 0x0, 8, 0x20, 1, [⟨31, 0, .ro, 0x0⟩]⟩,
  ⟨0x143010, 1, 0x0, 8, 0x20, 1, [⟨15, 0, .ro, 0x0⟩, ⟨31, 16, .ro, 0x0⟩]⟩,
  ⟨0x200000, 17, 0x10000, 1, 0x4, 1, [⟨4, 0, .ro, 0x0⟩, ⟨9, 8, .ro, 0x0⟩, ⟨15, 12, .ro, 0x0⟩]⟩,
  ⟨0x200004, 17, 0x10000, 1, 0x4, 1, [⟨1, 0, .ro, 0x0⟩, ⟨13, 8, .ro, 0x0⟩, ⟨21, 16, .ro, 0x0⟩]⟩,
  ⟨0x200010, 17, 0x10000, 1, 0x4, 1, [⟨31, 0, .ro, 0x0⟩]⟩,
  ⟨0x200014, 17, 0x10000, 1, 0x4, 1, [⟨31, 0, .ro, 0x0⟩]⟩,
  ⟨0x200018, 17, 0x10000, 1, 0x4, 1, [⟨15, 0, .ro, 0x0⟩]⟩,
  ⟨0x200020, 17, 0x10000, 1, 0x4, 1, [⟨0, 0, .w1c, 0x0⟩, ⟨7, 4, .ro, 0x0⟩, ⟨31, 16, .ro, 0x0⟩]⟩,
  ⟨0x200040, 17, 0x10000, 1, 0x4, 1, [⟨0, 0, .cmd, 0x0⟩, ⟨1, 1, .cmd, 0x1⟩, ⟨2, 2, .rw, 0x1⟩, ⟨3, 3, .rw, 0x1⟩, ⟨13, 8, .rw, 0x8⟩]⟩,
  ⟨0x200044, 17, 0x10000, 1, 0x4, 1, [⟨3, 0, .wo, 0x0⟩]⟩,
  ⟨0x200048, 17, 0x10000, 1, 0x4, 1, [⟨31, 6, .rw, 0x0⟩]⟩,
  ⟨0x20004C, 17, 0x10000, 1, 0x4, 1, [⟨15, 0, .rw, 0x0⟩]⟩,
  ⟨0x200050, 17, 0x10000, 1, 0x4, 1, [⟨31, 0, .rw, 0x0⟩]⟩,
  ⟨0x200054, 17, 0x10000, 1, 0x4, 1, [⟨0, 0, .ro, 0x0⟩, ⟨1, 1, .ro, 0x0⟩, ⟨2, 2, .ro, 0x0⟩, ⟨3, 3, .w1c, 0x0⟩, ⟨4, 4, .w1c, 0x0⟩]⟩,
  ⟨0x200058, 17, 0x10000, 1, 0x4, 1, [⟨15, 0, .ro, 0x0⟩, ⟨31, 16, .ro, 0x0⟩]⟩,
  ⟨0x200080, 17, 0x10000, 1, 0x4, 1, [⟨0, 0, .w1c, 0x0⟩, ⟨1, 1, .w1c, 0x0⟩]⟩,
  ⟨0x200084, 17, 0x10000, 1, 0x4, 1, [⟨15, 0, .ro, 0x0⟩, ⟨31, 16, .ro, 0x0⟩]⟩,
  ⟨0x200088, 17, 0x10000, 8, 0x4, 1, [⟨31, 0, .ro, 0x0⟩]⟩,
  ⟨0x2000C0, 17, 0x10000, 1, 0x4, 1, [⟨31, 0, .ro, 0x0⟩]⟩,
  ⟨0x200100, 17, 0x10000, 1, 0x4, 1, [⟨0, 0, .ro, 0x0⟩, ⟨3, 1, .ro, 0x0⟩, ⟨4, 4, .ro, 0x0⟩, ⟨5, 5, .ro, 0x0⟩, ⟨11, 8, .ro, 0x0⟩]⟩,
  ⟨0x200104, 17, 0x10000, 1, 0x4, 1, [⟨31, 0, .ro, 0x0⟩]⟩,
  ⟨0x200108, 17, 0x10000, 1, 0x4, 1, [⟨31, 0, .ro, 0x0⟩]⟩,
  ⟨0x20010C, 17, 0x10000, 1, 0x4, 1, [⟨31, 0, .ro, 0x0⟩]⟩,
  ⟨0x200110, 17, 0x10000, 1, 0x4, 1, [⟨31, 0, .ro, 0x0⟩]⟩,
  ⟨0x200114, 17, 0x10000, 1, 0x4, 1, [⟨0, 0, .w1c, 0x0⟩, ⟨1, 1, .w1c, 0x0⟩]⟩,
  ⟨0x200118, 17, 0x10000, 1, 0x4, 1, [⟨15, 0, .ro, 0x0⟩, ⟨31, 16, .ro, 0x0⟩]⟩,
  ⟨0x20011C, 17, 0x10000, 1, 0x4, 1, [⟨31, 0, .ro, 0x0⟩]⟩,
  ⟨0x200120, 17, 0x10000, 1, 0x4, 1, [⟨15, 0, .ro, 0x0⟩]⟩,
  ⟨0x200124, 17, 0x10000, 1, 0x4, 1, [⟨6, 0, .rw, 0x40⟩, ⟨8, 8, .rw, 0x1⟩]⟩,
  ⟨0x200128, 17, 0x10000, 1, 0x4, 1, [⟨31, 0, .ro, 0x0⟩]⟩,
  ⟨0x20012C, 17, 0x10000, 1, 0x4, 1, [⟨31, 0, .ro, 0x0⟩]⟩,
  ⟨0x400000, 1, 0x0, 1, 0x4, 1, [⟨0, 0, .ro, 0x0⟩, ⟨2, 1, .ro, 0x0⟩, ⟨25, 16, .ro, 0x0⟩]⟩,
  ⟨0x400004, 1, 0x0, 1, 0x4, 1, [⟨0, 0, .w1c, 0x0⟩, ⟨1, 1, .w1c, 0x0⟩, ⟨2, 2, .w1c, 0x0⟩, ⟨3, 3, .w1c, 0x0⟩]⟩,
  ⟨0x400008, 1, 0x0, 1, 0x4, 1, [⟨15, 0, .ro, 0x0⟩, ⟨31, 16, .ro, 0x0⟩]⟩,
  ⟨0x40000C, 1, 0x0, 1, 0x4, 1, [⟨15, 0, .ro, 0x0⟩, ⟨31, 16, .ro, 0x0⟩]⟩,
  ⟨0x400010, 1, 0x0, 1, 0x4, 1, [⟨31, 0, .ro, 0x0⟩]⟩,
  ⟨0x400014, 1, 0x0, 1, 0x4, 1, [⟨15, 0, .ro, 0x0⟩]⟩,
  ⟨0x400018, 1, 0x0, 1, 0x4, 1, [⟨13, 0, .ro, 0x0⟩]⟩,
  ⟨0x40001C, 1, 0x0, 1, 0x4, 1, [⟨15, 0, .ro, 0x0⟩]⟩,
  ⟨0x400020, 1, 0x0, 1, 0x4, 1, [⟨15, 0, .rw, 0x0⟩]⟩,
  ⟨0x400024, 1, 0x0, 1, 0x4, 1, [⟨31, 0, .ro, 0x0⟩]⟩,
  ⟨0x400028, 1, 0x0, 1, 0x4, 1, [⟨31, 0, .ro, 0x0⟩]⟩,
  ⟨0x40002C, 1, 0x0, 1, 0x4, 1, [⟨31, 0, .ro, 0x0⟩]⟩,
  ⟨0x480000, 3, 0x100, 1, 0x4, 1, [⟨0, 0, .cmd, 0x0⟩, ⟨1, 1, .rw, 0x0⟩, ⟨2, 2, .rw, 0x0⟩, ⟨3, 3, .rw, 0x0⟩, ⟨5, 4, .rw, 0x0⟩, ⟨7, 6, .rw, 0x0⟩, ⟨8, 8, .rw, 0x0⟩, ⟨9, 9, .rw, 0x0⟩, ⟨10, 10, .rw, 0x0⟩, ⟨11, 11, .rw, 0x0⟩, ⟨12, 12, .rw, 0x0⟩]⟩,
  ⟨0x480004, 3, 0x100, 1, 0x4, 1, [⟨15, 0, .rw, 0x0⟩, ⟨31, 16, .rw, 0x0⟩]⟩,
  ⟨0x480008, 3, 0x100, 1, 0x4, 1, [⟨15, 0, .rw, 0x0⟩, ⟨31, 16, .rw, 0x0⟩]⟩,
  ⟨0x48000C, 3, 0x100, 1, 0x4, 1, [⟨15, 0, .rw, 0x0⟩, ⟨31, 16, .rw, 0x0⟩]⟩,
  ⟨0x480010, 3, 0x100, 1, 0x4, 1, [⟨15, 0, .rw, 0x0⟩, ⟨31, 16, .rw, 0x0⟩]⟩,
  ⟨0x480014, 3, 0x100, 1, 0x4, 1, [⟨31, 0, .rw, 0x0⟩]⟩,
  ⟨0x480018, 3, 0x100, 1, 0x4, 1, [⟨29, 0, .rw, 0x0⟩]⟩,
  ⟨0x48001C, 3, 0x100, 1, 0x4, 1, [⟨15, 0, .rw, 0xFFFF⟩]⟩,
  ⟨0x480020, 3, 0x100, 1, 0x4, 1, [⟨15, 0, .ro, 0x0⟩]⟩,
  ⟨0x480024, 3, 0x100, 1, 0x4, 1, [⟨31, 0, .ro, 0x0⟩]⟩,
  ⟨0x480028, 3, 0x100, 1, 0x4, 1, [⟨0, 0, .w1c, 0x0⟩, ⟨1, 1, .w1c, 0x0⟩, ⟨2, 2, .w1c, 0x0⟩, ⟨3, 3, .w1c, 0x0⟩, ⟨4, 4, .ro, 0x0⟩]⟩,
  ⟨0x48002C, 3, 0x100, 1, 0x4, 1, [⟨15, 0, .ro, 0x0⟩, ⟨31, 16, .ro, 0x0⟩]⟩,
  ⟨0x480030, 3, 0x100, 1, 0x4, 1, [⟨15, 0, .ro, 0x0⟩, ⟨31, 16, .ro, 0x0⟩]⟩,
  ⟨0x480034, 3, 0x100, 1, 0x4, 1, [⟨31, 0, .ro, 0x0⟩]⟩,
  ⟨0x480038, 3, 0x100, 1, 0x4, 1, [⟨31, 0, .ro, 0x0⟩]⟩,
  ⟨0x480040, 3, 0x100, 1, 0x4, 1, [⟨0, 0, .cmd, 0x0⟩, ⟨3, 1, .rwl, 0x0⟩, ⟨4, 4, .w1s, 0x0⟩, ⟨25, 16, .rwl, 0x0⟩]⟩]

/-- Rows of the register table, part 4. -/
def regTable4 : List RegRow := [
  ⟨0x480044, 3, 0x100, 1, 0x4, 1, [⟨15, 0, .rwl, 0x0⟩, ⟨31, 16, .rwl, 0x0⟩]⟩,
  ⟨0x480048, 3, 0x100, 1, 0x4, 1, [⟨15, 0, .rwl, 0x0⟩, ⟨31, 16, .rwl, 0x0⟩]⟩,
  ⟨0x48004C, 3, 0x100, 1, 0x4, 1, [⟨31, 0, .rwl, 0x0⟩]⟩,
  ⟨0x480050, 3, 0x100, 1, 0x4, 1, [⟨29, 0, .rwl, 0x0⟩]⟩,
  ⟨0x480054, 3, 0x100, 1, 0x4, 1, [⟨31, 0, .rw, 0x0⟩]⟩,
  ⟨0x480058, 3, 0x100, 1, 0x4, 1, [⟨15, 0, .rw, 0x0⟩]⟩,
  ⟨0x48005C, 3, 0x100, 1, 0x4, 1, [⟨0, 0, .w1s, 0x0⟩]⟩,
  ⟨0x480080, 3, 0x100, 12, 0x4, 1, [⟨31, 0, .rw, 0x0⟩]⟩,
  ⟨0x4800C0, 3, 0x100, 1, 0x4, 1, [⟨3, 0, .rw, 0x0⟩, ⟨8, 4, .rw, 0x0⟩, ⟨31, 12, .rw, 0x0⟩]⟩,
  ⟨0x4800C4, 3, 0x100, 4, 0x4, 1, [⟨31, 0, .rw, 0x0⟩]⟩,
  ⟨0x4800D4, 3, 0x100, 1, 0x4, 1, [⟨3, 0, .ro, 0x0⟩]⟩,
  ⟨0x481000, 24, 0x40, 1, 0x4, 1, [⟨0, 0, .rw, 0x0⟩, ⟨2, 1, .rw, 0x3⟩, ⟨8, 4, .rw, 0x0⟩, ⟨25, 16, .rw, 0x0⟩]⟩,
  ⟨0x481004, 24, 0x40, 1, 0x4, 1, [⟨2, 0, .ro, 0x0⟩, ⟨3, 3, .ro, 0x0⟩]⟩,
  ⟨0x481008, 24, 0x40, 1, 0x4, 1, [⟨0, 0, .w1c, 0x0⟩, ⟨1, 1, .w1c, 0x0⟩]⟩,
  ⟨0x48100C, 24, 0x40, 1, 0x4, 1, [⟨15, 0, .ro, 0x0⟩, ⟨31, 16, .ro, 0x0⟩]⟩,
  ⟨0x481010, 24, 0x40, 1, 0x4, 1, [⟨31, 0, .ro, 0x0⟩]⟩,
  ⟨0x481014, 24, 0x40, 1, 0x4, 1, [⟨15, 0, .ro, 0x0⟩]⟩,
  ⟨0x483000, 8, 0x40, 12, 0x4, 1, [⟨31, 0, .rw, 0x0⟩]⟩,
  ⟨0x484000, 1, 0x2000, 2048, 0x4, 1, [⟨31, 0, .rw, 0x0⟩]⟩,
  ⟨0x500000, 1, 0x0, 1, 0x4, 1, [⟨0, 0, .ro, 0x0⟩, ⟨1, 1, .ro, 0x0⟩, ⟨2, 2, .ro, 0x0⟩, ⟨3, 3, .ro, 0x0⟩, ⟨4, 4, .w1c, 0x0⟩, ⟨31, 16, .ro, 0x0⟩]⟩,
  ⟨0x500004, 1, 0x0, 1, 0x4, 1, [⟨0, 0, .wo, 0x0⟩]⟩,
  ⟨0x500100, 1, 0x0, 4, 0x10, 1, [⟨1, 0, .cmd, 0x0⟩, ⟨2, 2, .cmd, 0x0⟩, ⟨3, 3, .cmd, 0x0⟩, ⟨5, 4, .cmd, 0x0⟩, ⟨8, 6, .cmd, 0x0⟩, ⟨9, 9, .cmd, 0x0⟩, ⟨10, 10, .cmd, 0x0⟩, ⟨11, 11, .cmd, 0x0⟩, ⟨12, 12, .cmd, 0x0⟩, ⟨14, 13, .cmd, 0x0⟩, ⟨17, 16, .cmd, 0x0⟩]⟩,
  ⟨0x500104, 1, 0x0, 4, 0x10, 1, [⟨0, 0, .w1c, 0x0⟩, ⟨1, 1, .w1c, 0x0⟩, ⟨2, 2, .ro, 0x0⟩, ⟨31, 16, .ro, 0x0⟩]⟩,
  ⟨0x500108, 1, 0x0, 4, 0x10, 1, [⟨15, 0, .ro, 0x0⟩]⟩,
  ⟨0x50010C, 1, 0x0, 4, 0x10, 1, [⟨31, 0, .ro, 0x0⟩]⟩,
  ⟨0x500200, 1, 0x0, 2, 0x10, 1, [⟨0, 0, .rw, 0x0⟩, ⟨2, 1, .rw, 0x0⟩]⟩,
  ⟨0x500204, 1, 0x0, 2, 0x10, 1, [⟨0, 0, .w1c, 0x0⟩, ⟨1, 1, .w1c, 0x0⟩, ⟨2, 2, .w1c, 0x0⟩, ⟨31, 16, .ro, 0x0⟩]⟩,
  ⟨0x500208, 1, 0x0, 2, 0x10, 1, [⟨15, 0, .ro, 0x0⟩, ⟨31, 16, .ro, 0x0⟩]⟩,
  ⟨0x50020C, 1, 0x0, 2, 0x10, 1, [⟨31, 0, .ro, 0x0⟩]⟩,
  ⟨0x501000, 32, 0x100, 1, 0x4, 1, [⟨3, 0, .rw, 0x0⟩, ⟨5, 4, .rw, 0x0⟩, ⟨6, 6, .rw, 0x0⟩, ⟨11, 7, .rw, 0x0⟩, ⟨17, 12, .rw, 0x0⟩, ⟨20, 18, .rw, 0x0⟩, ⟨22, 21, .rw, 0x0⟩, ⟨23, 23, .rw, 0x0⟩, ⟨24, 24, .rw, 0x0⟩, ⟨25, 25, .rw, 0x0⟩, ⟨28, 26, .rw, 0x0⟩]⟩,
  ⟨0x501004, 32, 0x100, 1, 0x4, 1, [⟨9, 0, .rw, 0x0⟩, ⟨14, 12, .rw, 0x0⟩, ⟨19, 16, .rw, 0x0⟩, ⟨28, 24, .rw, 0x0⟩]⟩,
  ⟨0x501008, 32, 0x100, 1, 0x4, 1, [⟨15, 0, .rw, 0x0⟩, ⟨21, 16, .rw, 0x0⟩, ⟨23, 22, .rw, 0x0⟩]⟩,
  ⟨0x50100C, 32, 0x100, 1, 0x4, 1, [⟨0, 0, .wo, 0x0⟩, ⟨1, 1, .wo, 0x0⟩]⟩,
  ⟨0x501010, 32, 0x100, 1, 0x4, 1, [⟨2, 0, .ro, 0x0⟩, ⟨3, 3, .ro, 0x0⟩, ⟨31, 16, .ro, 0x0⟩]⟩,
  ⟨0x501014, 32, 0x100, 1, 0x4, 1, [⟨17, 0, .rw, 0x0⟩]⟩,
  ⟨0x501018, 32, 0x100, 1, 0x4, 1, [⟨31, 0, .rw, 0x0⟩]⟩,
  ⟨0x50101C, 32, 0x100, 1, 0x4, 1, [⟨3, 0, .rw, 0x0⟩]⟩,
  ⟨0x501020, 32, 0x100, 1, 0x4, 1, [⟨31, 0, .rw, 0x0⟩]⟩,
  ⟨0x501024, 32, 0x100, 1, 0x4, 1, [⟨15, 0, .rw, 0x0⟩]⟩,
  ⟨0x501028, 32, 0x100, 1, 0x4, 1, [⟨31, 0, .rw, 0x0⟩]⟩,
  ⟨0x50102C, 32, 0x100, 1, 0x4, 1, [⟨15, 0, .rw, 0x0⟩]⟩,
  ⟨0x501030, 32, 0x100, 1, 0x4, 1, [⟨31, 0, .rw, 0x0⟩]⟩,
  ⟨0x501034, 32, 0x100, 1, 0x4, 1, [⟨15, 0, .rw, 0x0⟩]⟩,
  ⟨0x501038, 32, 0x100, 1, 0x4, 1, [⟨31, 0, .rw, 0x0⟩]⟩,
  ⟨0x50103C, 32, 0x100, 1, 0x4, 1, [⟨15, 0, .rw, 0x0⟩]⟩,
  ⟨0x501040, 32, 0x100, 1, 0x4, 1, [⟨31, 0, .rw, 0x0⟩]⟩,
  ⟨0x501044, 32, 0x100, 1, 0x4, 1, [⟨15, 0, .rw, 0x0⟩]⟩,
  ⟨0x501048, 32, 0x100, 1, 0x4, 1, [⟨31, 0, .rw, 0x0⟩]⟩,
  ⟨0x50104C, 32, 0x100, 1, 0x4, 1, [⟨15, 0, .rw, 0x0⟩]⟩,
  ⟨0x501050, 32, 0x100, 1, 0x4, 1, [⟨31, 0, .rw, 0x0⟩]⟩,
  ⟨0x501054, 32, 0x100, 1, 0x4, 1, [⟨15, 0, .rw, 0x0⟩]⟩,
  ⟨0x501058, 32, 0x100, 1, 0x4, 1, [⟨31, 0, .rw, 0x0⟩]⟩,
  ⟨0x50105C, 32, 0x100, 1, 0x4, 1, [⟨15, 0, .rw, 0x0⟩]⟩,
  ⟨0x501060, 32, 0x100, 1, 0x4, 1, [⟨31, 0, .rw, 0x0⟩]⟩,
  ⟨0x501064, 32, 0x100, 1, 0x4, 1, [⟨15, 0, .rw, 0x0⟩]⟩,
  ⟨0x501068, 32, 0x100, 1, 0x4, 1, [⟨31, 0, .rw, 0x0⟩]⟩,
  ⟨0x50106C, 32, 0x100, 1, 0x4, 1, [⟨15, 0, .rw, 0x0⟩]⟩,
  ⟨0x501070, 32, 0x100, 1, 0x4, 1, [⟨31, 0, .ro, 0x0⟩]⟩,
  ⟨0x501074, 32, 0x100, 1, 0x4, 1, [⟨31, 0, .ro, 0x0⟩]⟩,
  ⟨0x501078, 32, 0x100, 1, 0x4, 1, [⟨31, 0, .ro, 0x0⟩]⟩,
  ⟨0x50107C, 32, 0x100, 1, 0x4, 1, [⟨31, 0, .ro, 0x0⟩]⟩]

/-- Rows of the register table, part 5. -/
def regTable5 : List RegRow := [
  ⟨0x501080, 32, 0x100, 1, 0x4, 1, [⟨0, 0, .w1c, 0x0⟩, ⟨1, 1, .w1c, 0x0⟩, ⟨2, 2, .w1c, 0x0⟩, ⟨3, 3, .w1c, 0x0⟩, ⟨4, 4, .w1c, 0x0⟩, ⟨5, 5, .w1c, 0x0⟩]⟩,
  ⟨0x501084, 32, 0x100, 1, 0x4, 1, [⟨15, 0, .ro, 0x0⟩, ⟨31, 16, .ro, 0x0⟩]⟩,
  ⟨0x501088, 32, 0x100, 1, 0x4, 1, [⟨15, 0, .ro, 0x0⟩, ⟨31, 16, .ro, 0x0⟩]⟩,
  ⟨0x50108C, 32, 0x100, 1, 0x4, 1, [⟨15, 0, .ro, 0x0⟩, ⟨31, 16, .ro, 0x0⟩]⟩,
  ⟨0x580000, 1, 0x0, 1, 0x4, 1, [⟨23, 0, .ro, 0x0⟩, ⟨26, 24, .ro, 0x0⟩, ⟨28, 28, .ro, 0x0⟩, ⟨30, 29, .ro, 0x0⟩, ⟨31, 31, .ro, 0x0⟩]⟩,
  ⟨0x580004, 1, 0x0, 1, 0x4, 1, [⟨3, 0, .ro, 0x1⟩, ⟨4, 4, .ro, 0x0⟩, ⟨11, 8, .ro, 0x0⟩, ⟨12, 12, .ro, 0x0⟩]⟩,
  ⟨0x580008, 1, 0x0, 1, 0x4, 1, [⟨0, 0, .w1c, 0x0⟩, ⟨1, 1, .w1c, 0x0⟩, ⟨2, 2, .w1c, 0x0⟩, ⟨3, 3, .w1c, 0x0⟩, ⟨4, 4, .w1c, 0x0⟩, ⟨5, 5, .w1c, 0x0⟩, ⟨6, 6, .w1c, 0x0⟩, ⟨31, 16, .ro, 0x0⟩]⟩,
  ⟨0x58000C, 1, 0x0, 1, 0x4, 1, [⟨15, 0, .ro, 0x0⟩, ⟨31, 16, .ro, 0x0⟩]⟩,
  ⟨0x580010, 1, 0x0, 1, 0x4, 1, [⟨15, 0, .ro, 0x0⟩, ⟨31, 16, .ro, 0x0⟩]⟩,
  ⟨0x580014, 1, 0x0, 1, 0x4, 1, [⟨15, 0, .ro, 0x0⟩, ⟨31, 16, .ro, 0x0⟩]⟩,
  ⟨0x580018, 1, 0x0, 1, 0x4, 1, [⟨15, 0, .ro, 0x0⟩]⟩,
  ⟨0x580020, 1, 0x0, 1, 0x4, 1, [⟨2, 0, .wo, 0x0⟩]⟩,
  ⟨0x580030, 1, 0x0, 1, 0x4, 1, [⟨31, 0, .ro, 0x0⟩]⟩,
  ⟨0x580034, 1, 0x0, 1, 0x4, 1, [⟨31, 0, .ro, 0x0⟩]⟩,
  ⟨0x580038, 1, 0x0, 1, 0x4, 1, [⟨31, 0, .ro, 0x0⟩]⟩,
  ⟨0x58003C, 1, 0x0, 1, 0x4, 1, [⟨31, 0, .ro, 0x0⟩]⟩,
  ⟨0x580100, 1, 0x0, 3, 0x20, 1, [⟨0, 0, .rw, 0x1⟩, ⟨1, 1, .rw, 0x0⟩, ⟨15, 8, .rw, 0x40⟩]⟩,
  ⟨0x580104, 1, 0x0, 3, 0x20, 1, [⟨2, 0, .ro, 0x0⟩, ⟨7, 4, .ro, 0x0⟩, ⟨9, 8, .ro, 0x0⟩, ⟨10, 10, .ro, 0x0⟩]⟩,
  ⟨0x580108, 1, 0x0, 3, 0x20, 1, [⟨31, 0, .ro, 0x0⟩]⟩,
  ⟨0x58010C, 1, 0x0, 3, 0x20, 1, [⟨31, 0, .ro, 0x0⟩]⟩,
  ⟨0x580110, 1, 0x0, 3, 0x20, 1, [⟨31, 0, .ro, 0x0⟩]⟩,
  ⟨0x580114, 1, 0x0, 3, 0x20, 1, [⟨31, 0, .ro, 0x0⟩]⟩,
  ⟨0x580118, 1, 0x0, 3, 0x20, 1, [⟨31, 0, .ro, 0x0⟩]⟩,
  ⟨0x580200, 1, 0x0, 8, 0x4, 1, [⟨9, 0, .rw, 0x0⟩]⟩,
  ⟨0x580220, 1, 0x0, 8, 0x4, 1, [⟨9, 0, .ro, 0x0⟩]⟩,
  ⟨0x580300, 1, 0x0, 1, 0x4, 1, [⟨23, 0, .rw, 0x0⟩, ⟨26, 24, .rw, 0x0⟩]⟩,
  ⟨0x580304, 1, 0x0, 1, 0x4, 1, [⟨23, 2, .rw, 0x0⟩]⟩,
  ⟨0x580308, 1, 0x0, 1, 0x4, 1, [⟨31, 0, .rw, 0x0⟩]⟩,
  ⟨0x58030C, 1, 0x0, 1, 0x4, 1, [⟨1, 0, .wo, 0x0⟩]⟩,
  ⟨0x580310, 1, 0x0, 1, 0x4, 1, [⟨0, 0, .ro, 0x0⟩, ⟨31, 16, .ro, 0x0⟩]⟩,
  ⟨0x581000, 1, 0x0, 256, 0x20, 1, [⟨0, 0, .cmd, 0x0⟩, ⟨7, 4, .rw, 0x0⟩, ⟨11, 8, .rw, 0x0⟩, ⟨25, 16, .rw, 0x0⟩]⟩,
  ⟨0x581004, 1, 0x0, 256, 0x20, 1, [⟨15, 0, .rw, 0x0⟩]⟩,
  ⟨0x581008, 1, 0x0, 256, 0x20, 1, [⟨31, 0, .rw, 0x0⟩]⟩,
  ⟨0x58100C, 1, 0x0, 256, 0x20, 1, [⟨15, 0, .rw, 0x0⟩]⟩,
  ⟨0x581010, 1, 0x0, 256, 0x20, 1, [⟨31, 0, .rw, 0x0⟩]⟩,
  ⟨0x581014, 1, 0x0, 256, 0x20, 1, [⟨15, 0, .rw, 0x0⟩]⟩,
  ⟨0x581018, 1, 0x0, 256, 0x20, 1, [⟨31, 0, .ro, 0x0⟩]⟩,
  ⟨0x58101C, 1, 0x0, 256, 0x20, 1, [⟨0, 0, .w1c, 0x0⟩, ⟨31, 16, .ro, 0x0⟩]⟩,
  ⟨0x588000, 1, 0x0, 4096, 0x8, 1, [⟨31, 0, .rw, 0x0⟩]⟩,
  ⟨0x588004, 1, 0x0, 4096, 0x8, 1, [⟨31, 0, .rw, 0x0⟩]⟩,
  ⟨0x600000, 2, 0x20, 1, 0x4, 1, [⟨0, 0, .ro, 0x0⟩, ⟨1, 1, .ro, 0x0⟩, ⟨7, 4, .ro, 0x0⟩, ⟨25, 16, .ro, 0x0⟩]⟩,
  ⟨0x600004, 2, 0x20, 1, 0x4, 1, [⟨8, 0, .ro, 0x0⟩]⟩,
  ⟨0x600008, 2, 0x20, 1, 0x4, 1, [⟨0, 0, .w1c, 0x0⟩, ⟨1, 1, .w1c, 0x0⟩, ⟨2, 2, .w1c, 0x0⟩]⟩,
  ⟨0x60000C, 2, 0x20, 1, 0x4, 1, [⟨15, 0, .ro, 0x0⟩, ⟨31, 16, .ro, 0x0⟩]⟩,
  ⟨0x600010, 2, 0x20, 1, 0x4, 1, [⟨15, 0, .ro, 0x0⟩]⟩,
  ⟨0x600014, 2, 0x20, 1, 0x4, 1, [⟨31, 0, .ro, 0x0⟩]⟩,
  ⟨0x600018, 2, 0x20, 1, 0x4, 1, [⟨31, 0, .ro, 0x0⟩]⟩,
  ⟨0x60001C, 2, 0x20, 1, 0x4, 1, [⟨31, 0, .ro, 0x0⟩]⟩,
  ⟨0x680000, 1, 0x0, 1, 0x4, 1, [⟨5, 0, .ro, 0x0⟩, ⟨11, 8, .ro, 0x0⟩, ⟨31, 16, .ro, 0x0⟩]⟩,
  ⟨0x680004, 1, 0x0, 1, 0x4, 1, [⟨0, 0, .ro, 0x0⟩, ⟨1, 1, .ro, 0x0⟩, ⟨2, 2, .ro, 0x0⟩]⟩,
  ⟨0x680008, 1, 0x0, 1, 0x4, 1, [⟨31, 0, .ro, 0x0⟩]⟩,
  ⟨0x68000C, 1, 0x0, 1, 0x4, 1, [⟨31, 0, .ro, 0x0⟩]⟩,
  ⟨0x680010, 1, 0x0, 1, 0x4, 1, [⟨0, 0, .w1c, 0x0⟩, ⟨1, 1, .w1c, 0x0⟩]⟩,
  ⟨0x680014, 1, 0x0, 1, 0x4, 1, [⟨15, 0, .ro, 0x0⟩, ⟨31, 16, .ro, 0x0⟩]⟩,
  ⟨0x680018, 1, 0x0, 1, 0x4, 1, [⟨31, 0, .ro, 0x0⟩]⟩,
  ⟨0x68001C, 1, 0x0, 1, 0x4, 1, [⟨15, 0, .ro, 0x0⟩]⟩,
  ⟨0x680020, 1, 0x0, 1, 0x4, 1, [⟨15, 0, .rw, 0x10⟩]⟩,
  ⟨0x700000, 1, 0x0, 1, 0x4, 1, [⟨0, 0, .rw, 0x0⟩, ⟨1, 1, .rw, 0x0⟩, ⟨2, 2, .rw, 0x0⟩, ⟨3, 3, .rw, 0x0⟩, ⟨5, 4, .rw, 0x3⟩, ⟨10, 8, .rw, 0x0⟩, ⟨31, 16, .rw, 0x3E8⟩]⟩,
  ⟨0x700004, 1, 0x0, 1, 0x4, 1, [⟨1, 0, .ro, 0x0⟩, ⟨12, 8, .ro, 0x0⟩, ⟨19, 16, .ro, 0x0⟩, ⟨28, 24, .ro, 0x1F⟩]⟩,
  ⟨0x700008, 1, 0x0, 1, 0x4, 1, [⟨0, 0, .w1c, 0x0⟩, ⟨1, 1, .w1c, 0x0⟩, ⟨2, 2, .w1c, 0x0⟩, ⟨3, 3, .w1c, 0x0⟩, ⟨4, 4, .w1c, 0x0⟩]⟩]

/-- Rows of the register table, part 6. -/
def regTable6 : List RegRow := [
  ⟨0x70000C, 1, 0x0, 1, 0x4, 1, [⟨15, 0, .ro, 0x0⟩, ⟨31, 16, .ro, 0x0⟩]⟩,
  ⟨0x700010, 1, 0x0, 1, 0x4, 1, [⟨15, 0, .ro, 0x0⟩, ⟨31, 16, .ro, 0x0⟩]⟩,
  ⟨0x700014, 1, 0x0, 1, 0x4, 1, [⟨15, 0, .ro, 0x0⟩]⟩,
  ⟨0x700018, 1, 0x0, 1, 0x4, 1, [⟨31, 0, .ro, 0x0⟩]⟩,
  ⟨0x700020, 1, 0x0, 1, 0x4, 0, [⟨16, 0, .ro, 0x0⟩]⟩,
  ⟨0x700024, 1, 0x0, 1, 0x4, 0, [⟨31, 0, .ro, 0x0⟩]⟩,
  ⟨0x700028, 1, 0x0, 1, 0x4, 0, [⟨1, 0, .ro, 0x0⟩]⟩,
  ⟨0x700040, 1, 0x0, 1, 0x4, 0, [⟨8, 0, .ro, 0x0⟩, ⟨22, 16, .ro, 0x0⟩, ⟨31, 31, .ro, 0x0⟩]⟩,
  ⟨0x700044, 1, 0x0, 1, 0x4, 0, [⟨2, 0, .rw, 0x4⟩]⟩,
  ⟨0x700050, 1, 0x0, 3, 0x4, 1, [⟨31, 0, .rw, 0x0⟩]⟩,
  ⟨0x1000000, 32, 0x10000, 1, 0x4, 0, [⟨4, 0, .ro, 0x0⟩, ⟨5, 5, .ro, 0x0⟩, ⟨31, 16, .ro, 0x1617⟩]⟩,
  ⟨0x1000400, 32, 0x10000, 8, 0x4, 3, [⟨31, 0, .rw, 0x0⟩]⟩,
  ⟨0x1000420, 32, 0x10000, 1, 0x4, 3, [⟨31, 6, .rw, 0x0⟩]⟩,
  ⟨0x1000424, 32, 0x10000, 1, 0x4, 3, [⟨14, 0, .rw, 0x0⟩]⟩,
  ⟨0x1000428, 32, 0x10000, 1, 0x4, 3, [⟨31, 0, .rw, 0x0⟩]⟩,
  ⟨0x100042C, 32, 0x10000, 1, 0x4, 4, [⟨1, 0, .wo, 0x0⟩]⟩,
  ⟨0x1000430, 32, 0x10000, 1, 0x4, 3, [⟨0, 0, .ro, 0x0⟩, ⟨1, 1, .w1c, 0x0⟩, ⟨31, 16, .ro, 0x0⟩]⟩,
  ⟨0x1000434, 32, 0x10000, 1, 0x4, 3, [⟨15, 0, .ro, 0x0⟩]⟩,
  ⟨0x1000440, 32, 0x10000, 1, 0x4, 3, [⟨2, 0, .rw, 0x0⟩]⟩,
  ⟨0x1000444, 32, 0x10000, 16, 0x4, 3, [⟨31, 0, .rw, 0x0⟩]⟩,
  ⟨0x1000484, 32, 0x10000, 1, 0x4, 4, [⟨0, 0, .wo, 0x0⟩]⟩,
  ⟨0x1000488, 32, 0x10000, 1, 0x4, 3, [⟨0, 0, .ro, 0x0⟩]⟩,
  ⟨0x1001000, 32, 0x10000, 1, 0x4, 3, [⟨9, 0, .rw, 0x0⟩]⟩,
  ⟨0x1001020, 32, 0x10000, 1, 0x4, 3, [⟨2, 0, .wo, 0x0⟩]⟩,
  ⟨0x1001040, 32, 0x10000, 1, 0x4, 3, [⟨31, 12, .rw, 0x0⟩]⟩,
  ⟨0x1001044, 32, 0x10000, 1, 0x4, 3, [⟨14, 0, .rw, 0x0⟩]⟩,
  ⟨0x1001048, 32, 0x10000, 1, 0x4, 3, [⟨0, 0, .w1c, 0x0⟩, ⟨31, 16, .ro, 0x0⟩]⟩,
  ⟨0x100104C, 32, 0x10000, 1, 0x4, 3, [⟨31, 0, .ro, 0x0⟩]⟩,
  ⟨0x1001200, 32, 0x10000, 1, 0x4, 3, [⟨9, 0, .rw, 0x0⟩]⟩,
  ⟨0x1001204, 32, 0x10000, 1, 0x4, 3, [⟨2, 0, .rw, 0x0⟩]⟩,
  ⟨0x1001208, 32, 0x10000, 1, 0x4, 4, [⟨1, 0, .wo, 0x0⟩]⟩,
  ⟨0x1001210, 32, 0x10000, 1, 0x4, 1, [⟨0, 0, .w1c, 0x0⟩, ⟨1, 1, .w1c, 0x0⟩, ⟨2, 2, .w1c, 0x0⟩]⟩,
  ⟨0x1001214, 32, 0x10000, 1, 0x4, 1, [⟨15, 0, .ro, 0x0⟩, ⟨31, 16, .ro, 0x0⟩]⟩,
  ⟨0x1001218, 32, 0x10000, 1, 0x4, 1, [⟨15, 0, .ro, 0x0⟩]⟩,
  ⟨0x1001240, 32, 0x10000, 1, 0x4, 3, [⟨15, 0, .rw, 0x0⟩]⟩,
  ⟨0x1001244, 32, 0x10000, 1, 0x4, 3, [⟨9, 0, .rw, 0x0⟩, ⟨20, 16, .rw, 0x0⟩, ⟨21, 21, .rw, 0x0⟩]⟩,
  ⟨0x1001250, 32, 0x10000, 1, 0x4, 3, [⟨31, 0, .rw, 0x0⟩]⟩,
  ⟨0x1001254, 32, 0x10000, 1, 0x4, 3, [⟨31, 0, .rw, 0x0⟩]⟩,
  ⟨0x1001258, 32, 0x10000, 1, 0x4, 4, [⟨2, 0, .wo, 0x0⟩]⟩,
  ⟨0x1001264, 32, 0x10000, 1, 0x4, 1, [⟨0, 0, .w1c, 0x0⟩, ⟨1, 1, .w1c, 0x0⟩]⟩,
  ⟨0x1001268, 32, 0x10000, 1, 0x4, 1, [⟨15, 0, .ro, 0x0⟩, ⟨31, 16, .ro, 0x0⟩]⟩,
  ⟨0x1001280, 32, 0x10000, 1, 0x4, 3, [⟨11, 0, .rw, 0x0⟩]⟩,
  ⟨0x1001284, 32, 0x10000, 1, 0x4, 3, [⟨15, 0, .rw, 0x0⟩, ⟨20, 16, .rw, 0x0⟩, ⟨21, 21, .rw, 0x0⟩]⟩,
  ⟨0x1001288, 32, 0x10000, 1, 0x4, 4, [⟨1, 0, .wo, 0x0⟩]⟩,
  ⟨0x10012C0, 32, 0x10000, 1, 0x4, 1, [⟨0, 0, .w1c, 0x0⟩]⟩,
  ⟨0x10012C4, 32, 0x10000, 1, 0x4, 1, [⟨15, 0, .ro, 0x0⟩]⟩,
  ⟨0x1001348, 32, 0x10000, 1, 0x4, 3, [⟨31, 16, .rw, 0x0⟩]⟩,
  ⟨0x100134C, 32, 0x10000, 1, 0x4, 3, [⟨15, 0, .rw, 0x0⟩]⟩,
  ⟨0x1001350, 32, 0x10000, 1, 0x4, 3, [⟨31, 0, .rw, 0x0⟩]⟩,
  ⟨0x1001354, 32, 0x10000, 1, 0x4, 3, [⟨0, 0, .wo, 0x0⟩]⟩,
  ⟨0x1001358, 32, 0x10000, 1, 0x4, 3, [⟨0, 0, .ro, 0x0⟩, ⟨1, 1, .w1c, 0x0⟩, ⟨2, 2, .w1c, 0x0⟩, ⟨3, 3, .w1c, 0x0⟩]⟩,
  ⟨0x100135C, 32, 0x10000, 1, 0x4, 3, [⟨15, 0, .ro, 0x0⟩, ⟨31, 16, .ro, 0x0⟩]⟩,
  ⟨0x1001360, 32, 0x10000, 1, 0x4, 3, [⟨15, 0, .ro, 0x0⟩]⟩,
  ⟨0x1002000, 32, 0x10000, 1, 0x4, 3, [⟨5, 0, .rw, 0x0⟩, ⟨7, 7, .rw, 0x0⟩, ⟨13, 8, .rw, 0x0⟩, ⟨15, 15, .rw, 0x0⟩, ⟨21, 16, .rw, 0x0⟩, ⟨23, 23, .rw, 0x0⟩, ⟨29, 24, .rw, 0x0⟩, ⟨31, 31, .rw, 0x0⟩]⟩,
  ⟨0x1003000, 32, 0x10000, 1, 0x4, 3, [⟨2, 0, .cmd, 0x0⟩, ⟨6, 4, .cmd, 0x1⟩]⟩,
  ⟨0x1003004, 32, 0x10000, 1, 0x4, 3, [⟨23, 0, .rw, 0xFFFFFF⟩]⟩,
  ⟨0x100F000, 32, 0x10000, 1, 0x4, 4, [⟨31, 0, .wo, 0x0⟩]⟩]

/-- The register table. -/
def regTable : List RegRow :=
  regTable0 ++ regTable1 ++ regTable2 ++ regTable3 ++ regTable4 ++ regTable5 ++ regTable6

/-- Words that are not zero after a cold reset, part 0. -/
def resetWords0 : List (Nat × BitVec 32) := [
  (0x0, 0x4E011617#32),
  (0x4, 0x70#32),
  (0x8, 0x33202211#32),
  (0xC, 0xA0C100A#32),
  (0x10, 0x20401820#32),
  (0x14, 0x3F#32),
  (0x10008, 0x30#32),
  (0x10040, 0x61A80#32),
  (0x10044, 0x9C40#32),
  (0x10058, 0x10#32),
  (0x30000, 0x7000#32),
  (0x3000C, 0x6401#32),
  (0x30010, 0x1#32),
  (0x30024, 0x8000000#32),
  (0x30028, 0xFA0#32),
  (0x30030, 0x1#32),
  (0x30060, 0x510#32),
  (0x30070, 0x5F64#32),
  (0x50004, 0x61A80#32),
  (0x80010, 0x40#32),
  (0x80018, 0x8#32),
  (0x8001C, 0x2#32),
  (0x80020, 0x8#32),
  (0x80040, 0x80E#32),
  (0x80094, 0xC0#32),
  (0x800C0, 0x1000#32),
  (0xC0014, 0x1#32),
  (0xC0200, 0x1#32),
  (0xC0204, 0x1#32),
  (0xC0208, 0x1#32),
  (0xC020C, 0x1#32),
  (0xC0210, 0x1#32),
  (0xC0214, 0x1#32),
  (0xC0218, 0x1#32),
  (0xC021C, 0x1#32),
  (0xC0220, 0x1#32),
  (0xC0224, 0x1#32),
  (0xC0228, 0x1#32),
  (0xC022C, 0x1#32),
  (0xC0230, 0x1#32),
  (0xC0234, 0x1#32),
  (0xC0238, 0x1#32),
  (0xC023C, 0x1#32),
  (0xC0240, 0x1#32),
  (0xC0244, 0x1#32),
  (0xC0248, 0x1#32),
  (0xC024C, 0x1#32),
  (0xC0250, 0x1#32),
  (0xC0254, 0x1#32),
  (0xC0258, 0x1#32),
  (0xC025C, 0x1#32),
  (0xC0260, 0x1#32),
  (0xC0264, 0x1#32),
  (0xC0268, 0x1#32),
  (0xC026C, 0x1#32),
  (0xC0270, 0x1#32),
  (0xC0274, 0x1#32),
  (0xC0278, 0x1#32),
  (0xC027C, 0x1#32),
  (0x141000, 0xFFFF0001#32)]

/-- Words that are not zero after a cold reset, part 1. -/
def resetWords1 : List (Nat × BitVec 32) := [
  (0x141004, 0x1000#32),
  (0x141008, 0x800#32),
  (0x14100C, 0x1E8480#32),
  (0x141010, 0x30D40#32),
  (0x14104C, 0x1E8480#32),
  (0x141050, 0x30D40#32),
  (0x14108C, 0x1E8480#32),
  (0x141090, 0x30D40#32),
  (0x1410CC, 0x1E8480#32),
  (0x1410D0, 0x30D40#32),
  (0x14110C, 0x1E8480#32),
  (0x141110, 0x30D40#32),
  (0x14114C, 0x1E8480#32),
  (0x141150, 0x30D40#32),
  (0x14118C, 0x1E8480#32),
  (0x141190, 0x30D40#32),
  (0x1411CC, 0x1E8480#32),
  (0x1411D0, 0x30D40#32),
  (0x142000, 0xFFFF0001#32),
  (0x142004, 0x1000#32),
  (0x142008, 0x800#32),
  (0x14200C, 0x1E8480#32),
  (0x142010, 0x30D40#32),
  (0x14204C, 0x1E8480#32),
  (0x142050, 0x30D40#32),
  (0x14208C, 0x1E8480#32),
  (0x142090, 0x30D40#32),
  (0x1420CC, 0x1E8480#32),
  (0x1420D0, 0x30D40#32),
  (0x14210C, 0x1E8480#32),
  (0x142110, 0x30D40#32),
  (0x14214C, 0x1E8480#32),
  (0x142150, 0x30D40#32),
  (0x14218C, 0x1E8480#32),
  (0x142190, 0x30D40#32),
  (0x1421CC, 0x1E8480#32),
  (0x1421D0, 0x30D40#32),
  (0x200040, 0x80E#32),
  (0x200124, 0x140#32),
  (0x210000, 0x1#32),
  (0x210040, 0x80E#32),
  (0x210124, 0x140#32),
  (0x220000, 0x2#32),
  (0x220040, 0x80E#32),
  (0x220124, 0x140#32),
  (0x230000, 0x3#32),
  (0x230040, 0x80E#32),
  (0x230124, 0x140#32),
  (0x240000, 0x4#32),
  (0x240040, 0x80E#32),
  (0x240124, 0x140#32),
  (0x250000, 0x5#32),
  (0x250040, 0x80E#32),
  (0x250124, 0x140#32),
  (0x260000, 0x6#32),
  (0x260040, 0x80E#32),
  (0x260124, 0x140#32),
  (0x270000, 0x7#32),
  (0x270040, 0x80E#32),
  (0x270124, 0x140#32)]

/-- Words that are not zero after a cold reset, part 2. -/
def resetWords2 : List (Nat × BitVec 32) := [
  (0x280000, 0x8#32),
  (0x280040, 0x80E#32),
  (0x280124, 0x140#32),
  (0x290000, 0x9#32),
  (0x290040, 0x80E#32),
  (0x290124, 0x140#32),
  (0x2A0000, 0xA#32),
  (0x2A0040, 0x80E#32),
  (0x2A0124, 0x140#32),
  (0x2B0000, 0xB#32),
  (0x2B0040, 0x80E#32),
  (0x2B0124, 0x140#32),
  (0x2C0000, 0xC#32),
  (0x2C0040, 0x80E#32),
  (0x2C0124, 0x140#32),
  (0x2D0000, 0xD#32),
  (0x2D0040, 0x80E#32),
  (0x2D0124, 0x140#32),
  (0x2E0000, 0xE#32),
  (0x2E0040, 0x80E#32),
  (0x2E0124, 0x140#32),
  (0x2F0000, 0xF#32),
  (0x2F0040, 0x80E#32),
  (0x2F0124, 0x140#32),
  (0x300000, 0x10#32),
  (0x300040, 0x80E#32),
  (0x300124, 0x140#32),
  (0x48001C, 0xFFFF#32),
  (0x480080, 0x3F800000#32),
  (0x480094, 0x3F800000#32),
  (0x4800A8, 0x3F800000#32),
  (0x48011C, 0xFFFF#32),
  (0x480180, 0x3F800000#32),
  (0x480194, 0x3F800000#32),
  (0x4801A8, 0x3F800000#32),
  (0x48021C, 0xFFFF#32),
  (0x480280, 0x3F800000#32),
  (0x480294, 0x3F800000#32),
  (0x4802A8, 0x3F800000#32),
  (0x481000, 0x6#32),
  (0x481040, 0x6#32),
  (0x481080, 0x6#32),
  (0x4810C0, 0x6#32),
  (0x481100, 0x6#32),
  (0x481140, 0x6#32),
  (0x481180, 0x6#32),
  (0x4811C0, 0x6#32),
  (0x481200, 0x6#32),
  (0x481240, 0x6#32),
  (0x481280, 0x6#32),
  (0x4812C0, 0x6#32),
  (0x481300, 0x6#32),
  (0x481340, 0x6#32),
  (0x481380, 0x6#32),
  (0x4813C0, 0x6#32),
  (0x481400, 0x6#32),
  (0x481440, 0x6#32),
  (0x481480, 0x6#32),
  (0x4814C0, 0x6#32),
  (0x481500, 0x6#32)]

/-- Words that are not zero after a cold reset, part 3. -/
def resetWords3 : List (Nat × BitVec 32) := [
  (0x481540, 0x6#32),
  (0x481580, 0x6#32),
  (0x4815C0, 0x6#32),
  (0x483000, 0x3F800000#32),
  (0x483014, 0x3F800000#32),
  (0x483028, 0x3F800000#32),
  (0x483040, 0x3F800000#32),
  (0x483054, 0x3F800000#32),
  (0x483068, 0x3F800000#32),
  (0x483080, 0x3F800000#32),
  (0x483094, 0x3F800000#32),
  (0x4830A8, 0x3F800000#32),
  (0x4830C0, 0x3F800000#32),
  (0x4830D4, 0x3F800000#32),
  (0x4830E8, 0x3F800000#32),
  (0x483100, 0x3F800000#32),
  (0x483114, 0x3F800000#32),
  (0x483128, 0x3F800000#32),
  (0x483140, 0x3F800000#32),
  (0x483154, 0x3F800000#32),
  (0x483168, 0x3F800000#32),
  (0x483180, 0x3F800000#32),
  (0x483194, 0x3F800000#32),
  (0x4831A8, 0x3F800000#32),
  (0x4831C0, 0x3F800000#32),
  (0x4831D4, 0x3F800000#32),
  (0x4831E8, 0x3F800000#32),
  (0x580004, 0x1#32),
  (0x580100, 0x4001#32),
  (0x580120, 0x4001#32),
  (0x580140, 0x4001#32),
  (0x580200, 0x240#32),
  (0x680020, 0x10#32),
  (0x700000, 0x3E80030#32),
  (0x700004, 0x1F000000#32),
  (0x700044, 0x4#32),
  (0x1000000, 0x16170000#32),
  (0x1003000, 0x10#32),
  (0x1003004, 0xFFFFFF#32),
  (0x1010000, 0x16170021#32),
  (0x1013000, 0x10#32),
  (0x1013004, 0xFFFFFF#32),
  (0x1020000, 0x16170022#32),
  (0x1023000, 0x10#32),
  (0x1023004, 0xFFFFFF#32),
  (0x1030000, 0x16170023#32),
  (0x1033000, 0x10#32),
  (0x1033004, 0xFFFFFF#32),
  (0x1040000, 0x16170024#32),
  (0x1043000, 0x10#32),
  (0x1043004, 0xFFFFFF#32),
  (0x1050000, 0x16170025#32),
  (0x1053000, 0x10#32),
  (0x1053004, 0xFFFFFF#32),
  (0x1060000, 0x16170026#32),
  (0x1063000, 0x10#32),
  (0x1063004, 0xFFFFFF#32),
  (0x1070000, 0x16170027#32),
  (0x1073000, 0x10#32),
  (0x1073004, 0xFFFFFF#32)]

/-- Words that are not zero after a cold reset, part 4. -/
def resetWords4 : List (Nat × BitVec 32) := [
  (0x1080000, 0x16170028#32),
  (0x1083000, 0x10#32),
  (0x1083004, 0xFFFFFF#32),
  (0x1090000, 0x16170029#32),
  (0x1093000, 0x10#32),
  (0x1093004, 0xFFFFFF#32),
  (0x10A0000, 0x1617002A#32),
  (0x10A3000, 0x10#32),
  (0x10A3004, 0xFFFFFF#32),
  (0x10B0000, 0x1617002B#32),
  (0x10B3000, 0x10#32),
  (0x10B3004, 0xFFFFFF#32),
  (0x10C0000, 0x1617002C#32),
  (0x10C3000, 0x10#32),
  (0x10C3004, 0xFFFFFF#32),
  (0x10D0000, 0x1617002D#32),
  (0x10D3000, 0x10#32),
  (0x10D3004, 0xFFFFFF#32),
  (0x10E0000, 0x1617002E#32),
  (0x10E3000, 0x10#32),
  (0x10E3004, 0xFFFFFF#32),
  (0x10F0000, 0x1617002F#32),
  (0x10F3000, 0x10#32),
  (0x10F3004, 0xFFFFFF#32),
  (0x1100000, 0x16170030#32),
  (0x1103000, 0x10#32),
  (0x1103004, 0xFFFFFF#32),
  (0x1110000, 0x16170031#32),
  (0x1113000, 0x10#32),
  (0x1113004, 0xFFFFFF#32),
  (0x1120000, 0x16170032#32),
  (0x1123000, 0x10#32),
  (0x1123004, 0xFFFFFF#32),
  (0x1130000, 0x16170033#32),
  (0x1133000, 0x10#32),
  (0x1133004, 0xFFFFFF#32),
  (0x1140000, 0x16170034#32),
  (0x1143000, 0x10#32),
  (0x1143004, 0xFFFFFF#32),
  (0x1150000, 0x16170035#32),
  (0x1153000, 0x10#32),
  (0x1153004, 0xFFFFFF#32),
  (0x1160000, 0x16170036#32),
  (0x1163000, 0x10#32),
  (0x1163004, 0xFFFFFF#32),
  (0x1170000, 0x16170037#32),
  (0x1173000, 0x10#32),
  (0x1173004, 0xFFFFFF#32),
  (0x1180000, 0x16170038#32),
  (0x1183000, 0x10#32),
  (0x1183004, 0xFFFFFF#32),
  (0x1190000, 0x16170039#32),
  (0x1193000, 0x10#32),
  (0x1193004, 0xFFFFFF#32),
  (0x11A0000, 0x1617003A#32),
  (0x11A3000, 0x10#32),
  (0x11A3004, 0xFFFFFF#32),
  (0x11B0000, 0x1617003B#32),
  (0x11B3000, 0x10#32),
  (0x11B3004, 0xFFFFFF#32)]

/-- Words that are not zero after a cold reset, part 5. -/
def resetWords5 : List (Nat × BitVec 32) := [
  (0x11C0000, 0x1617003C#32),
  (0x11C3000, 0x10#32),
  (0x11C3004, 0xFFFFFF#32),
  (0x11D0000, 0x1617003D#32),
  (0x11D3000, 0x10#32),
  (0x11D3004, 0xFFFFFF#32),
  (0x11E0000, 0x1617003E#32),
  (0x11E3000, 0x10#32),
  (0x11E3004, 0xFFFFFF#32),
  (0x11F0000, 0x1617003F#32),
  (0x11F3000, 0x10#32),
  (0x11F3004, 0xFFFFFF#32)]

/-- Every register word that is not zero after a cold reset, addresses rising. -/
def resetWords : List (Nat × BitVec 32) :=
  resetWords0 ++ resetWords1 ++ resetWords2 ++ resetWords3 ++ resetWords4 ++ resetWords5

/-- The _LO halves of 64-bit pairs (R16); each _HI stands 4 bytes above. -/
def pairTable : List RegRow := [
  ⟨0x40000, 1, 0x0, 1, 0x4, 4, []⟩,
  ⟨0x400C0, 1, 0x0, 1, 0x4, 4, []⟩,
  ⟨0x40104, 1, 0x0, 1, 0x4, 4, []⟩,
  ⟨0x80048, 1, 0x0, 1, 0x4, 4, []⟩,
  ⟨0x8008C, 1, 0x0, 1, 0x4, 4, []⟩,
  ⟨0x800D0, 1, 0x0, 1, 0x4, 4, []⟩,
  ⟨0x100010, 1, 0x0, 1, 0x4, 4, []⟩,
  ⟨0x200010, 17, 0x10000, 1, 0x4, 4, []⟩,
  ⟨0x200048, 17, 0x10000, 1, 0x4, 4, []⟩,
  ⟨0x200108, 17, 0x10000, 1, 0x4, 4, []⟩,
  ⟨0x20011C, 17, 0x10000, 1, 0x4, 4, []⟩,
  ⟨0x400010, 1, 0x0, 1, 0x4, 4, []⟩,
  ⟨0x400028, 1, 0x0, 1, 0x4, 4, []⟩,
  ⟨0x480054, 3, 0x100, 1, 0x4, 4, []⟩,
  ⟨0x481010, 24, 0x40, 1, 0x4, 4, []⟩,
  ⟨0x501020, 32, 0x100, 1, 0x4, 4, []⟩,
  ⟨0x501028, 32, 0x100, 1, 0x4, 4, []⟩,
  ⟨0x501030, 32, 0x100, 1, 0x4, 4, []⟩,
  ⟨0x501038, 32, 0x100, 1, 0x4, 4, []⟩,
  ⟨0x501040, 32, 0x100, 1, 0x4, 4, []⟩,
  ⟨0x501048, 32, 0x100, 1, 0x4, 4, []⟩,
  ⟨0x501050, 32, 0x100, 1, 0x4, 4, []⟩,
  ⟨0x501058, 32, 0x100, 1, 0x4, 4, []⟩,
  ⟨0x501060, 32, 0x100, 1, 0x4, 4, []⟩,
  ⟨0x501068, 32, 0x100, 1, 0x4, 4, []⟩,
  ⟨0x501074, 32, 0x100, 1, 0x4, 4, []⟩,
  ⟨0x580110, 1, 0x0, 3, 0x20, 4, []⟩,
  ⟨0x581008, 1, 0x0, 256, 0x20, 4, []⟩,
  ⟨0x581010, 1, 0x0, 256, 0x20, 4, []⟩,
  ⟨0x588000, 1, 0x0, 4096, 0x8, 4, []⟩,
  ⟨0x680018, 1, 0x0, 1, 0x4, 4, []⟩,
  ⟨0x1000420, 32, 0x10000, 1, 0x4, 4, []⟩,
  ⟨0x1001040, 32, 0x10000, 1, 0x4, 4, []⟩,
  ⟨0x1001250, 32, 0x10000, 1, 0x4, 4, []⟩,
  ⟨0x1001348, 32, 0x10000, 1, 0x4, 4, []⟩]

/-- The W1C flags and their event counters, part 0. -/
def flagTable0 : List FlagRow := [
  ⟨0x10010, 1, 0x0, 1, 0x4, 0, 0x10014, 0⟩,
  ⟨0x10010, 1, 0x0, 1, 0x4, 1, 0x10014, 16⟩,
  ⟨0x10010, 1, 0x0, 1, 0x4, 2, 0x10018, 0⟩,
  ⟨0x10010, 1, 0x0, 1, 0x4, 3, 0x10018, 16⟩,
  ⟨0x10010, 1, 0x0, 1, 0x4, 4, 0x1001C, 0⟩,
  ⟨0x10140, 1, 0x0, 1, 0x4, 1, 0x10144, 0⟩,
  ⟨0x20008, 1, 0x0, 1, 0x4, 0, 0x2000C, 0⟩,
  ⟨0x20008, 1, 0x0, 1, 0x4, 1, 0x2000C, 16⟩,
  ⟨0x20008, 1, 0x0, 1, 0x4, 2, 0x20010, 0⟩,
  ⟨0x20008, 1, 0x0, 1, 0x4, 3, 0x20010, 16⟩,
  ⟨0x30040, 1, 0x0, 1, 0x4, 0, 0x30044, 0⟩,
  ⟨0x30040, 1, 0x0, 1, 0x4, 1, 0x30044, 16⟩,
  ⟨0x30040, 1, 0x0, 1, 0x4, 2, 0x30048, 0⟩,
  ⟨0x30040, 1, 0x0, 1, 0x4, 3, 0x30048, 16⟩,
  ⟨0x40120, 1, 0x0, 1, 0x4, 0, 0x40124, 0⟩,
  ⟨0x40120, 1, 0x0, 1, 0x4, 1, 0x40124, 16⟩,
  ⟨0x40120, 1, 0x0, 1, 0x4, 2, 0x40128, 0⟩,
  ⟨0x40120, 1, 0x0, 1, 0x4, 3, 0x40128, 16⟩,
  ⟨0x40120, 1, 0x0, 1, 0x4, 4, 0x4012C, 0⟩,
  ⟨0x40120, 1, 0x0, 1, 0x4, 5, 0x4012C, 16⟩,
  ⟨0x5000C, 1, 0x0, 1, 0x4, 0, 0x50010, 0⟩,
  ⟨0x5000C, 1, 0x0, 1, 0x4, 1, 0x50010, 16⟩,
  ⟨0x5000C, 1, 0x0, 1, 0x4, 2, 0x50014, 0⟩,
  ⟨0x5000C, 1, 0x0, 1, 0x4, 3, 0x50014, 16⟩,
  ⟨0x80024, 1, 0x0, 1, 0x4, 0, 0x80024, 16⟩,
  ⟨0x80054, 1, 0x0, 1, 0x4, 3, 0x80058, 0⟩,
  ⟨0x80054, 1, 0x0, 1, 0x4, 4, 0x80058, 16⟩,
  ⟨0x80088, 1, 0x0, 1, 0x4, 0, 0x80098, 0⟩,
  ⟨0x80088, 1, 0x0, 1, 0x4, 1, 0x80098, 16⟩,
  ⟨0x80088, 1, 0x0, 1, 0x4, 2, 0x8009C, 0⟩,
  ⟨0x800C4, 1, 0x0, 1, 0x4, 0, 0x800C4, 16⟩,
  ⟨0xC0004, 1, 0x0, 1, 0x4, 0, 0xC0008, 0⟩,
  ⟨0xC0004, 1, 0x0, 1, 0x4, 1, 0xC0008, 16⟩,
  ⟨0xC0004, 1, 0x0, 1, 0x4, 2, 0xC000C, 0⟩,
  ⟨0xC0004, 1, 0x0, 1, 0x4, 3, 0xC000C, 16⟩,
  ⟨0x101300, 1, 0x0, 1, 0x4, 0, 0x101304, 0⟩,
  ⟨0x14000C, 1, 0x0, 1, 0x4, 0, 0x140010, 0⟩,
  ⟨0x14000C, 1, 0x0, 1, 0x4, 1, 0x140010, 16⟩,
  ⟨0x140014, 1, 0x0, 1, 0x4, 0, 0x140018, 0⟩,
  ⟨0x140014, 1, 0x0, 1, 0x4, 1, 0x140018, 16⟩,
  ⟨0x200020, 17, 0x10000, 1, 0x4, 0, 0x200020, 16⟩,
  ⟨0x200054, 17, 0x10000, 1, 0x4, 3, 0x200058, 0⟩,
  ⟨0x200054, 17, 0x10000, 1, 0x4, 4, 0x200058, 16⟩,
  ⟨0x200080, 17, 0x10000, 1, 0x4, 0, 0x200084, 0⟩,
  ⟨0x200080, 17, 0x10000, 1, 0x4, 1, 0x200084, 16⟩,
  ⟨0x200114, 17, 0x10000, 1, 0x4, 0, 0x200118, 0⟩,
  ⟨0x200114, 17, 0x10000, 1, 0x4, 1, 0x200118, 16⟩,
  ⟨0x400004, 1, 0x0, 1, 0x4, 0, 0x400008, 0⟩,
  ⟨0x400004, 1, 0x0, 1, 0x4, 1, 0x400008, 16⟩,
  ⟨0x400004, 1, 0x0, 1, 0x4, 2, 0x40000C, 0⟩,
  ⟨0x400004, 1, 0x0, 1, 0x4, 3, 0x40000C, 16⟩,
  ⟨0x480028, 3, 0x100, 1, 0x4, 0, 0x48002C, 0⟩,
  ⟨0x480028, 3, 0x100, 1, 0x4, 1, 0x48002C, 16⟩,
  ⟨0x480028, 3, 0x100, 1, 0x4, 2, 0x480030, 0⟩,
  ⟨0x480028, 3, 0x100, 1, 0x4, 3, 0x480030, 16⟩,
  ⟨0x481008, 24, 0x40, 1, 0x4, 0, 0x48100C, 0⟩,
  ⟨0x481008, 24, 0x40, 1, 0x4, 1, 0x48100C, 16⟩,
  ⟨0x500000, 1, 0x0, 1, 0x4, 4, 0x500000, 16⟩,
  ⟨0x500104, 1, 0x0, 4, 0x10, 0, 0x500104, 16⟩,
  ⟨0x500104, 1, 0x0, 4, 0x10, 1, 0x500108, 0⟩]

/-- The W1C flags and their event counters, part 1. -/
def flagTable1 : List FlagRow := [
  ⟨0x500204, 1, 0x0, 2, 0x10, 0, 0x500204, 16⟩,
  ⟨0x500204, 1, 0x0, 2, 0x10, 1, 0x500208, 0⟩,
  ⟨0x500204, 1, 0x0, 2, 0x10, 2, 0x500208, 16⟩,
  ⟨0x501080, 32, 0x100, 1, 0x4, 0, 0x501084, 0⟩,
  ⟨0x501080, 32, 0x100, 1, 0x4, 1, 0x501084, 16⟩,
  ⟨0x501080, 32, 0x100, 1, 0x4, 2, 0x501088, 0⟩,
  ⟨0x501080, 32, 0x100, 1, 0x4, 3, 0x501088, 16⟩,
  ⟨0x501080, 32, 0x100, 1, 0x4, 4, 0x50108C, 0⟩,
  ⟨0x501080, 32, 0x100, 1, 0x4, 5, 0x50108C, 16⟩,
  ⟨0x580008, 1, 0x0, 1, 0x4, 0, 0x58000C, 0⟩,
  ⟨0x580008, 1, 0x0, 1, 0x4, 1, 0x58000C, 16⟩,
  ⟨0x580008, 1, 0x0, 1, 0x4, 2, 0x580010, 0⟩,
  ⟨0x580008, 1, 0x0, 1, 0x4, 3, 0x580010, 16⟩,
  ⟨0x580008, 1, 0x0, 1, 0x4, 4, 0x580014, 0⟩,
  ⟨0x580008, 1, 0x0, 1, 0x4, 5, 0x580014, 16⟩,
  ⟨0x580008, 1, 0x0, 1, 0x4, 6, 0x580018, 0⟩,
  ⟨0x58101C, 1, 0x0, 256, 0x20, 0, 0x58101C, 16⟩,
  ⟨0x600008, 2, 0x20, 1, 0x4, 0, 0x60000C, 0⟩,
  ⟨0x600008, 2, 0x20, 1, 0x4, 1, 0x60000C, 16⟩,
  ⟨0x600008, 2, 0x20, 1, 0x4, 2, 0x600010, 0⟩,
  ⟨0x680010, 1, 0x0, 1, 0x4, 0, 0x680014, 0⟩,
  ⟨0x680010, 1, 0x0, 1, 0x4, 1, 0x680014, 16⟩,
  ⟨0x700008, 1, 0x0, 1, 0x4, 0, 0x70000C, 0⟩,
  ⟨0x700008, 1, 0x0, 1, 0x4, 1, 0x70000C, 16⟩,
  ⟨0x700008, 1, 0x0, 1, 0x4, 2, 0x700010, 0⟩,
  ⟨0x700008, 1, 0x0, 1, 0x4, 3, 0x700010, 16⟩,
  ⟨0x700008, 1, 0x0, 1, 0x4, 4, 0x700014, 0⟩,
  ⟨0x1000430, 32, 0x10000, 1, 0x4, 1, 0x1000434, 0⟩,
  ⟨0x1001048, 32, 0x10000, 1, 0x4, 0, 0x1001048, 16⟩,
  ⟨0x1001210, 32, 0x10000, 1, 0x4, 0, 0x1001214, 0⟩,
  ⟨0x1001210, 32, 0x10000, 1, 0x4, 1, 0x1001214, 16⟩,
  ⟨0x1001210, 32, 0x10000, 1, 0x4, 2, 0x1001218, 0⟩,
  ⟨0x1001264, 32, 0x10000, 1, 0x4, 0, 0x1001268, 0⟩,
  ⟨0x1001264, 32, 0x10000, 1, 0x4, 1, 0x1001268, 16⟩,
  ⟨0x10012C0, 32, 0x10000, 1, 0x4, 0, 0x10012C4, 0⟩,
  ⟨0x1001358, 32, 0x10000, 1, 0x4, 1, 0x100135C, 0⟩,
  ⟨0x1001358, 32, 0x10000, 1, 0x4, 2, 0x1001360, 0⟩,
  ⟨0x1001358, 32, 0x10000, 1, 0x4, 3, 0x100135C, 16⟩]

/-- The W1C flags and their event counters (R20). -/
def flagTable : List FlagRow :=
  flagTable0 ++ flagTable1

end Sys2Proof.Machine
end

