-- ==== Sys2Proof/Machine/SMap.lean ====
section
/-! DEFINITION. Sparse maps in one canonical form: addresses strictly rising, and no entry equal to what an unlisted
address reads as. Memory, the register file, contexts, fences and every other sparse store of the state use it, so that
equal stores are equal data. -/

namespace Sys2Proof.Machine

/-- A sparse map from numbers. -/
abbrev SMap (α : Type) := List (Nat × α)

/-- What address `k` reads as; `d` is what an unlisted address reads as. -/
def mget {α : Type} (d : α) : SMap α → Nat → α
  | [], _ => d
  | (a, v) :: m, k => if a = k then v else mget d m k

/-- The map with address `k` listed as `v`, whatever `v` is. -/
def minsert {α : Type} (k : Nat) (v : α) : SMap α → SMap α
  | [] => [(k, v)]
  | (a, w) :: m => if k < a then (k, v) :: (a, w) :: m else if a = k then (k, v) :: m else (a, w) :: minsert k v m

/-- The map with address `k` unlisted. -/
def merase {α : Type} (k : Nat) (m : SMap α) : SMap α := m.filter fun p => p.1 != k

/-- The map after writing `v` at `k`: writing what an unlisted address reads as removes the entry. -/
def mput {α : Type} [DecidableEq α] (d : α) (m : SMap α) (k : Nat) (v : α) : SMap α :=
  if v = d then merase k m else minsert k v m

/-- Apply `f` to the value at `k`. -/
def mmod {α : Type} [DecidableEq α] (d : α) (m : SMap α) (k : Nat) (f : α → α) : SMap α := mput d m k (f (mget d m k))

/-- Every key of the map exceeds `lo`, keys rise strictly, and no entry holds the default. -/
def mwfFrom {α : Type} [DecidableEq α] (d : α) : Nat → SMap α → Bool
  | _, [] => true
  | lo, (a, v) :: m => decide (lo ≤ a) && decide (v ≠ d) && mwfFrom d (a + 1) m

/-- The canonical form of a sparse map. -/
def mwf {α : Type} [DecidableEq α] (d : α) (m : SMap α) : Bool := mwfFrom d 0 m

/-- Write a list of values at consecutive addresses from `k`. -/
def mputs {α : Type} [DecidableEq α] (d : α) (m : SMap α) (k : Nat) : List α → SMap α
  | [] => m
  | v :: vs => mputs d (mput d m k v) (k + 1) vs

/-- Read `n` values at consecutive addresses from `k`. -/
def mgets {α : Type} (d : α) (m : SMap α) (k : Nat) : Nat → List α
  | 0 => []
  | n + 1 => mget d m k :: mgets d m (k + 1) n

/-- The map with every listed address's value replaced by its image, written into an empty map. -/
def mmap {α : Type} [DecidableEq α] (d : α) (f : Nat → α → α) (m : SMap α) : SMap α :=
  m.foldl (fun acc p => mput d acc p.1 (f p.1 (mget d m p.1))) []

end Sys2Proof.Machine
end

