-- ==== Sys2Proof/Machine/TyAon.lean ====
section
/-! DEFINITION. Plain data of the always-on domain: fuses, the start sequence, trust, the SDIO port, power, clocks and
self-test (spec/14_power_and_clocks.md, spec/15_reset_boot_security.md, spec/16_rehearsal_and_show_report.md,
spec/17_pins_and_electrical.md R513). -/

namespace Sys2Proof.Machine

open Sys2Proof

/-- A value of FACTORY_CAL, or one in force (R480): item, index and value. -/
structure CalVal where
  item : Nat
  index : Nat
  value : Int
  deriving DecidableEq, Repr

/-- The fuse rows (R466, R513): SVN and KEY_REVOKE in three copies, REPAIR as its burned entries. IDENT is held as its
contents: variant, highest permitted point, vendor and the SDIO codes. -/
structure Fuses where
  uds : Nat
  serial : Nat
  variant : Nat
  maxOp : Nat
  vendor : Nat
  cards : Nat
  keyHash : List Nat
  svn : List Nat
  revoke : List Nat
  reach : Nat
  startLimit : Nat
  cal : List CalVal
  repair : List Nat
  ballMap : Nat
  deriving DecidableEq, Repr

/-- An array in which nothing is burned but the -FC variant's highest permitted point. -/
def Fuses.blank : Fuses := ⟨0, 0, 0, 7, 0, 0, [0, 0, 0, 0], [0, 0, 0], [0, 0, 0], 0, 0, [], [], 0⟩

/-- The keys of R482: the compound device identifier, the seed of IK and of AK, and the public keys. -/
structure Keys where
  cdi : List Byte
  ikSeed : List Byte
  akSeed : List Byte
  ikPk : List Byte
  akPk : List Byte
  deriving DecidableEq, Repr

/-- What an attestation request asks for (R484): 1 report, 2 alias certificate, 3 identity certificate. -/
structure AttReq where
  fn : Nat
  op : Nat
  deriving DecidableEq, Repr

/-- The start sequence and the security engine: the HEAD strap, the fuse array and its shadow, a fuse fault; the reset in
progress (R463; 0 L0, 1 L1, 2 L2) and the functions under an L3; the sources that hold a reset (R462); whether step 13 has
not yet been reached since step 8 (R469); whether START_F2 has been given; the length of the image being taken or held in the
Loft, and whether it came over F2; the image's digest, SVN, floor, slot and slots to revoke; the controllers' memory and
entries; what the start follows until its ROM has run (`cold`: an L1 `none`, an L0 with whether it is a power-on, R499); the
keys, the alias certificate, the calibration in force with its digest; LAST_SHUTDOWN (R496), a Loft failure beyond the spares
(R495); attestation requests in order, the report in signing; extends under way (function, register, value), measurement
registers by function * 8 + register, the ball groups (R513; 0 during reset, 1 after reset, 2 released to the block), and the
DRAM that firmware finds, as GiB and channels, while its training waits for MEMC (R468). -/
structure BootSt where
  head : Bool
  fuses : Fuses
  shadow : Fuses
  fault : Bool
  level : Option Nat
  l3 : List Nat
  resetN : Bool
  perst : Bool
  trip : Bool
  counted : Bool
  f2 : Bool
  take : Option Nat
  viaF2 : Bool
  image : Option (List Byte)
  fw : List Byte
  entryA : Nat
  entryB : Nat
  floor : Nat
  revoke : Nat
  cold : Option Bool
  keys : Option Keys
  digest : List Byte
  aliasCert : List Byte
  cal : List CalVal
  calDigest : List Byte
  lastShutdown : Nat
  loftBad : Bool
  attQ : List AttReq
  signing : Option (AttReq × List Byte)
  exts : List (Nat × Nat × Nat)
  mrs : SMap Nat
  balls : List Nat
  train : Option (Nat × Nat)
  deriving DecidableEq, Repr

/-- The start logic and security engine before power-on. -/
def BootSt.off : BootSt where
  head := false
  fuses := Fuses.blank
  shadow := Fuses.blank
  fault := false
  level := none
  l3 := []
  resetN := false
  perst := false
  trip := false
  counted := false
  f2 := false
  take := none
  viaF2 := false
  image := none
  fw := []
  entryA := 0
  entryB := 0
  floor := 0
  revoke := 0
  cold := none
  keys := none
  digest := []
  aliasCert := []
  cal := []
  calDigest := List.replicate 64 0
  lastShutdown := 2
  loftBad := false
  attQ := []
  signing := none
  exts := []
  mrs := []
  balls := [0, 0, 0, 0, 0, 0]
  train := none

/-- States of an SDIO card. -/
inductive SdioCard where
  | idle | ready | standby | selected | inactive
  deriving DecidableEq, Repr

/-- The SDIO port (R474, R475): card state, relative address, F1_PAGE, whether CMD11 or tuning has been done, the latch of a
CMD52 read (global offset and word), the word that a CMD52 read of byte 0 is about to latch, and the bytes held of a word to
be written, and whether the F1 interrupt is asserted (R475). -/
structure SdioSt where
  card : SdioCard
  rca : Nat
  page : Nat
  volt : Bool
  tuned : Bool
  latch : Option (Nat × Nat)
  latchFor : Option Nat
  held : Option (Nat × List (Nat × Nat))
  irq : Bool
  deriving DecidableEq, Repr

def SdioSt.fresh : SdioSt := ⟨.idle, 0, 0, false, false, none, none, none, false⟩

/-- A crystal (R211, R456, R457): off, in its stabilisation delay, being judged, good, or failed. -/
inductive XtalState where
  | off | delay | judged | good | failed
  deriving DecidableEq, Repr

/-- A crystal with its runs of consecutive bad and good windows. -/
structure Xtal where
  st : XtalState
  bad : Nat
  good : Nat
  deriving DecidableEq, Repr

def Xtal.off : Xtal := ⟨.off, 0, 0⟩

/-- A voltage write on the AVSBus (R449): rail (0 core, 1 Loft), target in mV, resends, SlaveAck and VDone. -/
structure AvsStep where
  rail : Nat
  mv : Nat
  resent : Nat
  acked : Bool
  vdone : Bool
  deriving DecidableEq, Repr

/-- How far the edge clocks of a move are (R448, R451): not started, waiting for blanking, switching, or set. -/
inductive ClockStage where
  | no | due | switching | set
  deriving DecidableEq, Repr

/-- A move between operating points (R448): from, to, the edge clocks, whether the voltages are written, and the steps not
yet acknowledged. -/
structure OpMove where
  src : Nat
  dst : Nat
  clocks : ClockStage
  written : Bool
  steps : List AvsStep
  deriving DecidableEq, Repr

/-- A state entry under way (R439): the target as PWR_STATE numbers it, and whether the commit point has passed. -/
structure Entry where
  target : Nat
  committed : Bool
  deriving DecidableEq, Repr

/-- The sequencer and the clocks: crystals, bad windows of REFCLK in a row and whether its count is suspended (R458), a
double clock-source loss that holds the start (R462), the move, voltage writes of the held point (R450), the point last
requested and the one accepted (R447), the entry, a wake event not yet served (R440), the domains that are waking (R434), the
Green Room's sample and hits (R445), the domains gated under R435 or by an entry (R437), whether WAKE_N is driven low (R445),
and the transition-rate frames not yet answered, as rail and resends (R449). -/
structure PwrSt where
  xa : Xtal
  xb : Xtal
  refBad : Nat
  refHold : Bool
  lost : Bool
  move : Option OpMove
  heldSteps : List AvsStep
  req : Nat
  goal : Nat
  entry : Option Entry
  wake : Bool
  waking : Nat
  sampling : Bool
  hits : Nat
  gated : Nat
  wakeLow : Bool
  slews : List (Nat × Nat)
  deriving DecidableEq, Repr

def PwrSt.off : PwrSt := ⟨Xtal.off, Xtal.off, 0, false, false, none, [], 0, 0, none, false, 0, false, 0, 0, false, []⟩

/-- A Run-through slice (R491 to R493): a core with its logical number and whether it has been handed over, the Pit, or the
Curtain path of an output. -/
inductive RtSlice where
  | core (p l : Nat) (handed : Bool)
  | pit
  | curtain (o : Nat)
  deriving DecidableEq, Repr

/-- A fenced core under test (R488): its logical number when it was fenced, and whether it keeps it. -/
structure Fenced where
  core : Nat
  num : Option Nat
  kept : Bool
  deriving DecidableEq, Repr

/-- Self-test: the slice in progress, the place of the next in the cycle, fenced cores under test, and the repair entries
found by the Rehearsal in progress (R498). -/
structure TestSt where
  slice : Option RtSlice
  cursor : Nat
  fenced : List Fenced
  found : List Nat
  deriving DecidableEq, Repr

def TestSt.idle : TestSt := ⟨none, 0, [], []⟩

end Sys2Proof.Machine
end

