-- ==== Sys2Proof/Machine/TyMem.lean ====
section
/-! DEFINITION. Plain data of the memory side: requests on their way to a memory, the caches, translation
(spec/01_fabric_and_loft.md, spec/11_translation.md). -/

namespace Sys2Proof.Machine

/-- Arbitration classes of a Loft bank, highest first (R41). -/
inductive Cls where
  | rt | priv | normal | bulk
  deriving DecidableEq, Repr

/-- Who asked for the word in which a read finds an uncorrectable error: the Pit for a stream (`fifo` for a frame FIFO
entry), a context, or a block for itself (R62, R63, R187). -/
inductive Asker where
  | stream (n : Nat) (fifo : Bool)
  | ctx (cid : Nat)
  | block
  deriving DecidableEq, Repr

/-- What a memory access does (R73 to R75, R39, R58). -/
inductive ReqKind where
  | load (n : Nat)
  | store (bytes : List Byte)
  | zero
  | rmw (op size : Nat) (data cmp : Nat)
  deriving DecidableEq, Repr

/-- Where a memory request stands: waiting at its port for a regulator (R351; 0 DRAM, 1 Loft, 2 host; with whether it goes on
to the CACHE region), at a cache, at a Loft bank, at the memory controller, at the host or peer port, sent to a peer, with
its line back and waiting for the fill of a cache it missed in, or answered. -/
inductive ReqAt where
  | port (kind : Nat) (via : Bool)
  | cache (c : Nat)
  | bank (b : Nat)
  | dram
  | host
  | peer
  | away
  | fill (c : Nat)
  | done (code : Nat) (data : List Byte)
  deriving DecidableEq, Repr

/-- For whom an engine accesses memory: the cue with a number, a stream of the Pit, or a block of its own accord. -/
inductive EngFor where
  | cue (uid : Nat)
  | stream (n : Nat)
  | block
  deriving DecidableEq, Repr

/-- An engine that accesses a context's memory: its read port, next to which stands its write port (R40), the context, the
stream tag of its writes (R55; 16 for none), whom it works for, and how its fault record names it (R107): the logical and
physical core, the SLOT, the record it executes and that record's first word. -/
structure EngAsk where
  port : Nat
  cid : Nat
  tag : Nat
  who : EngFor
  lcore : Nat
  pcore : Nat
  unit : Nat
  pc : Nat
  iword : Nat
  deriving DecidableEq, Repr

/-- One page a unit holds translated: context page, size, device page, and whether it is non-cacheable. -/
structure HeldPage where
  va : Nat
  size : Nat
  da : Nat
  nc : Bool
  deriving DecidableEq, Repr

/-- One memory request: who waits for the answer (`core`, `slot`, `lane` of a thread, `reg` the first register of its
destination, 256 for none), its context, the device address, what it does, and the caches (numbered as in the state) that its
line is to fill on the way back, outermost first. `eng` is the engine of a request that no thread made; such a request has no
core. `inst` numbers the instruction whose lanes asked together, by its first request, and `unit` holds the translations of
all of them (R370). -/
structure Req where
  id : Nat
  core : Nat
  slot : Nat
  lane : Nat
  reg : Nat
  cid : Nat
  part : Nat
  port : Nat
  cls : Cls
  va : Nat
  addr : Nat
  kind : ReqKind
  tag : Nat
  nc : Bool
  uncached : Bool
  order : Nat
  scope : Nat
  pc : Nat
  iword : Nat
  fills : List Nat
  at_ : ReqAt
  eng : Option EngAsk
  inst : Nat
  unit : List HeldPage
  deriving DecidableEq, Repr

/-- One line of a cache: backing line number, contents, the mask of its dirty bytes (R102), the bad mark (R62), and for an
L1 line the context of the access that admitted its fill and whether writes were admitted (R373). -/
structure Line where
  line : Nat
  data : List Byte
  dirty : Nat
  bad : Bool
  cid : Nat
  wOk : Bool
  deriving DecidableEq, Repr

/-- A requesting stream (R55): port, context and stream tag. -/
structure StreamKey where
  port : Nat
  cid : Nat
  tag : Nat
  deriving DecidableEq, Repr

/-- A stride detector (R55): the last demand line, the stride, how many equal strides in a row, and how far ahead lines
have been asked for. -/
structure Detector where
  key : StreamKey
  last : Nat
  stride : Int
  run : Nat
  ahead : Nat
  deriving DecidableEq, Repr

/-- A streaming count (R59). -/
structure StreamCount where
  key : StreamKey
  last : Nat
  count : Nat
  deriving DecidableEq, Repr

/-- A maintenance command in progress (R53): the operation and the lines it covers, `none` for all. -/
structure Cmo where
  op : Nat
  range : Option (Nat × Nat)
  deriving DecidableEq, Repr

/-- A cache: lines most recently used first, the side buffer oldest first (R56), the stride detectors and streaming counts
most recently used first, the prefetches asked for (line and context, 1024 for none), the command in progress, and whether a
disable write-back runs (R52). -/
structure CacheSt where
  lines : List Line
  side : List Line
  dets : List Detector
  counts : List StreamCount
  wanted : List (Nat × Nat)
  cmo : Option Cmo
  disabling : Bool
  deriving DecidableEq, Repr

/-- A cache that holds nothing. -/
def CacheSt.empty : CacheSt := ⟨[], [], [], [], [], none, false⟩

/-- A translation cache entry (R368): of a context (`ats` false, `owner` its CID, `page` the virtual page) or of the
host (`ats` true, `owner` the function, `page` the host page). -/
structure TcEntry where
  ats : Bool
  owner : Nat
  page : Nat
  size : Nat
  da : Nat
  r : Bool
  w : Bool
  x : Bool
  nc : Bool
  deriving DecidableEq, Repr

/-- A walk cache entry (R368): a table entry that is not a leaf, the virtual range it covers and the next table. -/
structure WalkEntry where
  cid : Nat
  page : Nat
  size : Nat
  next : Nat
  deriving DecidableEq, Repr

/-- Who holds translations (R370). -/
inductive Agent where
  | shader (core slot : Nat)
  | tensor (core : Nat)
  | prompter (core uid tile : Nat)
  | raster
  | copy (uid : Nat)
  | comp (engine : Nat)
  | pit (stream : Nat)
  | layer (l : Nat)
  | curtain (o : Nat)
  | entryRing (n : Nat)
  deriving DecidableEq, Repr

/-- Translations held for one unit of R370: whether its first access has been issued, and the invalidations that made
it stale. -/
structure Held where
  agent : Agent
  cid : Nat
  fn : Nat
  pages : List HeldPage
  began : Bool
  stale : List Nat
  deriving DecidableEq, Repr

/-- Where an invalidation came from (R378). -/
inductive InvKind where
  | ats (fn itag : Nat)
  | cmd (fn : Nat)
  | root
  | destroy
  | window (fn : Nat)
  deriving DecidableEq, Repr

/-- An invalidation in progress: of the virtual range from `lo` up to `hi` of a context, or (`cid` 1024) of that range of
device addresses of a function. `upto` is the number of the first memory request issued after it arrived. -/
structure Inv where
  id : Nat
  kind : InvKind
  cid : Nat
  lo : Nat
  hi : Nat
  upto : Nat
  deriving DecidableEq, Repr

/-- A TAG write in progress (R375): next granule key, granules left, the value. -/
structure TagJob where
  next : Nat
  left : Nat
  value : Nat
  deriving DecidableEq, Repr

/-- An ATS translation request that the host has not answered (R366): whether an invalidation has covered it, and whether
its response has then come and been discarded. -/
structure AtsReq where
  fn : Nat
  page : Nat
  stale : Bool
  answered : Bool
  deriving DecidableEq, Repr

/-- A failure at a host page that its requester has not yet seen (R366): of its translation, or (`acc`) of an access made
there. -/
structure HostFail where
  fn : Nat
  page : Nat
  code : Nat
  acc : Bool
  deriving DecidableEq, Repr

end Sys2Proof.Machine
end

