-- ==== Sys2Proof/Machine/TyWork.lean ====
section
/-! DEFINITION. Plain data of the Prompt Desk, of contexts, fences and semaphores, and of the Stage Manager
(spec/08_prompt_desk.md, spec/09_objects_and_fences.md, spec/10_stage_manager.md). -/

namespace Sys2Proof.Machine

/-- Where a cue comes from: ring `fn * 1024 + r` (R267), or a Pit stream (R289). -/
inductive CueSrc where
  | ring (k : Nat)
  | stream (n : Nat)
  deriving DecidableEq, Repr

/-- The stage of a fetched cue that has not completed: waiting to issue (R283, R284), issued and held by an engine or a
queue, or ended with its code and numeric block but not yet completed (R287). -/
inductive CueStage where
  | waiting
  | running
  | ended
  deriving DecidableEq, Repr

/-- A cue in the machine: a unique number in fetch order, its source, the SLOT of its record (R289, R290), whether it is
a follow-on, its 64 bytes (R277), its stage, its code (of a running cue: one that it will end with whatever happens, or 0),
ADDR after indirection (R285), the numeric block of its record (R177), whether it has issued with a completion slot reserved
(R292), whether its SIGNAL fence may be touched (R281), whether the fence it waits on has released it (R312), the number of
the ring cue that began its chain, and that of the ring cue before it, if any (R283). -/
structure CueRun where
  uid : Nat
  src : CueSrc
  slot : Nat
  follow : Bool
  raw : List Byte
  stage : CueStage
  code : Nat
  ea : Nat
  num : List Byte
  reserved : Bool
  sigOk : Bool
  released : Bool
  chain : Nat
  prev : Option Nat
  deriving DecidableEq, Repr

/-- A follow-on cue to be read (R288): the chain's SLOT, its address, the cue that named it, and the ring cue that began the
chain. -/
structure Follow where
  src : CueSrc
  slot : Nat
  addr : Nat
  uid : Nat
  chain : Nat
  deriving DecidableEq, Repr

/-- Ring states (spec/08_prompt_desk.md, PDESK_RING_STATE); WAITING is shown, not stored. -/
inductive RingState where
  | off | asleep | active | stalled | aborting | disabling
  deriving DecidableEq, Repr

/-- A parked completion record (R294), with the MSI-X it owes and whether a completion slot is reserved for it. -/
structure Parked where
  bytes : List Byte
  irq : Bool
  slotHeld : Bool
  deriving DecidableEq, Repr

/-- A cue ring (R267 to R270, R294, PDESK_RING_*). `pi` is the last producer index read, `wake` the WAKE half it last wrote,
`consVal` the last CONS read, `reserved` the slots reserved so far (modulo 2^15), `waitSlot` whether a cue or record waits
for a slot, `noSlot` whether CONS has been read since and showed none (R292), `resuming` a RING_RESUME that waits for slots
(R296), `disableNext` a DISABLE that waits for an abort to end (R538), `abortFail` the code of an abort fetch that failed
(R297), `consFail` that of a CONS read that failed meanwhile, `reread` whether a RING_RESUME has PI read before anything more
is fetched (R296), `last` the number of the ring cue fetched last, `wiped` whether a reset of its function aborts and
disables it, which leaves its fields at their reset values (R298). -/
structure Ring where
  sizeLog2 : Nat
  csizeLog2 : Nat
  vector : Nat
  cid : Nat
  base : Nat
  cbase : Nat
  cons : Nat
  state : RingState
  code : Nat
  ci : Nat
  cwr : Nat
  pi : Nat
  wake : Nat
  consVal : Nat
  reserved : Nat
  waitSlot : Bool
  noSlot : Bool
  resuming : Bool
  parked : List Parked
  stall : Bool
  stallEvt : Nat
  refused : Bool
  refusedEvt : Nat
  disableNext : Bool
  abortFail : Option Nat
  consFail : Option Nat
  reread : Bool
  last : Option Nat
  wiped : Bool
  deriving DecidableEq, Repr

/-- A ring as every reset leaves it. -/
def Ring.idle : Ring :=
  ⟨0, 0, 0, 0, 0, 0, 0, .off, 0, 0, 0, 0, 0, 0, 0, false, false, false, [], false, 0, false, 0, false, none, none, false, none, false⟩

/-- Context states (R301). -/
inductive CtxState where
  | free | live | faulted | dying
  deriving DecidableEq, Repr

/-- A context: its partition (R301), fault slot (R304), first fault code, page-table root (R378), shares and virtual time
(R335, R347), beat counters (R334), slice (R336; 0 between slices), debt (R345), pre-emption counts, save pages (R333), the
boost of each output (R349), whether the stop that a fault began is still to finish (R303), and whether a reset of its
function destroys it (R324). -/
structure Ctx where
  state : CtxState
  part : Nat
  slot : List Byte
  code : Nat
  root : Nat
  share : Nat
  effShare : Nat
  vt : W64
  coreBeats : W64
  tensorBeats : W64
  sliceLen : Nat
  debt : Nat
  preempts : Nat
  savePages : Nat
  boost : Nat
  held : Bool
  stopping : Bool
  byReset : Bool
  deriving DecidableEq, Repr

/-- A context that has never been created. -/
def Ctx.none : Ctx := ⟨.free, 0, List.replicate 32 0, 0, 0, 0, 0, 0, 0, 0, 0, 0, 0, 0, 0, false, false, false⟩

/-- Fence states (R308). -/
inductive FenceState where
  | free | active | error
  deriving DecidableEq, Repr

/-- A fence entry (R308). -/
structure Fence where
  value : W64
  owner : Nat
  code : Nat
  state : FenceState
  shareFn : Nat
  shared : Bool
  regress : Nat
  deriving DecidableEq, Repr

/-- A FREE fence: the entry is all zero (R315). -/
def Fence.none : Fence := ⟨0, 0, 0, .free, 0, false, 0⟩

/-- A semaphore holder slot (R318); `units` zero marks an empty one. -/
structure Holder where
  cid : Nat
  units : Nat
  deriving DecidableEq, Repr

/-- A device semaphore (R318): the FIFO holds the uids of waiting acquire cues. -/
structure Sem where
  state : FenceState
  code : Nat
  count : Nat
  shareFn : Nat
  shared : Bool
  holders : List Holder
  fifo : List Nat
  deriving DecidableEq, Repr

/-- A FREE semaphore. -/
def Sem.none : Sem := ⟨.free, 0, 0, 0, false, List.replicate 8 ⟨0, 0⟩, []⟩

/-- A report on its way to the Stage Manager (R303): the context, the 32-byte record of R107, and the uid of the cue whose
work faulted. -/
structure FaultRep where
  cid : Nat
  record : List Byte
  uid : Option Nat
  deriving DecidableEq, Repr

/-- A report that an engine has still to write before its cue's completion record (R243, R431): the cue, the engine, the
address and the bytes. -/
structure Report where
  uid : Nat
  eng : EngAsk
  addr : Nat
  bytes : List (BitVec 8)
  deriving DecidableEq, Repr

/-- A COPY in progress (R280). -/
structure CopySt where
  uid : Nat
  src : Nat
  dst : Nat
  len : Nat
  done : Nat
  stopped : Bool
  deriving DecidableEq, Repr

/-- The kinds of work that hold resources (R338). -/
inductive WorkKind where
  | workgroup | tensor | raster | copy | comp
  deriving DecidableEq, Repr

/-- A save image (R340): the work it holds, the 4 KiB pages of its partition's save area that hold it, and whether an
uncorrectable error has been found in it; its contents stand in the unit's own saved list. -/
structure SaveImage where
  id : Nat
  kind : WorkKind
  cid : Nat
  uid : Nat
  part : Nat
  pages : List Nat
  bad : Bool
  deriving DecidableEq, Repr

/-- A pre-emption request that a unit has not yet reached its point for (R339), or that waits for save pages (R341).
`core` 17 asks for all of the victim's work in the partition. -/
structure Preempt where
  cid : Nat
  core : Nat
  kind : Option WorkKind
  deferred : Bool
  sliceEnd : Bool
  deriving DecidableEq, Repr

end Sys2Proof.Machine
end

