-- ==== Sys2Proof/Machine/TyCore.lean ====
section
/-! DEFINITION. Plain data of the shader cores (spec/02_thread_groups.md). -/

namespace Sys2Proof.Machine

/-- What a thread waits for: nothing, a barrier (R83, R84; `next` when it is counted in the generation after the current
one), a matrix instruction (R87), a join address it has parked at since its group had issued so many instructions (R79), or
nothing any more (R81). The words are those of the instructions it waits at. -/
inductive TStat where
  | run
  | bar (bid : Nat) (next : Bool) (word : Nat)
  | matrix (word : Nat)
  | parked (since : Nat)
  | exited
  deriving DecidableEq, Repr

/-- An entry of the join stack: the join address and the push that made it (R79). -/
structure JoinEntry where
  addr : Nat
  id : Nat
  deriving DecidableEq, Repr

/-- A thread (R68, R78). Registers read zero until written; `last` is the number of its group's instructions when it last
issued one (R80). -/
structure Thread where
  pc : Nat
  stat : TStat
  rets : List Nat
  joins : List JoinEntry
  regs : SMap W32
  preds : Nat
  last : Nat
  deriving DecidableEq, Repr

/-- A thread group (R68, R78, R86): its slot, its workgroup, its 32 threads, the instructions it has issued, the pushes
made, the entry mask of its open matrix region, and whether a fault has halted it. A group that has ended keeps its slot
until its workgroup ends (R81). -/
structure Group where
  slot : Nat
  wg : Nat
  idx : Nat
  threads : List Thread
  issued : Nat
  pushes : Nat
  region : Option Nat
  halted : Bool
  deriving DecidableEq, Repr

/-- A barrier of a workgroup (R82 to R84): its scope once fixed (0 group, 1 workgroup), and the threads (group index * 32 +
lane) that have arrived in the current generation and in the next one. At group scope each group has generations of its
own. -/
structure Barrier where
  scope : Option Nat
  arrived : List Nat
  ahead : List Nat
  deriving DecidableEq, Repr

/-- A barrier nobody has arrived at. -/
def Barrier.fresh : Barrier := ⟨none, [], []⟩

/-- What a workgroup is for: a LAUNCH cue (R279), a vertex batch (R221) or a fragment group (R232). -/
inductive WgKind where
  | launch | vertex | fragment
  deriving DecidableEq, Repr

/-- A resident workgroup: its number on its core, its cue, context, split, registers per thread, local store (allocation
in KiB and contents), barriers, index in the launch, and the fields SYS reads. -/
structure Wg where
  id : Nat
  uid : Nat
  cid : Nat
  kind : WgKind
  split : Nat
  groups : Nat
  nregs : Nat
  localKib : Nat
  store : SMap Byte
  bars : List Barrier
  index : Nat
  gridX : Nat
  gridY : Nat
  gridZ : Nat
  entry : Nat
  param : Nat
  deriving DecidableEq, Repr

/-- A fault recorded by a core and not yet reported (R105, R106). -/
structure CoreFault where
  cid : Nat
  record : List Byte
  uid : Option Nat
  deriving DecidableEq, Repr

/-- An instruction that a core has issued: its slot, lanes, address and word, and its context. -/
structure Issued where
  slot : Nat
  lanes : List Nat
  pc : Nat
  word : Nat
  cid : Nat
  deriving DecidableEq, Repr

/-- A physical core: the current split, its workgroups and groups, faults not yet reported, the number of the next workgroup,
and what it issued in its latest beat with an issue (R66). -/
structure CoreSt where
  split : Nat
  wgs : List Wg
  groups : List Group
  faults : List CoreFault
  nextWg : Nat
  beat : List Issued
  deriving DecidableEq, Repr

/-- A core with no work. -/
def CoreSt.idle : CoreSt := ⟨0, [], [], [], 0, []⟩

/-- A launch in progress (R279): workgroups are numbered in x, then y, then z order. -/
structure Launch where
  uid : Nat
  cid : Nat
  pc : Nat
  param : Nat
  gridX : Nat
  gridY : Nat
  gridZ : Nat
  groups : Nat
  nregs : Nat
  split : Nat
  localKib : Nat
  next : Nat
  ended : Nat
  deriving DecidableEq, Repr

/-- A saved workgroup (R340, R342): the workgroup with its groups. -/
structure SavedWg where
  image : Nat
  wg : Wg
  groups : List Group
  deriving DecidableEq, Repr

end Sys2Proof.Machine
end

