-- ==== Sys2Proof/Machine/TyShow.lean ====
section
/-! DEFINITION. Plain data of the Show Report and of self-test (spec/16_rehearsal_and_show_report.md), of the messages
the device sends out, and of MSI-X (spec/18_register_map.md R526). -/

namespace Sys2Proof.Machine

/-- An event on its way to the recorder (R500, R501). -/
structure ShowEv where
  code : Nat
  unit : Nat
  severity : Nat
  pcore : Nat
  fn : Nat
  cid : Nat
  detail : List Byte
  deriving DecidableEq, Repr

/-- Rate state of a code (R502). -/
structure Rate where
  code : Nat
  minute : Nat
  written : Nat
  suppressed : Nat
  deriving DecidableEq, Repr

/-- A record accepted but not yet written, with what R505 takes at arrival. -/
structure ShowPend where
  ev : ShowEv
  opsec : Nat
  cycles : Nat
  ms : Nat
  suppressed : Nat
  deriving DecidableEq, Repr

/-- The recorder (R501 to R506): its queue, the AON ring newest first, rate states most recently used first, pending
events of a freeze, records still to be programmed into the flash, the slot of the flash ring that is written next, and a
readout in progress (from the flash, age). -/
structure ShowSt where
  queue : List ShowEv
  ring : List (List Byte)
  rates : List Rate
  pending : List ShowPend
  flashQ : List (List Byte)
  pos : Nat
  load : Option (Bool × Nat)
  deriving DecidableEq, Repr

/-- An MSI-X table entry and its pending bit (R526). -/
structure Msix where
  addr : Nat
  data : Nat
  mask : Bool
  pending : Bool
  deriving DecidableEq, Repr

/-- An MSI-X entry after reset: masked. -/
def Msix.reset : Msix := ⟨0, 0, true, false⟩

/-- A repair entry with its count of consecutive Rehearsals (R497, R503). -/
structure Repair where
  entry : Nat
  count : Nat
  deriving DecidableEq, Repr

/-- The messages and signals the device sends out. A host access goes under a function's requester ID, to an address that the
host has translated or to a host I/O address (R365). -/
inductive Msg where
  | msix (fn vector : Nat)
  | atsRequest (fn page : Nat)
  | atsInvDone (fn itag : Nat)
  | hostWrite (fn : Nat) (translated : Bool) (addr n : Nat)
  | hostRead (fn : Nat) (translated : Bool) (addr n : Nat)
  | wake (low : Bool)
  | pme
  | thermtrip (on : Bool)
  | sdioIrq (on : Bool)
  | flit (port : Nat) (bytes : List Byte)
  | addrToken (port : Nat) (t : AddrTok)
  | roster (port : Nat) (r : Roster)
  | topology (port : Nat) (unit : List Nat) (p : Nat) (up : Bool)
  | avs (rail mv : Nat)
  | avsSlew (rail slew : Nat)
  | pixels (out line : Nat) (px : List Nat)
  | samples (port slot v : Nat)
  | side (out kind addr : Nat) (bytes : List Byte)
  | sdioResp (v : Nat)
  | offReady
  deriving DecidableEq, Repr

end Sys2Proof.Machine
end

