-- ==== Sys2Proof/Machine/TyTensor.lean ====
section
/-! DEFINITION. Plain data of the tensor engines (spec/03_tensor_engine.md). -/

namespace Sys2Proof.Machine

/-- Where a tensor operation stands: checked and waiting for its gang (R117, R337), at an output-tile boundary, within a
tile whose translations are confirmed (R141), within a tile of ROUTE that is scored and whose pairs are being handed over
(R134, R135), or saved in an image (R148). -/
inductive TenStage where
  | gang
  | boundary
  | tile
  | pairs
  | saved (image : Nat)
  deriving DecidableEq, Repr

/-- What the weight registers of an engine hold after reset, a zero in each cell (R109; DESIGN CHOICE, log 7). -/
abbrev noWeights : List Nat := List.replicate 1024 0

/-- Bytes in an operand buffer (R140): the member of the gang whose buffer it is, the tile they are for, their context
virtual address, and the bytes. -/
structure ObChunk where
  mem : Nat
  tile : Nat
  va : Nat
  bytes : List Byte
  deriving DecidableEq, Repr

/-- A tile translated ahead of the array (R140, R142): its number and the failures held for it, each an address, whether the
access writes, the code, and whether the page translated in the sense of R141. -/
structure Ahead where
  tile : Nat
  fails : List (Nat × Bool × Nat × Bool)
  deriving DecidableEq, Repr

/-- A selected pair of token and expert (R131 to R134): token, rank, expert ID and gate. -/
structure RoutePair where
  token : Nat
  rank : Nat
  expert : Nat
  gate : Nat
  deriving DecidableEq, Repr

/-- The counters of an operation and its first invalid event (R175, R176). -/
structure TenCount where
  flushed : Nat
  sat : Nat
  ovf : Nat
  inv : Nat
  first : Option (Nat × Nat × Nat)
  deriving DecidableEq, Repr

def TenCount.zero : TenCount := ⟨0, 0, 0, 0, none⟩

/-- A tensor operation: its cue and context, its engines (physical cores in gang order, the first at position (0, 0); none
while it is saved), descriptor and its address, the cue's seed, the next tile, its stage, counters, the state store (R126),
for ROUTE the pairs still to be handed over, those on their way with the link's transaction, and the report's counts
(R134), and what the Prompter holds: the operand buffers and the tiles translated ahead (R140). -/
structure TensorOp where
  uid : Nat
  cid : Nat
  cores : List Nat
  desc : List Byte
  daddr : Nat
  seed : Nat
  next : Nat
  stage : TenStage
  num : TenCount
  store : List Nat
  pairs : List RoutePair
  sent : List RoutePair
  handed : Nat
  delivered : Nat
  undeliv : Nat
  localN : Nat
  firstFail : Option Nat
  ob0 : List ObChunk
  ob1 : List ObChunk
  ahead : List Ahead
  deriving DecidableEq, Repr

/-- A tensor cue whose descriptor the Prompter of an engine has read ahead (R147): the operation it will be, and a failure
held against it (code and address). -/
structure NextOp where
  core : Nat
  op : TensorOp
  fail : Option (Nat × Nat)
  deriving DecidableEq, Repr

end Sys2Proof.Machine
end

