-- ==== Sys2Proof/Machine/TyLink.lean ====
section
/-! DEFINITION. Plain data of the Umram link (spec/12_umram_link.md). -/

namespace Sys2Proof.Machine

open Sys2Proof

/-- A flit sent and not yet acknowledged (R390): its sequence number and kind, the credit return it carries (class and
count), its payload, and with the last flit of a packet that packet and its credit class. -/
structure SentFlit where
  seq : Nat
  kind : Nat
  ret : Nat × Nat
  payload : List Byte
  ends : Option (Nat × LinkPkt)
  deriving DecidableEq, Repr

/-- A port (R390, R406): the next sequence number sent, the replay buffer, the next one expected, the one that the last ACK
sent was for, whether a negative acknowledgement is out, payloads received and not yet taken, credits in use by class,
credits to return, and whether failed lanes are being retrained. -/
structure LinkPort where
  tx : Nat
  unacked : List SentFlit
  rxNext : Nat
  acked : Nat
  nak : Bool
  rx : List (List Byte)
  used : List Nat
  give : List (Nat × Nat)
  retrain : Bool
  deriving DecidableEq, Repr

/-- A port that has carried nothing. -/
def LinkPort.fresh : LinkPort := ⟨0, [], 0, 0, false, [], List.replicate 12 0, [], false⟩

/-- A transfer of this unit that its target has not acknowledged (R402, R403): its transaction number, destination and
first port (3 while it has none), for a token the operation and pair it carries, for a peer access its request. -/
structure Flying where
  xid : Nat
  dest : List Nat
  port : Nat
  tok : Option (Nat × RoutePair)
  req : Option Nat
  deriving DecidableEq, Repr

/-- An entry ring that is enabled (R411, R412): V0 and the last consumer count read; or one whose enable waits for the host's
translation. -/
structure EntryRing where
  v0 : W64
  rd : Nat
  asking : Bool
  deriving DecidableEq, Repr

/-- An entry ring that has never been enabled. -/
def EntryRing.idle : EntryRing := ⟨0, 0, false⟩

/-- The link unit: the address taken, whether an address conflict stopped addressing, whether a token of this unit is out and
whether it is the second one, the tokens that the first one carried, the roster, the HEAD strap and the PCI Express link, the
ports, packets that wait to be sent with their classes, packets that have arrived, outcomes of transactions by source and XID
(newest first, R403), transfers outstanding, the next transaction number, address tokens, rosters and topology updates that
wait for credits of the MGMT class, the operation of a register access in progress, and the entry rings. -/
structure LinkSt where
  pos : List Nat
  conflict : Bool
  tokOut : Bool
  second : Bool
  upTok : List UpTok
  roster : Roster
  strap : Bool
  pcie : Bool
  ports : SMap LinkPort
  outq : List (Nat × LinkPkt)
  arrived : List LinkPkt
  outcomes : List ((List Nat × Nat) × (Nat × List Byte))
  flying : List Flying
  nextXid : Nat
  mgmt : List (Nat × Msg)
  racc : Nat
  erings : SMap EntryRing
  deriving DecidableEq, Repr

/-- The link as a reset leaves it. -/
def LinkSt.none : LinkSt := ⟨[], false, false, false, [], ⟨[], []⟩, false, false, [], [], [], [], [], 0, [], 0, []⟩

end Sys2Proof.Machine
end

