-- ==== Sys2Proof/Machine/TyPit.lean ====
section
/-! DEFINITION. Plain data of the Pit (spec/05_the_pit.md). -/

namespace Sys2Proof.Machine

/-- A block whose chain is to run or runs, from its boundary to its output point (R189 to R197): its index, the frame counter
(or first line) and lines of block information, INPUT_ZERO, STATE_CARRIED, whether this is its replay with the old and new
physical core (R500), whether its head cue is still to be submitted, whether the chain is complete, whether the block
deadline has passed, its place among the replays that the takeover of a core began (R207), and its head cue once that is
submitted. -/
structure PitBlock where
  n : Nat
  first : Nat
  lines : Nat
  zero : Bool
  carried : Bool
  replay : Bool
  head : Bool
  complete : Bool
  late : Bool
  cores : List Byte
  turn : Nat
  headUid : Nat
  deriving DecidableEq, Repr

/-- What a stream's output slots carry: zero, FILL, or the block of a phase. -/
inductive OutSrc where
  | zero
  | fill
  | block (phase : Nat)
  deriving DecidableEq, Repr

/-- The running state of an armed stream: whether block 0 has begun, the block being filled with the frames (or lines)
stored, its first frame (or line) and INPUT_ZERO, an input frame lost in its FIFO (R187), the block in processing, what is
sent now and in the next block, the last sent sample of each channel, the samples of the next frame of output read ahead
(R190), blocks dropped since the last commit, a state carried for the next block (R196), whether the stream drains after
DISARM or is forcibly disarmed (R205), and whether an ARM waits for the host's translation of an area (R200). -/
structure PitStream where
  begun : Bool
  block : Nat
  t : Nat
  first : Nat
  zero : Bool
  fifoLost : Bool
  missing : List Nat
  proc : Option PitBlock
  out : OutSrc
  nextOut : OutSrc
  last : List Nat
  ahead : Option (List Nat)
  dropped : Nat
  carried : Bool
  draining : Bool
  forced : Bool
  arming : Bool
  deriving DecidableEq, Repr

/-- A stream that is not armed, or has just been armed. -/
def PitStream.idle : PitStream :=
  ⟨false, 0, 0, 0, false, false, [], none, .zero, .zero, [], none, 0, false, false, false, false⟩

/-- A serial audio port: the configuration in force in the current frame (R181; the register holds the one written), and
good FSYNC periods in a row while the word clock is lost (R213). -/
structure SapPort where
  force : Nat
  good : Nat
  deriving DecidableEq, Repr

def SapPort.idle : SapPort := ⟨0, 0⟩

end Sys2Proof.Machine
end

