-- ==== Sys2Proof/Machine/TyProsc.lean ====
section
/-! DEFINITION. Plain data of Proscenium (spec/07_proscenium.md). -/

namespace Sys2Proof.Machine

/-- A flip (R247, R248): its cue and context, its record and the record's address, the pages of its SRC rectangle, and
whether its fence has been freed since it was queued (R249). -/
structure Flip where
  uid : Nat
  cid : Nat
  raw : List Byte
  raddr : Nat
  pages : List HeldPage
  freed : Bool
  deriving DecidableEq, Repr

/-- A layer: its queue, the flip latched, whether it is dark until its next latched flip (R264, R265), the invalidations that
removed pages of the buffer latched while its reads in the line have still to drain, and those that have only to be
acknowledged before REVOKED is set (R264). -/
structure LayerSt where
  queue : List Flip
  latched : Option Flip
  dark : Bool
  losing : List Nat
  lost : List Nat
  deriving DecidableEq, Repr

/-- A layer with nothing queued or latched. -/
def LayerSt.none : LayerSt := ⟨[], .none, false, [], []⟩

/-- An output: the Curtain address in force (R261), the address that an enable has checked and the next latch instant takes,
whether the Curtain's buffer waits for the host's translation (R259), whether a side transaction runs (R244), the CRC
registers of the frame in progress (R262), the partitions already signalled this frame (R258), whether a Curtain flip has
latched since the last frame whose CRC stands, and whether the Curtain's CRC has moved without one (R493). -/
structure OutSt where
  curtain : Nat
  curNext : Option Nat
  asking : Bool
  side : Bool
  outCrc : Nat
  curCrc : Nat
  near : List Nat
  flipped : Bool
  moved : Bool
  deriving DecidableEq, Repr

/-- An output that is off. -/
def OutSt.off : OutSt := ⟨0, none, false, false, 0xFFFFFFFF, 0xFFFFFFFF, [], true, false⟩

end Sys2Proof.Machine
end

