-- ==== Sys2Proof/Machine/TyRaster.lean ====
section
/-! DEFINITION. Plain data of the raster block and of the compression engines (spec/06_raster.md, spec/13_compression.md). -/

namespace Sys2Proof.Machine

/-- Where index assembly stands in a draw (R222): the index position, the vertex IDs of the primitive or strip being
assembled, the vertices taken since the strip began, and the number of the next primitive. -/
structure RasAsm where
  pos : Nat
  hist : List Nat
  strip : Nat
  prim : Nat
  deriving DecidableEq, Repr

/-- A primitive as assembled: its number, its three vertex IDs, the provoking one first (R222), and where assembly stood
before it. -/
structure RasPrim where
  num : Nat
  ids : List Nat
  before : RasAsm
  deriving DecidableEq, Repr

/-- A vertex batch (R221): its number in the pass, its draw, its distinct vertex IDs, its primitives still to be binned,
and its outputs once its group has ended: each thread's position and varyings. -/
structure RasBatch where
  num : Nat
  draw : Nat
  ids : List Nat
  prims : List RasPrim
  outs : Option (List (List Nat))
  deriving DecidableEq, Repr

/-- A vertex of a binned triangle (R226): snapped position, z, q, varyings. -/
structure RasVert where
  x : Int
  y : Int
  z : Nat
  q : Nat
  vars : List Nat
  deriving DecidableEq, Repr

/-- A binned triangle (R226). -/
structure RasTri where
  draw : Nat
  prim : Nat
  front : Bool
  verts : List RasVert
  deriving DecidableEq, Repr

/-- A 2 × 2 quad of a triangle (R232): the record's offset in bin memory, its top left pixel, and its covered members. -/
structure RasQuad where
  tri : Nat
  draw : Nat
  x : Nat
  y : Nat
  cover : Nat
  deriving DecidableEq, Repr

/-- A fragment group (R232): its number in the tile phase, and its quads. -/
structure RasGroup where
  num : Nat
  quads : List RasQuad
  deriving DecidableEq, Repr

/-- The tile in work (R229): its index, each target's pixel codes and the depth codes of its 32 × 32 pixels, quads still to
be launched, and groups launched and not yet blended, in list order. -/
structure RasTile where
  idx : Nat
  color : List (List Nat)
  depth : List Nat
  quads : List RasQuad
  groups : List RasGroup
  deriving DecidableEq, Repr

/-- The phase of a pass (RAS_STATUS.PHASE): geometry, a partial render, or the final tile phase. -/
inductive RasPhase where
  | geometry | partialRender | final
  deriving DecidableEq, Repr

/-- A raster pass (R217, R238): its cue and context, the descriptor as read and its address, the target records, the phase,
the draw records read, assembly, batches, the number of the next batch or group, the tile in work and the next tile,
the two allocators of bin memory, the report's counts (R243), whether a yield has been asked for, the spilled tiles of a
saved pass, and whether nothing has been binned since a partial render ended (a flush point). -/
structure RasterRun where
  uid : Nat
  cid : Nat
  desc : List Byte
  daddr : Nat
  targets : List Byte
  phase : RasPhase
  draws : List (List Byte)
  asm : RasAsm
  batches : List RasBatch
  nextNum : Nat
  tile : Option RasTile
  nextTile : Nat
  recTop : Nat
  chunkLow : Nat
  primsIn : Nat
  binned : Nat
  culled : Nat
  frags : Nat
  partials : Nat
  stored : Nat
  peak : Nat
  yielding : Bool
  spilled : List Nat
  flushed : Bool
  deriving DecidableEq, Repr

/-- A COMPRESS or DECOMPRESS cue on an engine (R428): its record and the record's address, the next block, source bytes
consumed, bytes written at DST, and stored blocks (R431). -/
structure CompRun where
  uid : Nat
  cid : Nat
  engine : Nat
  decomp : Bool
  raw : List Byte
  raddr : Nat
  block : Nat
  used : Nat
  out : Nat
  stored : Nat
  deriving DecidableEq, Repr

end Sys2Proof.Machine
end

