-- ==== Sys2Proof/Machine/State.lean ====
section
/-! DEFINITION. The state of the Glanik as plain data, the reasons a step can stop, and the state after a cold reset. -/

namespace Sys2Proof.Machine

/-- The reasons a step can fault. No command of this model faults: every command of the table has an effect in the spec,
and an error the device meets is a code, a flag or a record in its state. The constructor stands for a host harness and is
raised by nothing; stopping there would be safe. -/
inductive Fault where
  | machineStopped
  deriving DecidableEq, Repr

/-- The reasons a step can refuse a command. `notModelled`: the command has no meaning in this model yet; safe, since
nothing is claimed of it. -/
inductive Refusal where
  | notModelled (mnemonic : String)
  deriving DecidableEq, Repr

/-- The whole state. Sparse stores are in the canonical form of `SMap`. -/
structure State where
  /-- Commands waiting, first in, first out (the block's command queue). -/
  pending : List Instr
  /-- Every register of the register map by address (spec/18_register_map.md); for shadowed fields, the shadow (R353). -/
  regs : SMap W32
  /-- The applied values of shadowed registers (R355). -/
  applied : SMap W32
  /-- The committed set of Scene Change (R353), and whether a commit has been accepted since the last L1 (R356). -/
  committed : SMap W32
  scLocked : Bool
  /-- _LO halves written and not yet in effect (R16), keyed by path and address. -/
  loHeld : List (Nat × W32)
  /-- _HI halves latched by a read of _LO (R16, R529), keyed by path and address. -/
  hiLatch : List (Nat × W32)
  /-- The data of the last register read. -/
  bus : W64
  /-- Register accesses that wait for a gated domain to wake (R434, R531). -/
  waitAcc : List RegAccess
  /-- The model's own field: how many free values have been used. -/
  free : Nat
  /-- Whether the fabric oscillator FIO runs (spec/14_power_and_clocks.md R454). -/
  fio : Bool
  /-- Memory by device address: the Loft, DRAM and the host window (R358). -/
  mem : SMap Byte
  /-- Messages and signals sent out, oldest first. -/
  out : List Msg
  /-- MSI-X tables of the functions (R526), keyed fn * 64 + vector. -/
  msix : SMap Msix
  /-- The CACHE region (key 0) and the L1 of core n (key n + 1). -/
  caches : SMap CacheSt
  /-- Memory requests, oldest first. -/
  reqs : List Req
  nextReq : Nat
  /-- Token buckets (R351), keyed partition * 3 + regulator; default 0 tokens. -/
  buckets : SMap Int
  /-- Rows the Loft and DRAM patrol scrubbers visit next (R64, R535). -/
  scrubRow : Nat
  memcLine : Nat
  /-- The 8-byte words of SCRATCH and DRAM, by device address / 8, in which a read has found an uncorrectable error and
  which no write has since covered whole (R37, R39, R62). -/
  ueWords : List Nat
  /-- Physical cores (spec/02_thread_groups.md), keyed by physical number. -/
  cores : SMap CoreSt
  launches : List Launch
  /-- Vertex and fragment workgroups that have ended and that the raster block has not yet taken (R222, R233). -/
  endedWgs : List Wg
  /-- Tensor operations, and the cues the Prompters have read ahead (R147). -/
  tensors : List TensorOp
  /-- The active weight registers of the tensor engines (R109): by core, cell (i, j) at 32 i + j. The shadow registers load
  the next weight tile within a tile and hold nothing between commands. -/
  weights : SMap (List Nat)
  prefetched : List NextOp
  /-- Fetched cues that have not completed, in fetch order. -/
  cues : List CueRun
  nextUid : Nat
  follows : List Follow
  copies : List CopySt
  /-- Stop requests to engines (uid, code), and failed reads of follow-on cues against the cue that named them (R288). -/
  stops : List (Nat × Nat)
  followFails : List (Nat × Nat)
  /-- Rings keyed fn * 1024 + r, contexts, fences and semaphores by number. -/
  rings : SMap Ring
  ctxs : SMap Ctx
  fences : SMap Fence
  sems : SMap Sem
  faultReps : List FaultRep
  /-- Streams of the Pit by number, and the serial audio ports (spec/05_the_pit.md). -/
  streams : SMap PitStream
  saps : SMap SapPort
  /-- The pass in the raster block, and passes that have yielded with their images (spec/06_raster.md). -/
  raster : Option RasterRun
  savedPasses : List (Nat × RasterRun)
  /-- Cues on the compression engines (spec/13_compression.md), and the reports of passes and cues that have ended, to be
  written before their completion records (R242, R431). -/
  comps : List CompRun
  reports : List Report
  /-- Layers and outputs by number (spec/07_proscenium.md). -/
  layers : SMap LayerSt
  outputs : SMap OutSt
  /-- The Umram link (spec/12_umram_link.md). -/
  link : LinkSt
  /-- Pre-emption requests, save images and saved workgroups (R339 to R342). -/
  preempts : List Preempt
  images : List SaveImage
  nextImage : Nat
  savedWgs : List SavedWg
  /-- Ownership tags (R372), keyed g for Loft granule g and 0x10000 + g for DRAM granule g; tags with an uncorrectable
  error (R376); the TAG write in progress (R375). -/
  tags : SMap Nat
  badTags : List Nat
  tagJob : Option TagJob
  /-- Translation cache and walk cache, most recently used first (R368); held translations (R370); invalidations (R378);
  outstanding ATS requests, failures not yet seen, and the functions whose ATS is enabled (R365, R366). -/
  tc : List TcEntry
  wc : List WalkEntry
  helds : List Held
  invs : List Inv
  nextInv : Nat
  atsReqs : List AtsReq
  hostFails : List HostFail
  atsEn : Nat
  /-- The Show Report's recorder (R501) and the repair table in AON (R498). -/
  recorder : ShowSt
  repairs : List Repair
  /-- The board flash (R479, R503): an unlisted byte reads 0xFF, as an erased one. -/
  flash : SMap Byte
  /-- The start sequence, reset and trust; the SDIO port; power and clocks; self-test. -/
  boot : BootSt
  sdio : SdioSt
  pwr : PwrSt
  test : TestSt
  deriving DecidableEq, Repr

/-- The recorder with nothing in it. -/
def ShowSt.empty : ShowSt := ⟨[], [], [], [], [], 0, none⟩

/-- The applied values at reset: each output of Proscenium has its own copy of the PROSC registers, and each port of the link
of the credit pools, output or port `o` at the address plus o * 2^28 (spec/07_proscenium.md R266, spec/12_umram_link.md
R408). -/
def unitCopy (o : Nat) : SMap W32 :=
  (resetWords.filter fun p => (decide (0x480000 ≤ p.1) && decide (p.1 < 0x490000)) ||
    (decide (0x580200 ≤ p.1) && decide (p.1 < 0x580220))).map fun p => (p.1 + o * 2 ^ 28, p.2)
def appliedReset : SMap W32 := resetWords ++ unitCopy 1 ++ unitCopy 2

/-- The machine just after a cold reset (L0): every register at its reset value, memory with nothing listed, every queue
empty, every object FREE (R22, R324, R357, R383). -/
def State.reset : State where
  pending := []
  regs := resetWords
  applied := appliedReset
  committed := resetWords
  scLocked := false
  loHeld := []
  hiLatch := []
  bus := 0
  waitAcc := []
  free := 0
  fio := false
  mem := []
  out := []
  msix := []
  caches := []
  reqs := []
  nextReq := 0
  buckets := []
  scrubRow := 0
  memcLine := 0
  ueWords := []
  cores := []
  launches := []
  endedWgs := []
  tensors := []
  weights := []
  prefetched := []
  cues := []
  nextUid := 0
  follows := []
  copies := []
  stops := []
  followFails := []
  rings := []
  ctxs := []
  fences := []
  sems := []
  faultReps := []
  streams := []
  saps := []
  raster := none
  savedPasses := []
  comps := []
  reports := []
  layers := []
  outputs := []
  link := LinkSt.none
  preempts := []
  images := []
  nextImage := 0
  savedWgs := []
  tags := []
  badTags := []
  tagJob := none
  tc := []
  wc := []
  helds := []
  invs := []
  nextInv := 0
  atsReqs := []
  hostFails := []
  atsEn := 0
  recorder := ShowSt.empty
  repairs := []
  flash := []
  boot := BootSt.off
  sdio := SdioSt.fresh
  pwr := PwrSt.off
  test := TestSt.idle

end Sys2Proof.Machine
end

