-- ==== Sys2Proof/Machine/Ops.lean ====
section
/-! DEFINITION. The named operations over registers, flags, memory, contexts, cues and the recorder that every meaning
uses. -/

namespace Sys2Proof.Machine

open Sys2Proof

/-! ## Registers -/

/-- The word of a register. -/
def rd (s : State) (r : Nat) : W32 := mget 0 s.regs r

/-- The state with a register's word written. -/
def wr (s : State) (r : Nat) (v : W32) : State := { s with regs := mput 0 s.regs r v }

/-- A register's word as a number. -/
def rdN (s : State) (r : Nat) : Nat := (rd s r).toNat

/-- Write a number, modulo 2^32, into a register. -/
def wrN (s : State) (r v : Nat) : State := wr s r (BitVec.ofNat 32 v)

/-- The value of a field. -/
def fget (s : State) (f : Fld) : Nat := bits (rdN s f.reg) f.hi f.lo

/-- A one-bit field as a truth value. -/
def fbit (s : State) (f : Fld) : Bool := fget s f == 1

/-- The state with a field written; the register's other bits stay. -/
def fset (s : State) (f : Fld) (v : Nat) : State := wrN s f.reg (putBits (rdN s f.reg) f.hi f.lo v)

/-- The applied value of a shadowed field (R353, R355). -/
def aget (s : State) (f : Fld) : Nat := bits (mget 0 s.applied f.reg).toNat f.hi f.lo

/-- The number in a _LO/_HI pair whose _LO half is at `r` (R16). -/
def rd64 (s : State) (r : Nat) : Nat := rdN s r + 2 ^ 32 * rdN s (r + 4)

/-- Write a _LO/_HI pair. -/
def wr64 (s : State) (r v : Nat) : State := wrN (wrN s r v) (r + 4) (v / 2 ^ 32)

/-- Hardware sets a W1C flag: the flag reads 1 and its event counter goes up, modulo 2^16 (R20). -/
def raise (s : State) (f : Flag) : State := fset (fset s f.bit 1) f.evt (fget s f.evt + 1)

/-- Add to a 64-bit counter held in a pair. -/
def add64 (s : State) (r n : Nat) : State := wr64 s r (rd64 s r + n)

/-- Add to a 32-bit counter that saturates. -/
def incSat (s : State) (r : Nat) (n : Nat := 1) : State := wrN s r (satAdd 0xFFFFFFFF (rdN s r) n)

/-- Add to a 32-bit counter that wraps. -/
def incWrap (s : State) (r : Nat) (n : Nat := 1) : State := wrN s r (rdN s r + n)

/-- Add one to a counter field that saturates. -/
def fincSat (s : State) (f : Fld) : State := fset s f (satAdd (2 ^ (f.hi + 1 - f.lo) - 1) (fget s f) 1)

/-- The state with the start logic and the security engine changed. -/
def modBoot (s : State) (f : BootSt → BootSt) : State := { s with boot := f s.boot }

/-! ## Codes (R23, R24 and the code tables of the chapters) -/

abbrev cOk : Nat := 0
abbrev cUnmapped : Nat := 0x0101
abbrev cPerm : Nat := 0x0102
abbrev cOwner : Nat := 0x0103
abbrev cPartial : Nat := 0x0104
abbrev cMemUe : Nat := 0x0105
abbrev cRevoked : Nat := 0x0106
abbrev cHostError : Nat := 0x0107
abbrev cTagQuota : Nat := 0x0108
abbrev cTagInvalid : Nat := 0x0109
abbrev cIllegal : Nat := 0x0201
abbrev cDeadlock : Nat := 0x0202
abbrev cLocalOob : Nat := 0x0203
abbrev cStall : Nat := 0x0204
abbrev cMisaligned : Nat := 0x0205
abbrev cCallDepth : Nat := 0x0206
abbrev cCtxLost : Nat := 0x0401
abbrev cAborted : Nat := 0x0402
abbrev cOverrun : Nat := 0x0403
abbrev cFenceFreed : Nat := 0x0404
abbrev cSemNotHeld : Nat := 0x0405
abbrev cScBusy : Nat := 0x0481
abbrev cScConfig : Nat := 0x0482
abbrev cScInUse : Nat := 0x0483
abbrev cLinkDown : Nat := 0x0501
abbrev cExpertUnreach : Nat := 0x0502
abbrev cUnderrun : Nat := 0x0601
abbrev cDeadline : Nat := 0x0602
abbrev cReplayed : Nat := 0x0603
abbrev cCueInvalid : Nat := 0x0701
abbrev cSigFail : Nat := 0x0702
abbrev cPiInvalid : Nat := 0x0703
abbrev cRingLost : Nat := 0x0704
abbrev cUndeliverable : Nat := 0x0801
abbrev cTakeover : Nat := 0x0B01
abbrev cRtCoreFail : Nat := 0x0B02
abbrev cRehFail : Nat := 0x0B03
abbrev cRepairSoft : Nat := 0x0B04
abbrev cRepairBurned : Nat := 0x0B05
abbrev cLoftUnrep : Nat := 0x0B06
abbrev cCoresShort : Nat := 0x0B07
abbrev cPitRt : Nat := 0x0B08
abbrev cCurtainRt : Nat := 0x0B09
abbrev cPowerCycle : Nat := 0x0B0A
abbrev cLogSupp : Nat := 0x0B0B
abbrev cRehMissed : Nat := 0x0B0C

/-- The code of a failed host access (R366). -/
def hostCode : HostErr → Nat
  | .unmapped => cUnmapped
  | .perm => cPerm
  | .error => cHostError

/-! ## Free values -/

/-- A free value: the spec leaves it open, and nothing constrains it. -/
def freeVal (s : State) : Nat := Config.freeNat s.free

/-- The state after a free value has been used. -/
def useFree (s : State) : State := { s with free := s.free + 1 }

/-! ## Messages and interrupts -/

/-- Send a message out. -/
def send (s : State) (m : Msg) : State := { s with out := s.out ++ [m] }

/-- A message is due on an MSI-X vector: sent, or left pending while the vector is masked (R526). -/
def raiseMsix (s : State) (fn v : Nat) : State :=
  let k := fn * 64 + v
  let e := mget Msix.reset s.msix k
  if e.mask then { s with msix := mput Msix.reset s.msix k { e with pending := true } } else send s (.msix fn v)

/-- The interrupt sources of PDESK_IRQ_MAP (R293), by the lowest bit of their vector field. -/
abbrev irqFault : Nat := 0
abbrev irqPit : Nat := 8
abbrev irqDisplay : Nat := 16
abbrev irqSystem : Nat := 24

/-- Raise an interrupt source of a function on the vector PDESK_IRQ_MAP gives it, if enabled. -/
def raiseIrq (s : State) (fn src : Nat) : State :=
  let m := rdN s (R.PDESK_IRQ_MAP fn)
  if bit m (src + 7) then raiseMsix s fn (bits m (src + 5) src) else s

/-- Raise the SYSTEM vector of the physical function (R293). -/
def raiseSystem (s : State) : State := raiseIrq s 0 irqSystem

/-- PENDING has reached zero: SC_DONE and the SYSTEM vector (R356). -/
def scDone (s : State) : State :=
  if rdN s R.SMGR_SC_PENDING = 0 then raiseSystem (raise s E.SMGR_SC_STATUS.SC_DONE) else s

/-- Whether a commit is pending at a unit. -/
def scPending (s : State) (u : Nat) : Bool := bit (rdN s R.SMGR_SC_PENDING) u

/-- A unit has applied its part of a commit (R355, R356): its APPLIED register takes GEN and its PENDING bit clears. -/
def scApplied (s : State) (u : Nat) : State :=
  let s := wr s (R.SMGR_SC_APPLIED u) (rd s R.SMGR_SC_GEN)
  scDone (wrN s R.SMGR_SC_PENDING (putBits (rdN s R.SMGR_SC_PENDING) u u 0))

/-- Registers that meet `p` take their committed values. -/
def applyRegs (s : State) (p : Nat → Bool) : State :=
  { s with applied :=
      (s.committed.filter fun e => p e.1).foldl (fun m e => mput 0 m e.1 e.2) (s.applied.filter fun e => !p e.1) }

/-! ## The Show Report's queue (R501) -/

/-- An event with no core, function or context of its own. -/
def plainEv (code unit sev : Nat) : ShowEv := ⟨code, unit, sev, 0xFF, 0xFF, 0xFFFF, []⟩

/-- A flag of a link, power or Show Report status is set: a system event (R293). -/
def raiseSys (s : State) (f : Flag) : State := raiseSystem (raise s f)

/-- A flag of a display status is set: a display event of the physical function (R293). -/
def raiseDisp (s : State) (f : Flag) : State := raiseIrq (raise s f) 0 irqDisplay

/-- An event is dropped and counted (R501). -/
def showDrop (s : State) : State := raiseSys (incSat s R.SHOW_DROPPED_COUNT) E.SHOW_EVENT.DROPPED

/-- An event enters the recorder's 64-entry queue, or is dropped when the queue is full (R501). -/
def showEvent (s : State) (e : ShowEv) : State :=
  if s.recorder.queue.length < 64 then { s with recorder := { s.recorder with queue := s.recorder.queue ++ [e] } }
  else showDrop s

/-! ## Functions, contexts and partitions -/

/-- Whether number `x` lies in `[base, base + n)`. -/
def inRange (x base n : Nat) : Bool := decide (base ≤ x) && decide (x < base + n)

/-- The function whose CTX range holds a context (R300). -/
def fnOfCid (s : State) (cid : Nat) : Option Nat :=
  (upTo 32).find? fun f => inRange cid (fget s (F.PDESK_FN_CTX_RANGE.CTX_BASE f)) (fget s (F.PDESK_FN_CTX_RANGE.CTX_COUNT f))

/-- The function whose fence range holds a fence. -/
def fnOfFence (s : State) (x : Nat) : Option Nat :=
  (upTo 32).find? fun f => inRange x (fget s (F.PDESK_FN_FENCE_BASE.FENCE_BASE f)) (fget s (F.PDESK_FN_FENCE_COUNT.FENCE_COUNT f))

/-- The function whose semaphore range holds a semaphore. -/
def fnOfSem (s : State) (x : Nat) : Option Nat :=
  (upTo 32).find? fun f => inRange x (fget s (F.PDESK_FN_SEM_RANGE.SEM_BASE f)) (fget s (F.PDESK_FN_SEM_RANGE.SEM_COUNT f))

/-- Whether a function is in G5 compatibility mode (R299). -/
def isG5 (s : State) (fn : Nat) : Bool := bit (mget 0 s.applied R.PDESK_G5_MODE).toNat fn

/-- A context's entry. -/
def ctxOf (s : State) (cid : Nat) : Ctx := mget Ctx.none s.ctxs cid

/-- Change a context's entry. -/
def modCtx (s : State) (cid : Nat) (f : Ctx → Ctx) : State := { s with ctxs := mmod Ctx.none s.ctxs cid f }

/-- Whether a context is LIVE (R301). -/
def ctxLive (s : State) (cid : Nat) : Bool := (ctxOf s cid).state == .live

/-- Whether a context is usable by a function (R302). -/
def ctxUsable (s : State) (fn cid : Nat) : Bool := ctxLive s cid && fnOfCid s cid == some fn

/-- Whether a partition is enabled, privileged; its core mask (applied values). -/
def partEn (s : State) (p : Nat) : Bool := aget s (F.SMGR_P_CFG.EN p) == 1
def partPriv (s : State) (p : Nat) : Bool := aget s (F.SMGR_P_CFG.PRIV p) == 1
def partMask (s : State) (p : Nat) : Nat := aget s (F.SMGR_P_CFG.CORE_MASK p)
def partNpl (s : State) (p : Nat) : Nat := aget s (F.SMGR_P_NPL.NPL p)
def partSlice (s : State) (p : Nat) : Nat := aget s (F.SMGR_P_SLICE.SLICE p)

/-- The partition that holds a logical core. -/
def partOfLcore (s : State) (l : Nat) : Option Nat := (upTo 8).find? fun p => partEn s p && bit (partMask s p) l

/-- The role of a physical core (CORE_ID.ROLE): 0 active, 1 understudy, 2 under Run-through, 3 fenced off. -/
def coreRole (s : State) (n : Nat) : Nat := fget s (F.CORE_ID.ROLE n)

/-- The logical number of a physical core. -/
def lcoreOf (s : State) (n : Nat) : Nat := fget s (F.CORE_ID.LOGICAL n)

/-- The active physical core that has a logical number. -/
def physOf (s : State) (l : Nat) : Option Nat := (upTo 17).find? fun n => coreRole s n == 0 && lcoreOf s n == l

/-- The physical core that stands aside, if one does. -/
def understudy (s : State) : Option Nat := (upTo 17).find? fun n => coreRole s n == 1

/-- The partition of a physical core's work. -/
def partOfCore (s : State) (n : Nat) : Option Nat := if coreRole s n == 0 then partOfLcore s (lcoreOf s n) else none

/-- A physical core's contents. -/
def coreOf (s : State) (n : Nat) : CoreSt := mget CoreSt.idle s.cores n

/-- Change a physical core's contents. -/
def modCore (s : State) (n : Nat) (f : CoreSt → CoreSt) : State := { s with cores := mmod CoreSt.idle s.cores n f }

/-! ## Fault records (R107) -/

/-- The record of a fault. -/
def faultRec (code lcore pcore cid slot lane pc : Nat) (addr : Option Nat) (iword : Nat) (groupWide : Bool) : List Byte :=
  leBytes 2 code ++ leBytes 1 lcore ++ leBytes 1 pcore ++ leBytes 2 cid ++ leBytes 1 slot ++ leBytes 1 lane ++
    leBytes 8 (pc % 2 ^ 48) ++ leBytes 8 (addr.getD 0) ++ leBytes 4 iword ++ leBytes 2 0 ++
    leBytes 1 (b2n addr.isSome + 2 * b2n groupWide) ++ leBytes 1 0

/-- A record with FURTHER raised by one, saturating (R106). -/
def furtherUp (r : List Byte) : List Byte := r.take 28 ++ leBytes 2 (satAdd 0xFFFF (field r 28 2) 1) ++ r.drop 30

/-- Whether a request has its answer. -/
def Req.isDone (r : Req) : Bool := match r.at_ with | .done .. => true | _ => false

/-- The failed host accesses of a context's function, and its engines' answers from peers, have been seen (R366, R405). -/
def seeFails (s : State) (cid : Nat) : State :=
  { s with
    hostFails := s.hostFails.filter fun e => some e.fn != fnOfCid s cid
    reqs := s.reqs.filter fun r => !(r.eng.isSome && r.cid == cid && r.isDone) }

/-- A fault is reported to the Stage Manager (R303): it waits for CONTEXT_FAULT_REPORT. -/
def reportFault (s : State) (cid : Nat) (record : List Byte) (uid : Option Nat) : State :=
  { seeFails s cid with faultReps := s.faultReps ++ [⟨cid, record, uid⟩] }

/-! ## Cues (R277) -/

def CueRun.opc (c : CueRun) : Nat := field c.raw 0 1
def CueRun.flags (c : CueRun) : Nat := field c.raw 1 1
def CueRun.irq (c : CueRun) : Bool := bit c.flags 0
def CueRun.wait (c : CueRun) : Bool := bit c.flags 1
def CueRun.signal (c : CueRun) : Bool := bit c.flags 2
def CueRun.indirect (c : CueRun) : Bool := bit c.flags 3
def CueRun.next (c : CueRun) : Bool := bit c.flags 4
def CueRun.overlap (c : CueRun) : Bool := bit c.flags 5
def CueRun.cid (c : CueRun) : Nat := field c.raw 2 2
def CueRun.tag (c : CueRun) : Nat := field c.raw 4 4
def CueRun.seed (c : CueRun) : Nat := field c.raw 8 4
def CueRun.maxBeats (c : CueRun) : Nat := field c.raw 12 4
def CueRun.waitFence (c : CueRun) : Nat := field c.raw 16 2
def CueRun.signalFence (c : CueRun) : Nat := field c.raw 18 2
def CueRun.waitValue (c : CueRun) : W64 := BitVec.ofNat 64 (field c.raw 24 8)
def CueRun.signalValue (c : CueRun) : W64 := BitVec.ofNat 64 (field c.raw 32 8)
def CueRun.nextAddr (c : CueRun) : Nat := field c.raw 40 8
def CueRun.addr (c : CueRun) : Nat := field c.raw 48 8
def CueRun.arg (c : CueRun) : Nat := field c.raw 56 8

/-- The numeric block of a cue with no numeric event: zero counters and the no-event pattern (R177). -/
def zeroNum : List Byte := List.replicate 10 0 ++ List.replicate 10 0xFF

/-- The cue with a number. -/
def cueOf (s : State) (uid : Nat) : Option CueRun := s.cues.find? (·.uid == uid)

/-- Change a cue. -/
def modCue (s : State) (uid : Nat) (f : CueRun → CueRun) : State := { s with cues := mapWhere (·.uid == uid) f s.cues }

/-- A cue ends with a code and a numeric block; it waits for CUE_COMPLETE (R287). A cue that has ended keeps its code, and
one whose ring has lost its state ends with RING_STATE_LOST (R295). -/
def CueRun.finish (c : CueRun) (code : Nat) (num : List Byte) : CueRun :=
  if c.stage = .ended then c else { c with stage := .ended, code := if c.code = cOk then code else c.code, num := num }
def endCue (s : State) (uid code : Nat) (num : List Byte := zeroNum) : State := modCue s uid fun c => c.finish code num

/-- A cue is now held by an engine or a queue. -/
def runCue (s : State) (uid : Nat) : State := modCue s uid fun c => { c with stage := .running }

/-- The key of a source. -/
def srcOf : Src → CueSrc
  | .ring fn r => .ring (fn.val * 1024 + r.val)
  | .stream n => .stream n.val

/-- A ring's entry, and its change. -/
def ringOf (s : State) (k : Nat) : Ring := mget Ring.idle s.rings k
def modRing (s : State) (k : Nat) (f : Ring → Ring) : State := { s with rings := mmod Ring.idle s.rings k f }

/-- The function of a ring. -/
def ringFn (k : Nat) : Nat := k / 1024

/-- The ring a function has selected (PDESK_RING_SEL, R530). -/
def selRing (s : State) (fn : Nat) : Nat := fn * 1024 + fget s (F.PDESK_RING_SEL.RING fn)

/-- CFG_REFUSED of a ring, with its event counter. -/
def ringRefuse (s : State) (k : Nat) : State :=
  modRing s k fun r => { r with refused := true, refusedEvt := (r.refusedEvt + 1) % 2 ^ 16 }

/-- A ring stalls (R293, R295): STALL is set with its counter, CODE holds the cause, and an MSI-X message is raised. -/
def stallRing (s : State) (k code : Nat) : State :=
  let r := ringOf s k
  let f := fun (r : Ring) =>
    { r with
      state := .stalled
      code := code
      stall := true
      stallEvt := (r.stallEvt + 1) % 2 ^ 16 }
  raiseMsix (modRing s k f) (ringFn k) r.vector

/-! ## The Loft's regions (R42 to R45) -/

abbrev mib : Nat := 1048576
abbrev dramBase : Nat := 0x4000000000
abbrev hostBase : Nat := 0x800000000000

/-- Whether the carving is in force. -/
def carved (s : State) : Bool := fbit s F.LOFT_CTRL.CARVE_LOCK

/-- Region bounds of the carving: where CACHE begins, where RESERVED begins, and the sub-regions of RESERVED. -/
def reservedMib (s : State) : Nat :=
  2 + 1 + fget s F.LOFT_BIN_SIZE.BIN_MIB + fget s F.LOFT_PIT_SIZE.PIT_MIB + fget s F.LOFT_SAVE_SIZE.SAVE_MIB
def reservedBase (s : State) : Nat := (64 - reservedMib s) * mib
def cacheBase (s : State) : Nat := (64 - reservedMib s - fget s F.LOFT_CACHE_SIZE.CACHE_MIB) * mib
def fenceTable (s : State) : Nat := reservedBase s + 2 * mib
def binBase (s : State) : Nat := fenceTable s + mib
def pitBase (s : State) : Nat := binBase s + fget s F.LOFT_BIN_SIZE.BIN_MIB * mib
def saveBase (s : State) : Nat := pitBase s + fget s F.LOFT_PIT_SIZE.PIT_MIB * mib

/-- The unit and its device address that a peer address names (R360, R400): members of this unit's own ring, and units of a
member that is a group. -/
def peerTarget (s : State) (a : Nat) : Option (List Nat × Nat) :=
  let me := s.link.pos
  let m := me.dropLast ++ [bits a 43 40]
  let listed := fun (u : List Nat) => s.link.roster.units.any (·.addr == u)
  if me.isEmpty || !fbit s F.UL_SELF.ADDR_DONE || 8 ≤ bits a 43 40 then none
  else if bit a 39 then
    let u := m ++ [bits a 38 35]
    if 8 ≤ bits a 38 35 ∨ !listed u then none
    else if bit a 34 then some (u, dramBase + bits a 33 0)
    else if bits a 33 26 = 0 then some (u, bits a 25 0) else none
  else if listed m then some (m, bits a 38 0) else none

/-- The device address of this unit that a peer address naming this unit stands for (R360). -/
def ownPeer (s : State) (a : Nat) : Option Nat :=
  (peerTarget s a).bind fun t => if t.1 = s.link.pos then some t.2 else none

/-- What a device address reaches (R358), with the Loft's regions (R42). -/
inductive Reach where
  | scratch | cacheRegion | ringTable | fenceTab | bins | pitBuf | saves | dram | peer | host | none
  deriving DecidableEq, Repr

/-- The place of a device address. DRAM is mapped to its installed size only. -/
def reach (s : State) (a : Nat) : Reach :=
  if a < 64 * mib then
    if !carved s then .scratch
    else if a < cacheBase s then .scratch
    else if a < reservedBase s then .cacheRegion
    else if a < fenceTable s then .ringTable
    else if a < binBase s then .fenceTab
    else if a < pitBase s then .bins
    else if a < saveBase s then .pitBuf
    else .saves
  else if dramBase ≤ a ∧ a < dramBase + fget s F.MEMC_CFG.GIB * 2 ^ 30 then .dram
  else if 0x200000000000 ≤ a ∧ a < 0x300000000000 then (if (peerTarget s a).isSome then .peer else .none)
  else if hostBase ≤ a ∧ a < 2 ^ 48 then .host
  else .none

/-! ## Bytes of memory, through the CACHE region -/

/-- A byte of memory behind every cache. -/
def memByte (s : State) (a : Nat) : Byte := mget 0 s.mem a

/-- Write bytes of memory behind every cache. A word written whole has a good codeword again (R39). -/
def memWrite (s : State) (a : Nat) (bs : List Byte) : State :=
  { s with
    mem := mputs 0 s.mem a bs
    ueWords := s.ueWords.filter fun w => !(decide (a ≤ 8 * w) && decide (8 * w + 8 ≤ a + bs.length)) }

/-! ## The cues of a source in order (R283) -/

/-- The cues of a source, oldest first. -/
def cuesOf (s : State) (src : CueSrc) : List CueRun := s.cues.filter (·.src == src)

/-- The next cue of a source to issue: the first one still waiting. -/
def nextWaiting (s : State) (src : CueSrc) : Option CueRun := (cuesOf s src).find? (·.stage == .waiting)

/-- Whether R283 lets a cue issue: the ring's previous cue and every follow-on it started have completed, or the cue has
OVERLAP and the previous one has issued; and fewer than 8 cues of the ring are in flight, those that have issued and not
completed. A follow-on stands where the cue that named it stood, which has completed. -/
def orderOk (s : State) (c : CueRun) : Bool :=
  let mine := fun (q : CueRun) => some q.chain == c.prev && c.prev.isSome
  (c.follow ||
    (if c.overlap then !s.cues.any (fun q => mine q && !q.follow && q.stage == .waiting)
     else !s.cues.any mine && !s.follows.any (fun f => some f.chain == c.prev))) &&
    decide (countWhere (fun x : CueRun => x.reserved) (cuesOf s c.src) < 8)

/-- Whether a cue with WAIT would issue but for its fence: it is the next of its source, and R283 lets it (R284). -/
def atFence (s : State) (c : CueRun) : Bool :=
  c.wait && c.stage == .waiting && !c.released && (nextWaiting s c.src).map (·.uid) == some c.uid && orderOk s c

/-! ## Fences (R309 to R312) -/

def fenceOf (s : State) (x : Nat) : Fence := mget Fence.none s.fences x

/-- A fence state's number, and the 16 bytes of an entry (R308). -/
def fenceCode : FenceState → Nat
  | .free => 0
  | .active => 1
  | .error => 2
def Fence.bytes (f : Fence) : List Byte :=
  leBytes 8 f.value.toNat ++ leBytes 2 f.owner ++ leBytes 2 f.code ++ leBytes 1 (fenceCode f.state) ++
    leBytes 1 (f.shareFn + 32 * b2n f.shared) ++ leBytes 2 f.regress

/-- Change a fence: the fence unit's directory, and the entry in the fence table (R308); before the Loft is carved the write
of the entry is not performed (R44). -/
def modFence (s : State) (x : Nat) (f : Fence → Fence) : State :=
  let s := { s with fences := mmod Fence.none s.fences x f }
  if carved s then memWrite s (fenceTable s + 16 * x) (fenceOf s x).bytes else s

/-- The fence table is empty (R324), and holds what the fence unit's directory does (R308). -/
def clearTable (s : State) : State := { s with mem := s.mem.filter fun p => !inRange p.1 (fenceTable s) mib }
def tableNow (s : State) : State := s.fences.foldl (fun s p => modFence s p.1 id) (clearTable s)

/-- Release the waiting cues of a fence whose target is now reached (R312): those that would issue but for it. A cue that
stands behind others of its ring meets its fence when its turn comes (R284). -/
def releaseReached (s : State) (x : Nat) (v : W64) : State :=
  let p := fun (c : CueRun) => c.waitFence == x && atFence s c && atOrBeyond v c.waitValue
  { s with cues := mapWhere p (fun c => { c with released := true }) s.cues }

/-- The next cue of a source meets its fence when its turn comes (R284, R312): released when the fence has reached its
target, ended with the fence's code when it is in ERROR. -/
def meetFence (s : State) (src : CueSrc) : State :=
  match nextWaiting s src with
  | none => s
  | some c =>
    let f := fenceOf s c.waitFence
    if !atFence s c then s
    else if f.state = .error then endCue s c.uid f.code
    else if f.state = .active ∧ atOrBeyond f.value c.waitValue then modCue s c.uid fun c => { c with released := true }
    else s

/-- Release the remaining waiting cues of a fence with a code (R284, R312, R315): they end with it without running. -/
def releaseWith (s : State) (x code : Nat) : State :=
  let p := fun (c : CueRun) => c.wait && c.waitFence == x && c.stage == .waiting && !c.released
  { s with cues := mapWhere p (fun c => { c with stage := .ended, code := code }) s.cues }

/-- Apply a signal to a fence (R310): the serial maximum, or a counted regression; nothing unless the fence is ACTIVE. -/
def signalFence (s : State) (x : Nat) (v : W64) : State :=
  let f := fenceOf s x
  if f.state ≠ .active then s
  else if v = f.value then s
  else if strictlyBeyond v f.value then releaseReached (modFence s x fun f => { f with value := v }) x v
  else
    let s := modFence s x fun f => { f with regress := satAdd 0xFFFF f.regress 1 }
    let s := incSat s R.PDESK_FENCE_REGRESS_COUNT
    match fnOfFence s x with
    | some fn => raise s (E.PDESK_FENCE_STATUS.REGRESSION fn)
    | none => s

/-- A fence enters ERROR (R311): the code is set, the value frozen, and every waiter not yet released is released with the
code. The first error wins; a FREE fence ignores it. -/
def errorFence (s : State) (x code : Nat) : State :=
  if (fenceOf s x).state = .active then
    releaseWith (modFence s x fun f => { f with state := .error, code := code }) x code
  else s

/-- Whether a context may wait on a fence (R314). -/
def mayWait (s : State) (x cid : Nat) : Bool :=
  let f := fenceOf s x
  f.state != .free && ((fnOfFence s x).isSome && fnOfFence s x == fnOfCid s cid ||
    f.shared && fnOfCid s cid == some f.shareFn)

/-- Whether a context may signal a fence (R314). -/
def maySignal (s : State) (x cid : Nat) : Bool :=
  (fenceOf s x).state != .free && (fnOfFence s x).isSome && fnOfFence s x == fnOfCid s cid

def cacheOf (s : State) (k : Nat) : CacheSt := mget CacheSt.empty s.caches k
def modCache (s : State) (k : Nat) (f : CacheSt → CacheSt) : State := { s with caches := mmod CacheSt.empty s.caches k f }

/-- Whether Rehearsal runs: SHUTDOWN (4, OFF) has passed its commit point at OP0 (R439, R494). -/
def rehearsing (s : State) : Bool :=
  match s.pwr.entry with
  | some e => e.target == 4 && e.committed
  | none => false

/-- A byte as an agent behind the L1s reads it: the CACHE region's line when one holds it, else memory. -/
def devByte (s : State) (a : Nat) : Byte :=
  match (cacheOf s 0).lines.find? (·.line == a / 64) with
  | some l => l.data.getD (a % 64) 0
  | none => memByte s a

/-- `n` bytes as an agent behind the L1s reads them. -/
def devRead (s : State) (a n : Nat) : List Byte := (upTo n).map fun i => devByte s (a + i)

/-- A line with bytes `off`, … replaced, marked dirty where `d` says so. -/
def Line.put (l : Line) (off : Nat) (bs : List Byte) (d : Bool) : Line :=
  { l with
    data := l.data.take off ++ bs ++ l.data.drop (off + bs.length)
    dirty := if d then l.dirty ||| ((2 ^ bs.length - 1) * 2 ^ off) else l.dirty }

/-- Bytes `[a, a + n)` that fall in backing line `ln`, as an offset in the line and the bytes. -/
def sliceOfLine (a : Nat) (bs : List Byte) (ln : Nat) : Nat × List Byte :=
  if a ≤ ln * 64 then (0, (bs.drop (ln * 64 - a)).take 64) else (a - ln * 64, bs.take (64 - (a - ln * 64)))

/-- A write by an agent behind the L1s: memory takes the bytes, and lines of the CACHE region that hold them are kept
equal to it (write-back lines keep their dirty marks; the write reaches both, so nothing read later differs). -/
def devWrite (s : State) (a : Nat) (bs : List Byte) : State :=
  let s := memWrite s a bs
  modCache s 0 fun c =>
    let upd := fun (l : Line) =>
      if overlaps a bs.length (l.line * 64) 64 then
        let p := sliceOfLine a bs l.line
        l.put p.1 p.2 false
      else l
    { c with lines := c.lines.map upd, side := c.side.filter fun l => !overlaps a bs.length (l.line * 64) 64 }

/-- A byte as an agent's access of a context finds it: at a peer address of this unit, the byte that the address stands for
(R360); at any other peer address, what the link brought last (R403). -/
def accByte (s : State) (a : Nat) : Byte := devByte s ((ownPeer s a).getD a)

/-- The device ranges in which an access would meet an uncorrectable error: words found bad that no line of the CACHE region
stands before, and lines of it marked bad (R39, R62). -/
def badSpans (s : State) : List (Nat × Nat) :=
  let lines := (cacheOf s 0).lines
  (s.ueWords.filter fun w => !lines.any (·.line == w / 8)).map (fun w => (8 * w, 8)) ++
    (lines.filter (·.bad)).map fun l => (64 * l.line, 64)

/-- Whether a line marked bad holds an address: every access there fails (R62). -/
def badLine (s : State) (a : Nat) : Bool := (cacheOf s 0).lines.any fun l => l.bad && l.line == a / 64

/-- Whether an access to `n` bytes at a device address meets an uncorrectable error found before: a read of a bad word, a
write of part of one, or any access to a line marked bad (R39, R62). -/
def ueAt (s : State) (a n : Nat) (write : Bool) : Bool :=
  (badSpans s).any fun b =>
    overlaps b.1 b.2 a n && !(write && b.2 == 8 && decide (a ≤ b.1) && decide (b.1 + 8 ≤ a + n))

/-! ## Ownership tags (R372, R373, R376) -/

/-- The key of the granule of a device address in the tag store: 16 KiB granules of the Loft, 256 KiB granules of DRAM. -/
def granule (a : Nat) : Nat := if a < 64 * mib then a / 16384 else 0x10000 + (a - dramBase) / 262144

/-- Whether a tag admits a context (R373). -/
def tagAdmits (s : State) (tag cid : Nat) (write : Bool) : Bool :=
  let mode := bits tag 1 0
  let owner := bits tag 17 8
  if mode = 0 then false
  else if owner = cid then true
  else if mode ≥ 2 ∧ (fnOfCid s owner).isSome ∧ fnOfCid s owner = fnOfCid s cid then true
  else mode == 3 && fnOfCid s cid == some (bits tag 22 18) && (!write || !bit tag 2)

/-- Whether a tag admits an access arriving over the link (R373). -/
def tagAdmitsLink (tag : Nat) (write : Bool) : Bool := bits tag 1 0 != 0 && bit tag 3 && (!write || !bit tag 2)

/-- The check of a peer access at its target (R373, R376, R377). -/
def peerCheck (s : State) (a : Nat) (write : Bool) : Nat :=
  let tagged :=
    if s.badTags.contains (granule a) then cMemUe
    else if tagAdmitsLink (mget 0 s.tags (granule a)) write then cOk else cOwner
  match reach s a with
  | .scratch => if carved s then tagged else cOwner
  | .dram => tagged
  | .none => cUnmapped
  | _ => cOwner

/-- The check an access of a context meets at the memory (R44, R45, R373, R376): its failure code, or 0. A peer address that
names this unit is checked as an access over the link (R360, R377). -/
def ownerCheck (s : State) (cid a : Nat) (write : Bool) : Nat :=
  match reach s a with
  | .scratch =>
    if !carved s then cOwner
    else if s.badTags.contains (granule a) then cMemUe
    else if tagAdmits s (mget 0 s.tags (granule a)) cid write then cOk else cOwner
  | .dram =>
    if s.badTags.contains (granule a) then cMemUe
    else if tagAdmits s (mget 0 s.tags (granule a)) cid write then cOk else cOwner
  | .host => cOk
  | .peer => match ownPeer s a with
    | some b => peerCheck s b write
    | none => cOk
  | .none => cUnmapped
  | _ => cOwner

/-! ## Translation (R361, R362, R366, R385) -/

/-- The outcome of a translation: a device address with its cacheability and the page it came from, a fault code, or a
host page whose ATS translation the host has still to answer (R365). -/
inductive XRes where
  | ok (da : Nat) (nc : Bool) (page size pda : Nat)
  | fault (code : Nat)
  | waits (fn page : Nat)
  deriving DecidableEq, Repr

/-- Whether the function's host accesses use ATS translation requests (R365, R385). -/
def usesAts (s : State) (fn : Nat) : Bool := bit s.atsEn fn && !isG5 s fn

/-- What the host's translation says of a host page: allowed (R365). A page with no cached answer waits; a failure not yet
seen gives its code. -/
def hostCheck (s : State) (fn a : Nat) (write : Bool) : XRes :=
  let h := a - hostBase
  match s.hostFails.find? fun e => e.fn == fn && e.page == h / 4096 with
  | some e => .fault e.code
  | none =>
    if usesAts s fn then
      match s.tc.find? fun e => e.ats && e.owner == fn && inRange h e.page e.size with
      | some e => if write && !e.w then .fault cPerm else if !write && !e.r then .fault cUnmapped else .ok a true 0 0 0
      | none => .waits fn (h / 4096)
    else .ok a true 0 0 0

/-- The last checks of R362 on a device address that a translation yields. -/
def finalCheck (s : State) (cid da : Nat) (nc : Bool) (page size pda : Nat) (write : Bool) : XRes :=
  let fn := (fnOfCid s cid).getD 0
  match reach s da with
  | .none => .fault cUnmapped
  | .host =>
    if aget s (F.XLAT_FN_CFG.HOSTWIN_EN fn) = 0 then .fault cUnmapped
    else match hostCheck s fn da write with
      | .ok .. => .ok da nc page size pda
      | r => r
  | .peer => if aget s (F.XLAT_FN_CFG.PEER_EN fn) = 0 then .fault cUnmapped else .ok da nc page size pda
  | _ => .ok da nc page size pda

/-- The table entry the walker reads at a device address (R363): its value, or why the walk fails or waits. Walker reads
bypass every cache. -/
def walkRead (s : State) (cid a : Nat) : Nat ⊕ XRes :=
  match reach s a with
  | .peer | .none => .inr (.fault cUnmapped)
  | .host =>
    match hostCheck s ((fnOfCid s cid).getD 0) a false with
    | .ok .. => .inl (leNat (mgets 0 s.mem a 8))
    | r => .inr r
  | _ =>
    let c := ownerCheck s cid a false
    if c = cOk ∧ ueAt s a 8 false then .inr (.fault cMemUe)
    else if c = cOk then .inl (leNat (mgets 0 s.mem a 8)) else .inr (.fault c)

/-- The table levels of a walk (R362): level, lowest and highest bit of the index. -/
def walkLevels : List (Nat × Nat × Nat) := [(0, 39, 47), (1, 30, 38), (2, 21, 29), (3, 16, 20)]

/-- The walk from a table at `e` (R361, R362): the leaf entry with its page size, or why there is none. -/
def walkFrom (s : State) (cid va : Nat) : List (Nat × Nat × Nat) → Nat → (Nat × Nat) ⊕ XRes
  | [], _ => .inr (.fault cUnmapped)
  | (lvl, lo, hi) :: rest, e =>
    match walkRead s cid (e + 8 * bits va hi lo) with
    | .inr r => .inr r
    | .inl pte =>
      let leaf := bit pte 1
      let addr := bits pte 47 8 * 256
      let size := if lvl = 2 then 2097152 else 65536
      if !bit pte 0 || bits pte 7 5 ≠ 0 || bits pte 63 48 ≠ 0 then .inr (.fault cUnmapped)
      else if leaf then
        if lvl < 2 || addr % size ≠ 0 then .inr (.fault cUnmapped) else .inl (pte, size)
      else if lvl = 3 then .inr (.fault cUnmapped)
      else if (lvl < 2 && addr % 4096 ≠ 0) || (lvl = 2 && addr % 256 ≠ 0) then .inr (.fault cUnmapped)
      else walkFrom s cid va rest addr

/-- The permission check and the yield of a leaf (R362). -/
def leafYield (s : State) (cid va pda size : Nat) (w x nc : Bool) (kind : XKind) : XRes :=
  if (kind = .write ∧ !w) ∨ (kind = .fetch ∧ !x) then .fault cPerm
  else finalCheck s cid (pda + va % size) nc (va / size * size) size pda (kind == .write)

/-- Where a walk starts: at the lowest table that the walk cache knows for the address, else at the root (R362, R368). -/
def walkStart (s : State) (cid va : Nat) : List (Nat × Nat × Nat) × Nat :=
  let hits := s.wc.filter fun e => e.cid == cid && inRange va e.page e.size
  match minBy (fun e : WalkEntry => e.size) hits with
  | some e => (walkLevels.filter (fun l => decide (2 ^ l.2.1 < e.size)), e.next)
  | none => (walkLevels, (ctxOf s cid).root)

/-- The walk of a context's tables (R362), without the translation cache. -/
def walk (s : State) (cid va : Nat) (kind : XKind) : XRes :=
  let p := walkStart s cid va
  if (ctxOf s cid).root = 0 then .fault cUnmapped
  else match walkFrom s cid va p.1 p.2 with
    | .inr r => r
    | .inl (pte, size) => leafYield s cid va (bits pte 47 8 * 256) size (bit pte 2) (bit pte 3) (bit pte 4) kind

/-- The translation of a context virtual address (R362, R368, R385): identity in G5 mode, a cached translation when one
covers the address, else the walk. -/
def xlate (s : State) (cid va : Nat) (kind : XKind) : XRes :=
  if va ≥ 2 ^ 48 then .fault cUnmapped
  else if isG5 s ((fnOfCid s cid).getD 0) then
    finalCheck s cid va (reach s va == .host) (va / 65536 * 65536) 65536 (va / 65536 * 65536) (kind == .write)
  else match s.tc.find? fun e => !e.ats && e.owner == cid && inRange va e.page e.size with
    | some e => leafYield s cid va e.da e.size e.w e.x e.nc kind
    | none => walk s cid va kind

/-- Whether a translation gave a device address, as R141 and R371 count it: also when the permission check then failed. The
ownership check comes after it, so a table entry that the walker may not read gives none. -/
def XRes.yields : XRes → Bool
  | .ok .. => true
  | .fault c => c == cPerm
  | .waits .. => false

/-- Translation and ownership check of one access (R362, R373). -/
def xcheck (s : State) (cid va : Nat) (kind : XKind) : XRes :=
  match xlate s cid va kind with
  | .ok da nc p sz pda =>
    let c := ownerCheck s cid da (kind == .write)
    if c = cOk then .ok da nc p sz pda else .fault c
  | r => r

/-- The 64 KiB virtual pages that `[va, va + n)` touches, lowest first. -/
def pagesOf (va n : Nat) : List Nat :=
  if n = 0 then [] else (upTo ((va + n - 1) / 65536 + 1 - va / 65536)).map fun i => (va / 65536 + i) * 65536

/-- What the check of a whole unit of R370 gives: the pages held, a code with the lowest failing address, or a wait. -/
inductive UnitRes where
  | ok (pages : List HeldPage)
  | fault (code addr : Nat)
  | waits (fn page : Nat)
  deriving DecidableEq, Repr

/-- The places of one range that are checked: its start and every boundary of `g` bytes in it. -/
def checkPoints (g va n : Nat) : List Nat :=
  if n = 0 then [] else va :: ((upTo ((va + n - 1) / g - va / g)).map fun i => (va / g + 1 + i) * g)

/-- The size of the steps a context's ranges are checked in: a Loft granule, or a host page where the host translates
(R365, R372). -/
def checkStep (s : State) (cid : Nat) : Nat := if usesAts s ((fnOfCid s cid).getD 0) then 4096 else 16384

/-- A place that is checked: its address, whether it is written, what the checks gave, and whether its page translated in
the sense of R141. -/
structure PointRes where
  va : Nat
  w : Bool
  res : XRes
  got : Bool

/-- The places of a unit that are checked: every range is a virtual address, a length and whether it is written. -/
def pointsOf (s : State) (cid : Nat) (ranges : List (Nat × Nat × Bool)) : List (Nat × Bool) :=
  ranges.flatMap fun r => (checkPoints (checkStep s cid) r.1 r.2.1).map fun v => (v, r.2.2)

/-- The check of one place. -/
def checkPoint (s : State) (cid : Nat) (p : Nat × Bool) : PointRes :=
  let kind := if p.2 then XKind.write else XKind.read
  ⟨p.1, p.2, xcheck s cid p.1 kind, (xlate s cid p.1 kind).yields⟩

/-- The pages of places that passed. -/
def pagesHeld (pts : List PointRes) : List HeldPage :=
  (pts.filterMap fun p => match p.res with
    | .ok _ nc page size pda => some (⟨page, size, pda, nc⟩ : HeldPage)
    | _ => none).eraseDups

/-- The outcome of a unit whose places have been checked: the code is TILE_PARTIAL_MAP when some page translated and some
did not, else that of the lowest failing address (R141, R371). -/
def unitVerdict (pts : List PointRes) : UnitRes :=
  match pts.findSome? fun p => match p.res with | .waits f g => some (f, g) | _ => none with
  | some (f, g) => .waits f g
  | none =>
    match minBy (fun p : Nat × Nat => p.1)
        (pts.filterMap fun p => match p.res with | .fault c => some (p.va, c) | _ => none) with
    | some (v, c) => if pts.any (·.got) && pts.any (!·.got) then .fault cPartial v else .fault c v
    | none => .ok (pagesHeld pts)

/-- Translate a unit whole (R370). -/
def mapUnit (s : State) (cid : Nat) (ranges : List (Nat × Nat × Bool)) : UnitRes :=
  unitVerdict ((pointsOf s cid ranges).map (checkPoint s cid))

/-- The device address of a virtual address under held pages. -/
def heldAddr (pages : List HeldPage) (va : Nat) : Nat :=
  match pages.find? fun p => inRange va p.va p.size with
  | some p => p.da + (va - p.va)
  | none => 0

/-- The lowest address at which a unit's access meets an uncorrectable error: a read of a bad word, a write of part
of one (R39), or any access to a line marked bad (R62). -/
def unitUe (s : State) (pages : List HeldPage) (ranges : List (Nat × Nat × Bool)) : Option Nat :=
  minBy (fun v : Nat => v) <| (badSpans s).flatMap fun b => pages.flatMap fun p =>
    if p.da ≤ b.1 ∧ b.1 < p.da + p.size then
      let v := p.va + (b.1 - p.da)
      ranges.filterMap fun r =>
        let whole := r.2.2 && b.2 == 8 && decide (r.1 ≤ v) && decide (v + 8 ≤ r.1 + r.2.1)
        if overlaps v b.2 r.1 r.2.1 && !whole then some (max v r.1) else none
    else []

/-- Whether held pages cover a virtual address. -/
def isHeld (pages : List HeldPage) (va : Nat) : Bool := pages.any fun p => inRange va p.va p.size

/-- What an access under held pages meets at one place (R366, R373, R376): a granule whose tag, as it is now, does not admit
it, or a host access that failed. -/
def placeBad (s : State) (cid : Nat) (pages : List HeldPage) (p : Nat × Bool) : Nat :=
  let da := heldAddr pages p.1
  let lost := reach s da == .host &&
    s.hostFails.any fun e => e.acc && some e.fn == fnOfCid s cid && e.page == (da - hostBase) / 4096
  if !isHeld pages p.1 then cOk else if lost then cHostError else ownerCheck s cid da p.2

/-- The answers with which peer accesses of an engine have failed (R377, R405), with their addresses. -/
def peerFails (s : State) (cid : Nat) (ranges : List (Nat × Nat × Bool)) : List (Nat × Nat) :=
  s.reqs.filterMap fun r => match r.at_ with
    | .done code _ =>
      if r.eng.isSome && r.cid == cid && code != cOk && ranges.any (fun x => inRange r.va x.1 x.2.1) then some (r.va, code)
      else none
    | _ => none

/-- What the accesses of a unit meet under the pages it holds (R370): the lowest address that fails and its code. Ownership
is checked at every access, and a word found bad or a line marked bad fails it (R39, R62, R373, R375, R376). -/
def heldBad (s : State) (cid : Nat) (pages : List HeldPage) (ranges : List (Nat × Nat × Bool)) : Option (Nat × Nat) :=
  minBy (fun p : Nat × Nat => p.1) <|
    ((pointsOf s cid ranges).filterMap fun p =>
      let c := placeBad s cid pages p
      if c = cOk then none else some (p.1, c)) ++
    peerFails s cid ranges ++ (unitUe s pages ranges).toList.map fun v => (v, cMemUe)

/-- Translate a unit whole for the accesses that follow at once (R370): what they would meet is the unit's failure too. -/
def xlateUnit (s : State) (cid : Nat) (ranges : List (Nat × Nat × Bool)) : UnitRes :=
  match mapUnit s cid ranges with
  | .ok pages => match heldBad s cid pages ranges with
    | some (v, c) => .fault c v
    | none => .ok pages
  | r => r

/-- A context's bytes at a virtual address, through its translation as held (the caller has checked the unit). -/
def ctxRead (s : State) (pages : List HeldPage) (va n : Nat) : List Byte :=
  (upTo n).map fun i => if isHeld pages (va + i) then accByte s (heldAddr pages (va + i)) else 0

/-- Ask the host for a translation once (R365): counted and sent unless one is outstanding. -/
def askAts (s : State) (fn page : Nat) : State :=
  if s.atsReqs.any fun r => r.fn == fn && r.page == page then s
  else send (incSat { s with atsReqs := s.atsReqs ++ [⟨fn, page, false, false⟩] } R.XLAT_ATS_REQ) (.atsRequest fn page)

/-- XLAT_STATUS.INV_ACTIVE shows the invalidations in progress. -/
def showInvs (s : State) : State := fset s F.XLAT_STATUS.INV_ACTIVE s.invs.length

/-! ## The caches of translations (R368) -/

/-- The set of a translation cache entry. Set selection is not architectural: the page number modulo the 4,096 sets is the
model's (DESIGN CHOICE, log 26). -/
def tcSet (e : TcEntry) : Nat := e.page / e.size % 4096

/-- A translation enters its set as the most recently used of at most 16 entries. -/
def tcPut (s : State) (e : TcEntry) : State :=
  let same := fun (x : TcEntry) => x.ats == e.ats && x.owner == e.owner && x.page == e.page && x.size == e.size
  let tc := e :: s.tc.filter (!same ·)
  let past := (tc.filter (tcSet · == tcSet e)).drop 16
  { s with tc := tc.filter (!past.contains ·) }

/-- Table entries enter the walk cache, which holds 256. -/
def wcPut (s : State) (es : List WalkEntry) : State := { s with wc := (es ++ s.wc.filter (!es.contains ·)).take 256 }

/-- The entries that are not leaves on the way of a walk. -/
def walkPath (s : State) (cid va : Nat) : List (Nat × Nat × Nat) → Nat → List WalkEntry
  | [], _ => []
  | (_, lo, hi) :: rest, e =>
    match walkRead s cid (e + 8 * bits va hi lo) with
    | .inr _ => []
    | .inl pte =>
      let next := bits pte 47 8 * 256
      if bit pte 1 then [] else ⟨cid, va / 2 ^ lo * 2 ^ lo, 2 ^ lo, next⟩ :: walkPath s cid va rest next

/-- Where a walk reads its table entries. -/
def walkAddrs (s : State) (cid va : Nat) : List (Nat × Nat × Nat) → Nat → List Nat
  | [], _ => []
  | (_, lo, hi) :: rest, e =>
    let a := e + 8 * bits va hi lo
    a :: match walkRead s cid a with
      | .inr _ => []
      | .inl pte => if bit pte 1 || !bit pte 0 then [] else walkAddrs s cid va rest (bits pte 47 8 * 256)

/-- The cached translation of a context virtual address. -/
def tcHit (s : State) (cid va : Nat) : Option TcEntry :=
  s.tc.find? fun e => !e.ats && e.owner == cid && inRange va e.page e.size

/-- Whether an access to a virtual address consults the context's tables (R361, R385). -/
def usesTables (s : State) (cid va : Nat) : Bool := decide (va < 2 ^ 48) && !isG5 s ((fnOfCid s cid).getD 0)

/-- The table entries that a translation reads: none where a cached one covers the address. -/
def tableReads (s : State) (cid va : Nat) : List Nat :=
  if !usesTables s cid va || (tcHit s cid va).isSome || (ctxOf s cid).root = 0 then []
  else walkAddrs s cid va (walkStart s cid va).1 (walkStart s cid va).2

/-- A host page's cached translation has been used. -/
def atsTouch (s : State) (fn h : Nat) : State :=
  match s.tc.find? fun e => e.ats && e.owner == fn && inRange h e.page e.size with
  | some e => tcPut s e
  | none => s

/-- What a translation leaves in the caches (R368): a cached one is a hit and the most recently used; else the tables are
walked, and a valid leaf and the entries above it are cached. The host's translation of the page it leads to is used too. -/
def useTc (s : State) (cid va : Nat) : State :=
  let host := fun (s : State) (a : Nat) =>
    if reach s a = .host then atsTouch s ((fnOfCid s cid).getD 0) (a - hostBase) else s
  if !usesTables s cid va then host s va
  else match tcHit s cid va with
    | some e => host (tcPut (incSat s R.XLAT_TC_HIT) e) (e.da + va % e.size)
    | none =>
      let st := walkStart s cid va
      if (ctxOf s cid).root = 0 then s
      else match walkFrom s cid va st.1 st.2 with
        | .inr (.waits ..) => s
        | .inr _ => incSat s R.XLAT_WALKS
        | .inl (pte, size) =>
          let e : TcEntry :=
            ⟨false, cid, va / size * size, size, bits pte 47 8 * 256, true, bit pte 2, bit pte 3, bit pte 4⟩
          host (tcPut (wcPut (incSat s R.XLAT_WALKS) (walkPath s cid va st.1 st.2)) e) (e.da + va % size)

/-- What the translation of a whole unit leaves in the caches, page by page. -/
def usePages (s : State) (cid : Nat) (pages : List HeldPage) : State := pages.foldl (fun s p => useTc s cid p.va) s

/-- Hold the translations of a unit (R370). -/
def hold (s : State) (a : Agent) (cid : Nat) (pages : List HeldPage) : State :=
  let s := usePages s cid pages
  { s with helds := s.helds.filter (·.agent != a) ++ [⟨a, cid, (fnOfCid s cid).getD 32, pages, true, []⟩] }

/-- Let an agent's translations go. -/
def unhold (s : State) (a : Agent) : State := { s with helds := s.helds.filter (·.agent != a) }

/-- Hold translations for an access unit that has not begun (R378 step 2). -/
def holdAhead (s : State) (a : Agent) (cid : Nat) (pages : List HeldPage) : State :=
  let s := usePages s cid pages
  { s with helds := s.helds.filter (·.agent != a) ++ [⟨a, cid, (fnOfCid s cid).getD 32, pages, false, []⟩] }

/-- The pages an agent holds. -/
def heldPages (s : State) (a : Agent) : List HeldPage := ((s.helds.find? (·.agent == a)).map (·.pages)).getD []

end Sys2Proof.Machine
end

