-- ==== Sys2Proof/Machine/Domains.lean ====
section
/-! DEFINITION. The switched power domains (spec/14_power_and_clocks.md R433 to R435, spec/15_reset_boot_security.md R464, R465):
whether one is up, its release, its gating and the wake that an access starts. -/

namespace Sys2Proof.Machine

open Sys2Proof

def modPwr (s : State) (f : PwrSt → PwrSt) : State := { s with pwr := f s.pwr }

/-- States of PWR_STATE. -/
abbrev pActive : Nat := 0
abbrev pIdle : Nat := 1
abbrev pGreen : Nat := 2
abbrev pDark : Nat := 3
abbrev pOff : Nat := 4
def pwrState (s : State) : Nat := fget s F.PWR_STATE.STATE

/-- The F1 interrupt (R475): asserted while OUT_FULL is 1, or an RST_EVENT flag that RST_SDIO_IRQ_EN enables. -/
def f1Irq (s : State) : Bool :=
  fbit s F.RST_MBOX_CTRL.OUT_FULL || (rdN s R.RST_EVENT &&& fget s F.RST_SDIO_IRQ_EN.EN) != 0

/-- The card interrupt follows the F1 interrupt. -/
def showIrq (s : State) : State :=
  let on := f1Irq s
  if s.sdio.irq = on then s else send { s with sdio := { s.sdio with irq := on } } (.sdioIrq on)

/-- A flag of RST_EVENT is set, and counted; the F1 interrupt may follow (R475). -/
def raiseRst (s : State) (f : Flag) : State := showIrq (raise s f)

/-! ## Domains (R433 to R435, R464, R465) -/

abbrev dCore : Nat := 0
abbrev dLoft : Nat := 17
abbrev dRaster : Nat := 21
abbrev dProsc : Nat := 22
abbrev dPit : Nat := 23
abbrev dLink : Nat := 24
abbrev dXfer : Nat := 25
abbrev dMemc : Nat := 26
abbrev dHost : Nat := 27

/-- Whether a domain is up. -/
def domOn (s : State) (d : Nat) : Bool := bit (fget s F.PWR_DOMAIN_ON.ON) d

/-- PWR_STATE: ACTIVE while no domain is gated, IDLE while one is (R437), a domain not yet released being neither; the deeper
states are left as they are. -/
def showPower (s : State) : State :=
  if pIdle < pwrState s then s else fset s F.PWR_STATE.STATE (if s.pwr.gated = 0 then pActive else pIdle)

/-- Mark a domain as gated (R435, R439), or as no longer so. -/
def markGated (s : State) (d : Nat) (gated : Bool) : State :=
  showPower (modPwr s fun p => { p with gated := putBits p.gated d d (b2n gated) })

/-- The state of a link port (UL_Pn_STATE): 0 DOWN, 1 TRAINING, 2 UP4, 3 UP3, 4 MISWIRED. -/
def portState (s : State) (p : Nat) : Nat := fget s (F.UL_P_STATE.STATE p)
def setPort (s : State) (p v : Nat) : State := fset s (F.UL_P_STATE.STATE p) v

/-- Whether a port may train (R389): its domain up, its EN set, and the unit not in House Lights. -/
def mayTrain (s : State) (p : Nat) : Bool :=
  domOn s dLink && fbit s (F.UL_P_CFG.EN p) && fget s F.RST_BOOT_STATE.STATE != 8

/-- Every port that is DOWN and may train begins to (R389). -/
def trainPorts (s : State) : State :=
  (upTo 3).foldl (fun s p => if mayTrain s p && portState s p == 0 then setPort s p 1 else s) s

/-- Bring a domain up or down; the link's ports train once theirs is up (R389). -/
def setDom (s : State) (d : Nat) (up : Bool) : State :=
  let s := markGated (fset s F.PWR_DOMAIN_ON.ON (putBits (fget s F.PWR_DOMAIN_ON.ON) d d (b2n up))) d false
  if d = dLink ∧ up then trainPorts s else s

/-- Whether a loop is locked. -/
def locked (s : State) (n : Nat) : Bool := fbit s (F.CLK_ML_FREQ.LOCKED n)

/-- The prerequisite of a domain's release (R464). -/
def relReady (s : State) (d : Nat) : Bool :=
  if d = dMemc then locked s 0
  else if d = dLink then locked s 1
  else if d = dProsc then locked s 2 && locked s 3
  else if d = dPit then locked s 4 && locked s 5
  else if d = dHost then fbit s F.CLK_SRC_STATUS.REFCLK_OK && !s.boot.perst
  else s.fio

/-- The ball groups that a domain owns go to their state after reset (R513). -/
def ballsAfter (s : State) (d : Nat) : State :=
  if d ≠ dPit then s
  else modBoot s fun b => { b with balls := (List.replicate 4 1) ++ b.balls.drop 4 }

/-- DRAM is in self-refresh while MEMC is gated (R433). -/
def memcUp (s : State) (d : Nat) (up : Bool) : State :=
  if d = dMemc ∧ fbit s F.MEMC_STATE.TRAINED then fset s F.MEMC_STATE.SELF_REFRESH (b2n !up) else s

/-- Release a domain from reset, or hold the release until its prerequisite holds (R465). -/
def releaseDom (s : State) (d : Nat) : State :=
  let pend := fget s F.RST_PENDING.PENDING
  if relReady s d then
    ballsAfter (memcUp (setDom (fset s F.RST_PENDING.PENDING (putBits pend d d 0)) d true) d true) d
  else raiseRst (fset s F.RST_PENDING.PENDING (putBits pend d d 1)) E.RST_EVENT.HELD

/-- Gate a domain (R435). -/
def gateDom (s : State) (d : Nat) : State := memcUp (markGated (setDom s d false) d true) d false

/-- The wake of a gated domain starts, unless it runs, the release is held or House Lights leaves it without power (R472); a
wake without its prerequisite becomes a held release (R531). -/
def startWake (s : State) (d : Nat) : State :=
  if domOn s d || bit s.pwr.waking d || bit (fget s F.RST_PENDING.PENDING) d || fget s F.RST_BOOT_STATE.STATE == 8 then s
  else if relReady s d then modPwr s fun p => { p with waking := putBits p.waking d d 1 }
  else releaseDom s d

/-- An access that reaches gated domains starts their wakes, and is counted when it waits for one (R434). -/
def wakeFor (s : State) (ds : List Nat) : State :=
  let s := ds.foldl startWake s
  if ds.any fun d => !domOn s d && bit s.pwr.waking d then incSat s R.PWR_WAKE_STALL else s

/-- Whether a domain serves requests: it is up, and DRAM does not change its frequency set point (R451). -/
def serves (s : State) (d : Nat) : Bool := domOn s d && !(d == dMemc && fbit s F.MEMC_STATE.SWITCHING)

/-- A memory request is served, or work is placed, in domains that are up (R434, R451). Where one is gated the access starts
its wake and is counted; it waits, as it does while DRAM switches: `s` is the state in which it does, and its row is sent
again when the domains serve (log 56). -/
def whenUp (s : State) (ds : List Nat) (go : State) : State := if ds.all (serves s) then go else wakeFor s ds

/-- What a register access meets at a domain (R434, R465, R472, R531): nothing (it reads 0 and is ignored), a wake that it
waits for, or the register. -/
inductive Meets where
  | nothing (s : State)
  | wake (s : State)
  | register

def meetsDom (s : State) (d : Nat) : Meets :=
  let held := fun (s : State) => Meets.nothing (incSat s R.RST_HELD_ACCESS)
  if domOn s d then .register
  else if fget s F.RST_BOOT_STATE.STATE = 8 then .nothing s
  else if bit (fget s F.RST_PENDING.PENDING) d then held s
  else if relReady s d then .wake (wakeFor s [d])
  else held (releaseDom s d)

/-- A command written to a register of a switched domain meets what every access meets there: it is carried out in a domain
that is up; it is ignored, and counted, while the release is held; and it starts the wake of a gated domain, whose row is
then sent again (R434, R465; log 56). -/
def regCmd (s : State) (d : Nat) (go : Host.Outcome State Fault Refusal) : Host.Outcome State Fault Refusal :=
  match meetsDom s d with
  | .nothing t => .next t
  | .wake t => .next t
  | .register => go

/-- The domain of a cache's registers (R528). -/
def cacheDom : CacheId → Nat
  | .loft => dLoft
  | .l1 n => dCore + n.val

end Sys2Proof.Machine
end

