-- ==== Sys2Proof/Machine/CacheOps.lean ====
section
/-! DEFINITION. Lines of the CACHE region and of the L1 caches (spec/01_fabric_and_loft.md R47 to R59): modes, streams,
recency, write-back, and a write that meets the CACHE region; and the bytes of a context under held pages
(spec/11_translation.md R370). -/

namespace Sys2Proof.Machine

open Sys2Proof

/-- A stream tag that stands for none: the access trains no detector. -/
abbrev noTag : Nat := 16

/-- The sets of the CACHE region (R48). -/
def cacheSets (s : State) : Nat := fget s F.LOFT_CACHE_SIZE.CACHE_MIB * 1024

/-- The number of a cache in the state: 0 the CACHE region, n + 1 the L1 of core n. -/
def cacheKey : CacheId → Nat
  | .loft => 0
  | .l1 c => c.val + 1

/-- A register of a cache, by its offset from the control register: the L1 registers are laid out as the LOFT ones. -/
def cacheReg (k off : Nat) : Nat := if k = 0 then R.LOFT_CACHE_CTRL + off else R.CORE_L1_CTRL (k - 1) + off

def cacheEn (k : Nat) : Fld := ⟨cacheReg k 0, 0, 0⟩
def cacheModeF (k : Nat) : Fld := ⟨cacheReg k 0, 1, 1⟩
def cachePfEn (k : Nat) : Fld := ⟨cacheReg k 0, 2, 2⟩
def cacheStreamEn (k : Nat) : Fld := ⟨cacheReg k 0, 3, 3⟩
def cachePfDist (k : Nat) : Fld := ⟨cacheReg k 0, 13, 8⟩
def cacheEnState (k : Nat) : Fld := ⟨cacheReg k 0x14, 0, 0⟩
def cacheInvValid (k : Nat) : Fld := ⟨cacheReg k 0x14, 1, 1⟩
def cacheBusy (k : Nat) : Fld := ⟨cacheReg k 0x14, 2, 2⟩
def cacheEnRefused (k : Nat) : Flag := ⟨⟨cacheReg k 0x14, 3, 3⟩, ⟨cacheReg k 0x18, 15, 0⟩⟩
def cacheCmdRefused (k : Nat) : Flag := ⟨⟨cacheReg k 0x14, 4, 4⟩, ⟨cacheReg k 0x18, 31, 16⟩⟩

/-- Whether MODE reads as write-through and its writes are ignored (R50): in House Lights, during Rehearsal, and while a
core's L1 is under test (Run-through or fenced). -/
def cacheForced (s : State) (k : Nat) : Bool :=
  fget s F.RST_BOOT_STATE.STATE == 8 || rehearsing s || (decide (k ≠ 0) && coreRole s (k - 1) ≥ 2)

/-- Whether a cache takes accesses: it is enabled, and the CACHE region is carved and not of size 0 (R43, R44). -/
def cacheOn (s : State) (k : Nat) : Bool :=
  fbit s (cacheEn k) && (k != 0 || (carved s && decide (0 < cacheSets s)))

/-- Whether a cache is in write-through mode (R49, R50); a disable write-back serves accesses so too (R52). -/
def writeThrough (s : State) (k : Nat) : Bool := cacheForced s k || fbit s (cacheModeF k) || (cacheOf s k).disabling

/-- Drop the lines of a cache that meet `p`, those of the side buffer too (R53). -/
def dropLines (s : State) (k : Nat) (p : Line → Bool) : State :=
  modCache s k fun c => { c with lines := c.lines.filter (!p ·), side := c.side.filter (!p ·) }

/-- Drop side-buffer lines only. -/
def dropSide (s : State) (k : Nat) (p : Line → Bool) : State :=
  modCache s k fun c => { c with side := c.side.filter (!p ·) }

/-! ## Streams: stride detectors and streaming counts (R55 to R59) -/

/-- The prefetch distance in force (LOFT_CACHE_CTRL.PF_DIST). -/
def pfDist (s : State) (k : Nat) : Nat := min 32 (max 1 (fget s (cachePfDist k)))

/-- A detector after a demand access to a line (R55): two equal strides in a row are three accesses so spaced. -/
def Detector.step (d : Detector) (ln : Nat) : Detector :=
  let st : Int := (ln : Int) - d.last
  if st = 0 ∨ st.natAbs > 64 then { d with last := ln, stride := 0, run := 0 }
  else if st = d.stride then { d with last := ln, run := d.run + 1 }
  else { d with last := ln, stride := st, run := 1 }

/-- The lines a trained detector wants: PF_DIST of them along its stride, within the same 64 KiB block (R55, R57). -/
def Detector.wants (d : Detector) (dist : Nat) : List Nat :=
  if d.run < 2 then []
  else (upTo dist).filterMap fun i =>
    let l : Int := d.last + d.stride * ((i : Nat) + 1 : Nat)
    if l ≥ 0 ∧ l.toNat / 1024 = d.last / 1024 then some l.toNat else none

/-- Train the detector of a stream and ask for the lines it wants (R55); 64 detectors, least recently used replaced. -/
def trainStride (s : State) (k : Nat) (key : StreamKey) (ln : Nat) : State :=
  if writeThrough s k || !fbit s (cachePfEn k) then s
  else
    let dist := pfDist s k
    modCache s k fun c =>
      let d := match c.dets.find? (·.key == key) with
        | some d => d.step ln
        | none => ⟨key, ln, 0, 0, 0⟩
      let has := fun (l : Nat) => c.lines.any (·.line == l) || c.side.any (·.line == l) || c.wanted.any (·.1 == l)
      { c with
        dets := (d :: c.dets.filter (·.key != key)).take 64
        wanted := c.wanted ++ ((d.wants dist).filter (!has ·)).map fun l => (l, key.cid) }

/-- Whether a stream allocates on its write misses (R59). -/
def streamAllocs (s : State) (k : Nat) (key : StreamKey) : Bool :=
  !fbit s (cacheStreamEn k) ||
    match (cacheOf s k).counts.find? (·.key == key) with
    | some c => decide (c.count < 64)
    | none => true

/-- Count a write of a stream (R59): a full line directly after the stream's previous write adds one, any other write
resets the count. -/
def countStream (s : State) (k : Nat) (key : StreamKey) (ln : Nat) (full : Bool) : State :=
  if writeThrough s k then s
  else modCache s k fun c =>
    let old := c.counts.find? (·.key == key)
    let n := match old with
      | some o => if full ∧ ln = o.last + 1 then min 64 (o.count + 1) else 0
      | none => 0
    { c with counts := (⟨key, ln, n⟩ :: c.counts.filter (·.key != key)).take 64 }

/-! ## Lines and regulators -/

/-- The lines one set of a cache holds: 16 ways of the CACHE region (R48). The spec gives the L1 a size and no sets: it is
one set here. -/
def l1Lines (s : State) (k : Nat) : Nat :=
  match fget s (F.CORE_STATE.SPLIT (k - 1)) with
  | 0 => 512
  | 1 => 1024
  | 2 => 2048
  | _ => 3072

/-- The set of a line, as a test on lines, and its capacity. -/
def sameSet (s : State) (k ln : Nat) (l : Line) : Bool := k != 0 || l.line % cacheSets s == ln % cacheSets s
def setWays (s : State) (k : Nat) : Nat := if k = 0 then 16 else l1Lines s k

/-- The regulator's register of a partition. -/
def regRate (s : State) (p k : Nat) : Nat :=
  match k with
  | 0 => aget s (F.SMGR_P_DRAM_BW.RATE p)
  | 1 => aget s (F.SMGR_P_LOFT_BW.RATE p)
  | _ => aget s (F.SMGR_P_HOST_BW.RATE p)
def regBurst (s : State) (p k : Nat) : Nat :=
  match k with
  | 0 => aget s (F.SMGR_P_DRAM_BW.BURST p)
  | 1 => aget s (F.SMGR_P_LOFT_BW.BURST p)
  | _ => aget s (F.SMGR_P_HOST_BW.BURST p)

/-- Bytes charged to a partition's regulator (R351): tokens may go negative; a RATE of 0 leaves the traffic unregulated. -/
def charge (s : State) (p k n : Nat) : State :=
  if 8 ≤ p ∨ regRate s p k = 0 ∨ n = 0 then s
  else { s with buckets := mput 0 s.buckets (p * 3 + k) (mget 0 s.buckets (p * 3 + k) - (n * 256 : Nat)) }

/-- The regulator that an access to an address behind cache `k` falls to (R352): the Loft's for the Loft itself and for what
the CACHE region takes. -/
def lineReg (s : State) (k a : Nat) : Option Nat :=
  match reach s a with
  | .dram => if k ≠ 0 ∧ cacheOn s 0 then some 1 else some 0
  | .host => if k ≠ 0 ∧ cacheOn s 0 then some 1 else some 2
  | .peer | .none => none
  | _ => some 1

/-- Charge `n` bytes at an address behind cache `k` to a context's partition (R352). -/
def chargeAt (s : State) (k cid a n : Nat) : State :=
  match lineReg s k a with
  | some r => if cid < 1024 then charge s (ctxOf s cid).part r n else s
  | none => s

/-- Allocate a line as the most recently used of its set; beyond the set's capacity the least recently used one that is not
marked bad is written back by `wb` and dropped: a bad line stays in its way (R48, R62). The write-back is charged to the
partition of the context whose line comes in (R352). -/
def allocWith (wb : State → Line → State) (s : State) (k : Nat) (l : Line) : State :=
  let s := modCache s k fun c => { c with lines := l :: c.lines.filter (·.line != l.line) }
  let mine := (cacheOf s k).lines.filter (sameSet s k l.line)
  if mine.length ≤ setWays s k then s
  else match (mine.filter (!·.bad)).getLast? with
    | none => s
    | some v =>
      let s := if v.dirty = 0 then s else chargeAt (wb s v) k l.cid (v.line * 64) 64
      modCache s k fun c => { c with lines := c.lines.filter (·.line != v.line) }

/-- Move a line to the front of the recency order. -/
def touchLine (s : State) (k : Nat) (l : Line) : State :=
  modCache s k fun c => { c with lines := l :: c.lines.filter (·.line != l.line) }

/-- A write leaves no prefetched copy of its line, in the side buffer or still asked for (R56, R97). -/
def forgetPrefetch (s : State) (k ln : Nat) : State :=
  modCache (dropSide s k (·.line == ln)) k fun c => { c with wanted := c.wanted.filter fun p => p.1 != ln || 1024 ≤ p.2 }


/-! ## Writing back (R52, R53, R62, R102) -/

/-- The runs of dirty bytes of a line: the place of each in the line, and its bytes. -/
def dirtyRuns (l : Line) : List (Nat × List Byte) :=
  (upTo 64).foldr (fun i acc =>
    if !bit l.dirty i then acc
    else match acc with
      | (o, bs) :: rest => if o = i + 1 then (i, l.data.getD i 0 :: bs) :: rest else (i, [l.data.getD i 0]) :: acc
      | [] => [(i, [l.data.getD i 0])]) []

/-- Write the dirty bytes of a line of the CACHE region to memory. A line marked bad is not written back (R62). -/
def writeBackMem (s : State) (l : Line) : State :=
  if l.bad then s else (dirtyRuns l).foldl (fun s p => memWrite s (l.line * 64 + p.1) p.2) s

/-- A line takes a place in the CACHE region. -/
def allocCache (s : State) (l : Line) : State := allocWith writeBackMem s 0 l

/-- The partition of a context; 8 for a block's own accesses. -/
def partOfCid (s : State) (cid : Nat) : Nat := if cid < 1024 then (ctxOf s cid).part else 8

/-- Charge `n` bytes that go on from the CACHE region to memory, to partition `part` (R352). -/
def chargeMem (s : State) (part a n : Nat) : State :=
  match lineReg s 0 a with
  | some r => charge s part r n
  | none => s

/-- A line that comes into the CACHE region clean from memory. -/
def fetchedLine (s : State) (cid ln : Nat) : Line := ⟨ln, mgets 0 s.mem (ln * 64) 64, 0, false, cid, true⟩

/-- The line of the CACHE region or of its side buffer that holds a backing line. -/
def inCache (s : State) (ln : Nat) : Option Line := (cacheOf s 0).lines.find? (·.line == ln)
def inSide (s : State) (ln : Nat) : Option Line := (cacheOf s 0).side.find? (·.line == ln)

/-- A write of bytes within one line meets the CACHE region (R49, R55, R56, R59, R62, R352): a hit takes them dirty, and in
write-through mode memory takes them too; a miss allocates in write-back mode unless its stream has stopped allocating, and
otherwise goes to memory. A line marked bad takes nothing. Traffic to memory is charged to partition `part`. -/
def putLine (s : State) (key : StreamKey) (part ln off : Nat) (bs : List Byte) : State :=
  let a := ln * 64 + off
  let full := bs.length == 64
  let s := if key.tag < noTag then trainStride s 0 key ln else s
  let s := forgetPrefetch (countStream s 0 key ln full) 0 ln
  let toMem := fun (s : State) => chargeMem (devWrite s a bs) part a bs.length
  match inCache s ln with
  | some l =>
    if l.bad then s
    else if writeThrough s 0 then toMem (touchLine s 0 l)
    else touchLine s 0 (l.put off bs true)
  | none =>
    if writeThrough s 0 || (full && !streamAllocs s 0 key) then toMem s
    else allocCache (chargeMem s part (ln * 64) 64) ((fetchedLine s key.cid ln).put off bs true)

/-- Whether a cacheable access to a device address passes the CACHE region. -/
def passesCache (s : State) (a : Nat) : Bool := cacheOn s 0 && (reach s a == .dram || reach s a == .host)

/-- Write back the dirty bytes of a line: of the CACHE region to memory, of an L1 by its core's write port through the CACHE
region (R40, R102), charged to partition `part`. -/
def writeBack (s : State) (k part : Nat) (l : Line) : State :=
  if k = 0 then writeBackMem s l
  else if l.bad then s
  else
    let key : StreamKey := ⟨2 * (k - 1) + 1, l.cid, noTag⟩
    (dirtyRuns l).foldl (fun s p =>
      if passesCache s (l.line * 64) then putLine s key part l.line p.1 p.2 else devWrite s (l.line * 64 + p.1) p.2) s

/-- Whether a cache is the L1 of a fenced core, whose write port into the Loft accepts nothing further (R207, R488). -/
def portFenced (s : State) (k : Nat) : Bool := decide (1 ≤ k) && fget s (F.CORE_ID.ROLE (k - 1)) == 3

/-- Write back the dirty lines of a cache that meet `p`, and keep them valid and clean; no regulator is charged (R352). -/
def cleanLines (s : State) (k : Nat) (p : Line → Bool) : State :=
  if portFenced s k then s else
  let s := ((cacheOf s k).lines.filter p).foldl (fun s l => writeBack s k 8 l) s
  modCache s k fun c =>
    { c with lines := mapWhere (fun l => p l && !l.bad) (fun l => { l with dirty := 0 }) c.lines }

/-- A line takes a place in a cache. -/
def allocLine (s : State) (k : Nat) (l : Line) : State :=
  if k = 0 then allocCache s l else allocWith (fun s v => writeBack s k (partOfCid s l.cid) v) s k l

/-! ## Requests -/

/-- The size in bytes a request touches. -/
def ReqKind.size : ReqKind → Nat
  | .load n => n
  | .store bs => bs.length
  | .zero => 64
  | .rmw _ n _ _ => n

/-- Whether a request writes. -/
def ReqKind.writes : ReqKind → Bool
  | .load _ => false
  | _ => true

/-- Whether a request is an atomic, and whether it writes a whole line. -/
def ReqKind.isRmw : ReqKind → Bool
  | .rmw .. => true
  | _ => false
def ReqKind.full : ReqKind → Bool
  | .store bs => bs.length == 64
  | .zero => true
  | _ => false

/-- Add a request to those outstanding. -/
def addReq (s : State) (r : Req) : State := { s with reqs := s.reqs ++ [r], nextReq := s.nextReq + 1 }

/-- Change a request. -/
def modReq (s : State) (id : Nat) (f : Req → Req) : State := { s with reqs := mapWhere (·.id == id) f s.reqs }

/-- A request has its answer. -/
def answer (s : State) (id code : Nat) (data : List Byte) : State := modReq s id fun r => { r with at_ := .done code data }

/-- The pieces of a range within single lines, lowest first. -/
def linePieces (a n : Nat) : List (Nat × Nat) :=
  if n = 0 then []
  else (upTo ((a + n - 1) / 64 + 1 - a / 64)).map fun i =>
    let l := (a / 64 + i) * 64
    (max a l, min (a + n) (l + 64) - max a l)

/-- The class of the accesses made for a partition (R40). -/
def partCls (s : State) (p : Nat) : Cls := if partPriv s p then .priv else .normal

/-- Whether a device address lies on another unit of the group. -/
def farPeer (s : State) (a : Nat) : Bool := reach s a == .peer && (ownPeer s a).isNone

/-- An engine's request to a peer unit (R403): no cache takes it (R360). -/
def engReq (s : State) (e : EngAsk) (va a : Nat) (kind : ReqKind) : State :=
  let p := partOfCid s e.cid
  addReq s
    ⟨s.nextReq, 32, 0, 0, 256, e.cid, p, e.port, partCls s p, va, a, kind, e.tag, true, true, 0, 0, e.pc, e.iword, [], .peer, some e,
      s.nextReq, [⟨va, kind.size, a, true⟩]⟩

/-! ## A context's bytes under held pages (R370) -/

/-- Write bytes at a device address for an engine: to a peer by requests of one line each (R403), at a peer address of this
unit to the byte it stands for (R360), through the CACHE region where the page is cacheable, else to memory. -/
def putBytes (s : State) (e : EngAsk) (nc : Bool) (va a : Nat) (bs : List Byte) : State :=
  if reach s a = .peer then
    match ownPeer s a with
    | some b => devWrite s b bs
    | none => (linePieces a bs.length).foldl (fun s p =>
        engReq s e (va + (p.1 - a)) p.1 (.store ((bs.drop (p.1 - a)).take p.2))) s
  else if !nc && passesCache s a then
    (linePieces a bs.length).foldl (fun s p =>
      putLine s ⟨e.port + 1, e.cid, e.tag⟩ (partOfCid s e.cid) (p.1 / 64) (p.1 % 64) ((bs.drop (p.1 - a)).take p.2)) s
  else devWrite s a bs

/-- Whether the page that holds a virtual address is non-cacheable. -/
def heldNc (pages : List HeldPage) (va : Nat) : Bool :=
  match pages.find? fun p => inRange va p.va p.size with
  | some p => p.nc
  | none => true

/-- Write a context's bytes at a virtual address under held pages: page by page, in ascending order; a page that is held no
more takes nothing. -/
def ctxWrite (s : State) (e : EngAsk) (pages : List HeldPage) (va : Nat) (bs : List Byte) : State :=
  (pagesOf va bs.length).foldl (fun s p =>
    let a := max va p
    if isHeld pages a then
      putBytes s e (heldNc pages a) a (heldAddr pages a) ((bs.drop (a - va)).take (p + 65536 - a))
    else s) s

end Sys2Proof.Machine
end

