-- ==== Sys2Proof/Machine/Hooks.lean ====
section
/-! DEFINITION. How one unit's event reaches the work of every other: workgroups stopped, flips dropped, passes ended,
streams faulted or disarmed, and effective shares (spec/10_stage_manager.md R347). -/

namespace Sys2Proof.Machine

open Sys2Proof

/-! ## Pre-emption requests (R339) -/

/-- Whether a request asks for work of a kind on some core. -/
def Preempt.wants (q : Preempt) (k : WorkKind) (cores : List Nat) : Bool :=
  (q.kind.isNone || q.kind == some k) && (q.core == 17 || cores.contains q.core)

/-- Whether a pre-emption request in force asks for a context's work of a kind: it takes no new work of it there and its
running work stops at the next point (R338, R339). -/
def beingTaken (s : State) (cid : Nat) (k : WorkKind) (cores : List Nat) : Bool :=
  s.preempts.any fun q => !q.deferred && q.cid == cid && q.wants k cores

/-- Whether a request in force takes a context's workgroups off one core (R350): a pass's own workgroups begin and resume
there no more. One that asks for all of a context's work lets a pass go on to its flush point (R338). -/
def passTaken (s : State) (cid c : Nat) : Bool :=
  s.preempts.any fun q => !q.deferred && q.cid == cid && q.kind == some .workgroup && (q.core == 17 || q.core == c)

/-! ## Workgroups -/

/-- CORE_STATE shows a core's resident groups and workgroups and its split. -/
def showCore (s : State) (n : Nat) : State :=
  let c := coreOf s n
  fset (fset (fset s (F.CORE_STATE.SPLIT n) c.split) (F.CORE_STATE.GROUPS n) c.groups.length)
    (F.CORE_STATE.WORKGROUPS n) c.wgs.length
def showCores (s : State) : State := (upTo 17).foldl showCore s

/-- A core without the workgroups that meet `p`, and without their groups. -/
def dropWgs (p : Wg → Bool) (c : CoreSt) : CoreSt :=
  let gone := (c.wgs.filter p).map (·.id)
  { c with
    wgs := c.wgs.filter (!p ·)
    groups := c.groups.filter fun g => !gone.contains g.wg }

/-- Whether a request waits for an answer to a group that no longer exists. -/
def orphan (s : State) (r : Req) : Bool := r.eng.isNone && !(coreOf s r.core).groups.any (·.slot == r.slot)

/-- Stop and remove every workgroup that meets `p`, on the cores and in save images, with its requests and reports. -/
def killWgs (s : State) (p : Wg → Bool) : State :=
  let s :=
    { s with
      cores := mmap CoreSt.idle (fun _ c => dropWgs p c) s.cores
      savedWgs := s.savedWgs.filter (!p ·.wg)
      endedWgs := s.endedWgs.filter (!p ·) }
  showCores { s with reqs := s.reqs.filter (!orphan s ·) }

/-- Save-area pages a partition holds, shown in SMGR_Pp_SAVE_USED in KiB. -/
def savePagesUsed (s : State) (p : Nat) : Nat := sumBy (·.pages.length) (s.images.filter (·.part == p))
def showSave (s : State) : State :=
  (upTo 8).foldl (fun s p => fset s (F.SMGR_P_SAVE_USED.SAVE_USED_KIB p) (4 * savePagesUsed s p)) s

/-! ## Effective shares (R347) -/

def semOf (s : State) (x : Nat) : Sem := mget Sem.none s.sems x
def modSem (s : State) (x : Nat) (f : Sem → Sem) : State := { s with sems := mmod Sem.none s.sems x f }

/-- The context of a cue in the machine. -/
def cidOfCue (s : State) (uid : Nat) : Nat := ((cueOf s uid).map (·.cid)).getD 1024

/-- The wait edges (R347): from each context waiting in a FIFO to each holder. -/
def waitEdges (s : State) : List (Nat × Nat) :=
  s.sems.flatMap fun p => p.2.fifo.flatMap fun u => p.2.holders.filterMap fun h =>
    if h.units = 0 then none else some (cidOfCue s u, h.cid)

/-- One step along the wait edges: a context's effective share from its own and those of the contexts that wait for it. -/
def shareStep (s : State) (edges : List (Nat × Nat)) (eff : List (Nat × Nat)) : List (Nat × Nat) :=
  eff.map fun p =>
    (p.1, edges.foldl (fun m e => if e.2 = p.1 then max m ((eff.lookup e.1).getD 0) else m) (ctxOf s p.1).share)

/-- Effective shares recomputed, to a depth of 8 (R347). -/
def recomputeShares (s : State) : State :=
  let edges := waitEdges s
  let start := s.ctxs.map fun p => (p.1, p.2.share)
  let eff := (upTo 8).foldl (fun e _ => shareStep s edges e) start
  { s with ctxs := mmap Ctx.none (fun k c => { c with effShare := (eff.lookup k).getD c.share }) s.ctxs }

/-! ## Waiting acquires (R319, R320) -/

/-- Whether a semaphore's holder slots have room for a context: its own slot, or an empty one. -/
def holderRoom (m : Sem) (cid : Nat) : Bool := m.holders.any fun h => h.units == 0 || h.cid == cid

/-- A unit more for a context among the holder slots. -/
def takeUnit (hs : List Holder) (cid : Nat) : List Holder :=
  if hs.any fun h => h.units != 0 && h.cid == cid then
    mapFirst (fun h => h.units != 0 && h.cid == cid) (fun h => { h with units := h.units + 1 }) hs
  else mapFirst (fun h => h.units == 0) (fun _ => ⟨cid, 1⟩) hs

/-- Grant waiting acquires from the FIFO head while they can be (R319, R320), on fuel. -/
def grantHead (x : Nat) : Nat → State → State
  | 0, s => s
  | n + 1, s =>
    let m := semOf s x
    match m.fifo with
    | [] => s
    | u :: rest =>
      if m.state = .active ∧ 1 ≤ m.count ∧ holderRoom m (cidOfCue s u) then
        let cid := cidOfCue s u
        grantHead x n (endCue (modSem s x fun m =>
          { m with count := m.count - 1, holders := takeUnit m.holders cid, fifo := rest }) u cOk)
      else s

/-- The acquires that meet `p` leave the FIFOs they wait in (R321); what then stands at a head is granted when it can be
(R319). -/
def leaveFifos (s : State) (p : Nat → Bool) : State :=
  let xs := (s.sems.filter fun q => q.2.fifo.any p).map (·.1)
  if xs.isEmpty then s
  else
    let s := { s with sems := mmap Sem.none (fun _ m => { m with fifo := m.fifo.filter (!p ·) }) s.sems }
    recomputeShares (xs.foldl (fun s x => grantHead x (semOf s x).fifo.length s) s)

/-! ## Proscenium: flips and layers -/

def layerOf (s : State) (l : Nat) : LayerSt := mget LayerSt.none s.layers l

/-- PROSC_Ln_STATE and _BUF show a layer's queue and what it has latched. -/
def showLayer (s : State) (l : Nat) : State :=
  let y := layerOf s l
  let s := fset s (F.PROSC_L_STATE.QUEUED l) y.queue.length
  match y.latched with
  | none => wr64 (fset s (F.PROSC_L_STATE.LATCHED l) 0) (R.PROSC_L_BUF_LO l) 0
  | some f =>
    wr64 (fset s (F.PROSC_L_STATE.LATCHED l) (1 - bits (field f.raw 25 1) 1 1)) (R.PROSC_L_BUF_LO l)
      (if bit (field f.raw 25 1) 1 then 0 else field f.raw 0 8 % 2 ^ 48)

/-- Change a layer and show it. -/
def modLayer (s : State) (l : Nat) (f : LayerSt → LayerSt) : State :=
  showLayer { s with layers := mmod LayerSt.none s.layers l f } l

/-- The queued flips of a layer that meet `p` leave the queue and their cues end with a code. -/
def dropFlips (s : State) (l code : Nat) (p : Flip → Bool) : State :=
  let gone := (layerOf s l).queue.filter p
  gone.foldl (fun s f => endCue s f.uid code) (modLayer s l fun y => { y with queue := y.queue.filter (!p ·) })

/-- Flips waiting on a fence that is freed are marked (R249). -/
def flipsFreed (s : State) (x : Nat) : State :=
  let hit := fun (f : Flip) => bit (field f.raw 25 1) 2 && field f.raw 48 2 == x
  { s with
    layers := mmap LayerSt.none
      (fun _ y => { y with queue := mapWhere hit (fun f => { f with freed := true }) y.queue }) s.layers }

/-- A layer's OWNER as an output applies it. Shadowed PROSC registers are applied by each output on its own: the key of
output `o` is the address plus o * 2^28. The credit pools of the link's ports have keys of the same form (R408). -/
def oKey (o r : Nat) : Nat := r + o * 2 ^ 28
def oget (s : State) (o : Nat) (f : Fld) : Nat := bits (mget 0 s.applied (oKey o f.reg)).toNat f.hi f.lo

/-- The output that has a layer, as the outputs apply OUTPUT (R252, R266). -/
def layerOut (s : State) (l : Nat) : Option Nat := (upTo 3).find? fun o => oget s o (F.PROSC_L_CTRL.OUTPUT l) == o

/-- The context that owns a layer. -/
def layerOwner (s : State) (l : Nat) : Nat := oget s ((layerOut s l).getD 0) (F.PROSC_L_CTRL.OWNER l)

/-- Clear EN of a layer as the outputs apply it; but for a reset, which leaves the shadow and a commit that is pending alone
(R357), in the shadow and the committed set too. -/
def clearLayerEn (reset : Bool) (s : State) (l : Nat) : State :=
  let r := R.PROSC_L_CTRL l
  let off := fun (m : SMap W32) (k : Nat) => mmod 0 m k fun v => v &&& 0xFFFFFFFE
  { s with
    regs := if reset then s.regs else off s.regs r
    committed := if reset then s.committed else off s.committed r
    applied := (upTo 3).foldl (fun m o => off m (oKey o r)) s.applied }

/-- A layer whose reads have drained (R264): invalidations that removed pages of its buffer have only to be acknowledged. -/
def LayerSt.drained (y : LayerSt) : LayerSt := { y with losing := [], lost := y.lost ++ y.losing }

/-- A layer shows nothing until its next latched flip (R264, R265). -/
def LayerSt.gone (y : LayerSt) : LayerSt := { y.drained with latched := Option.none, dark := true }

/-- The layers of a context stop (R265), by a reset or by its destruction: nothing shown, queued flips end with CONTEXT_LOST,
EN clears. -/
def stopLayers (reset : Bool) (s : State) (cid : Nat) : State :=
  (upTo 24).foldl (fun s l =>
    if layerOwner s l = cid then clearLayerEn reset (modLayer (dropFlips s l cCtxLost fun _ => true) l LayerSt.gone) l
    else s) s

/-! ## Buffers in SCRATCH -/

/-- The pages of a buffer when all of it translates into SCRATCH granules whose owner is the context (R259, R411); a host
page that the host has still to translate, or a failure. -/
def ownedScratch (s : State) (cid : Nat) (ranges : List (Nat × Nat × Bool)) : UnitRes :=
  match mapUnit s cid ranges with
  | .ok pages =>
    let good := fun (p : HeldPage) => (upTo (p.size / 16384)).all fun i =>
      let d := p.da + 16384 * i
      let used := ranges.any fun r => overlaps r.1 r.2.1 (p.va + 16384 * i) 16384
      !used || (reach s d == .scratch && bits (mget 0 s.tags (granule d)) 17 8 == cid)
    if pages.all good then .ok pages else .fault cOwner 0
  | r => r

/-! ## The raster block: the end of a pass (R243) -/

abbrev cDrawInvalid : Nat := 0x0301
abbrev cBinLost : Nat := 0x0302

/-- The pass report (R243). -/
def rasReport (r : RasterRun) (failDraw : Nat) : List Byte :=
  let n := fun (v : Nat) => leBytes 4 (min v 0xFFFFFFFF)
  n r.primsIn ++ n r.binned ++ n r.culled ++ n r.frags ++ leBytes 2 (min r.partials 0xFFFF) ++ leBytes 2 0 ++ n r.stored ++
    leBytes 4 failDraw ++ leBytes 4 (ceilDiv r.peak 1024)

/-- The raster block's read port into the Loft (R40); its write port is the next one. -/
abbrev rasPort : Nat := 36

/-- The raster block as it accesses a pass's memory; the SLOT is its own (R107), `pc` the record it executes. -/
def rasEng (r : RasterRun) (pc iword : Nat) : EngAsk := ⟨rasPort, r.cid, noTag, .cue r.uid, 0xFF, 0xFF, 0xFD, pc, iword⟩

/-- A pass's report is written as its context before the cue completes (R242, R243). -/
def putReport (s : State) (r : RasterRun) (failDraw : Nat) : State :=
  { s with reports := s.reports ++ [⟨r.uid, rasEng r r.daddr (field r.desc 0 4), field r.desc 48 8, rasReport r failDraw⟩] }

/-- Whether a core holds a workgroup of a pass. -/
def passOnCore (s : State) (r : RasterRun) (c : Nat) : Bool :=
  (coreOf s c).wgs.any fun w => w.uid == r.uid && w.kind != .launch

/-- The raster block holds no pass: its workgroups go, the L1s they ran on having been cleaned (R104, R242), bin memory is
emptied and the registers say so. -/
def rasFree (s : State) (r : RasterRun) : State :=
  let s := ((upTo 17).filter (passOnCore s r)).foldl (fun s c => cleanLines s (c + 1) fun _ => true) s
  let s := killWgs (unhold s .raster) fun w => w.uid == r.uid && w.kind != .launch
  let s := fset (fset { s with raster := none } F.RAS_STATUS.BUSY 0) F.RAS_STATUS.PHASE 0
  fset s F.RAS_BIN_USED.USED_KIB 0

/-- A pass ends with a code (R242, R243): the report is written last, then the cue completes. -/
def endPass (s : State) (r : RasterRun) (code : Nat) (failDraw : Nat := 0xFFFFFFFF) : State :=
  endCue (incSat (putReport (rasFree s r) r failDraw) R.RAS_PASS_COUNT) r.uid code

/-- Bin memory has been lost (R240): the pass ends with BIN_LOST, its context lives on. -/
def binLost (s : State) : State :=
  match s.raster with
  | none => s
  | some r => showEvent (raise (endPass s r cBinLost) E.RAS_EVENT.BIN_LOST) (plainEv cBinLost 0x21 3)

/-! ## The Pit: faults and forced disarming -/

def streamOf (s : State) (n : Nat) : PitStream := mget PitStream.idle s.streams n
def modStream (s : State) (n : Nat) (f : PitStream → PitStream) : State :=
  { s with streams := mmod PitStream.idle s.streams n f }

/-- A stream's STATE and its context. -/
abbrev sIdle : Nat := 0
abbrev sArmed : Nat := 1
abbrev sRunning : Nat := 2
abbrev sDisarming : Nat := 3
abbrev sFaulted : Nat := 4
def streamState (s : State) (n : Nat) : Nat := fget s (F.PIT_S_STATE.STATE n)
def streamCid (s : State) (n : Nat) : Nat := fget s (F.PIT_S_OWNER.CID n)

/-- Whether a stream is armed: any state but IDLE (R203). -/
def streamArmed (s : State) (n : Nat) : Bool := streamState s n != sIdle

/-- Whether a stream is privileged. -/
def streamPriv (s : State) (n : Nat) : Bool := fbit s (F.PIT_S_CFG.PRIV n)

/-- A flag of PIT_Sn_STATUS is set, and the PIT vector of the owning function raised (R215). -/
def pitRaise (s : State) (n : Nat) (f : Flag) : State :=
  raiseIrq (raise s f) ((fnOfCid s (streamCid s n)).getD 0) irqPit

/-- The Show Report event of a stream (R500, R536). -/
def streamEv (s : State) (n block code sev : Nat) (cores : List Byte) : ShowEv :=
  let cid := streamCid s n
  ⟨code, 0x23, sev, 0xFF, (fnOfCid s cid).getD 0xFF, cid,
    leBytes 8 n ++ leBytes 8 block ++ padTo 2 cores⟩

/-- A stream enters FAULTED (R187, R206, R215): no further block is triggered, and its output slots carry FILL. -/
def streamFault (s : State) (n code : Nat) : State :=
  if streamState s n = sIdle ∨ streamState s n = sFaulted then s
  else
    let b := (streamOf s n).block
    let s := fset (fset s (F.PIT_S_STATE.STATE n) sFaulted) (F.PIT_S_STATE.CODE n) code
    let s := modStream s n fun p => { p with proc := none, out := .fill, nextOut := .fill }
    let s := pitRaise s n (E.PIT_S_STATUS.FAULTED n)
    if streamPriv s n then showEvent s (streamEv s n b code 3 []) else s

/-- The fault of an access that an engine has already gone on from, a posted write over the link (R377, R405): the context of
a cue faults under R105 and the cue ends with the code, a stream becomes FAULTED (R187). -/
def engFault (s : State) (e : EngAsk) (code va : Nat) : State :=
  match e.who with
  | .cue uid =>
    let coded := modCue s uid fun c => if c.code = cOk then { c with code := code } else c
    reportFault coded e.cid (faultRec code e.lcore e.pcore e.cid e.unit 0xFF e.pc (some va) e.iword false) (some uid)
  | .stream n => streamFault s n code
  | .block => reportFault s e.cid (faultRec code e.lcore e.pcore e.cid e.unit 0xFF e.pc (some va) e.iword false) none

/-- The answer of a peer to an engine's request (R404, R405): what a read brought stands where the unit will read it; a write
is acknowledged and gone; a failed write is the engine's fault. -/
def engAnswered (s : State) (r : Req) (e : EngAsk) (code : Nat) (data : List Byte) : State :=
  if r.kind.writes then
    let s := { s with reqs := s.reqs.filter (·.id != r.id) }
    if code = cOk then s else engFault s e code r.va
  else if code = cOk then answer (memWrite s r.addr data) r.id cOk []
  else answer s r.id code []

/-- The answer of a peer, or the loss of the way to it, to whoever asked (R404, R405). -/
def reqAnswered (s : State) (r : Req) (code : Nat) (data : List Byte) : State :=
  match r.eng with
  | some e => engAnswered s r e code data
  | none => answer s r.id code data

/-- Whether posted writes of a cue's engine have still to be acknowledged: a completion releases them first (R104, R404). -/
def engWrites (s : State) (uid : Nat) : Bool :=
  s.reqs.any fun r => r.kind.writes && match r.eng with | some e => e.who == .cue uid | none => false

/-- An uncorrectable error in a frame FIFO entry (R187): the frame's samples will be stored as zero. -/
def fifoLost (s : State) (n : Nat) : State := modStream s n fun p => { p with fifoLost := true }

/-- The read port of the Pit; its write port is the next one (R40). -/
abbrev pitPort : Nat := 44

/-- The Pit as it accesses a stream's areas (R186): its failures fault the stream and have no record of R107. -/
def pitEng (s : State) (n : Nat) : EngAsk := ⟨pitPort, streamCid s n, noTag, .stream n, 0xFF, 0xFF, 0xFA, 0, 0⟩

def stPort (s : State) (n : Nat) : Nat := fget s (F.PIT_S_CFG.PORT n)
def stIsSap (s : State) (n : Nat) : Bool := decide (stPort s n < 4)

/-- Change the block in processing. -/
def modProc (s : State) (n : Nat) (f : PitBlock → PitBlock) : State :=
  modStream s n fun p => { p with proc := p.proc.map f }

/-- The 16 bytes of block information (R194). -/
def infoBytes (s : State) (n : Nat) (b : PitBlock) : List Byte :=
  leBytes 8 b.n ++ leBytes 1 (b.n % 2) ++ leBytes 1 (b2n b.replay + 2 * b2n b.carried + 4 * b2n b.zero) ++
    leBytes 2 (min 0xFFFF (streamOf s n).dropped) ++
    (if stIsSap s n then leBytes 4 b.first else leBytes 2 b.lines ++ leBytes 2 b.first)

/-- The bytes of an address pair of a stream (PIT_Sn_IN0 … CRING): a context virtual address. -/
def pairAddr (s : State) (lo : Nat) : Nat := rd64 s lo % 2 ^ 48

/-- IN(p) of a stream. -/
def inAddr (s : State) (n p : Nat) : Nat :=
  pairAddr s (if p % 2 = 0 then R.PIT_S_IN0_LO n else R.PIT_S_IN1_LO n)

/-- LINE_LOST of a receiver (R182, R187). -/
def lineLost (s : State) (n : Nat) : State := raise s (E.PIT_CSI_STATUS.LINE_LOST (fget s (F.PIT_S_CFG.PORT n) - 4))

/-- Line `t` of input buffer `b` of a stream is written as zeros. -/
def zeroLine (s : State) (n b t : Nat) : State :=
  let lb := fget s (F.PIT_S_VIDEO.LINE_BYTES n)
  ctxWrite s (pitEng s n) (heldPages s (.pit n)) (inAddr s n b + t * lb) (List.replicate lb 0)

/-- An uncorrectable error in a staged CSI line (R187): the last line stored is written as zeros and counted, and its block
has INPUT_ZERO: the block being filled, or the one whose information has just been written. A serial audio stream stages
none. -/
def stagedLost (s : State) (n : Nat) : State :=
  let p := streamOf s n
  if stIsSap s n then s
  else if p.t ≠ 0 then zeroLine (modStream (lineLost s n) n fun p => { p with zero := true }) n p.block (p.t - 1)
  else match p.proc with
    | none => s
    | some b =>
      let s := zeroLine (modProc (lineLost s n) n fun b => { b with zero := true }) n b.n (b.lines - 1)
      ctxWrite s (pitEng s n) (heldPages s (.pit n)) (pairAddr s (R.PIT_S_INFO_LO n)) (infoBytes s n { b with zero := true })

/-- What an uncorrectable error at an offset of the Pit's sub-region does to a stream (R186, R187): `fifo` for an entry of a
frame FIFO; above the 192 KiB of records and FIFOs stand staged lines; else a stream record. -/
def pitLost (s : State) (n off : Nat) (fifo : Bool) : State :=
  if 192 * 1024 ≤ off then stagedLost s n else if fifo then fifoLost s n else streamFault s n cMemUe

/-- The stream whose data lie at an offset of the Pit's sub-region, and whether they are a frame FIFO's. The spec gives the
parts of the sub-region and not their order: DESIGN CHOICE (log 47): 32 records of 3 KiB, then 32 FIFOs of 3 KiB, then the
staged lines in 32 equal parts. -/
def pitPlace (s : State) (off : Nat) : Nat × Bool :=
  if off < 96 * 1024 then (off / 3072, false)
  else if off < 192 * 1024 then ((off - 96 * 1024) / 3072, true)
  else ((off - 192 * 1024) / max 1 ((fget s F.LOFT_PIT_SIZE.PIT_MIB * 1048576 - 192 * 1024) / 32), false)

/-- An uncorrectable error that the patrol scrubber finds in the Pit's sub-region (R63, R64): the armed stream whose data
stand there has the outcome of its own read. -/
def pitVisit (s : State) (off : Nat) : State :=
  let p := pitPlace s off
  if streamArmed s p.1 && decide (p.1 < 32) then pitLost s p.1 off p.2 else s

/-- Arms that wait for a host translation are dropped (R200). -/
def dropArming (s : State) (p : Nat → Bool) : State :=
  { s with streams := mmap PitStream.idle (fun n q => if p n then { q with arming := false } else q) s.streams }

/-- A stream is disarmed at once (R204, R205): no further block, no output; it becomes IDLE once its cues have stopped. -/
def forceDisarm (s : State) (n : Nat) : State :=
  let s := fset s (F.PIT_S_STATE.STATE n) sDisarming
  modStream s n fun p => { p with proc := none, out := .zero, nextOut := .zero, forced := true, draining := false }

/-- The armed streams of a context. -/
def streamsOf (s : State) (cid : Nat) : List Nat := (upTo 32).filter fun n => streamArmed s n && streamCid s n == cid

/-- A destroyed context: its streams are disarmed at once, its layers stop, its entry rings are disabled (R205, R265,
R322, R415). -/
def disarmCtx (s : State) (cid : Nat) : State :=
  let s := (streamsOf s cid).foldl forceDisarm (dropArming s fun n => streamCid s n == cid)
  (upTo 256).foldl (fun s k =>
    if fbit s (F.UL_ER_CFG.EN k) ∧ fget s (F.UL_ER_CFG.CID k) = cid then
      unhold (fset s (F.UL_ER_CFG.EN k) 0) (.entryRing k)
    else s) (stopLayers (ctxOf s cid).byReset s cid)

/-! ## Stopping engines -/

/-- A context that faults (R206): its streams enter FAULTED with the fault's code. -/
def stopEngines (s : State) (cid code : Nat) : State := (streamsOf s cid).foldl (fun s n => streamFault s n code) s

/-- The work of one cue whose engine has no abort step of its own stops: a launch with its workgroups, a flip, a waiting
acquire. Save pages stay held until the context's destruction (R333). -/
def stopCueEngines (s : State) (uid : Nat) : State :=
  let s := killWgs { s with launches := s.launches.filter (·.uid != uid) } fun w => w.uid == uid
  let s := (upTo 24).foldl (fun s l =>
    if (layerOf s l).queue.any (·.uid == uid) then
      modLayer s l fun y => { y with queue := y.queue.filter (·.uid != uid) }
    else s) s
  leaveFifos s (· == uid)

end Sys2Proof.Machine
end

