-- ==== Sys2Proof/Machine/Numbers.lean ====
section
/-! DEFINITION. Number formats, exact sums and rounding (spec/04_number_formats.md). Finite values are exact: a sign, a
natural mantissa and a power of two. -/

namespace Sys2Proof.Machine

open Sys2Proof

/-- A number: NaN, an infinity, or (-1)^neg * m * 2^e; `m` zero is a signed zero (R154). -/
inductive Num where
  | nan
  | inf (neg : Bool)
  | fin (neg : Bool) (m : Nat) (e : Int)
  deriving DecidableEq, Repr

/-- Positive zero. -/
def Num.zero : Num := .fin false 0 0

/-- A floating format (R154): exponent and fraction widths, bias, whether it has infinities, and whether every code of the
top exponent but the all-ones fraction is finite (e4m3); e2m1 has neither infinities nor NaNs. -/
structure Fmt where
  eb : Nat
  fb : Nat
  bias : Nat
  hasInf : Bool
  hasNan : Bool
  deriving DecidableEq, Repr

def fmtBf16 : Fmt := ⟨8, 7, 127, true, true⟩
def fmtFp16 : Fmt := ⟨5, 10, 15, true, true⟩
def fmtE4m3 : Fmt := ⟨4, 3, 7, false, true⟩
def fmtE5m2 : Fmt := ⟨5, 2, 15, true, true⟩
def fmtE2m1 : Fmt := ⟨2, 1, 1, false, false⟩
def fmtFp32 : Fmt := ⟨8, 23, 127, true, true⟩

/-- Bits of a format, its precision p and emin (R154). -/
def Fmt.bits (f : Fmt) : Nat := 1 + f.eb + f.fb
def Fmt.prec (f : Fmt) : Nat := f.fb + 1
def Fmt.emin (f : Fmt) : Int := 1 - f.bias

/-- The element types of R154 and R155. -/
inductive ETy where
  | flt (f : Fmt)
  | int (w : Nat)
  deriving DecidableEq, Repr

/-- The element type of a code (R154, R155); `none` for a reserved code. -/
def etyOf (code : Nat) : Option ETy :=
  match code with
  | 0 => some (.flt fmtBf16)
  | 1 => some (.flt fmtFp16)
  | 2 => some (.flt fmtE4m3)
  | 3 => some (.flt fmtE5m2)
  | 4 => some (.int 8)
  | 6 => some (.int 4)
  | 7 => some (.flt fmtE2m1)
  | 8 => some (.flt fmtFp32)
  | 9 => some (.int 32)
  | _ => none

/-- The width of an element in bits. -/
def ETy.width : ETy → Nat
  | .flt f => f.bits
  | .int w => w

/-- Whether the type is an integer one. -/
def ETy.isInt : ETy → Bool
  | .flt _ => false
  | .int _ => true

/-- The value of a floating code (R154). -/
def Fmt.decode (f : Fmt) (c : Nat) : Num :=
  let frac := c % 2 ^ f.fb
  let ex := c / 2 ^ f.fb % 2 ^ f.eb
  let neg := bit c (f.eb + f.fb)
  if ex = 2 ^ f.eb - 1 ∧ f.hasInf then (if frac = 0 then .inf neg else .nan)
  else if ex = 2 ^ f.eb - 1 ∧ f.hasNan ∧ frac = 2 ^ f.fb - 1 then .nan
  else if ex = 0 then .fin neg frac (f.emin - f.fb)
  else .fin neg (2 ^ f.fb + frac) ((ex : Int) - f.bias - f.fb)

/-- The value of an element code. -/
def ETy.decode (t : ETy) (c : Nat) : Num :=
  match t with
  | .flt f => f.decode c
  | .int w => .fin (decide (sx w c < 0)) (sx w c).natAbs 0

/-- The default NaN of a format, as the table of R154 states it. -/
def Fmt.nanCode (f : Fmt) : Nat :=
  if f.hasInf then (2 ^ f.eb - 1) * 2 ^ f.fb + 2 ^ (f.fb - 1) else 2 ^ (f.eb + f.fb) - 1

/-- The code of an infinity. -/
def Fmt.infCode (f : Fmt) (neg : Bool) : Nat := b2n neg * 2 ^ (f.eb + f.fb) + (2 ^ f.eb - 1) * 2 ^ f.fb

/-- The largest finite code, without sign. -/
def Fmt.maxCode (f : Fmt) : Nat :=
  if f.hasInf then (2 ^ f.eb - 1) * 2 ^ f.fb - 1 else if f.hasNan then 2 ^ (f.eb + f.fb) - 2 else 2 ^ (f.eb + f.fb) - 1

/-- floor(log2) of a finite non-zero value: the bound of R157. -/
def Num.bound : Num → Option Int
  | .fin _ m e => if m = 0 then none else some ((Nat.log2 m : Int) + e)
  | _ => none

/-- A product (R159, R166); `none` when it is invalid (0 times infinity). -/
def Num.mul : Num → Num → Option Num
  | .nan, _ => some .nan
  | _, .nan => some .nan
  | .inf a, .inf b => some (.inf (a != b))
  | .inf a, .fin b m _ => if m = 0 then none else some (.inf (a != b))
  | .fin a m _, .inf b => if m = 0 then none else some (.inf (a != b))
  | .fin a m e, .fin b n f => some (.fin (a != b) (m * n) (e + f))

/-- A signed integer times a power of two. -/
structure Dyadic where
  m : Int
  e : Int
  deriving DecidableEq, Repr

/-- The exact sum of two dyadics. -/
def Dyadic.add (a b : Dyadic) : Dyadic :=
  let e := min a.e b.e
  ⟨a.m * 2 ^ (a.e - e).toNat + b.m * 2 ^ (b.e - e).toNat, e⟩

/-- The exact product of two dyadics. -/
def Dyadic.mul (a b : Dyadic) : Dyadic := ⟨a.m * b.m, a.e + b.e⟩

/-- Whether the first dyadic is at most the second. -/
def Dyadic.le (a b : Dyadic) : Bool :=
  let e := min a.e b.e
  decide (a.m * 2 ^ (a.e - e).toNat ≤ b.m * 2 ^ (b.e - e).toNat)

/-- The opposite of a number. -/
def Num.neg : Num → Num
  | .nan => .nan
  | .inf b => .inf !b
  | .fin b m e => .fin (!b) m e

/-- A finite number as a dyadic; zero for the others. -/
def Num.dy : Num → Dyadic
  | .fin neg m e => ⟨if neg then -(m : Int) else m, e⟩
  | _ => ⟨0, 0⟩

/-- Whether a number is the negative zero. -/
def Num.isNegZero : Num → Bool
  | .fin neg m _ => neg && m == 0
  | _ => false

/-- Rounding parameters: RMODE, RBITS and the generator output u (R169). -/
structure Rnd where
  mode : Nat
  rbits : Nat
  u : Nat
  deriving DecidableEq, Repr

/-- Round to nearest, ties to even. -/
def Rnd.rne : Rnd := ⟨0, 0, 0⟩

/-- Whether the discarded part `rem / den` of a kept magnitude `t` rounds away from zero (R169). -/
def Rnd.up (r : Rnd) (t rem den : Nat) : Bool :=
  match r.mode with
  | 0 => decide (den < 2 * rem) || (2 * rem == den && t % 2 == 1)
  | 2 => decide (r.u / 2 ^ (32 - r.rbits) < rem * 2 ^ r.rbits / den)
  | _ => false

/-- Round the magnitude num * 2^e / den at precision `p` with least exponent `emin` (R169): the kept magnitude and its
weight exponent. For integers the caller passes `q` zero through `fixed`. -/
def roundMag (r : Rnd) (p : Nat) (emin : Int) (fixed : Bool) (num den : Nat) (e : Int) : Nat × Int :=
  -- floor(log2 (num / den)): the quotient's logarithm, corrected below
  let l0 : Int := (Nat.log2 num : Int) - Nat.log2 den
  let below := if l0 ≥ 0 then decide (num < den * 2 ^ l0.toNat) else decide (num * 2 ^ (-l0).toNat < den)
  let l := (if below then l0 - 1 else l0) + e
  let q : Int := if fixed then 0 else max l emin - ((p : Int) - 1)
  let sh := e - q
  let n := if sh ≥ 0 then num * 2 ^ sh.toNat else num
  let d := if sh ≥ 0 then den else den * 2 ^ (-sh).toNat
  let t := n / d
  (t + b2n (r.up t (n % d) d), q)

/-- What rounding an output reports (R170, R171): counted in OVERFLOW, counted in SATURATED. -/
structure RndEv where
  ovf : Bool
  sat : Bool
  deriving DecidableEq, Repr

def RndEv.none : RndEv := ⟨false, false⟩

/-- The code of a rounded magnitude `t * 2^q` in a format: overflow and saturation of R170. -/
def Fmt.encode (f : Fmt) (mode : Nat) (neg : Bool) (t : Nat) (q : Int) : Nat × RndEv :=
  let sgn := b2n neg * 2 ^ (f.eb + f.fb)
  if t = 0 then (sgn, .none)
  else
    let l : Int := (Nat.log2 t : Int) + q
    let code : Nat :=
      if l < f.emin then t * 2 ^ (q - (f.emin - f.fb)).toNat
      else
        let k := Nat.log2 t
        let frac := if k ≤ f.fb then t * 2 ^ (f.fb - k) else t / 2 ^ (k - f.fb)
        ((l + f.bias).toNat - 1) * 2 ^ f.fb + frac
    if code ≤ f.maxCode then (sgn + code, .none)
    else if f.hasInf then (if mode = 1 then (sgn + f.maxCode, ⟨true, false⟩) else (f.infCode neg, ⟨true, false⟩))
    else (sgn + f.maxCode, ⟨false, true⟩)

/-- Round an exact value num * 2^e / den with sign to an output type (R169 to R171). -/
def ETy.roundRat (t : ETy) (r : Rnd) (neg : Bool) (num den : Nat) (e : Int) : Nat × RndEv :=
  match t with
  | .flt f =>
    if num = 0 then (b2n neg * 2 ^ (f.eb + f.fb), .none)
    else
      let p := roundMag r f.prec f.emin false num den e
      f.encode r.mode neg p.1 p.2
  | .int w =>
    if num = 0 then (0, .none)
    else
      let p := roundMag r 0 0 true num den e
      let v : Int := if neg then -(p.1 : Int) else p.1
      if v > 2 ^ (w - 1) - 1 then (2 ^ (w - 1) - 1, ⟨false, true⟩)
      else if v < -(2 ^ (w - 1)) then (2 ^ (w - 1), ⟨false, true⟩)
      else (ux w v, .none)

/-- Round a number to an output type, special results included (R169 to R171). -/
def ETy.round (t : ETy) (r : Rnd) : Num → Nat × RndEv
  | .nan => match t with
    | .flt f => (f.nanCode, .none)
    | .int _ => (0, ⟨false, true⟩)
  | .inf neg => match t with
    | .flt f => if f.hasInf then (f.infCode neg, .none) else (b2n neg * 2 ^ (f.eb + f.fb) + f.maxCode, ⟨false, true⟩)
    | .int w => (if neg then 2 ^ (w - 1) else 2 ^ (w - 1) - 1, ⟨false, true⟩)
  | .fin neg m e => t.roundRat r neg m 1 e

/-- The fp32 type, and rounding to nearest even fp32 (rne32). -/
def tyFp32 : ETy := .flt fmtFp32
def rne32 (x : Num) : Nat × RndEv := tyFp32.round .rne x

/-! ## The accumulator (R160 to R167) -/

/-- The accumulator state of one output (R162), with the counts it has made. -/
structure Accum where
  v : Int
  nan : Bool
  pinf : Bool
  ninf : Bool
  nonneg : Bool
  flushed : Nat
  invalid : List Nat
  deriving DecidableEq, Repr

def Accum.zero : Accum := ⟨0, false, false, false, false, 0, []⟩

/-- The greatest of the bounds, `none` below every number (R160). -/
def maxBound : List (Option Int) → Option Int
  | [] => none
  | none :: xs => maxBound xs
  | some b :: xs => match maxBound xs with
    | none => some b
    | some c => some (max b c)

/-- The anchor of a tile from its largest row and column bounds (R160). -/
def anchorOf (ma mb : Option Int) : Option Int :=
  match ma, mb with
  | some a, some b => some (a + b + 1 + 8)
  | _, _ => none

/-- Add the product of elements with index `k` to the state (R161, R166). `w` is the product's width (R159). -/
def Accum.add (st : Accum) (anchor : Option Int) (w k : Nat) (a b : Num) : Accum :=
  match a.mul b with
  | none => { st with nan := true, nonneg := true, invalid := st.invalid ++ [k] }
  | some .nan => { st with nan := true, nonneg := true }
  | some (.inf neg) => { st with pinf := st.pinf || !neg, ninf := st.ninf || neg, nonneg := true }
  | some (.fin neg m e) =>
    let st := { st with nonneg := st.nonneg || !(neg && m == 0) }
    if m = 0 then st
    else match anchor with
      | none => st
      | some an =>
        if (Nat.log2 m : Int) + e < an - (112 - (w : Int)) then { st with flushed := st.flushed + 1 }
        else
          let sh := e - (an - 111)
          let mag := if sh ≥ 0 then m * 2 ^ sh.toNat else m / 2 ^ (-sh).toNat
          { st with v := st.v + (if neg then -(mag : Int) else mag) }

/-- Two states of one output combined (R162). -/
def Accum.join (a b : Accum) : Accum :=
  ⟨a.v + b.v, a.nan || b.nan, a.pinf || b.pinf, a.ninf || b.ninf, a.nonneg || b.nonneg, a.flushed + b.flushed,
    a.invalid ++ b.invalid⟩

/-- The 16 bytes of an accumulator state (R162): V in bits 123:0, then NAN, PINF, NINF and NONNEG. -/
def Accum.code (a : Accum) : Nat :=
  ux 124 a.v + 2 ^ 124 * b2n a.nan + 2 ^ 125 * b2n a.pinf + 2 ^ 126 * b2n a.ninf + 2 ^ 127 * b2n a.nonneg

/-- The result of the finishing terms: the number, and whether the sum was invalid (R166, R167). -/
def Accum.finish (st : Accum) (anchor : Int) (c bias : Option Num) : Num × Bool :=
  let terms := [c, bias].filterMap id
  let isInf := fun (neg : Bool) (x : Num) => x == .inf neg
  let p := st.pinf || terms.any (isInf false)
  let n := st.ninf || terms.any (isInf true)
  if st.nan || terms.any (· == .nan) then (.nan, false)
  else if p && n then (.nan, true)
  else if p then (.inf false, false)
  else if n then (.inf true, false)
  else
    let x := terms.foldl (fun d t => d.add t.dy) (⟨st.v, anchor - 111⟩ : Dyadic)
    if x.m = 0 then (.fin (!st.nonneg && terms.all Num.isNegZero) 0 0, false)
    else (.fin (decide (x.m < 0)) x.m.natAbs x.e, false)

/-- Multiply a result by a column scale (R168): the number, and whether the scaling was invalid. -/
def scaleBy (x s : Num) : Num × Bool :=
  match x, s with
  | .nan, _ => (.nan, false)
  | _, .nan => (.nan, false)
  | x, s => match x.mul s with
    | none => (.nan, true)
    | some y => (y, false)

/-- The exact sum of two numbers rounded once to fp32, ties to even; denormals are kept (R74, RMW.FADD). -/
def fadd32 (a b : Nat) : Nat :=
  let x := fmtFp32.decode a
  let y := fmtFp32.decode b
  let st : Accum := { Accum.zero with nan := x == .nan, pinf := x == .inf false, ninf := x == .inf true }
  match x with
  | .fin .. => (rne32 (Accum.zero.finish 111 (some x) (some y)).1).1
  | _ => (rne32 (st.finish 111 none (some y)).1).1

/-! ## The stochastic generator (R173, R174) -/

/-- The increment and the seed of a lane (R173). -/
def genInc (lane : Nat) : Nat := 2 * lane + 1
def genSeed (seed lane : Nat) : Nat := seed ^^^ (0x9E3779B9 * (lane + 1) % 2 ^ 32)

/-- The loop of `jump` (R173) on fuel. -/
def genLoop : Nat → Nat → Nat → Nat → Nat → Nat → Nat × Nat
  | 0, _, _, _, ra, rc => (ra, rc)
  | n + 1, i, ma, mc, ra, rc =>
    if i = 0 then (ra, rc)
    else
      let ra' := if i % 2 = 1 then ra * ma % 2 ^ 32 else ra
      let rc' := if i % 2 = 1 then (rc * ma + mc) % 2 ^ 32 else rc
      genLoop n (i / 2) (ma * ma % 2 ^ 32) ((ma + 1) * mc % 2 ^ 32) ra' rc'

/-- The state `i` advances after `x` (R173). -/
def genJump (x i c : Nat) : Nat :=
  let p := genLoop 64 i 0x2C9277B5 c 1 0
  (p.1 * x + p.2) % 2 ^ 32

/-- The tempered output of a state (R174). -/
def genTemper (x : Nat) : Nat :=
  let u := x ^^^ (x / 2 ^ 16)
  let u := u * 0x7FEB352D % 2 ^ 32
  let u := u ^^^ (u / 2 ^ 15)
  let u := u * 0x846CA68B % 2 ^ 32
  u ^^^ (u / 2 ^ 16)

/-- The generator output of a lane at a position (R173, R174). -/
def genOut (seed lane pos : Nat) : Nat := genTemper (genJump (genSeed seed lane) pos (genInc lane))

end Sys2Proof.Machine
end

