-- ==== Sys2Proof/Machine/Loft.lean ====
section
/-! DEFINITION. The fabric and the Loft (spec/01_fabric_and_loft.md): stall limit, rate monitors, carving, bank
arbitration, SECDED and the patrol scrubbers; and the memory controller (spec/18_register_map.md R534, R535). -/

namespace Sys2Proof.Machine

open Sys2Proof

/-- STALL_LIMIT_WRITE (R34): the limit takes effect at once; a value below 256 counts as 256 where it is used. -/
def execStallLimitWrite (limit : BitVec 16) (s : State) : Host.Outcome State Fault Refusal :=
  regCmd s dLoft (.next (fset s F.LOFT_FAB_STALL_LIMIT.LIMIT limit.toNat))

/-- The limit every stall monitor counts to (R34). -/
def stallLimit (s : State) : Nat := max 256 (fget s F.LOFT_FAB_STALL_LIMIT.LIMIT)

/-- The beats that a core has made in a window: a gated core makes none (R435). -/
def coreBeats (s : State) (c : Nat) (beats : BitVec 16) : Nat := if domOn s (dCore + c) then beats.toNat else 0

/-- RATE_WINDOW_END (R32, R435): the window's beats are latched and have been counted by the beat counter. -/
def execRateWindowEnd (r : RateRegion) (beats : BitVec 16) (s : State) : Host.Outcome State Fault Refusal :=
  match r with
  | .core c =>
    let n := coreBeats s c beats
    .next (fset (add64 s (R.CORE_BEAT_COUNT_LO c) n) (F.CORE_RATE.PER_US c) n)
  | .loft => .next (fset (add64 s R.LOFT_BEAT_COUNT_LO beats.toNat) F.LOFT_RATE.PER_US beats.toNat)

/-- Whether the carving registers hold sizes in their ranges that leave SCRATCH at least 4 MiB (R42 to R44). -/
def carvingOk (s : State) : Bool :=
  let cache := fget s F.LOFT_CACHE_SIZE.CACHE_MIB
  let bin := fget s F.LOFT_BIN_SIZE.BIN_MIB
  let pit := fget s F.LOFT_PIT_SIZE.PIT_MIB
  let save := fget s F.LOFT_SAVE_SIZE.SAVE_MIB
  decide (cache ≤ 48) && decide (8 ≤ bin) && decide (bin ≤ 32) && decide (1 ≤ pit) && decide (pit ≤ 8) &&
    decide (1 ≤ save) && decide (save ≤ 32) && decide (4 + cache + reservedMib s ≤ 64)

/-- CARVE_LOCK (R42 to R46, R308, R324): the carving takes effect, with a fence table that holds what the fence unit does, or
the lock is refused and CARVE_ERR set. Once locked, a further write changes nothing until an L1. -/
def execCarveLock (s : State) : Host.Outcome State Fault Refusal :=
  regCmd s dLoft <|
  if carved s then .next s
  else if carvingOk s then
    .next (tableNow
      (fset (fset s F.LOFT_SCRATCH_SIZE.SCRATCH_MIB (64 - fget s F.LOFT_CACHE_SIZE.CACHE_MIB - reservedMib s))
        F.LOFT_CTRL.CARVE_LOCK 1))
  else .next (raise s E.LOFT_CARVE_STATUS.CARVE_ERR)

/-! ## Banks -/

/-- The bank (quadrant * 16 + bank) of a Loft address (R36). -/
def bankOf (a : Nat) : Nat := bits a 25 24 * 16 + (bits a 9 6 ^^^ bits a 13 10)

/-- The first address of a line of a bank: the inverse of R36. -/
def lineAddr (b row : Nat) : Nat := b / 16 * 2 ^ 24 + row * 1024 + ((b % 16) ^^^ (row % 16)) * 64

/-- The place of a class in the arbitration order (R41). -/
def clsRank : Cls → Nat
  | .rt => 0
  | .priv => 1
  | .normal => 2
  | .bulk => 3

/-- The request a bank grants: the oldest of the highest class present (R41). -/
def bankPick (s : State) (b : Nat) : Option Req := minBy (fun r => clsRank r.cls) (s.reqs.filter (·.at_ == .bank b))

/-- The bytes a read-modify-write stores, from the old ones (R75): ADD, signed and unsigned MIN and MAX, AND, OR, XOR,
SWAP, CMPSWAP and FADD. -/
def rmwValue (op size old data cmp : Nat) : Nat :=
  let w := 8 * size
  match op with
  | 0 => (old + data) % 2 ^ w
  | 1 => if sx w old ≤ sx w data then old else data
  | 2 => if sx w old ≤ sx w data then data else old
  | 3 => min old data
  | 4 => max old data
  | 5 => old &&& data
  | 6 => old ||| data
  | 7 => old ^^^ data
  | 8 => data
  | 9 => if old = cmp then data else old
  | _ => fadd32 old data

/-! ## Uncorrectable errors (R60 to R63, R376) -/

/-- The owner of a granule, if its tag names one. -/
def granuleOwner (s : State) (a : Nat) : Option Nat :=
  let t := mget 0 s.tags (granule a)
  if bits t 1 0 = 0 then none else some (bits t 17 8)

/-- The context that owns a granule faults with MEM_UNCORRECTABLE (R62): when it made the access itself, its requester's own
fault names it and nothing more is reported here; else no unit of its own made the access. -/
def faultOwner (s : State) (a : Nat) (who : Asker) : State :=
  match granuleOwner s a with
  | some cid =>
    if who = .ctx cid then s
    else reportFault s cid (faultRec cMemUe 0xFF 0xFF cid 0xFA 0xFF 0 none 0 false) none
  | none => s

/-- A word in which an uncorrectable error has been found stays so until a write covers it whole (R37, R39). -/
def markUe (s : State) (w : Nat) : State :=
  { s with ueWords := if s.ueWords.contains w then s.ueWords else s.ueWords ++ [w] }

/-- A single-bit error is corrected and counted (R60). -/
def loftCorrected (s : State) : State := raise (incSat s R.LOFT_ECC_CE_COUNT) E.LOFT_ECC_STATUS.CE

/-- UE is set and the address latched (R62). -/
def loftLatchUe (s : State) (a : Nat) : State :=
  raise (fset (wrN s R.LOFT_ECC_ADDR_LO a) F.LOFT_ECC_ADDR_HI.ADDR (a / 2 ^ 32)) E.LOFT_ECC_STATUS.UE

/-- An uncorrectable error in a ring's state entry (R295): the ring stalls with RING_STATE_LOST and its cues in flight run to
completion (R294) and end with that code; nothing for a ring that is OFF. -/
def ringStateLost (s : State) (k : Nat) : State :=
  if (ringOf s k).state = .off then s
  else
    let s := { s with cues := mapWhere (fun c => c.src == .ring k && (c.stage == .running || c.reserved))
                        (fun c => { c with code := cRingLost }) s.cues }
    stallRing s k cRingLost

/-- An uncorrectable error in a fence entry (R317). -/
def fenceEntryLost (s : State) (x : Nat) : State :=
  let st := (fenceOf s x).state
  let s := incSat s R.PDESK_FENCE_ECC_COUNT
  match st with
  | .active => showEvent (errorFence s x cMemUe) (plainEv cMemUe 0x08 3)
  | .error => showEvent (modFence s x fun f => { f with code := cMemUe }) (plainEv cMemUe 0x08 3)
  | .free => showEvent s (plainEv cMemUe 0x08 1)

/-- The line at a Loft address of the CACHE region (ways in recency order of first use stand in ascending order of way: the
spec does not place ways). -/
def lineAtLoft (s : State) (a : Nat) : Option Line :=
  let i := (a - cacheBase s) / 64
  let n := cacheSets s
  if n = 0 then none else ((cacheOf s 0).lines.filter fun l => l.line % n == i % n)[i / n]?

/-- A clean CACHE line with an uncorrectable error is dropped and fetched again (R61). -/
def refetchLine (s : State) (ln : Nat) : State :=
  raise (modCache s 0 fun c => { c with lines := c.lines.filter (·.line != ln), wanted := c.wanted ++ [(ln, 1024)] })
    E.LOFT_ECC_STATUS.REFETCH

/-- A dirty CACHE line with an uncorrectable error stays in its way, marked bad (R62). -/
def markBad (s : State) (ln : Nat) : State :=
  modCache s 0 fun c => { c with lines := mapWhere (·.line == ln) (fun l => { l with bad := true }) c.lines }

/-- Whom an uncorrectable error outside RESERVED faults: the stream alone for an access of the Pit (R187), else the owner of
the granule (R62). -/
def ueFault (s : State) (a : Nat) (who : Asker) : State :=
  match who with
  | .stream n _ => streamFault s n cMemUe
  | _ => faultOwner s a who

/-- The effect of an uncorrectable error in a CACHE line (R61, R62). The address latched for a dirty line is that of its
backing memory, by which every access names it; the spec says "the address" alone: DESIGN CHOICE (log 48). -/
def cacheLineUe (s : State) (l : Line) (who : Asker) : State :=
  if l.dirty = 0 then refetchLine s l.line
  else ueFault (loftLatchUe (markBad s l.line) (l.line * 64)) (l.line * 64) who

/-- What a read that SECDED judges does at a Loft address (R60 to R63), for whoever asked. An uncorrectable error in a
RESERVED sub-region goes to the block that owns it. -/
def loftEcc (s : State) (a : Nat) (ecc : Ecc) (who : Asker) : State :=
  match ecc with
  | .clean => s
  | .single => loftCorrected s
  | .double w =>
    let s := incSat s R.LOFT_ECC_UE_COUNT
    match reach s a with
    | .cacheRegion => match lineAtLoft s a with
      | some l => cacheLineUe s l who
      | none => s
    | .ringTable => ringStateLost s ((a - reservedBase s) / 64)
    | .fenceTab => fenceEntryLost s ((a - fenceTable s) / 64 * 4 + w.val / 2)
    | .bins => binLost s
    | .pitBuf => match who with
      | .stream n fifo => pitLost s n (a - pitBase s) fifo
      | _ => pitVisit s (a - pitBase s)
    | .saves =>
      { s with images := mapWhere (fun i => i.pages.contains ((a - saveBase s) / 4096))
                          (fun i => { i with bad := true }) s.images }
    | _ => ueFault (loftLatchUe (markUe s (a / 64 * 8 + w.val)) a) a who

/-- An uncorrectable error in the ownership tag of a granule (R376): the tag stays bad until rewritten. -/
def tagLost (s : State) (a : Nat) : State :=
  let g := granule a
  let s := { s with badTags := if s.badTags.contains g then s.badTags else s.badTags ++ [g] }
  let s := if g < 0x10000 then wrN s R.XLAT_OTT_UE_GRANULE (g + 2 ^ 31) else wrN s R.XLAT_OTT_UE_GRANULE (g - 0x10000)
  showEvent (raise s E.XLAT_EVENT.OTT_UE) (plainEv cMemUe 0x07 3)

/-! ## Granting and performing -/

/-- Whether a store covers part of some 8-byte word (R39): it is a read-modify-write. -/
def partialWrite (a n : Nat) : Bool := a % 8 != 0 || n % 8 != 0

/-- Perform a request's access on memory behind the caches: the memory after it, and the data it returns. -/
def perform (s : State) (a : Nat) (k : ReqKind) : State × List Byte :=
  match k with
  | .load n => (s, devRead s a n)
  | .store bs => (devWrite s a bs, [])
  | .zero => (devWrite s (a / 64 * 64) (List.replicate 64 0), [])
  | .rmw op n data cmp =>
    let old := leNat (devRead s a n)
    (devWrite s a (leBytes n (rmwValue op n old data cmp)), leBytes n old)

/-- An access reads the array: loads, atomics, and stores of part of a word (R39). -/
def kindReads (a : Nat) (k : ReqKind) : Bool :=
  match k with
  | .load _ => true
  | .rmw .. => true
  | .store bs => partialWrite a bs.length
  | .zero => false
def reqReads (r : Req) : Bool := kindReads r.addr r.kind

/-- What a granted request does at a memory (R38, R39): a request whose line is to fill a cache has its line read and
goes back to that cache; any other is performed and answered. -/
def serve (s : State) (r : Req) : State :=
  match r.fills with
  | k :: _ => modReq s r.id fun r => { r with at_ := .fill k }
  | [] => let p := perform s r.addr r.kind; answer p.1 r.id cOk p.2

/-- The check of a request at the memory (R373); blocks and the Stagehand controllers (context 1024) are not checked. -/
def reqCheck (s : State) (r : Req) : Nat := if r.cid < 1024 then ownerCheck s r.cid r.addr r.kind.writes else cOk

/-- The place of a word among the eight of its line. -/
def wordOfLine (w : Nat) : Fin 8 := ⟨w % 8, Nat.mod_lt _ (by decide)⟩

/-- What a read finds: what SECDED says of it, or a word found bad before among those it reads. -/
def foundEcc (s : State) (a n : Nat) (ecc : Ecc) : Ecc :=
  match ecc with
  | .double w => .double w
  | e => match s.ueWords.find? fun w => overlaps (8 * w) 8 a n with
    | some w => .double (wordOfLine w)
    | none => e

/-- What the read of a request finds. -/
def eccOf (s : State) (r : Req) (ecc : Ecc) : Ecc :=
  if r.fills.isEmpty then foundEcc s r.addr r.kind.size ecc else foundEcc s (r.addr / 64 * 64) 64 ecc

/-- Grant one request: checked against its granule's tag, served unless its read met an uncorrectable error, its line is
marked bad or the check failed, and answered with its code and data (R38, R39, R60 to R62, R373). -/
def grantReq (s : State) (r : Req) (ecc : Ecc) (tagBad : Bool) (onEcc : State → Ecc → State) : State :=
  let s := if tagBad then tagLost s r.addr else s
  let c := reqCheck s r
  if c ≠ cOk then answer s r.id c []
  else if badLine s r.addr then answer s r.id cMemUe []
  else if reqReads r || !r.fills.isEmpty then
    match eccOf s r ecc with
    | .double w => answer (onEcc s (.double w)) r.id cMemUe []
    | e => serve (onEcc s e) r
  else serve s r

/-- Who asked, when a request did. -/
def reqAsker (r : Req) : Asker := if r.cid < 1024 then .ctx r.cid else .block

/-- Who asked, when a block did. -/
def accAsker (agent : LoftAgent) (cid : Option (Fin 1024)) : Asker :=
  match agent, cid with
  | .pit n fifo, _ => .stream n fifo
  | _, some c => .ctx c
  | _, none => .block

/-- The class of an agent's accesses (R40): the Stagehand controllers are RT during start-up and in House Lights. -/
def agentCls (s : State) (agent : LoftAgent) : Cls :=
  match agent with
  | .pit .. | .proscenium _ => .rt
  | .raster | .host => .normal
  | .link p | .engine p => partCls s p
  | .memc o => match o with
    | .rt => .rt
    | .part p => partCls s p
    | .bulk => .bulk
  | .comp | .internal => .bulk
  | .stagehand => if fget s F.RST_BOOT_STATE.STATE = 7 then .normal else .rt

/-- The class a block's access is arbitrated in (R41): NORMAL and BULK become PRIV after 256 Loft beats. -/
def accCls (s : State) (x : BankAcc) : Cls :=
  match agentCls s x.agent with
  | .rt => .rt
  | c => if x.waited then .priv else c

/-- The grant of a bank's oldest pending core request of the highest class. -/
def grantBank (s : State) (r : Req) (ecc : Ecc) (tagBad : Bool) : State :=
  grantReq s r ecc tagBad fun s e => loftEcc s r.addr e (reqAsker r)

/-- A block's access looks up a tag only when it is made for a context (R373); one that is found bad then fails the access
itself, as it does every later one (R376). -/
def accTag (s : State) (a : Nat) (cid : Option (Fin 1024)) (agent : LoftAgent) (tagBad : Bool) : State :=
  let checked := cid.isSome || (match agent with | .pit .. => true | _ => false)
  if tagBad && checked then tagLost s a else s

/-- The grant of a block's access. -/
def grantAcc (s : State) (b : Nat) (x : BankAcc) (ecc : Ecc) (tagBad : Bool) : State :=
  let a := lineAddr b x.row
  loftEcc (accTag s a x.cid x.agent tagBad) a ecc (accAsker x.agent x.cid)

/-- LOFT_BANK_GRANT (R38 to R41, R44, R45, R60 to R63, R373, R376, R434): the oldest pending access of the highest class
present, a core's request or the access `acc` that a block asks for. Between a block and a core of one class `acc` is the
older one. A bank with nothing pending grants nothing, and an access to a gated quadrant waits for its wake (R434). -/
def execLoftBankGrant (b : Fin 64) (acc : Option BankAcc) (ecc : Ecc) (tagBad : Bool) (s : State) :
    Host.Outcome State Fault Refusal :=
  let up := whenUp s [dLoft + b.val / 16]
  match acc, bankPick s b with
  | none, none => .next s
  | none, some r => .next (up (grantBank s r ecc tagBad))
  | some x, none => .next (up (grantAcc s b x ecc tagBad))
  | some x, some r =>
    if clsRank r.cls < clsRank (accCls s x) then .next (up (grantBank s r ecc tagBad))
    else .next (up (grantAcc s b x ecc tagBad))

/-- LOFT_REQ_PROMOTE (R41): the oldest NORMAL or BULK request of the bank has waited 256 Loft beats and becomes PRIV. -/
def execLoftReqPromote (b : Fin 64) (s : State) : Host.Outcome State Fault Refusal :=
  .next { s with reqs := mapFirst (fun r => r.at_ == .bank b && (r.cls == .normal || r.cls == .bulk))
                            (fun r => { r with cls := .priv }) s.reqs }

/-- SCRUB_STEP (R64): one line of every bank is read, errors are corrected or reported, and the row moves on. An INTERVAL
of 0 stops the scrubber. -/
def execScrubStep (found : List (Fin 64 × Ecc)) (s : State) : Host.Outcome State Fault Refusal :=
  if fget s F.LOFT_SCRUB_INTERVAL.INTERVAL = 0 then .next s
  else
    let row := s.scrubRow
    let s := found.foldl (fun s p => loftEcc s (lineAddr p.1 row) p.2 .block) s
    .next { s with scrubRow := (row + 1) % 16384 }

/-! ## The memory controller (R534, R535) -/

/-- A single-bit DRAM error (R534). -/
def dramCorrected (s : State) : State := raise (incSat s R.MEMC_ECC_CE_COUNT) E.MEMC_ECC_STATUS.CE

/-- What SECDED finds in DRAM (R534): an uncorrectable error is counted and latched, sets UE, and faults the owner of the
granule, or the stream for an access of the Pit (R187). -/
def dramEcc (s : State) (a : Nat) (ecc : Ecc) (who : Asker) : State :=
  match ecc with
  | .clean => s
  | .single => dramCorrected s
  | .double w =>
    let s := incSat s R.MEMC_ECC_UE_COUNT
    let s := fset (wrN s R.MEMC_ECC_ADDR_LO a) F.MEMC_ECC_ADDR_HI.ADDR (a / 2 ^ 32)
    ueFault (raise (markUe s (a / 64 * 8 + w.val)) E.MEMC_ECC_STATUS.UE) a who

/-- DRAM_ACCESS (R187, R434, R534): the memory controller makes a block's access, or performs the oldest request that waits
for it. -/
def execDramAccess (acc : Option DramAcc) (ecc : Ecc) (tagBad : Bool) (s : State) : Host.Outcome State Fault Refusal :=
  match acc with
  | some x =>
    if reach s x.addr.toNat = .dram then
      .next (whenUp s [dMemc]
        (dramEcc (accTag s x.addr.toNat x.cid x.agent tagBad) x.addr.toNat ecc (accAsker x.agent x.cid)))
    else .next s
  | none =>
    match s.reqs.find? (·.at_ == .dram) with
    | none => .next s
    | some r => .next (whenUp s [dMemc] (grantReq s r ecc tagBad fun s e => dramEcc s r.addr e (reqAsker r)))

/-- The device address of the line a channel's patrol visits: lines are taken to interleave over the four channels. -/
def patrolAddr (ch line : Nat) : Nat := dramBase + (line * 4 + ch) * 64

/-- MEMC takes its part of a commit (R355, R535). -/
def applyMemc (s : State) : State := scApplied (applyRegs s (· == R.MEMC_SCRUB_INTERVAL)) 9

/-- Whether the scrubber stands still: INTERVAL 0 or DRAM in self-refresh (R535). -/
def scrubHeld (s : State) : Bool := aget s F.MEMC_SCRUB_INTERVAL.INTERVAL == 0 || fbit s F.MEMC_STATE.SELF_REFRESH

/-- MEMC_SCRUB_STEP (R535): one line of each channel is read with the corrections of R534, in ascending order; not while
the applied INTERVAL is 0 or DRAM is in self-refresh. A commit that is pending applies at the scrub step, whose reads are
the step's own. -/
def execMemcScrubStep (found : List (Fin 4 × Ecc)) (s : State) : Host.Outcome State Fault Refusal :=
  if scrubHeld s then .next s
  else
    let s := if scPending s 9 then applyMemc s else s
    let line := s.memcLine
    let s := found.foldl (fun s p => dramEcc s (patrolAddr p.1 line) p.2 .block) s
    .next { s with memcLine := (line + 1) % 2 ^ 27 }

end Sys2Proof.Machine
end

