-- ==== Sys2Proof/Machine/Caches.lean ====
section
/-! DEFINITION. The CACHE region and the L1 caches (spec/01_fabric_and_loft.md R47 to R62, spec/02_thread_groups.md R69,
R101 to R103, spec/11_translation.md R373): enable and disable, maintenance, demand accesses, fills and prefetch. -/

namespace Sys2Proof.Machine

open Sys2Proof

/-! ## Enable, disable and mode -/

/-- CACHE_ENABLE (R51): refused with ENABLE_REFUSED while INV_VALID reads 0. -/
def execCacheEnable (c : CacheId) (s : State) : Host.Outcome State Fault Refusal :=
  regCmd s (cacheDom c) <|
  let k := cacheKey c
  if fbit s (cacheInvValid k) then .next (fset (fset s (cacheEn k) 1) (cacheEnState k) 1)
  else if fbit s (cacheEn k) then .next s
  else .next (raise s (cacheEnRefused k))

/-- BUSY reads 1 while a command or a disable write-back runs (R53). -/
def showBusy (s : State) (k : Nat) : State :=
  let c := cacheOf s k
  fset s (cacheBusy k) (b2n (c.cmo.isSome || c.disabling))

/-- The completion of a disable (R51, R52). -/
def disabled (s : State) (k : Nat) : State :=
  let s := showBusy (modCache s k fun c => { c with disabling := false }) k
  fset (fset (fset s (cacheEn k) 0) (cacheEnState k) 0) (cacheInvValid k) 0

/-- CACHE_DISABLE (R52), of a cache whose disable does not run already: a write-back cache starts its write-back and reads EN
= 1 until it is complete; a write-through cache is disabled at once. -/
def execCacheDisable (c : CacheId) (s : State) : Host.Outcome State Fault Refusal :=
  regCmd s (cacheDom c) <|
  let k := cacheKey c
  if !fbit s (cacheEn k) || (cacheOf s k).disabling then .next s
  else if writeThrough s k then .next (disabled s k)
  else .next (showBusy (modCache (cleanLines s k fun _ => true) k fun c => { c with disabling := true }) k)

/-- CACHE_DISABLE_DONE (R51, R52): EN reads 0 and INV_VALID clears. -/
def execCacheDisableDone (c : CacheId) (s : State) : Host.Outcome State Fault Refusal :=
  let k := cacheKey c
  if (cacheOf s k).disabling then .next (disabled s k) else .next s

/-- CACHE_MODE_SET (R50): a change while EN reads 1 is ignored and sets CMD_REFUSED; a forced mode ignores writes. -/
def execCacheModeSet (c : CacheId) (mode : Bool) (s : State) : Host.Outcome State Fault Refusal :=
  regCmd s (cacheDom c) <|
  let k := cacheKey c
  if cacheForced s k then .next s
  else if fbit s (cacheModeF k) = mode then .next s
  else if fbit s (cacheEn k) then .next (raise s (cacheCmdRefused k))
  else .next (fset s (cacheModeF k) (b2n mode))

/-! ## Maintenance (R53) -/

/-- The lines a range command covers: the start rounded down, the end up; LEN 0 means none. -/
def cmoRange (s : State) (k : Nat) : Nat × Nat :=
  let a := rdN s (cacheReg k 8) + 2 ^ 32 * bits (rdN s (cacheReg k 12)) 15 0
  let n := rdN s (cacheReg k 16)
  if n = 0 then (0, 0) else (a / 64, (a + n + 63) / 64)

/-- Whether a line lies in a range of lines. -/
def inLines (r : Nat × Nat) (l : Line) : Bool := decide (r.1 ≤ l.line) && decide (l.line < r.2)

/-- The lines an operation covers. -/
def cmoCovers (range : Option (Nat × Nat)) (l : Line) : Bool :=
  match range with
  | none => true
  | some r => inLines r l

/-- The effect of a maintenance operation on a cache: 1 and 5 invalidate, 2 and 4 clean, 3 and 6 do both. -/
def cmoEffect (s : State) (k op : Nat) (range : Option (Nat × Nat)) : State :=
  let p := cmoCovers range
  match op with
  | 1 => dropLines s k p
  | 2 => dropSide (cleanLines s k p) k p
  | 3 => dropLines (cleanLines s k p) k p
  | 4 => dropSide (cleanLines s k p) k p
  | 5 => dropLines s k p
  | 6 => dropLines (cleanLines s k p) k p
  | _ => s

/-- A maintenance command: refused while BUSY, and an invalidate-all while EN reads 1; otherwise it takes effect and BUSY
reads 1 until it completes. -/
def cmoCommand (s : State) (k op : Nat) (range : Option (Nat × Nat)) : State :=
  if fbit s (cacheBusy k) then raise s (cacheCmdRefused k)
  else if op = 1 ∧ fbit s (cacheEn k) then raise s (cacheCmdRefused k)
  else showBusy (modCache (cmoEffect s k op range) k fun c => { c with cmo := some ⟨op, range⟩ }) k

/-- INVALIDATE_ALL (R53). -/
def execInvalidateAll (c : CacheId) (s : State) : Host.Outcome State Fault Refusal :=
  regCmd s (cacheDom c) (.next (cmoCommand s (cacheKey c) 1 none))

/-- CLEAN_ALL (R53). -/
def execCleanAll (c : CacheId) (s : State) : Host.Outcome State Fault Refusal :=
  regCmd s (cacheDom c) (.next (cmoCommand s (cacheKey c) 2 none))

/-- CLEAN_AND_INVALIDATE_ALL (R53). -/
def execCleanAndInvalidateAll (c : CacheId) (s : State) : Host.Outcome State Fault Refusal :=
  regCmd s (cacheDom c) (.next (cmoCommand s (cacheKey c) 3 none))

/-- CLEAN_RANGE (R53). -/
def execCleanRange (c : CacheId) (s : State) : Host.Outcome State Fault Refusal :=
  regCmd s (cacheDom c) (.next (cmoCommand s (cacheKey c) 4 (some (cmoRange s (cacheKey c)))))

/-- INVALIDATE_RANGE (R53): dirty data in the range is discarded. -/
def execInvalidateRange (c : CacheId) (s : State) : Host.Outcome State Fault Refusal :=
  regCmd s (cacheDom c) (.next (cmoCommand s (cacheKey c) 5 (some (cmoRange s (cacheKey c)))))

/-- CLEAN_AND_INVALIDATE_RANGE (R53). -/
def execCleanAndInvalidateRange (c : CacheId) (s : State) : Host.Outcome State Fault Refusal :=
  regCmd s (cacheDom c) (.next (cmoCommand s (cacheKey c) 6 (some (cmoRange s (cacheKey c)))))

/-- CACHE_CMD_DONE (R51, R53): BUSY clears, and the completion of an invalidate-all sets INV_VALID. -/
def execCacheCmdDone (c : CacheId) (s : State) : Host.Outcome State Fault Refusal :=
  let k := cacheKey c
  match (cacheOf s k).cmo with
  | none => .next s
  | some m =>
    let s := showBusy (modCache s k fun c => { c with cmo := none }) k
    .next (if m.op = 1 then fset s (cacheInvValid k) 1 else s)

/-! ## Demand accesses and fills -/

/-- Where a request goes behind cache `k` (R103, R352): from an L1, DRAM and host addresses that are cacheable pass
the CACHE region when it is enabled. -/
def routeOf (s : State) (k : Nat) (r : Req) : ReqAt :=
  match reach s r.addr with
  | .dram => if k ≠ 0 ∧ !r.nc ∧ cacheOn s 0 then .cache 0 else .dram
  | .host => if k ≠ 0 ∧ !r.nc ∧ cacheOn s 0 then .cache 0 else .host
  | .peer => .peer
  | .none => .done cUnmapped []
  | _ => .bank (bankOf r.addr)

/-- The bytes a request is charged with: its line when it fills one, else what it touches. -/
def reqBytes (r : Req) : Nat := if r.fills.isEmpty then r.kind.size else 64

/-- The regulator of a request on its way to a place: the Loft's for the CACHE region and the banks, the memory
controller's, or the host's (R352). -/
def regOf (place : ReqAt) : Option Nat :=
  match place with
  | .dram => some 0
  | .cache _ => some 1
  | .bank _ => some 1
  | .host => some 2
  | _ => none

/-- Where a request stands that is on its way to `to`: at its port when a regulator limits its partition's traffic there
and its class is not RT (R351, R352). -/
def regulated (s : State) (r : Req) (place : ReqAt) : ReqAt :=
  match regOf place with
  | none => place
  | some k => if regRate s r.part k = 0 ∨ r.cls = .rt ∨ 8 ≤ r.part then place else .port k (place == .cache 0)

/-- Send a request on behind cache `k`. -/
def passOn (s : State) (k : Nat) (r : Req) : State :=
  let place := regulated s r (routeOf s k r)
  modReq s r.id fun q => { q with at_ := place }

/-- The final operation of a request on a line that cache `k` holds: the line after it and the data returned. `d` marks
stores dirty. -/
def lineOp (l : Line) (r : Req) (d : Bool) : Line × List Byte :=
  let off := r.addr % 64
  match r.kind with
  | .load n => (l, (l.data.drop off).take n)
  | .store bs => (l.put off bs d, [])
  | .zero => (l.put 0 (List.replicate 64 0) d, [])
  | .rmw op n data cmp =>
    let old := leNat ((l.data.drop off).take n)
    (l.put off (leBytes n (rmwValue op n old data cmp)) d, leBytes n old)

/-- The stream a request belongs to (R55). -/
def reqKey (r : Req) : StreamKey := ⟨r.port, r.cid, r.tag⟩

/-- A request hits line `l` of cache `k` (R49, R62, R101). An atomic is never performed in an L1: the line is cleaned and
dropped first. A write in write-through mode updates the line and goes on to memory; memory's own write brings a line of the
CACHE region up to date. -/
def hitLine (s : State) (k : Nat) (l : Line) (r : Req) : State :=
  if k ≠ 0 ∧ r.kind.isRmw then passOn (dropLines (cleanLines s k (·.line == l.line)) k (·.line == l.line)) k r
  else match r.fills with
    | q :: _ => modReq (touchLine s k l) r.id fun r => { r with at_ := .fill q }
    | [] =>
      if writeThrough s k && r.kind.writes then passOn (touchLine s k (if k = 0 then l else (lineOp l r false).1)) k r
      else
        let p := lineOp l r true
        answer (touchLine s k p.1) r.id cOk p.2

/-- A request misses in cache `k` (R49, R58, R59): in write-back mode it allocates, a zero-a-line without fetching and after
the ownership check of a write, unless its stream has stopped allocating; otherwise it goes on to memory. -/
def missLine (s : State) (k : Nat) (r : Req) : State :=
  if writeThrough s k || (k ≠ 0 && r.kind.isRmw) then passOn s k r
  else if r.kind.full && !streamAllocs s k (reqKey r) then passOn s k r
  else if r.kind == .zero then
    let c := reqCheck s r
    if c ≠ cOk then answer s r.id c []
    else answer (allocLine s k ⟨r.addr / 64, List.replicate 64 0, 2 ^ 64 - 1, false, r.cid, true⟩) r.id cOk []
  else
    let r' := { r with fills := k :: r.fills }
    passOn (modReq s r.id fun _ => r') k r'

/-- A side-buffer hit (R49, R56): the line moves into the cache, allocating as for a miss; in write-through mode, in which a
miss allocates nothing, it serves the access and is gone. -/
def sideHit (s : State) (k : Nat) (l : Line) (r : Req) : State :=
  let s := dropSide s k (·.line == l.line)
  if writeThrough s k then
    match r.fills with
    | q :: _ => modReq s r.id fun r => { r with at_ := .fill q }
    | [] => answer s r.id cOk (lineOp l r false).2
  else hitLine (allocLine s k l) k l r

/-- Whether an L1 line may serve a request: its own context's fill admitted it, a write too (R45, R373). -/
def lineAdmits (k : Nat) (l : Line) (r : Req) : Bool := k == 0 || (l.cid == r.cid && (!r.kind.writes || l.wOk))

/-- One demand access of cache `k` (R47 to R59, R62, R373): an access to a line marked bad fails whether the cache is enabled
or not. A zero-a-line on a SCRATCH address writes zeros directly (R58). -/
def cacheLookup (s : State) (k : Nat) (r : Req) : State :=
  let ln := r.addr / 64
  let check := if k = 0 then reqCheck s r else cOk
  if check ≠ cOk then answer s r.id check []
  else if k = 0 ∧ badLine s r.addr then answer s r.id cMemUe []
  else if !cacheOn s k then passOn s k r
  else
    let s := trainStride s k (reqKey r) ln
    let s := if r.kind.writes then forgetPrefetch (countStream s k (reqKey r) ln r.kind.full) k ln else s
    match (cacheOf s k).lines.find? (·.line == ln) with
    | some l =>
      if r.kind == .zero && reach s r.addr == .scratch then
        passOn (dropLines (cleanLines s k (·.line == ln)) k (·.line == ln)) k r
      else if !lineAdmits k l r then missLine (dropLines (cleanLines s k (·.line == ln)) k (·.line == ln)) k r
      else hitLine s k l r
    | none =>
      if r.kind == .zero && reach s r.addr == .scratch then passOn s k r
      else match (cacheOf s k).side.find? (·.line == ln) with
        | some l => if lineAdmits k l r then sideHit s k l r else missLine (dropSide s k (·.line == ln)) k r
        | none => missLine s k r

/-- Whether a request has gone on behind cache `k` and has no answer yet. -/
def beyond (k : Nat) (r : Req) : Bool :=
  match r.at_ with
  | .done .. => false
  | .cache j => k != 0 && j == 0
  | .port _ via => k != 0 || !via
  | .fill j => j == k || k != 0
  | _ => true

/-- Whether a request at cache `k` stands behind an older one of its port to its line (R38): they take effect in the order in
which the port issued them. -/
def behindOlder (s : State) (k : Nat) (r : Req) : Bool :=
  s.reqs.any fun q => decide (q.id < r.id) && q.port == r.port && q.addr / 64 == r.addr / 64 && beyond k q

/-- The request that a cache looks up next: the oldest that may go. -/
def lookupNext (s : State) (k : Nat) : Option Req := s.reqs.find? fun r => r.at_ == .cache k && !behindOlder s k r

/-- CACHE_ACCESS (R38, R47 to R59, R373, R376): the oldest request that waits at the cache looks up its set. On entry to the
CACHE region its granule's tag is read, which may be found bad. -/
def execCacheAccess (c : CacheId) (tagBad : Bool) (s : State) : Host.Outcome State Fault Refusal :=
  let k := cacheKey c
  match lookupNext s k with
  | none => .next s
  | some r => .next (cacheLookup (if tagBad ∧ k = 0 ∧ reach s r.addr = .dram then tagLost s r.addr else s) k r)

/-- The backing contents of a line of cache `k`: memory for the CACHE region, what lies behind the L1s for an L1. -/
def backing (s : State) (k ln : Nat) : List Byte :=
  if k = 0 then mgets 0 s.mem (ln * 64) 64 else devRead s (ln * 64) 64

/-- A request whose line comes back to a cache that allocates nothing any more, because it has been disabled or is in a
write-back before that (R52), or has a write of that line on its way past it (R97): the data pass through, and a write goes
on to memory. -/
def fillPast (s : State) (k : Nat) (l : Line) (r : Req) : State :=
  match r.fills.drop 1 with
  | q :: rest => modReq s r.id fun r => { r with fills := q :: rest, at_ := .fill q }
  | [] =>
    let r' := { r with fills := [] }
    if r.kind.writes then passOn (modReq s r.id fun _ => r') k r'
    else answer (modReq s r.id fun _ => r') r.id cOk (lineOp l r false).2

/-- The oldest request whose line is back for cache `k`. -/
def filling (s : State) (k : Nat) : Option Req :=
  s.reqs.find? fun r => r.at_ == .fill k || (r.at_ == .host && r.fills.head? == some k)

/-- Whether a core has a write of a line on its way past its L1 (R97, R101). -/
def writePast (s : State) (k : Nat) (r : Req) : Bool :=
  k != 0 && s.reqs.any fun q => q.id != r.id && q.core + 1 == k && q.kind.writes && q.addr / 64 == r.addr / 64 &&
    q.fills.isEmpty && beyond k q

/-- CACHE_FILL (R48, R49, R52, R62, R97, R373): the oldest request whose line is back for this cache allocates it, and then
has its operation done on the line, or its line passed on to the next cache. A line that the cache has come to hold meanwhile
is not filled over; one marked bad fails the request. A line that its granule's tag, changed meanwhile, no longer admits is
not kept, and a write to it meets the new tag at the memory (R375). -/
def execCacheFill (c : CacheId) (s : State) : Host.Outcome State Fault Refusal :=
  let k := cacheKey c
  match filling s k with
  | none => .next s
  | some r =>
    let ln := r.addr / 64
    let wOk := r.cid ≥ 1024 || ownerCheck s r.cid r.addr true == cOk
    let fresh : Line := ⟨ln, backing s k ln, 0, false, r.cid, wOk⟩
    let l := match (cacheOf s k).lines.find? (·.line == ln) with
      | some l => if lineAdmits k l r then l else fresh
      | none => fresh
    if badLine s r.addr then .next (answer s r.id cMemUe [])
    else if !cacheOn s k || writeThrough s k || writePast s k r || reqCheck s r ≠ cOk then .next (fillPast s k l r)
    else match r.fills.drop 1 with
      | q :: rest => .next (modReq (allocLine s k l) r.id fun r => { r with fills := q :: rest, at_ := .fill q })
      | [] =>
        let p := lineOp l r true
        .next (answer (modReq (allocLine s k p.1) r.id fun r => { r with fills := [] }) r.id cOk p.2)

/-- Whether cache `k` holds a line, or a write to it that came through the cache is still on its way to memory. -/
def lineTaken (s : State) (k ln : Nat) : Bool :=
  (cacheOf s k).lines.any (·.line == ln) ||
    s.reqs.any fun r => r.kind.writes && r.addr / 64 == ln && (k == 0 || r.core + 1 == k) &&
      (match r.at_ with | .done .. => false | _ => true)

/-- Whether a prefetch of a context may read a device address: it passes the ownership check, and on the host the window and
the host's translation admit it (R57, R360, R365). -/
def prefetchable (s : State) (cid a : Nat) : Bool :=
  match finalCheck s cid a false 0 0 0 false with
  | .ok .. => reach s a != .peer && ownerCheck s cid a false == cOk
  | _ => false

/-- PREFETCH_FILL (R49, R56, R57, R97): the oldest line asked for enters the side buffer, the oldest of its 256 lines making
room. Nothing is fetched that the cache holds or that is being written, and nothing in write-through mode. A prefetch that
fails its translation or the ownership check is dropped, and no peer address is fetched (R360); a refetch after an error goes
back to the cache (R61). -/
def execPrefetchFill (c : CacheId) (s : State) : Host.Outcome State Fault Refusal :=
  let k := cacheKey c
  match (cacheOf s k).wanted with
  | [] => .next s
  | (ln, cid) :: rest =>
    let s := modCache s k fun c => { c with wanted := rest }
    let l : Line := ⟨ln, backing s k ln, 0, false, cid, true⟩
    if !cacheOn s k || lineTaken s k ln then .next s
    else if cid ≥ 1024 then .next (allocLine s k l)
    else if writeThrough s k || badLine s (ln * 64) then .next s
    else if !prefetchable s cid (ln * 64) then .next s
    else
      let s := chargeAt s k cid (ln * 64) 64
      let l := { l with wOk := ownerCheck s cid (ln * 64) true == cOk }
      .next (modCache s k fun c =>
        let side := c.side.filter (·.line != ln) ++ [l]
        { c with side := side.drop (side.length - 256) })

/-! ## The accesses of engines (R40, R49, R55, R59, R351, R352)

An engine's step moves a whole unit: its bytes are read and written at once, the CACHE region takes the lines that a demand
access would leave in it, and the partition's regulators are charged (log 49). What a unit reads on a peer unit is asked for
first, and the unit waits until every answer has come. -/

/-- The lines of a virtual range that go through the CACHE region, as device lines, each with how many of its bytes the range
takes. -/
def cachedLines (s : State) (pages : List HeldPage) (va n : Nat) : List (Nat × Nat) :=
  pages.flatMap fun p =>
    let lo := max va p.va
    let hi := min (va + n) (p.va + p.size)
    if p.nc || !passesCache s p.da || hi ≤ lo then []
    else (linePieces (p.da + (lo - p.va)) (hi - lo)).map fun q => (q.1 / 64, q.2)

/-- One line of an engine's read meets the CACHE region as a core's does (R49, R55, R56): `p` is the line and the bytes read
of it. A miss that allocates is charged as its fill, any other as what it reads (R352). -/
def touchOne (key : StreamKey) (s : State) (p : Nat × Nat) : State :=
  let ln := p.1
  let part := partOfCid s key.cid
  let s := if key.tag < noTag then trainStride s 0 key ln else s
  match inCache s ln with
  | some l => touchLine s 0 l
  | none =>
    match inSide s ln with
    | some l =>
      let s := dropSide s 0 (·.line == ln)
      if writeThrough s 0 then s else allocCache s l
    | none =>
      if writeThrough s 0 then chargeMem s part (ln * 64) p.2
      else allocCache (chargeMem s part (ln * 64) 64) (fetchedLine s key.cid ln)

/-- The bytes of a unit that reach the Loft, DRAM and the host uncached, as the regulators count them (R352). -/
def unitBytes (s : State) (pages : List HeldPage) (ranges : List (Nat × Nat × Bool)) (k : Nat) : Nat :=
  sumBy (fun r : Nat × Nat × Bool => sumBy (fun p : HeldPage =>
    let lo := max r.1 p.va
    let hi := min (r.1 + r.2.1) (p.va + p.size)
    let c := if p.nc then 0 else 1
    if lineReg s c p.da = some k then hi - lo else 0) pages) ranges

/-- Whether some line of a unit goes on from the CACHE region to the memory that regulator `k` counts (R352). -/
def unitMiss (s : State) (pages : List HeldPage) (ranges : List (Nat × Nat × Bool)) (k : Nat) : Bool :=
  ranges.any fun r => (cachedLines s pages r.1 r.2.1).any fun q =>
    lineReg s 0 (q.1 * 64) == some k && ((inCache s q.1).isNone || (r.2.2 && writeThrough s 0))

/-! ### Reads on a peer unit (R403, R405) -/

/-- What a unit reads on other units of the group, in requests of one line each. -/
def peerReads (s : State) (pages : List HeldPage) (ranges : List (Nat × Nat × Bool)) : List (Nat × Nat) :=
  (ranges.filter (!·.2.2)).flatMap fun r => (pages.filter fun p => farPeer s p.da).flatMap fun p =>
    let lo := max r.1 p.va
    linePieces lo (min (r.1 + r.2.1) (p.va + p.size) - lo)

/-- Whether a request is an engine's read of `q` for a context through a port. -/
def isPeerRead (e : EngAsk) (q : Nat × Nat) (r : Req) : Bool :=
  (match r.eng with | some x => x.port == e.port | none => false) && r.cid == e.cid && r.va == q.1 && r.kind == .load q.2

/-- Whether every answer that a unit needs from a peer has come. -/
def peersIn (s : State) (e : EngAsk) (pages : List HeldPage) (ranges : List (Nat × Nat × Bool)) : Bool :=
  (peerReads s pages ranges).all fun q => s.reqs.any fun r => isPeerRead e q r && r.isDone

/-- A unit asks its peers for what it has not asked for yet. -/
def askPeers (s : State) (e : EngAsk) (pages : List HeldPage) (ranges : List (Nat × Nat × Bool)) : State :=
  (peerReads s pages ranges).foldl (fun s q =>
    if s.reqs.any (isPeerRead e q) then s else engReq s e q.1 (heldAddr pages q.1) (.load q.2)) s

/-- A unit has used its peers' answers. -/
def dropPeers (s : State) (e : EngAsk) (pages : List HeldPage) (ranges : List (Nat × Nat × Bool)) : State :=
  let qs := peerReads s pages ranges
  { s with reqs := s.reqs.filter fun r => !(qs.any (isPeerRead e · r) && r.isDone) }

/-! ### Units -/

/-- The power domain that holds a device address: a Loft quadrant (R36), or the memory controller's. -/
def domAt (s : State) (a : Nat) : Option Nat :=
  if a < 64 * mib then some (dLoft + bits a 25 24) else if reach s a = .dram then some dMemc else none

/-- The domains of the Loft and of DRAM that an engine's unit reaches, and its table walks. -/
def unitDoms (s : State) (cid : Nat) (pages : List HeldPage) (ranges : List (Nat × Nat × Bool)) : List Nat :=
  ranges.flatMap fun r => (checkPoints (checkStep s cid) r.1 r.2.1).flatMap fun v =>
    ((if isHeld pages v then [heldAddr pages v] else []) ++ tableReads s cid v).filterMap (domAt s)

/-- Whether an engine's unit is held back: by a gated domain that it reaches (R434), by a regulator of its partition,
whose tokens must not be negative (R351), or by a peer's answer that has not come. -/
def engineWaits (s : State) (e : EngAsk) (pages : List HeldPage) (ranges : List (Nat × Nat × Bool)) : Bool :=
  let p := partOfCid s e.cid
  !(unitDoms s e.cid pages ranges).all (serves s) || !peersIn s e pages ranges || decide (p < 8) && (upTo 3).any fun k =>
    regRate s p k != 0 && (unitBytes s pages ranges k != 0 || unitMiss s pages ranges k) &&
      decide (mget 0 s.buckets (p * 3 + k) < 0)

/-- An engine's unit is held back, in `s0`: the wake of every gated domain that it reaches starts (R434), and its peers are
asked. -/
def unitWait (s0 s : State) (e : EngAsk) (pages : List HeldPage) (ranges : List (Nat × Nat × Bool)) : State :=
  wakeFor (askPeers s0 e pages ranges) ((unitDoms s e.cid pages ranges).filter (!domOn s ·))

/-- What a unit's accesses leave behind besides the data they move (R49, R55, R352): its bytes are charged, each range with
its stream tag reads through the CACHE region by the engine's read port, and its peers' answers are used. What it writes
through the CACHE region, `ctxWrite` accounts for. -/
def portUse (s : State) (e : EngAsk) (pages : List HeldPage) (ranges : List ((Nat × Nat × Bool) × Nat)) : State :=
  let p := partOfCid s e.cid
  let s := (upTo 3).foldl (fun s k => charge s p k (unitBytes s pages (ranges.map (·.1)) k)) s
  let s := (ranges.filter (!·.1.2.2)).foldl (fun s r =>
    (cachedLines s pages r.1.1 r.1.2.1).foldl (touchOne ⟨e.port, e.cid, r.2⟩) s) s
  dropPeers s e pages (ranges.map (·.1))

/-- The read ports of COPY, the compression engines and the Prompt Desk; each has its write port next to it (`rasPort` too).
R40 names none for COPY and the Prompt Desk, whose ports are the model's (DESIGN CHOICE, log 54). -/
abbrev copyPort : Nat := 34
abbrev compPort (e : Nat) : Nat := 38 + 2 * e
abbrev deskPort : Nat := 42

/-- What an access of the Pit itself leaves behind, through its RT ports (R186, R352): the Loft's regulator does not count
it, and none holds it back. -/
def rtUse (s : State) (cid : Nat) (pages : List HeldPage) (va len : Nat) (write : Bool) : State :=
  let p := partOfCid s cid
  let s := [0, 2].foldl (fun s k => charge s p k (unitBytes s pages [(va, len, write)] k)) s
  if write then s else (cachedLines s pages va len).foldl (touchOne ⟨pitPort, cid, noTag⟩) s

/-- One unit of an engine's work: translated whole (R370), held back while a regulator of its partition holds it (R351), it
reaches a gated domain (R434) or waits for a peer, then accounted for and carried out by `go` in the state after. A unit that
waits leaves `s0`; a failed one is `bad`. -/
def engineUnit (s0 s : State) (e : EngAsk) (ranges : List (Nat × Nat × Bool)) (bad : Nat → Nat → State)
    (go : State → List HeldPage → State) : State :=
  match xlateUnit s e.cid ranges with
  | .waits f g => askAts s0 f g
  | .fault code a => bad code a
  | .ok pages =>
    if engineWaits s e pages ranges then unitWait s0 s e pages ranges
    else go (portUse (usePages s e.cid pages) e pages (ranges.map fun r => (r, noTag))) pages

end Sys2Proof.Machine
end

