-- ==== Sys2Proof/Machine/Cue.lean ====
section
/-! DEFINITION. Cues and completion (spec/08_prompt_desk.md R277 to R294): the fetch check, issue, the stop of running
cues, completion records, and the host words a ring uses. -/

namespace Sys2Proof.Machine

open Sys2Proof

/-! ## The check at fetch (R281) -/

/-- The alignment an opcode requires of its ADDR (R278; R113, R217, R247, R427 for the engines' records). -/
def addrAlign (opc : Nat) : Nat :=
  match opc with
  | 1 => 128
  | 2 => 64
  | 3 => 64
  | 4 => 64
  | 5 => 32
  | 6 => 64
  | 7 => 64
  | 9 => 8
  | _ => 1

/-- Whether a context may use a semaphore (R319). -/
def mayUseSem (s : State) (x cid : Nat) : Bool :=
  let m := mget Sem.none s.sems x
  decide (x < 4096) && m.state != .free &&
    ((fnOfSem s x).isSome && fnOfSem s x == fnOfCid s cid || m.shared && fnOfCid s cid == some m.shareFn)

/-- The zero fields and reserved values of a cue (R277, R278). -/
def cueFieldsOk (raw : List Byte) : Bool :=
  let opc := field raw 0 1
  let fl := field raw 1 1
  let arg := field raw 56 8
  let addr := field raw 48 8
  decide (fl < 64) && decide (field raw 2 2 < 1024) && zeros raw 20 4 &&
    (bit fl 1 || (zeros raw 16 2 && zeros raw 24 8)) &&
    (bit fl 2 || (zeros raw 18 2 && zeros raw 32 8)) &&
    (if bit fl 4 then decide (field raw 40 8 % 64 = 0) else zeros raw 40 8) &&
    decide (opc ≤ 10) &&
    (if bit fl 3 then opc != 0 && opc != 10 && decide (addr % 8 = 0)
     else decide (addr % addrAlign opc = 0) && (if opc = 0 ∨ opc = 10 then addr == 0 else true)) &&
    (match opc with
     | 8 => decide (4 ≤ bits arg 35 32) && decide (bits arg 35 32 ≤ 6) && decide (bits arg 63 36 = 0)
     | 9 => true
     | 10 => decide (bits arg 63 17 = 0)
     | _ => arg == 0)

/-- Whether a fetched cue meets R281 for the ring's context. -/
def cueValid (s : State) (ringCid : Nat) (raw : List Byte) : Bool :=
  let opc := field raw 0 1
  let fl := field raw 1 1
  cueFieldsOk raw && field raw 2 2 == ringCid &&
    (!bit fl 1 || mayWait s (field raw 16 2) ringCid) &&
    (!bit fl 2 || maySignal s (field raw 18 2) ringCid) &&
    (opc != 10 || (mayUseSem s (bits (field raw 56 8) 15 0) ringCid && !bit fl 5)) &&
    ((opc != 6 && opc != 7) ||
      (field raw 12 4 != 0 && decide (field raw 12 4 ≤ partNpl s (ctxOf s ringCid).part)))

/-- A fetched cue with its outcome at fetch: CONTEXT_LOST when its context is not usable (R302), CUE_INVALID when it fails
R281, ended by the fence it waits on when that is in ERROR (R312), else waiting to issue. A failed cue's SIGNAL fence is
touched only when the ring's context may signal it. `chain` is the ring cue that began its chain, itself unless given. -/
def fetchedCue (s : State) (uid : Nat) (src : CueSrc) (ringFnO : Option Nat) (ringCid slot : Nat) (follow : Bool)
    (raw : List Byte) (chain : Nat := uid) (prev : Option Nat := none) : CueRun :=
  let c : CueRun := ⟨uid, src, slot, follow, raw, .waiting, 0, 0, zeroNum, false, true, false, chain, prev⟩
  let sig := maySignal s (field raw 18 2) ringCid
  let usable := ctxLive s ringCid && (ringFnO.isNone || fnOfCid s ringCid == ringFnO)
  if !usable then { c with stage := .ended, code := cCtxLost, sigOk := sig }
  else if !cueValid s ringCid raw then { c with stage := .ended, code := cCueInvalid, sigOk := sig }
  else if c.wait then
    let f := fenceOf s c.waitFence
    if f.state = .error then { c with stage := .ended, code := f.code } else c
  else { c with released := true }

/-! ## Issue (R283 to R286) -/

/-- Completion slots of a ring still free (R292). -/
def slotFree (r : Ring) : Bool := decide ((r.reserved + 2 ^ 15 - r.consVal) % 2 ^ 15 < 2 ^ r.csizeLog2)

/-- Whether a source may issue cues at all: a ring that fetches; a stream always (its arming governs it). -/
def srcRuns (s : State) (src : CueSrc) : Bool :=
  match src with
  | .ring k => (ringOf s k).state == .active || (ringOf s k).state == .asleep
  | .stream _ => true

/-- Whether the conditions of R283 and R284 let a cue issue now (its completion slot apart). -/
def cueReady (s : State) (c : CueRun) : Bool :=
  c.stage == .waiting && srcRuns s c.src && ctxLive s c.cid && orderOk s c && c.released

/-- Reserve the completion slot of a cue (R292): for a ring cue without one, when a slot is free; a cue for which none is
free makes the ring wait. Cues of streams reserve nothing (R289). -/
def reserveSlot (s : State) (c : CueRun) : State × Bool :=
  match c.src with
  | .stream _ => (s, true)
  | .ring k =>
    let r := ringOf s k
    if c.reserved then (s, true)
    else if slotFree r then
      (modCue (modRing s k fun r => { r with reserved := (r.reserved + 1) % 2 ^ 15, waitSlot := false }) c.uid
        fun c => { c with reserved := true }, true)
    else (modRing s k fun r => { r with waitSlot := true }, false)

/-- The fault of an access made for a cue (R537): the context faults and the cue ends with the code. -/
def cueFault (s : State) (c : CueRun) (slot code pc addr : Nat) : State :=
  endCue (reportFault s c.cid (faultRec code 0xFF 0xFF c.cid slot 0xFF pc (some addr) (field c.raw 0 4) false) (some c.uid))
    c.uid code

/-- The PC of a cue's fault record (R537): the INDIRECT word's address, or ADDR. -/
def cuePc (c : CueRun) : Nat := c.addr

/-- An engine that acts for a cue, by its read port and the SLOT of R107 that names it. -/
def cueEng (c : CueRun) (port slot : Nat) : EngAsk := ⟨port, c.cid, noTag, .cue c.uid, 0xFF, 0xFF, slot, c.addr, field c.raw 0 4⟩

/-- The Prompt Desk as it reads a cue's record or word. -/
def deskEng (c : CueRun) (slot : Nat) : EngAsk := cueEng c deskPort slot

/-- Issue the next cue of a source when it has this opcode, meets `also` and may issue (R283 to R285, R292): its slot is
reserved, the INDIRECT word is read and checked, and the cue runs `body` with its address. A word the host has still to
translate leaves the cue waiting. The next cue, which may have OVERLAP, then meets its fence. -/
def startCue (s : State) (src : CueSrc) (opc : Nat) (body : State → CueRun → State)
    (also : CueRun → Bool := fun _ => true) : State :=
  match nextWaiting s src with
  | none => s
  | some c =>
    if c.opc ≠ opc || !also c || !cueReady s c then s
    else
      let p := reserveSlot s c
      if !p.2 then p.1
      else if !c.indirect then meetFence (body (runCue p.1 c.uid) { c with ea := c.addr }) src
      else
        engineUnit s (runCue p.1 c.uid) (deskEng c 0xFA) [(c.addr, 8, false)] (cueFault (runCue p.1 c.uid) c 0xFA · c.addr ·)
          fun s' pages =>
            let w := leNat (ctxRead s' pages c.addr 8)
            if w ≥ 2 ^ 48 || w % addrAlign opc ≠ 0 then endCue s' c.uid cCueInvalid
            else meetFence (body (modCue s' c.uid fun c => { c with ea := w }) { c with ea := w }) src

/-- Read a cue's record at issue (R285): the bytes go to `body`; a failure is R537's, with the engine's SLOT; a record that
waits for the host's translation or for a regulator leaves the cue as it was before (`s0`). -/
def withRecord (s0 s : State) (c : CueRun) (port slot n : Nat) (body : State → List Byte → State) : State :=
  engineUnit s0 s (cueEng c port slot) [(c.ea, n, false)] (cueFault s c slot · (cuePc c) ·)
    fun s pages => body s (ctxRead s pages c.ea n)

/-! ## Stopping a running cue -/

/-- Ask the engine of a running cue to stop with a code (R297, R303, R322): cues whose engines have an abort step of their
own wait for it; the others stop at once. -/
def stopRunning (s : State) (c : CueRun) (code : Nat) : State :=
  if c.opc = 1 ∨ c.opc = 3 ∨ c.opc = 5 ∨ c.opc = 6 ∨ c.opc = 7 then
    if s.stops.any (·.1 == c.uid) then s else { s with stops := s.stops ++ [(c.uid, code)] }
  else endCue (stopCueEngines s c.uid) c.uid code

/-- Every cue that meets `p` stops with a code: running ones by their engines, waiting ones without running. Acquires among
them leave their FIFOs together, before what they leave at a head is granted (R319). -/
def stopCues (s : State) (p : CueRun → Bool) (code : Nat) : State :=
  let cs := s.cues.filter p
  cs.foldl (fun s c =>
    match c.stage with
    | .waiting => endCue s c.uid code
    | .running => stopRunning s c code
    | .ended => s) (leaveFifos s fun u => cs.any (·.uid == u))

/-- The stop request of a running cue of a source, if any. -/
def stopOf (s : State) (src : CueSrc) (opcs : List Nat) : Option (CueRun × Nat) :=
  (cuesOf s src).findSome? fun c =>
    if opcs.contains c.opc then (s.stops.find? (·.1 == c.uid)).map fun p => (c, p.2) else none

/-- A stop has been carried out: the cue ends with its code. -/
def stopDone (s : State) (uid code : Nat) (num : List Byte := zeroNum) : State :=
  endCue { s with stops := s.stops.filter (·.1 != uid) } uid code num

/-! ## Host words and records of a ring -/

/-- What a host access of a function shows on the bus (R365): whether its address is translated, and the address. -/
def onBus (s : State) (fn h : Nat) : Bool × Nat :=
  if !usesAts s fn then (false, h)
  else match s.tc.find? fun e => e.ats && e.owner == fn && inRange h e.page e.size with
    | some e => (true, e.da + (h - e.page))
    | none => (false, h)

/-- Write bytes at a host I/O address for a function, posted (R359, R367). Host memory is named by the function's own
addresses. -/
def hostPut (s : State) (fn h : Nat) (bs : List Byte) : State :=
  send (memWrite s (hostBase + h) bs) (.hostWrite fn (onBus s fn h).1 (onBus s fn h).2 bs.length)

/-- Read `n` bytes at a host I/O address for a function: the read goes out, and the command that makes it holds what comes
back. -/
def hostGet (s : State) (fn h n : Nat) : State := send s (.hostRead fn (onBus s fn h).1 (onBus s fn h).2 n)

/-- The 4 KiB host pages that a range meets, as host I/O addresses. -/
def hostPages (h n : Nat) : List Nat := (checkPoints 4096 h n).map (· / 4096 * 4096)

/-- What the host's translations say of a range (R365, R366): nothing against it, or the first page that waits or fails. -/
def hostRange (s : State) (fn h n : Nat) (write : Bool) : Option XRes :=
  (hostPages h n).findSome? fun p => match hostCheck s fn (hostBase + p) write with | .ok .. => none | r => some r

/-- An access of the Prompt Desk, or of another block, at a host I/O address of a function (R365 to R367): `go` once the
host's translations admit it, `bad` with the code of one that fails; until an answer has come, the host is asked, and the
access is made again. -/
def viaHost (s : State) (fn h n : Nat) (write : Bool) (bad : State → Nat → State) (go : State → State) : State :=
  match hostRange s fn h n write with
  | some (.waits f g) => askAts s f g
  | some (.fault c) => bad { s with hostFails := s.hostFails.filter fun e => e.fn != fn } c
  | _ => go ((hostPages h n).foldl (fun s p => atsTouch s fn p) s)

/-- The doorbell page of a function, and the doorbell word of a ring (R271). -/
def dbBase (s : State) (fn : Nat) : Nat := rd64 s (R.PDESK_DB_BASE_LO fn)
def doorAddr (s : State) (k : Nat) : Nat := dbBase s (ringFn k) + 4 * (k % 1024)

/-- A failed doorbell access (R276): DB_FAULT is set and the ring stalls with the code. -/
def dbFault (s : State) (k code : Nat) : State := stallRing (raise s (E.PDESK_FN_STATUS.DB_FAULT (ringFn k))) k code

/-- Write WAKE, bytes 2 and 3 of the ring's doorbell word (R271); a write that fails is a doorbell failure (R276). -/
def putWake (s : State) (k v : Nat) (fail : Option HostErr) : State :=
  match fail, hostRange s (ringFn k) (doorAddr s k + 2) 2 true with
  | none, some (.fault c) => dbFault s k c
  | none, _ => hostPut (modRing s k fun r => { r with wake := v }) (ringFn k) (doorAddr s k + 2) (leBytes 2 v)
  | some e, _ => dbFault s k (hostCode e)

/-- An access to the doorbell word of a ring, once the host's translation admits it (R276, R367). -/
def withDoor (s : State) (k : Nat) (go : State → State) : State :=
  viaHost s (ringFn k) (doorAddr s k) 4 false (fun s c => dbFault s k c) go

/-- Where the ring's next cue lies (R270). -/
def cueAddr (r : Ring) : Nat := r.base + 64 * (r.ci % 2 ^ r.sizeLog2)

/-- The completion record of a cue (R290), PHASE apart. -/
def buildRec (c : CueRun) (k : Nat) : List Byte :=
  leBytes 2 c.code ++ leBytes 1 (2 * b2n c.follow) ++ leBytes 1 c.opc ++ leBytes 2 (c.slot % 2 ^ 15) ++
    leBytes 2 (k % 1024 + 1024 * ringFn k) ++ leBytes 4 c.tag ++ c.num

/-- Where a ring's next completion record goes (R291). -/
def recAddr (r : Ring) : Nat := r.cbase + 32 * (r.cwr % 2 ^ r.csizeLog2)

/-- What the host's translations say of the place of a ring's next completion record (R294, R367). -/
def recRange (s : State) (k : Nat) : Option XRes := hostRange s (ringFn k) (recAddr (ringOf s k)) 32 true

/-- Write a record at the ring's write index with its PHASE, in two 16-byte writes with bytes 0 to 15 last (R291). -/
def putRec (s : State) (k : Nat) (b : List Byte) (parked : Bool) : State :=
  let r := ringOf s k
  let n := 2 ^ r.csizeLog2
  let flags := field b 2 1 / 2 * 2 + (1 - r.cwr / n % 2) + 4 * b2n parked
  let b := b.take 2 ++ leBytes 1 flags ++ b.drop 3
  let a := recAddr r
  modRing (hostPut (hostPut s (ringFn k) (a + 16) (b.drop 16)) (ringFn k) a (b.take 16)) k fun r => { r with cwr := (r.cwr + 1) % 2 ^ 15 }

/-- Records in the device-wide park store (R294). -/
def parkUsed (s : State) : Nat := sumBy (fun p : Nat × Ring => p.2.parked.length) s.rings

/-- PDESK_PARK_USED shows the records parked. -/
def showPark (s : State) : State := fset s F.PDESK_PARK_USED.USED (parkUsed s)

/-- Park a record behind those of its ring, or lose it when the store is full (R294). -/
def parkRec (s : State) (k : Nat) (p : Parked) : State :=
  if (ringOf s k).parked.length < 8 ∧ parkUsed s < 512 then
    showPark (modRing s k fun r => { r with parked := r.parked ++ [p] })
  else incSat s R.PDESK_PARK_LOST

/-- An undeliverable record (R294): parked, and the ring stalls. -/
def undeliverable (s : State) (k : Nat) (p : Parked) : State := stallRing (parkRec s k p) k cUndeliverable

end Sys2Proof.Machine
end

