-- ==== Sys2Proof/Machine/Order.lean ====
section
/-! DEFINITION. The order in which the Stage Manager places the work of a partition's contexts (spec/10_stage_manager.md
R334 to R337, R345, R348 to R350): readiness, virtual time, charges, slices and debt. -/

namespace Sys2Proof.Machine

open Sys2Proof

/-! ## Readiness and work held -/

/-- Whether an issued cue has work still to be placed: workgroups of a launch, a checked gang, or an image to resume. -/
def leftToPlace (s : State) (c : CueRun) : Bool :=
  c.stage == .running &&
    ((s.launches.any fun l => l.uid == c.uid && decide (l.next < l.gridX * l.gridY * l.gridZ)) ||
      (s.tensors.any fun o => o.uid == c.uid && o.stage == .gang) || s.images.any fun i => i.uid == c.uid)

/-- Whether a context is ready (R337): it has a cue that R283 and R284 allow to issue, or one that has issued and has work
still to be placed (DEDUCED, log 53). -/
def ctxReady (s : State) (cid : Nat) : Bool := s.cues.any fun c => c.cid == cid && (cueReady s c || leftToPlace s c)

/-- Whether an operation holds its engines: it is not saved in an image. -/
def TensorOp.holds (o : TensorOp) : Bool := match o.stage with | .saved _ => false | _ => true

/-- Whether a context holds placed work. -/
def holdsWork (s : State) (cid : Nat) : Bool :=
  (s.cores.any fun k => k.2.wgs.any (·.cid == cid)) || s.tensors.any (fun o => o.cid == cid && o.holds) ||
    (match s.raster with | some r => r.cid == cid | none => false) ||
    s.copies.any (fun c => !c.stopped && cidOfCue s c.uid == cid) || s.comps.any (·.cid == cid)

/-- The contexts of a partition in a state that meets `p`. -/
def ctxsIn (s : State) (part : Nat) (p : Nat → Ctx → Bool) : List (Nat × Ctx) :=
  s.ctxs.filter fun q => q.2.part == part && q.2.state != .free && p q.1 q.2

/-- The ready live contexts of a partition. -/
def readyIn (s : State) (p : Nat) : List Nat := (ctxsIn s p fun c x => x.state == .live && ctxReady s c).map (·.1)

/-! ## Virtual time (R334, R335, R348) -/

/-- The least of a list of virtual times in serial comparison (R335). -/
def leastVt : List W64 → Option W64
  | [] => none
  | v :: vs => match leastVt vs with
    | none => some v
    | some w => some (if strictlyBeyond w v then v else w)

/-- Beats charged to a context (R334, R335): its counters, and its virtual time by the weight of its effective share. -/
def chargeBeats (s : State) (cid core tensor : Nat) : State :=
  modCtx s cid fun c =>
    { c with
      coreBeats := c.coreBeats + BitVec.ofNat 64 core
      tensorBeats := c.tensorBeats + BitVec.ofNat 64 tensor
      vt := c.vt + BitVec.ofNat 64 ((core + tensor) * (1048576 / c.effShare)) }

/-- A context that holds no placed work has no slice; when it is not ready either, its next becoming ready is one after
holding no work (R335, R336). -/
def noteIdle (s : State) (cid : Nat) : State :=
  if holdsWork s cid then s
  else modCtx s cid fun x => { x with sliceLen := 0, held := x.held && ctxReady s cid }

/-- A context that has become ready after holding no work starts no earlier than the least virtual time of the partition's
other ready contexts (R335). -/
def noteReady (s : State) (cid : Nat) : State :=
  if (ctxOf s cid).held || !ctxLive s cid || !ctxReady s cid then s
  else
    let others := ((readyIn s (ctxOf s cid).part).filter (· != cid)).map fun c => (ctxOf s c).vt
    modCtx s cid fun c =>
      let v := match leastVt others with
        | some m => if strictlyBeyond m c.vt then m else c.vt
        | none => c.vt
      { c with held := true, vt := v }

/-- What the Stage Manager notes before it places work in a partition: which contexts hold none, and which have become ready.
A context counts as having become ready when its cue is fetched, when a cue completes or a fence is signalled, or at the next
placement in its partition (log 53). -/
def noteAll (s : State) (p : Nat) : State :=
  let cs := (ctxsIn s p fun _ x => x.state == .live).map (·.1)
  cs.foldl noteReady (cs.foldl noteIdle s)

/-- Contexts that an event elsewhere has made ready, a fence's signal for one, are noted (R312, R335). -/
def noteReadyAll (s : State) : State := (s.ctxs.map (·.1)).foldl noteReady s

/-- The virtual time a context is ordered at: while others wait for a semaphore it holds, the least of its own and theirs
(R348). -/
def orderVt (s : State) (cid : Nat) : W64 :=
  let own := (ctxOf s cid).vt
  let ws := ((waitEdges s).filter (·.2 == cid)).map fun e => (ctxOf s e.1).vt
  (leastVt (own :: ws)).getD own

/-- Whether context `a` comes before context `b` (R337): boosted ones first (R349), then by virtual time, ties to the lower
CID. -/
def earlier (s : State) (a b : Nat) : Bool :=
  let x := (ctxOf s a).boost != 0
  let y := (ctxOf s b).boost != 0
  if x != y then x
  else if orderVt s a = orderVt s b then decide (a < b) else strictlyBeyond (orderVt s b) (orderVt s a)

/-! ## Slices and debt (R336, R345) -/

/-- A slice begins (R336): L = max(SLICE / 8, SLICE - DEBT), and DEBT is reduced by what L falls short of SLICE. -/
def newSlice (s : State) (cid : Nat) : State :=
  let n := partSlice s (ctxOf s cid).part
  modCtx s cid fun c =>
    let l := max (n / 8) (n - c.debt)
    { c with sliceLen := l, debt := c.debt - (n - l) }

/-- A context's work is placed: its slice starts when it held none (R336). -/
def startSlice (s : State) (cid : Nat) : State := if (ctxOf s cid).sliceLen = 0 then newSlice s cid else s

/-- DEBT of a context, and the partition's total, grow by beats (R345). -/
def accrueDebt (s : State) (cid n : Nat) : State :=
  incSat (modCtx s cid fun c => { c with debt := satAdd 0xFFFFFFFF c.debt n }) (R.SMGR_P_DEBT_TOTAL (ctxOf s cid).part) n

/-- The beats of a section beyond its declared cost that are debt of their own (R345): of `extra` beats, `dup` fell after
the end of the context's slice, and are counted there while a request made at its end is in force. -/
def ownOverrun (s : State) (cid extra dup : Nat) : Nat :=
  if s.preempts.any fun q => q.cid == cid && q.sliceEnd && !q.deferred then extra - dup else extra

/-! ## Placement (R337, R350) -/

/-- The free group slots of a core. -/
def freeSlots (k : CoreSt) : List Nat := (upTo 48).filter fun n => !k.groups.any (·.slot == n)

/-- The local store of a split in KiB (R69). -/
def splitLocal (split : Nat) : Nat :=
  match split with
  | 0 => 224
  | 1 => 192
  | 2 => 128
  | _ => 64

/-- Whether a workgroup fits a core now (R69, R70): slots, registers and local store free, of the core's split or on an
idle core. -/
def wgFits (k : CoreSt) (groups nregs split localKib : Nat) : Bool :=
  let regs := sumBy (fun w : Wg => w.groups * w.nregs) k.wgs
  let loc := sumBy (·.localKib) k.wgs
  (k.wgs.isEmpty || k.split == split) && decide (groups ≤ (freeSlots k).length) &&
    decide (regs + groups * nregs ≤ 2048) && decide (loc + localKib ≤ splitLocal split)

/-- Whether a launch has a workgroup left that fits a core. -/
def launchFits (s : State) (c : Nat) (l : Launch) : Bool :=
  decide (l.next < l.gridX * l.gridY * l.gridZ) && wgFits (coreOf s c) l.groups l.nregs l.split l.localKib

/-- The kind of work of a cue that holds an engine (R346). -/
def kindOf (opc : Nat) : Option WorkKind :=
  match opc with
  | 1 => some .tensor
  | 2 => some .workgroup
  | 3 => some .raster
  | 5 => some .copy
  | 6 => some .comp
  | 7 => some .comp
  | _ => none

/-- Whether a cue may be placed now as work of a kind: it is ready, and a completion slot is reserved for it or free. -/
def cuePlaceable (s : State) (k : WorkKind) (c : CueRun) : Bool :=
  kindOf c.opc == some k && cueReady s c && (reserveSlot s c).2

/-- Whether a core takes new work of a partition (R330, R356): active, not pending a Scene Change, and in it. -/
def coreTakes (s : State) (c p : Nat) : Bool :=
  coreRole s c == 0 && partOfCore s c == some p && !bit (rdN s R.SMGR_SC_PENDING) (10 + lcoreOf s c)

/-- The active cores of a partition (R137, R356). -/
def partCores (s : State) (p : Nat) : List Nat := (upTo 17).filter fun c => coreTakes s c p

/-- Whether a Run-through slice waits to take a core (R492 step 1): it takes no new work but chains then. -/
def handing (s : State) (c : Nat) : Bool :=
  match s.test.slice with
  | some (.core p _ false) => p == c
  | _ => false

/-- Whether a cue source is the chain of a privileged stream (R350). -/
def isChain (s : State) (src : CueSrc) : Bool := match src with | .stream n => streamPriv s n | .ring _ => false

/-- Whether the cues of a source may hold a core: those of a privileged stream only its HOME_CORE (R189, R350); those of
others no core that a Run-through slice waits to take. -/
def homeOk (s : State) (src : CueSrc) (c : Nat) : Bool :=
  match src with
  | .ring _ => !handing s c
  | .stream n =>
    if streamPriv s n then coreRole s c == 0 && lcoreOf s c == fget s (F.PIT_S_OWNER.HOME_CORE n) else !handing s c

/-- Whether a kind of work stands on a core; the raster block, COPY and the compression engines serve every core. -/
def WorkKind.onCore (k : WorkKind) : Bool := k == .workgroup || k == .tensor

/-- Whether a cue's work of a kind may stand on a core. -/
def workHome (s : State) (uid : Nat) (k : WorkKind) (c : Nat) : Bool :=
  !k.onCore || match cueOf s uid with | some q => homeOk s q.src c | none => false

/-- Whether an image's work could be restored on a core: a workgroup must fit there. -/
def imageFits (s : State) (i : SaveImage) (c : Nat) : Bool :=
  i.kind != .workgroup || s.savedWgs.any fun v =>
    v.image == i.id && wgFits (coreOf s c) v.wg.groups v.wg.nregs v.wg.split v.wg.localKib

/-- Whether the cue with a number has work of a kind to place on a core: itself, for workgroups a launch that has issued and
whose next workgroup fits there, a gang that has been checked, or work that waits in an image to resume. -/
def cueWants (s : State) (q : CueRun) (k : WorkKind) (c : Nat) : Bool :=
  workHome s q.uid k c &&
    ((k != .workgroup && cuePlaceable s k q) ||
      (k == .workgroup && s.launches.any fun l => l.uid == q.uid && launchFits s c l) ||
      (k == .tensor && s.tensors.any fun o => o.uid == q.uid && o.stage == .gang) ||
      q.stage == .running && s.images.any fun i => i.uid == q.uid && i.kind == k && imageFits s i c)

/-- Whether a context has work of a kind to place on a core; work that is being pre-empted there is not placed. -/
def wantsKind (s : State) (cid : Nat) (k : WorkKind) (c : Nat) : Bool :=
  ctxLive s cid && !beingTaken s cid k [c] && s.cues.any fun q => q.cid == cid && cueWants s q k c

/-- Whether a chain cue of a partition's privileged streams waits for work of a kind on a core. -/
def chainWants (s : State) (p : Nat) (k : WorkKind) (c : Nat) : Bool :=
  s.cues.any fun q => isChain s q.src && (ctxOf s q.cid).part == p && ctxLive s q.cid && cueWants s q k c

/-- Whether a context's work of a kind is the next to be placed on a core (R337, R350): chain cues of privileged streams
first, then the contexts of the partition in order. -/
def mayPlace (s : State) (p cid : Nat) (src : CueSrc) (k : WorkKind) (c : Nat) : Bool :=
  isChain s src ||
    (!chainWants s p k c &&
      !((ctxsIn s p fun b _ => b != cid && earlier s b cid && wantsKind s b k c).map (·.1)).any fun _ => true)

/-- Issue the next cue of a source as work of a kind on an engine that every core shares, when it is the next to be placed
there and no request takes its context's work of that kind (R337, R339, R350). `body` is given the state in which the cue
still waits. -/
def placeCue (s : State) (src : CueSrc) (opc : Nat) (k : WorkKind) (body : State → State → CueRun → State) : State :=
  match nextWaiting s src with
  | none => s
  | some c =>
    let s := noteAll s (ctxOf s c.cid).part
    startCue s src opc (body s) fun c => !beingTaken s c.cid k [] && mayPlace s (ctxOf s c.cid).part c.cid src k 17

end Sys2Proof.Machine
end

