-- ==== Sys2Proof/Machine/Desk.lean ====
section
/-! DEFINITION. The Prompt Desk (spec/08_prompt_desk.md): ring commands, doorbells, cue fetch, the simple cues, completion
and follow-on cues. -/

namespace Sys2Proof.Machine

open Sys2Proof

/-! ## Ring commands (R269, R296 to R298, R538) -/

/-- The field checks of ENABLE (R268, R269), and that the start has completed (R468 step 6). -/
def ringFieldsOk (s : State) (fn k : Nat) : Bool :=
  let r := ringOf s k
  decide (4 ≤ r.sizeLog2) && decide (r.sizeLog2 ≤ 14) && decide (r.sizeLog2 ≤ r.csizeLog2) && decide (r.csizeLog2 ≤ 14) &&
    decide (r.base % 4096 = 0) && decide (r.cbase % 4096 = 0) && decide (r.cons % 4 = 0) && decide (r.vector < 64) &&
    dbBase s fn != 0 && ctxUsable s fn r.cid && fget s F.RST_BOOT_STATE.STATE == 7

/-- RING_ENABLE (R44, R269, R276, R538), acting on the ring PDESK_RING_SEL names. Until the Loft is carved the ring's state
entry cannot be written: the command is refused with the code that the Prompt Desk receives, OWNER_MISMATCH (DESIGN CHOICE,
log 54). `wake` tells whether the write of WAKE fails. -/
def execRingEnable (fn : Fin 32) (door : HostRead) (wake : Option HostErr) (s : State) : Host.Outcome State Fault Refusal :=
  let k := selRing s fn
  if (ringOf s k).state ≠ .off then .next (ringRefuse s k)
  else if !ringFieldsOk s fn k then .next (ringRefuse (modRing s k fun r => { r with code := cCueInvalid }) k)
  else if !carved s then .next (ringRefuse (modRing s k fun r => { r with code := cOwner }) k)
  else
    .next <| withDoor s k fun s =>
    let s := hostGet s fn (doorAddr s k) 4
    match door with
    | .fail e => dbFault s k (hostCode e)
    | .word v =>
      let pi := v.toNat % 2 ^ 15
      let f := fun (r : Ring) =>
        { r with
          ci := pi
          pi := pi
          cwr := 0
          reserved := 0
          consVal := 0
          code := 0
          parked := []
          waitSlot := false
          noSlot := false
          resuming := false
          disableNext := false
          abortFail := none
          consFail := none
          reread := false
          last := none
          state := .asleep }
      putWake (modRing s k f) k pi wake

/-- The start of a disable (R298): fetching stops, waiting cues end with ABORTED_BY_HOST, no follow-on is read, and
parked records are discarded. -/
def startDisable (s : State) (k : Nat) : State :=
  let s := stopCues s (fun c => c.src == .ring k && c.stage == .waiting) cAborted
  let s := { s with follows := s.follows.filter (·.src != .ring k) }
  showPark (modRing s k fun r =>
    { r with
      state := .disabling
      parked := []
      waitSlot := false
      noSlot := false
      resuming := false
      disableNext := false })

/-- RING_DISABLE (R298, R538). -/
def execRingDisable (fn : Fin 32) (s : State) : Host.Outcome State Fault Refusal :=
  let k := selRing s fn
  match (ringOf s k).state with
  | .off => .next s
  | .disabling => .next s
  | .aborting => .next (modRing s k fun r => { r with disableNext := true })
  | _ => .next (startDisable s k)

/-- RING_DISABLE_DONE (R298): once its cues in flight have completed the ring is OFF. -/
def execRingDisableDone (fn : Fin 32) (r : Fin 1024) (s : State) : Host.Outcome State Fault Refusal :=
  let k := fn.val * 1024 + r.val
  if (ringOf s k).state = .disabling ∧ cuesOf s (.ring k) = [] then
    .next (modRing s k fun r => if r.wiped then Ring.idle else { r with state := .off })
  else .next s

/-- Deliver parked records in order (R296): each has its slot or takes a free one; delivery stops before record `stop`,
which is still undeliverable, and before one whose place the host's translations do not admit. -/
def deliverParked (k : Nat) (stop : Option Nat) : State → List Parked → Nat → State
  | s, [], _ => s
  | s, p :: ps, i =>
    if stop = some i ∨ (!p.slotHeld && !slotFree (ringOf s k)) ∨ (recRange s k).isSome then s
    else
      let s := if p.slotHeld then s else modRing s k fun r => { r with reserved := (r.reserved + 1) % 2 ^ 15 }
      let s := putRec s k p.bytes true
      let s := modRing s k fun r => { r with parked := r.parked.drop 1 }
      let s := if p.irq then raiseMsix s (ringFn k) (ringOf s k).vector else s
      deliverParked k stop s ps (i + 1)

/-- Parked records are delivered (R292, R296): if none is left the ring becomes ACTIVE and reads PI as if a bell had woken
it; a record that finds no free slot, or whose place the host has still to translate, makes the delivery wait, and one still
undeliverable ends it. -/
def resumeRing (s : State) (k : Nat) (failAt : Option Nat) (wake : Option HostErr) : State :=
  let s := showPark (deliverParked k failAt s (ringOf s k).parked 0)
  let r := ringOf s k
  match r.parked with
  | [] =>
    putWake (modRing s k fun r => { r with state := .active, reread := true, resuming := false, waitSlot := false }) k 0xFFFF wake
  | p :: _ =>
    let asks := match recRange s k with | some (.waits f g) => some (f, g) | _ => none
    let waits := (!p.slotHeld && !slotFree r) || asks.isSome
    let s := modRing s k fun r => { r with resuming := waits, waitSlot := waits }
    match asks with
    | some (f, g) => askAts s f g
    | none => s

/-- RING_RESUME (R296, R538): acts on a STALLED ring that has not lost its state. -/
def execRingResume (fn : Fin 32) (failAt : Option Nat) (wake : Option HostErr) (s : State) :
    Host.Outcome State Fault Refusal :=
  let k := selRing s fn
  let r := ringOf s k
  if r.state ≠ .stalled ∨ r.code = cRingLost then .next (ringRefuse s k)
  else .next (withDoor s k fun s => resumeRing s k failAt wake)

/-- The cues an abort fetches (R297): those from CI up to the last PI read, unchecked; a failed fetch stops there. -/
def abortFetch (k : Nat) : State → List CueRead → State
  | s, [] => s
  | s, c :: cs =>
    let r := ringOf s k
    let fails := fun (s : State) code => modRing s k fun r => { r with abortFail := some code }
    if r.ci = r.pi ∨ r.abortFail.isSome then s
    else match hostRange s (ringFn k) (cueAddr r) 64 false with
    | some (.waits f g) => askAts s f g
    | some (.fault code) => fails s code
    | _ =>
      let s := hostGet s (ringFn k) (cueAddr r) 64
      match c with
      | .fail e => fails s (hostCode e)
      | .cue bytes =>
        let raw := leBytes 64 bytes.toNat
        let sig := maySignal s (field raw 18 2) r.cid
        let run : CueRun :=
          ⟨s.nextUid, .ring k, r.ci % 2 ^ r.sizeLog2, false, raw, .ended, cAborted, 0, zeroNum, false, sig, false, s.nextUid, r.last⟩
        let s := { s with cues := s.cues ++ [run], nextUid := s.nextUid + 1 }
        abortFetch k (modRing s k fun r => { r with ci := (r.ci + 1) % 2 ^ 15, last := some run.uid }) cs

/-- The start of an abort (R297): unissued cues end with ABORTED_BY_HOST, running ones stop under their engines' rules, and
no follow-on is read. -/
def startAbort (s : State) (k : Nat) : State :=
  let s := stopCues s (·.src == .ring k) cAborted
  modRing { s with follows := s.follows.filter (·.src != .ring k) } k fun r =>
    { r with state := .aborting, waitSlot := false, noSlot := false, resuming := false }

/-- A ring is aborted and then disabled by a reset of its function (R298). -/
def resetRing (s : State) (k : Nat) : State :=
  let s := modRing s k fun r => { r with wiped := true, disableNext := r.state != .disabling }
  match (ringOf s k).state with
  | .aborting => s
  | .disabling => s
  | _ => startAbort s k

/-- RING_ABORT (R297, R538): the abort starts and fetches the cues given; CUE_FETCH goes on with those left. -/
def execRingAbort (fn : Fin 32) (fetched : List CueRead) (s : State) : Host.Outcome State Fault Refusal :=
  let k := selRing s fn
  match (ringOf s k).state with
  | .off => .next s
  | .aborting => .next s
  | .disabling => .next (ringRefuse s k)
  | _ =>
    .next (abortFetch k (startAbort s k) fetched)

/-- RING_ABORT_DONE (R293, R297, R538): every cue up to PI has been fetched or its fetch has failed, and every aborted record
is written or parked; the ring sleeps, or stalls when it holds parked records or its fetching failed; a DISABLE that waited
then starts. -/
def execRingAbortDone (fn : Fin 32) (r : Fin 1024) (wake : Option HostErr) (s : State) : Host.Outcome State Fault Refusal :=
  let k := fn.val * 1024 + r.val
  let g := ringOf s k
  let close := fun (s : State) =>
    let s := modRing s k fun r => { r with abortFail := none, consFail := none, reread := false }
    if g.disableNext then startDisable s k else s
  if g.state ≠ .aborting ∨ cuesOf s (.ring k) ≠ [] ∨ (g.ci ≠ g.pi ∧ g.abortFail.isNone) then .next s
  else match g.abortFail.or g.consFail with
    | some code => .next (close (stallRing s k code))
    | none =>
      if !g.parked.isEmpty then .next (close (stallRing s k cUndeliverable))
      else
        let sleeps := fun (s : State) => modRing s k fun r => { r with state := .asleep }
        .next (if g.wiped then close (sleeps s) else withDoor s k fun s => close (putWake (sleeps s) k g.ci wake))

/-! ## Doorbells (R270 to R276) -/

/-- RING_BELL (R274, R275): wakes a ring whose fetch side is asleep; any other write is counted and has no effect. -/
def execRingBell (fn : Fin 32) (v : BitVec 32) (wake : Option HostErr) (s : State) : Host.Outcome State Fault Refusal :=
  let k := fn.val * 1024 + v.toNat
  let r := ringOf s k
  if v.toNat < 1024 ∧ (r.state = .asleep ∨ r.state = .active) ∧ r.wake ≠ 0xFFFF then
    .next (withDoor s k fun s => putWake (modRing s k fun r => { r with state := .active }) k 0xFFFF wake)
  else .next (incSat s (R.PDESK_BELL_IGNORED fn))

/-- DOORBELL_PI_READ_DONE (R270, R273, R276): a ring that has fetched up to the last PI reads it again. A PI more than a ring
ahead stalls the ring; a new PI is fetched up to; with nothing new an awake ring writes WAKE = CI and reads again, and sleeps
when that read shows nothing new either. -/
def execDoorbellPiReadDone (fn : Fin 32) (r : Fin 1024) (door : HostRead) (wake : Option HostErr) (s : State) :
    Host.Outcome State Fault Refusal :=
  let k := fn.val * 1024 + r.val
  let g := ringOf s k
  if g.state ≠ .active ∨ (g.ci ≠ g.pi ∧ !g.reread) then .next s
  else .next <| withDoor s k fun s =>
    let s := hostGet s fn (doorAddr s k) 4
    match door with
    | .fail e => dbFault s k (hostCode e)
    | .word v =>
      let pi := v.toNat % 2 ^ 15
      if (pi + 2 ^ 15 - g.ci) % 2 ^ 15 > 2 ^ g.sizeLog2 then stallRing s k cPiInvalid
      else
        let s := modRing s k fun r => { r with pi := pi, reread := false }
        if pi ≠ g.ci then if g.wake = 0xFFFF then s else putWake s k 0xFFFF wake
        else if g.wake = 0xFFFF then putWake s k g.ci wake
        else modRing s k fun r => { r with state := .asleep }

/-- Cues of a ring that have been fetched and have not issued. -/
def fetchedAhead (s : State) (k : Nat) : Nat := countWhere (fun c : CueRun => !c.follow && !c.reserved) (cuesOf s (.ring k))

/-- CUE_FETCH (R270, R276, R281, R284, R286, R297, R302): an awake ring fetches the cue at CI, unless 8 fetched ones have
still to issue; a failed fetch stalls the ring and CI stays. A ring that aborts fetches for its abort. -/
def execCueFetch (fn : Fin 32) (r : Fin 1024) (c : CueRead) (s : State) : Host.Outcome State Fault Refusal :=
  let k := fn.val * 1024 + r.val
  let g := ringOf s k
  if g.state = .aborting then .next (abortFetch k s [c])
  else if g.state ≠ .active ∨ g.reread ∨ g.ci = g.pi ∨ (ctxOf s g.cid).state = .dying ∨ 8 ≤ fetchedAhead s k then .next s
  else .next <| viaHost s fn (cueAddr g) 64 false (fun s code => stallRing s k code) fun s =>
    let s := hostGet s fn (cueAddr g) 64
    match c with
    | .fail e => stallRing s k (hostCode e)
    | .cue bytes =>
      let run := fetchedCue s s.nextUid (.ring k) (some fn.val) g.cid (g.ci % 2 ^ g.sizeLog2) false (leBytes 64 bytes.toNat)
        (prev := g.last)
      let s := modRing { s with cues := s.cues ++ [run], nextUid := s.nextUid + 1 } k
        fun r => { r with ci := (r.ci + 1) % 2 ^ 15, last := some run.uid }
      noteReady (meetFence s (.ring k)) g.cid

/-- CONS has been read (R292): whether a slot is free, for what waits for one. -/
def consRead (s : State) (k v : Nat) : State :=
  modRing s k fun r =>
    let r := { r with consVal := v }
    { r with waitSlot := !slotFree r, noSlot := !slotFree r }

/-- A read of CONS has failed (R295, R297, R298): the ring stalls; one that aborts stalls at its end, and of one that aborts
or disables the records are left without a slot. -/
def consFailed (s : State) (k code : Nat) : State :=
  let st := (ringOf s k).state
  let s := modRing s k fun r => { r with waitSlot := false, noSlot := true, resuming := false }
  match st with
  | .aborting => modRing s k fun r => { r with consFail := some (r.consFail.getD code) }
  | .disabling => s
  | _ => stallRing s k code

/-- CONS_POLL (R292, R295 to R297): while a cue or record waits for a slot, CONS is read again, and a RING_RESUME that waited
goes on. A failed read stalls the ring; of a ring that aborts or disables it leaves the records without a slot. -/
def execConsPoll (fn : Fin 32) (r : Fin 1024) (cons : HostRead) (failAt : Option Nat) (wake : Option HostErr) (s : State) :
    Host.Outcome State Fault Refusal :=
  let k := fn.val * 1024 + r.val
  let g := ringOf s k
  if !g.waitSlot then .next s
  else .next <| viaHost s fn g.cons 4 false (fun s code => consFailed s k code) fun s =>
    let s := hostGet s fn g.cons 4
    match cons with
    | .word v =>
      let s := consRead s k (v.toNat % 2 ^ 15)
      if g.resuming then withDoor s k fun s => resumeRing s k failAt wake else s
    | .fail e => consFailed s k (hostCode e)

/-! ## Cues that the Prompt Desk runs itself -/

/-- CUE_NOP (R278). -/
def execCueNop (src : Src) (s : State) : Host.Outcome State Fault Refusal :=
  .next (startCue s (srcOf src) 0 fun s c => endCue s c.uid cOk)

/-- The workgroups of a launch that fit one core (R70). -/
def residentMax (groups nregs split localKib : Nat) : Nat :=
  let slots := 48 / groups
  min slots (min (2048 / nregs / groups) (if localKib = 0 then slots else splitLocal split / localKib))

/-- The launch of a record (R279), when its fields are in range and one workgroup fits (R70). -/
def launchOf (uid cid : Nat) (b : List Byte) : Option Launch :=
  let l : Launch := ⟨uid, cid, field b 0 8, field b 8 8, field b 16 4, field b 20 4, field b 24 4, field b 28 1,
    field b 29 1 * 8, field b 30 1, ceilDiv (field b 32 4) 1024, 0, 0⟩
  if l.gridX ≥ 1 ∧ l.gridY ≥ 1 ∧ l.gridZ ≥ 1 ∧ 1 ≤ l.groups ∧ l.groups ≤ 16 ∧ 16 ≤ l.nregs ∧ l.nregs ≤ 256 ∧
      l.split ≤ 3 ∧ zeros b 31 1 ∧ zeros b 36 28 ∧ 1 ≤ residentMax l.groups l.nregs l.split l.localKib then some l
  else none

/-- CUE_LAUNCH (R279, R285, R537): the record is read and checked, and the launch waits for its workgroups to be placed. -/
def execCueLaunch (src : Src) (s : State) : Host.Outcome State Fault Refusal :=
  .next (startCue s (srcOf src) 2 fun s' c => withRecord s s' c deskPort 0xFA 64 fun s' b =>
    match launchOf c.uid c.cid b with
    | none => endCue s' c.uid cCueInvalid
    | some l => { s' with launches := s'.launches ++ [l] })

/-- CUE_COPY (R280, R285, R336): the record is read and its extents checked; a LEN of 0 completes at once. While a request
takes its context's copies, none is placed (R339). -/
def execCueCopy (src : Src) (s : State) : Host.Outcome State Fault Refusal :=
  let s := match nextWaiting s (srcOf src) with
    | some c => if c.opc = 5 then noteAll s (ctxOf s c.cid).part else s
    | none => s
  .next (startCue s (srcOf src) 5 (also := fun c => !beingTaken s c.cid .copy []) fun s' c =>
    withRecord s s' c copyPort 0xFA 32 fun s' b =>
    let src := field b 0 8
    let dst := field b 8 8
    let len := field b 16 8
    if !zeros b 24 8 || len > 2 ^ 40 || src + len > 2 ^ 48 || dst + len > 2 ^ 48 || overlaps src len dst len then
      endCue s' c.uid cCueInvalid
    else if len = 0 then endCue s' c.uid cOk
    else startSlice { s' with copies := s'.copies ++ [⟨c.uid, src, dst, len, 0, false⟩] } c.cid)

/-- The length of the next chunk of a copy (R280): to the next 4 KiB boundary of DST, or to the end. -/
def chunkLen (c : CopySt) : Nat :=
  let d := c.dst + c.done
  min (4096 - d % 4096) (c.len - c.done)

/-- The copy path as it acts for a cue. -/
def copyEng (c : CueRun) : EngAsk := cueEng c copyPort 0xF9

/-- COPY_CHUNK (R280, R338, R370, R537): the chunk is translated whole, source and destination, and moved; a copy that is
being pre-empted or has been asked to stop starts none. -/
def execCopyChunk (src : Src) (s : State) : Host.Outcome State Fault Refusal :=
  match (cuesOf s (srcOf src)).findSome? fun c => (s.copies.find? (·.uid == c.uid)).map fun k => (c, k) with
  | none => .next s
  | some (c, k) =>
    if c.stage ≠ .running ∨ k.stopped ∨ s.stops.any (·.1 == c.uid) ∨ beingTaken s c.cid .copy [] = true then .next s
    else
      let n := chunkLen k
      let a := k.src + k.done
      let d := k.dst + k.done
      let gone := fun (s : State) => { s with copies := s.copies.filter (·.uid != c.uid) }
      .next (engineUnit s s (copyEng c) [(a, n, false), (d, n, true)] (cueFault (gone s) c 0xF9 · (cuePc c) ·)
        fun s pages =>
          let s := ctxWrite s (copyEng c) pages d (ctxRead s pages a n)
          if k.done + n = k.len then endCue (gone s) c.uid cOk
          else { s with copies := mapWhere (·.uid == c.uid) (fun k => { k with done := k.done + n }) s.copies })

/-- COPY_ABORT (R280): a copy asked to stop stops without waiting for a chunk boundary; nothing is written after it. -/
def execCopyAbort (src : Src) (s : State) : Host.Outcome State Fault Refusal :=
  match stopOf s (srcOf src) [5] with
  | none => .next s
  | some (c, code) =>
    .next (stopDone (unhold { s with copies := s.copies.filter (·.uid != c.uid) } (.copy c.uid)) c.uid code)

/-- The device lines of a translated range, page by page. -/
def deviceLines (pages : List HeldPage) (va len : Nat) : List (Nat × Nat) :=
  (pagesOf va len).map fun p =>
    let a := max va p
    let e := min (va + len) (p + 65536)
    let d := heldAddr pages a
    (d / 64, (d + (e - a) + 63) / 64)

/-- CUE_CACHE (R53, R278, R537): a range command on the CACHE region; while BUSY it is ignored and sets CMD_REFUSED. -/
def execCueCache (src : Src) (s : State) : Host.Outcome State Fault Refusal :=
  .next (startCue s (srcOf src) 8 fun s' c =>
    let len := bits c.arg 31 0
    match mapUnit s' c.cid (if len = 0 then [] else [(c.ea, len, false)]) with
    | .waits f g => askAts s f g
    | .fault code a => cueFault s' c 0xFA code (cuePc c) a
    | .ok pages =>
      if fbit s' (cacheBusy 0) then endCue (raise s' (cacheCmdRefused 0)) c.uid cOk
      else endCue ((deviceLines pages c.ea len).foldl (fun s r => cmoEffect s 0 (bits c.arg 35 32) (some r)) s') c.uid cOk)

/-- CUE_WRITE (R278, R537): the 64-bit value is written whole. -/
def execCueWrite (src : Src) (s : State) : Host.Outcome State Fault Refusal :=
  .next (startCue s (srcOf src) 9 fun s' c =>
    engineUnit s s' (deskEng c 0xFA) [(c.ea, 8, true)] (cueFault s' c 0xFA · (cuePc c) ·)
      fun s' pages => endCue (ctxWrite s' (deskEng c 0xFA) pages c.ea (leBytes 8 c.arg)) c.uid cOk)

/-! ## Completion (R287 to R294) -/

/-- The record of a completed cue goes to its ring (R287, R291 to R294, R297): written, parked behind others, or
undeliverable; an aborting ring parks what finds no slot, and a disabling one discards it. -/
def deliverRec (s : State) (c : CueRun) (k : Nat) (fail : Bool) : State :=
  let r := ringOf s k
  let b := buildRec c k
  let good := (c.reserved || slotFree r) && !fail
  let p : Parked := ⟨b, c.irq, c.reserved⟩
  let put :=
    let s := if c.reserved then s else modRing s k fun r => { r with reserved := (r.reserved + 1) % 2 ^ 15 }
    let s := putRec s k b false
    if c.irq then raiseMsix s (ringFn k) r.vector else s
  match r.state with
  | .off => s
  | .stalled => parkRec s k p
  | .disabling => if good then put else s
  | .aborting => if good ∧ r.parked.isEmpty then put else parkRec s k p
  | _ => if fail then undeliverable s k p else put

/-- The fence signal of a cue that ended (R287): signalled on OK, in ERROR with any other code. -/
def cueFence (s : State) (c : CueRun) : State :=
  if !c.signal || !c.sigOk then s
  else if c.code = cOk then signalFence s c.signalFence c.signalValue
  else errorFence s c.signalFence c.code

/-- Whether a follow-on of a cue is to be read (R288, R297, R298). -/
def followOk (s : State) (c : CueRun) : Bool :=
  c.code == cOk && c.next && ctxLive s c.cid &&
    match c.src with
    | .ring k => (ringOf s k).state != .aborting && (ringOf s k).state != .disabling && (ringOf s k).state != .off
    | .stream n => match (streamOf s n).proc with | some b => !b.head | none => false

/-- Whether a record must wait for a completion slot before the cue completes (R292, R297, R298): a cue that never issued has
none reserved. A ring that aborts or disables reads CONS once more before it finds none free. -/
def recordWaits (s : State) (c : CueRun) : Bool :=
  match c.src with
  | .ring k =>
    let r := ringOf s k
    let runs := r.state == .active || r.state == .asleep
    let ends := r.state == .aborting || r.state == .disabling
    !c.reserved && !slotFree r && (runs || (ends && !r.noSlot))
  | .stream _ => false

/-! ## Accesses that the Pit makes itself (R186, R187) -/

/-- An access of the Pit to an area of a stream: the state after it, or the code of what it meets (R187, R373, R376). -/
def pitUse (s : State) (n va len : Nat) (write : Bool) : Nat ⊕ State :=
  let pages := heldPages s (.pit n)
  match heldBad s (streamCid s n) pages [(va, len, write)] with
  | some (_, code) => .inl code
  | none => .inr (rtUse s (streamCid s n) pages va len write)

/-- The Pit reads an area of a stream; a failure puts the stream in FAULTED, and gives nothing. -/
def pitRead (s : State) (n va len : Nat) : State × Option (List Byte) :=
  match pitUse s n va len false with
  | .inl code => (streamFault s n code, none)
  | .inr t => (t, some (ctxRead t (heldPages t (.pit n)) va len))

/-- The Pit writes an area of a stream; a failure puts the stream in FAULTED. -/
def pitWrite (s : State) (n va : Nat) (bs : List Byte) : State :=
  match pitUse s n va bs.length true with
  | .inl code => streamFault s n code
  | .inr t => ctxWrite t (pitEng t n) (heldPages t (.pit n)) va bs

/-- The record of a stream's cue goes to its completion ring CRING (R193, R289): the oldest is overwritten, PHASE follows
R291 over the ring, RING holds the stream's number, and IRQ raises the PIT vector. -/
def streamRec (s : State) (n : Nat) (c : CueRun) : State :=
  if !streamArmed s n then s
  else
    let log := fget s (F.PIT_S_CRING_SIZE.CRING_LOG2 n)
    let w := rdN s (R.PIT_S_CRING_WR n)
    let b := buildRec c n
    let b := b.take 2 ++ leBytes 1 (field b 2 1 / 2 * 2 + (1 - w / 2 ^ log % 2)) ++ b.drop 3
    let a := pairAddr s (R.PIT_S_CRING_LO n) + 32 * (w % 2 ^ log)
    let s := pitWrite (pitWrite s n (a + 16) (b.drop 16)) n a (b.take 16)
    let s := incWrap s (R.PIT_S_CRING_WR n)
    if c.irq then raiseIrq s ((fnOfCid s c.cid).getD 0) irqPit else s

/-- A cue completes (R287): the fence, then the record, then MSI-X; the count; and a follow-on to be read, or the next cue of
the source meets its fence. -/
def completeCue (s : State) (c : CueRun) (fail : Bool) : State :=
  let go := followOk s c
  let s := cueFence (noteIdle s c.cid) c
  let s := match c.src with
    | .ring k => deliverRec s c k fail
    | .stream n => streamRec s n c
  let s := add64 s R.PDESK_CUE_COUNT_LO 1
  let s := { s with cues := s.cues.filter (·.uid != c.uid) }
  let s := if go then { s with follows := s.follows ++ [⟨c.src, c.slot, c.nextAddr, c.uid, c.chain⟩] } else s
  noteReadyAll (meetFence s c.src)

/-- A cue completes once its engine's report is written (R242, R243, R431). A report that the context cannot write is the
engine's fault (R432); one that waits for the host's translation or for a regulator keeps the cue from completing, and so do
writes that a peer has not acknowledged (R404). -/
def reportThen (s : State) (c : CueRun) (go : State → CueRun → State) : State :=
  let go := fun (s : State) => if engWrites s c.uid then s else match cueOf s c.uid with | some c => go s c | none => s
  match s.reports.find? (·.uid == c.uid) with
  | none => go s
  | some r =>
    let s' := { s with reports := s.reports.filter (·.uid != c.uid) }
    engineUnit s s' r.eng [(r.addr, r.bytes.length, true)] (fun code a => go (engFault s' r.eng code a)) fun s pages =>
      go (ctxWrite s r.eng pages r.addr r.bytes)

/-- What the host's translations say of the place of a cue's completion record, where its ring takes one now (R294, R367). -/
def recPlace (s : State) (c : CueRun) : Option XRes :=
  match c.src with
  | .ring k => if (ringOf s k).state = .off ∨ (ringOf s k).state = .stalled then none else recRange s k
  | .stream _ => none

/-- CUE_COMPLETE (R287): the oldest ended cue of a source completes; one whose record has no slot makes its ring wait, once
its fence has been signalled. -/
def execCueComplete (src : Src) (fail : Option HostErr) (s : State) : Host.Outcome State Fault Refusal :=
  match (cuesOf s (srcOf src)).find? (·.stage == .ended) with
  | none => .next s
  | some c =>
    if recordWaits s c then
      match c.src with
      | .ring k => .next <| reportThen s c fun s c =>
        modRing (noteReadyAll (modCue (cueFence s c) c.uid fun c => { c with sigOk := false })) k
          fun r => { r with waitSlot := true }
      | .stream _ => .next s
    else match recPlace s c with
      | some (.waits f g) => .next (askAts s f g)
      | some (.fault _) => .next (reportThen s c fun s c => completeCue s c true)
      | _ => .next (reportThen s c fun s c => completeCue s c fail.isSome)

/-- The context a source's follow-ons are read as (R288): the ring's, or for a stream its owner's. -/
def srcCid (s : State) (src : CueSrc) : Nat :=
  match src with
  | .ring k => (ringOf s k).cid
  | .stream n => fget s (F.PIT_S_OWNER.CID n)

/-- FOLLOW_ON_READ (R288): the cue at NEXT_ADDR is read as the ring's context and checked; it takes the ring's place in
order. A follow-on that cannot be read ends the chain, and the code is kept against the cue that named it. -/
def execFollowOnRead (src : Src) (s : State) : Host.Outcome State Fault Refusal :=
  let q := srcOf src
  match s.follows.find? (·.src == q) with
  | none => .next s
  | some f =>
    let s' := { s with follows := dropFirst (· == f) s.follows }
    let cid := srcCid s q
    if !ctxLive s cid then .next (meetFence s' q)
    else match xlateUnit s cid [(f.addr, 64, false)] with
      | .waits g h => .next (askAts s g h)
      | .fault code _ => .next (meetFence { s' with followFails := s'.followFails ++ [(f.uid, code)] } q)
      | .ok pages =>
        let fn := match q with | .ring k => some (ringFn k) | .stream _ => none
        let run := fetchedCue s s.nextUid q fn cid f.slot true (ctxRead s pages f.addr 64) (chain := f.chain)
        .next (noteReady (meetFence { s' with cues := run :: s'.cues, nextUid := s'.nextUid + 1 } q) cid)

end Sys2Proof.Machine
end

