-- ==== Sys2Proof/Machine/Objects.lean ====
section
/-! DEFINITION. Contexts, fences and semaphores (spec/09_objects_and_fences.md), with effective shares
(spec/10_stage_manager.md R347) and context shares (R335). -/

namespace Sys2Proof.Machine

open Sys2Proof

/-! ## Function ranges (R300) -/

/-- A range of objects: first and count. -/
abbrev ObjRange := Nat × Nat

/-- Whether two ranges share an object. -/
def rangesMeet (a b : ObjRange) : Bool := overlaps a.1 a.2 b.1 b.2

/-- Whether a range may be given to function `fn` (R300): inside the objects of its kind, apart from every other function's
range, and dropping only FREE objects. `busy` lists the objects that are not FREE. -/
def rangeOk (limit fn : Nat) (old new : ObjRange) (other : Nat → ObjRange) (busy : List Nat) : Bool :=
  decide (new.1 + new.2 ≤ limit) && (upTo 32).all (fun g => g == fn || !rangesMeet new (other g)) &&
    busy.all fun x => !inRange x old.1 old.2 || inRange x new.1 new.2

def ctxRange (s : State) (f : Nat) : ObjRange :=
  (fget s (F.PDESK_FN_CTX_RANGE.CTX_BASE f), fget s (F.PDESK_FN_CTX_RANGE.CTX_COUNT f))
def fenceRange (s : State) (f : Nat) : ObjRange :=
  (fget s (F.PDESK_FN_FENCE_BASE.FENCE_BASE f), fget s (F.PDESK_FN_FENCE_COUNT.FENCE_COUNT f))
def semRange (s : State) (f : Nat) : ObjRange :=
  (fget s (F.PDESK_FN_SEM_RANGE.SEM_BASE f), fget s (F.PDESK_FN_SEM_RANGE.SEM_COUNT f))

/-- Objects that are not FREE. -/
def busyCtxs (s : State) : List Nat := (s.ctxs.filter fun p => p.2.state != .free).map (·.1)
def busyFences (s : State) : List Nat := (s.fences.filter fun p => p.2.state != .free).map (·.1)
def busySems (s : State) : List Nat := (s.sems.filter fun p => p.2.state != .free).map (·.1)

/-- FN_RANGE_WRITE (R300, R301): applied, or refused with FN_CFG_REFUSED and nothing changed. -/
def execFnRangeWrite (reg : RangeReg) (fn : Fin 32) (v : BitVec 32) (s : State) : Host.Outcome State Fault Refusal :=
  let x := v.toNat
  let f := fn.val
  let (ok, addr, w) : Bool × Nat × Nat := match reg with
    | .ctxRange =>
      (rangeOk 1024 f (ctxRange s f) (bits x 9 0, bits x 26 16) (ctxRange s) (busyCtxs s),
        R.PDESK_FN_CTX_RANGE f, bits x 9 0 + bits x 26 16 * 2 ^ 16)
    | .fenceBase =>
      (rangeOk 65536 f (fenceRange s f) (bits x 15 0, (fenceRange s f).2) (fenceRange s) (busyFences s),
        R.PDESK_FN_FENCE_BASE f, bits x 15 0)
    | .fenceCount =>
      (rangeOk 65536 f (fenceRange s f) ((fenceRange s f).1, bits x 16 0) (fenceRange s) (busyFences s),
        R.PDESK_FN_FENCE_COUNT f, bits x 16 0)
    | .semRange =>
      (rangeOk 4096 f (semRange s f) (bits x 11 0, bits x 28 16) (semRange s) (busySems s),
        R.PDESK_FN_SEM_RANGE f, bits x 11 0 + bits x 28 16 * 2 ^ 16)
    | .partMask => (true, R.PDESK_FN_PART_MASK f, bits x 7 0)
  .next (if ok then wrN s addr w else raise s E.PDESK_FNRANGE_STATUS.FN_CFG_REFUSED)

/-! ## Contexts (R301 to R304, R322 to R325) -/

/-- The context a function has selected. -/
def selCtx (s : State) (fn : Nat) : Nat := fget s (F.PDESK_CTX_SEL.CID fn)

/-- CFG_REFUSED of the context registers of a function. -/
def ctxRefuse (s : State) (fn : Nat) : State := raise s (E.PDESK_CTX_STATUS.CFG_REFUSED fn)

/-- The virtual time a created context starts at (R335). -/
def createVt (s : State) (part : Nat) : W64 :=
  match leastVt ((ctxsIn s part fun c _ => ctxReady s c).map (·.2.vt)) with
  | some v => v
  | none => (leastVt ((ctxsIn s part fun _ c => c.state == .live).map (·.2.vt))).getD 0

/-- CTX_CREATE (R301, R335): a FREE context of the function becomes LIVE in a partition its PART_MASK permits; its fault
slot, root and counters are cleared and its share is 100. -/
def execCtxCreate (fn : Fin 32) (s : State) : Host.Outcome State Fault Refusal :=
  let cid := selCtx s fn
  let part := fget s (F.PDESK_CTX_CFG.PARTITION fn)
  if fnOfCid s cid ≠ some fn.val ∨ (ctxOf s cid).state ≠ .free ∨ !bit (rdN s (R.PDESK_FN_PART_MASK fn)) part then
    .next (ctxRefuse s fn)
  else
    .next (modCtx s cid fun _ =>
      { Ctx.none with state := .live, part := part, share := 100, effShare := 100, vt := createVt s part })

/-- The shader work of a context goes: its launches, its workgroups and their requests. The L1s they ran on are cleaned, as
the end of each operation releases what its threads have stored (R104, R242, R287). -/
def killShader (s : State) (cid : Nat) : State :=
  let on := (upTo 17).filter fun c => (coreOf s c).wgs.any (·.cid == cid)
  let s := on.foldl (fun s c => cleanLines s (c + 1) fun _ => true) s
  killWgs { s with launches := s.launches.filter (·.cid != cid) } (·.cid == cid)

/-- CONTEXT_FAULT_REPORT (R106, R303, R325): the first report moves a LIVE context to FAULTED, its record is kept, the cue
whose work faulted ends with the code and every other cue with CONTEXT_LOST; a later one only raises FURTHER. R106 counts
later faults until the kill is complete and does not say what becomes of one reported after that, while the context is still
FAULTED: it raises FURTHER too (DESIGN CHOICE, log 50). -/
def execContextFaultReport (s : State) : Host.Outcome State Fault Refusal :=
  match s.faultReps with
  | [] => .next s
  | f :: rest =>
    let s := { s with faultReps := rest }
    let c := ctxOf s f.cid
    match c.state with
    | .free => .next s
    | .faulted => .next (modCtx s f.cid fun c => { c with slot := furtherUp c.slot })
    | .dying => .next (modCtx s f.cid fun c => { c with slot := furtherUp c.slot })
    | .live =>
      let code := field f.record 0 2
      let s := modCtx s f.cid fun c =>
        { c with state := .faulted, slot := f.record, code := code, stopping := true }
      let s := match f.uid with
        | some u => match cueOf s u with
          | some q => if q.stage = .running then stopRunning s q code else endCue s u code
          | none => s
        | none => s
      let s := stopEngines (stopCues s (fun q => q.cid == f.cid && some q.uid != f.uid) cCtxLost) f.cid code
      .next (killShader s f.cid)

/-- Whether any cue of a context has still to complete. -/
def ctxBusy (s : State) (cid : Nat) : Bool := s.cues.any fun c => c.cid == cid

/-- Whether a cue has come to its end but for a completion record that finds no slot: its fence has been signalled (R287). -/
def cueStopped (s : State) (c : CueRun) : Bool := c.stage == .ended && !(c.signal && c.sigOk) && recordWaits s c

/-- The stop that a fault began is complete (R303): FAULTED is set and the FAULT vector raised. -/
def stopDoneCtx (s : State) (cid : Nat) : State :=
  if !(ctxOf s cid).stopping then s
  else
    let s := modCtx s cid fun c => { c with stopping := false }
    match fnOfCid s cid with
    | none => s
    | some fn => raiseIrq (raise s (E.PDESK_CTX_STATUS.FAULTED fn)) fn irqFault

/-- CONTEXT_STOP_DONE (R303): once the stopped cues of the context have completed, or wait only for a slot of their
completion ring, the stop is complete. -/
def execContextStopDone (cid : Fin 1024) (s : State) : Host.Outcome State Fault Refusal :=
  .next (if s.cues.any fun c => c.cid == cid && !cueStopped s c then s else stopDoneCtx s cid)

/-! ## Semaphores (R318 to R321) and effective shares (R347) -/

/-- A unit less; the slot is emptied at 0 (R320). -/
def giveUnit (hs : List Holder) (cid : Nat) : List Holder :=
  mapFirst (fun h => h.units != 0 && h.cid == cid)
    (fun h => if h.units = 1 then ⟨0, 0⟩ else { h with units := h.units - 1 }) hs

/-- The acquires waiting in a semaphore's FIFO end with a code. -/
def failFifo (s : State) (x code : Nat) : State :=
  let us := (semOf s x).fifo
  modSem (us.foldl (fun s u => endCue s u code) s) x fun m => { m with fifo := [] }

/-- SEM_ACQUIRE (R318, R319, R347). -/
def execSemAcquire (src : Src) (s : State) : Host.Outcome State Fault Refusal :=
  .next (startCue s (srcOf src) 10 (fun s c =>
    let x := bits c.arg 15 0
    let m := semOf s x
    match m.state with
    | .free => endCue s c.uid cFenceFreed
    | .error => endCue s c.uid m.code
    | .active => recomputeShares (grantHead x 1 (modSem s x fun m => { m with fifo := m.fifo ++ [c.uid] })))
    (fun c => !bit c.arg 16))

/-- SEM_RELEASE (R319, R320, R347). -/
def execSemRelease (src : Src) (s : State) : Host.Outcome State Fault Refusal :=
  .next (startCue s (srcOf src) 10 (fun s c =>
    let x := bits c.arg 15 0
    let m := semOf s x
    match m.state with
    | .free => endCue s c.uid cFenceFreed
    | .error => endCue s c.uid cOk
    | .active =>
      if m.holders.any fun h => h.units != 0 && h.cid == c.cid then
        let s := modSem s x fun m => { m with count := m.count + 1, holders := giveUnit m.holders c.cid }
        recomputeShares (grantHead x m.fifo.length (endCue s c.uid cOk))
      else endCue s c.uid cSemNotHeld)
    (fun c => bit c.arg 16))

/-- A semaphore enters ERROR (R321): its waiting acquires end with the code. -/
def errorSem (s : State) (x code : Nat) : State :=
  if (semOf s x).state = .active then modSem (failFifo s x code) x fun m => { m with state := .error, code := code }
  else s

/-- The semaphore a function has selected, and its CFG_REFUSED. -/
def selSem (s : State) (fn : Nat) : Nat := fget s (F.PDESK_SEM_SEL.SEM fn)
def semRefuse (s : State) (fn : Nat) : State := raise s (E.PDESK_SEM_STATUS.CFG_REFUSED fn)

/-- SEM_ALLOC (R300, R318): a FREE semaphore of the function becomes ACTIVE with its COUNT, which must be at least 1. -/
def execSemAlloc (fn : Fin 32) (s : State) : Host.Outcome State Fault Refusal :=
  let x := selSem s fn
  let n := fget s (F.PDESK_SEM_CFG.COUNT fn)
  if fnOfSem s x ≠ some fn.val ∨ (semOf s x).state ≠ .free ∨ n = 0 then .next (semRefuse s fn)
  else
    .next (modSem s x fun _ =>
      { Sem.none with
        state := .active
        count := n
        shareFn := fget s (F.PDESK_SEM_CFG.SHARE_FN fn)
        shared := fbit s (F.PDESK_SEM_CFG.SHARED fn) })

/-- A semaphore is freed: waiting acquires end with FENCE_FREED and it is cleared (R318). -/
def freeSem (s : State) (x : Nat) : State := recomputeShares (modSem (failFifo s x cFenceFreed) x fun _ => Sem.none)

/-- SEM_FREE (R300, R318). -/
def execSemFree (fn : Fin 32) (s : State) : Host.Outcome State Fault Refusal :=
  let x := selSem s fn
  if fnOfSem s x ≠ some fn.val then .next (semRefuse s fn) else .next (freeSem s x)

/-! ## Fences (R308 to R317) -/

/-- The fence a function has selected, and its CFG_REFUSED. -/
def selFence (s : State) (fn : Nat) : Nat := fget s (F.PDESK_FENCE_SEL.FENCE fn)
def fenceRefuse (s : State) (fn : Nat) : State := raise s (E.PDESK_FENCE_STATUS.CFG_REFUSED fn)

/-- PDESK_FENCE_ARG of a function. -/
def fenceArg (s : State) (fn : Nat) : Nat := rd64 s (R.PDESK_FENCE_ARG_LO fn)

/-- FENCE_ALLOC (R44, R300, R315): a FREE fence of the function becomes ACTIVE; OWNER must be a LIVE context of the function.
Until the Loft is carved the fence table takes no entry, and the command is refused (DESIGN CHOICE, log 54). -/
def execFenceAlloc (fn : Fin 32) (s : State) : Host.Outcome State Fault Refusal :=
  let x := selFence s fn
  let owner := fget s (F.PDESK_FENCE_CFG.OWNER fn)
  if fnOfFence s x ≠ some fn.val ∨ (fenceOf s x).state ≠ .free ∨ !ctxUsable s fn owner ∨ !carved s then
    .next (fenceRefuse s fn)
  else
    .next (modFence s x fun _ =>
      ⟨BitVec.ofNat 64 (fenceArg s fn), owner, 0, .active, fget s (F.PDESK_FENCE_CFG.SHARE_FN fn),
        fbit s (F.PDESK_FENCE_CFG.SHARED fn), 0⟩)

/-- FENCE_SIGNAL (R300, R310, R316): a host signal applies PDESK_FENCE_ARG. -/
def execFenceSignal (fn : Fin 32) (s : State) : Host.Outcome State Fault Refusal :=
  let x := selFence s fn
  if fnOfFence s x ≠ some fn.val then .next (fenceRefuse s fn)
  else .next (noteReadyAll (signalFence s x (BitVec.ofNat 64 (fenceArg s fn))))

/-- FENCE_ERROR (R300, R311, R316): ARG[15:0] is the code, which may not be 0. -/
def execFenceError (fn : Fin 32) (s : State) : Host.Outcome State Fault Refusal :=
  let x := selFence s fn
  let code := bits (fenceArg s fn) 15 0
  if fnOfFence s x ≠ some fn.val ∨ code = 0 then .next (fenceRefuse s fn) else .next (errorFence s x code)

/-- A fence is freed: remaining waiters are released with FENCE_FREED and the entry is cleared (R312, R315). -/
def freeFence (s : State) (x : Nat) : State :=
  if (fenceOf s x).state = .free then s
  else modFence (flipsFreed (releaseWith s x cFenceFreed) x) x fun _ => Fence.none

/-- FENCE_FREE (R300, R315). -/
def execFenceFree (fn : Fin 32) (s : State) : Host.Outcome State Fault Refusal :=
  let x := selFence s fn
  if fnOfFence s x ≠ some fn.val then .next (fenceRefuse s fn) else .next (freeFence s x)

/-! ## Destruction (R322 to R325, R382) -/

/-- The rings whose context is `cid` and that are not OFF. -/
def ringsOfCtx (s : State) (cid : Nat) : List Nat :=
  (s.rings.filter fun p => p.2.cid == cid && p.2.state != .off).map (·.1)

/-- A ring of a context that is destroyed (R322 steps 1 and 4): it stops fetching and is disabled, at once or when the abort
it is in has ended. An abort that a reset began still fetches what R298 lists (DEDUCED, log 36). -/
def ringLost (s : State) (k : Nat) : State :=
  if (ringOf s k).state = .aborting then
    modRing s k fun r => { r with disableNext := true, pi := if r.wiped then r.pi else r.ci }
  else startDisable s k

/-- The start of a context's teardown (R322 steps 1 to 4): it is DYING, its streams are disarmed, its work stops, its
fetched cues end with CONTEXT_LOST and its rings are disabled. -/
def destroyStart (s : State) (cid : Nat) : State :=
  let s := disarmCtx (modCtx s cid fun c => { c with state := .dying }) cid
  let s := stopCues s (·.cid == cid) cCtxLost
  let s := recomputeShares (killShader s cid)
  (ringsOfCtx s cid).foldl ringLost s

/-- CTX_DESTROY (R322): on a LIVE or FAULTED context of the function; nothing more on a DYING one; refused on a FREE one. -/
def execCtxDestroy (fn : Fin 32) (s : State) : Host.Outcome State Fault Refusal :=
  let cid := selCtx s fn
  if fnOfCid s cid ≠ some fn.val then .next (ctxRefuse s fn)
  else match (ctxOf s cid).state with
    | .free => .next (ctxRefuse s fn)
    | .dying => .next s
    | _ => .next (destroyStart s cid)

/-- The Loft granules tagged to contexts of each partition, shown in XLAT_Pp_LOFT_TAGGED (R375). -/
def loftTagged (s : State) (p : Nat) : Nat :=
  countWhere (fun t : Nat × Nat => decide (t.1 < 4096) && bits t.2 1 0 != 0 && (ctxOf s (bits t.2 17 8)).part == p) s.tags
def showTagged (s : State) : State := (upTo 8).foldl (fun s p => fset s (F.XLAT_P_LOFT_TAGGED.TAGGED p) (loftTagged s p)) s

/-- Whether a line lies in a granule that a context owns. -/
def lineOwned (s : State) (cid : Nat) (l : Line) : Bool :=
  let a := l.line * 64
  let t := mget 0 s.tags (granule a)
  (decide (a < 64 * mib) || reach s a == .dram) && bits t 1 0 != 0 && bits t 17 8 == cid

/-- Every translation of a context goes, its root is 0, and every tag it owns is FREE (R382); before that, the lines of its
granules are cleaned and invalidated in every L1 and in the CACHE region (R373, R375). -/
def revokeCtx (s : State) (cid : Nat) : State :=
  let p := lineOwned s cid
  let s := ((List.range' 1 17) ++ [0]).foldl (fun s k => dropLines (cleanLines s k p) k p) (incSat s R.XLAT_INV_COUNT)
  let s :=
    { s with
      tc := s.tc.filter fun e => e.ats || e.owner != cid
      wc := s.wc.filter (·.cid != cid)
      helds := s.helds.filter (·.cid != cid)
      tags := s.tags.filter fun t => bits t.2 1 0 == 0 || bits t.2 17 8 != cid }
  showTagged (modCtx (seeFails s cid) cid fun c => { c with root := 0 })

/-- Steps 5 to 8 of R322: owned fences and held semaphores enter ERROR, translations and tags are revoked, save pages go,
and the context is FREE with its fault slot kept (R304). -/
def destroyFinish (s : State) (cid : Nat) : State :=
  let s := stopDoneCtx s cid
  let owned := (s.fences.filter fun p => p.2.owner == cid && p.2.state == .active).map (·.1)
  let s := owned.foldl (fun s x => errorFence s x cCtxLost) s
  let held := (s.sems.filter fun p => p.2.holders.any fun h => h.units != 0 && h.cid == cid).map (·.1)
  let s := held.foldl (fun s x => errorSem s x cCtxLost) s
  let s := showTagged (revokeCtx s cid)
  let s := showSave { s with images := s.images.filter (·.cid != cid) }
  let s := modCtx s cid fun c => { c with state := .free, stopping := false, savePages := 0 }
  let s := recomputeShares s
  match fnOfCid s cid with
  | none => s
  | some fn => raiseIrq (raise s (E.PDESK_CTX_STATUS.DESTROYED fn)) fn irqFault

/-- CTX_DESTROY_DONE (R322, R323): once no cue of the context is left, its rings are OFF and its streams IDLE. -/
def execCtxDestroyDone (cid : Fin 1024) (s : State) : Host.Outcome State Fault Refusal :=
  if (ctxOf s cid).state ≠ .dying ∨ ctxBusy s cid ∨ ringsOfCtx s cid ≠ [] ∨ streamsOf s cid ≠ [] then .next s
  else .next (destroyFinish s cid)

/-- CTX_SHARE_WRITE (R335, R347): 1 to 1,000 sets the share and the effective shares follow; other values are ignored and
set CFG_REFUSED, as does a context outside the function. -/
def execCtxShareWrite (fn : Fin 32) (v : BitVec 32) (s : State) : Host.Outcome State Fault Refusal :=
  let cid := selCtx s fn
  let x := bits v.toNat 9 0
  if fnOfCid s cid ≠ some fn.val ∨ x = 0 ∨ 1000 < x then .next (ctxRefuse s fn)
  else .next (recomputeShares (modCtx s cid fun c => { c with share := x }))

end Sys2Proof.Machine
end

