-- ==== Sys2Proof/Machine/Show.lean ====
section
/-! DEFINITION. The board flash, the Show Report and MSI-X unmasking (spec/15_reset_boot_security.md R478, R479,
spec/16_rehearsal_and_show_report.md R499 to R506, spec/18_register_map.md R526). -/

namespace Sys2Proof.Machine

open Sys2Proof

/-! ## The board flash (R478, R479) -/

def flashRead (s : State) (off n : Nat) : List Byte := mgets 0xFF s.flash off n

/-- Erase the 4 KiB sector at an offset: its bytes read 0xFF. -/
def flashErase (s : State) (off : Nat) : State :=
  { s with flash := s.flash.filter fun p => !inRange p.1 off 4096 }

/-- Programme bytes: a bit can only be cleared. -/
def flashProg (s : State) (off : Nat) (bs : List Byte) : State :=
  { s with flash := mputs 0xFF s.flash off (List.zipWith (· &&& ·) (flashRead s off bs.length) bs) }

/-- Of two copies of a structure with a sequence number, the valid one that wins: the greater number in serial comparison
with a window of 2^31 (R479). -/
def winner (seq : List Byte → Nat) (a b : Option (List Byte)) : Option (Nat × List Byte) :=
  match a, b with
  | none, none => none
  | some a, none => some (0, a)
  | none, some b => some (1, b)
  | some a, some b => if (seq a + 2 ^ 32 - seq b) % 2 ^ 32 < 2 ^ 31 then some (0, a) else some (1, b)

/-- A copy of the directory, when it is valid. -/
def dirCopy (s : State) (k : Nat) : Option (List Byte) :=
  let b := flashRead s (k * 4096) 64
  if field b 0 1 = 0xB9 ∧ field b 1 1 = 1 ∧ field b 60 4 = crc32c (b.take 60) then some b else none

/-- The directory in force, with its copy. -/
def directory (s : State) : Option (Nat × List Byte) := winner (fun b => field b 4 4) (dirCopy s 0) (dirCopy s 1)

/-- START_FAILS of the directory. -/
def dirFails (s : State) : Nat := ((directory s).map fun d => field d.2 8 4).getD 0

/-- Rewrite the losing copy of the directory with a failed-start count and SEQ + 1. -/
def putFails (s : State) (n : Nat) : State :=
  match directory s with
  | none => s
  | some (k, b) =>
    let b := b.take 4 ++ leBytes 4 (field b 4 4 + 1) ++ leBytes 4 n ++ (b.drop 12).take 48
    let off := (1 - k) * 4096
    flashProg (flashErase s off) off (b ++ leBytes 4 (crc32c b))

/-! ## The log area (R503, R504) -/

/-- The LOG area of the directory, when it meets the size rule: its offset and length. -/
def logArea (s : State) : Option (Nat × Nat) :=
  match directory s with
  | none => none
  | some (_, b) =>
    let off := field b 32 4
    let len := field b 36 4
    if len % 4096 = 0 ∧ 16384 ≤ len then some (off, len) else none

/-- A copy of the log header, when it is valid. -/
def headCopy (s : State) (off k : Nat) : Option (List Byte) :=
  let b := flashRead s (off + k * 4096) 4096
  if field b 0 1 = 0xBA ∧ field b 1 1 = 1 ∧ field b 4092 4 = crc32c (b.take 4092) then some b else none

/-- The log header in force, with its copy. -/
def logHeader (s : State) : Option (Nat × List Byte) :=
  match logArea s with
  | none => none
  | some (off, _) => winner (fun b => field b 4 4) (headCopy s off 0) (headCopy s off 1)

/-- Records the ring in the flash holds. -/
def logSlots (s : State) : Nat := ((logArea s).map fun a => (a.2 - 8192) / 64).getD 0

/-- The flash offset of a slot of the ring. -/
def slotOff (s : State) (i : Nat) : Nat := ((logArea s).map (·.1)).getD 0 + 8192 + 64 * i

/-- The repair table's 256 slots (R497, R503). -/
def entryBytes (rs : List Repair) : List Byte :=
  padTo 2048 (rs.flatMap fun r => leBytes 4 r.entry ++ leBytes 1 (min r.count 255) ++ leBytes 3 0)

/-- Rewrite the log header from what AON holds (R499, R503): the losing copy takes HSEQ + 1. -/
def putHeader (s : State) : State :=
  match logArea s with
  | none => s
  | some (off, _) =>
    let old := logHeader s
    let k := match old with | some (k, _) => 1 - k | none => 0
    let seq := match old with | some (_, b) => field b 4 4 + 1 | none => 0
    let b := leBytes 2 0x01BA ++ leBytes 2 s.boot.lastShutdown ++ leBytes 4 seq ++ leBytes 4 (rdN s R.SHOW_POWER_CYCLES) ++
      leBytes 4 (rdN s R.SHOW_OPSEC) ++ leBytes 4 (rdN s R.TEST_CORE_FAILED) ++ leBytes 2 s.repairs.length ++ leBytes 10 0
    let b := padTo 4092 (b ++ entryBytes s.repairs)
    flashProg (flashErase s (off + k * 4096)) (off + k * 4096) (b ++ leBytes 4 (crc32c b))

/-- The header is rewritten only while the log area is in use. -/
def saveHeader (s : State) : State := if fbit s F.SHOW_STATE.FLASH_OK then putHeader s else s

/-! ## Records (R500, R502) -/

/-- The 64 bytes of a record. -/
def recordBytes (seq : Nat) (p : ShowPend) : List Byte :=
  let b := leBytes 4 seq ++ leBytes 4 p.opsec ++ leBytes 4 p.cycles ++ leBytes 2 p.ev.code ++ leBytes 1 p.ev.unit ++
    leBytes 1 p.ev.severity ++ leBytes 2 (min p.suppressed 0xFFFF) ++ leBytes 1 p.ev.pcore ++ leBytes 1 p.ev.fn ++
    leBytes 2 p.ev.cid ++ leBytes 2 p.ms ++ padTo 36 p.ev.detail
  b ++ leBytes 4 (crc32c b)

def modShow (s : State) (f : ShowSt → ShowSt) : State := { s with recorder := f s.recorder }

/-- SHOW_STATE shows the ring and the pending store. -/
def showCounts (s : State) : State :=
  fset (fset s F.SHOW_STATE.COUNT s.recorder.ring.length) F.SHOW_STATE.PENDING s.recorder.pending.length

/-- Write a record to the AON ring, and queue it for the flash (R501). -/
def writeRecord (s : State) (p : ShowPend) : State :=
  let b := recordBytes (rdN s R.SHOW_SEQ) p
  let flash := fbit s F.SHOW_STATE.FLASH_OK
  let s := modShow s fun w =>
    { w with
      ring := (b :: w.ring).take 256
      flashQ := if flash then w.flashQ ++ [b] else w.flashQ }
  showCounts (incWrap s R.SHOW_SEQ)

/-- The operating minute (R502). -/
def minuteNow (s : State) : Nat := rdN s R.SHOW_OPSEC / 60

/-- The rate state of a code, moved to the front; `none` when the code has none and none can be taken. -/
def takeRate (rs : List Rate) (code : Nat) : Option (Rate × List Rate) :=
  match rs.find? (·.code == code) with
  | some r => some (r, dropFirst (·.code == code) rs)
  | none =>
    let fresh : Rate := ⟨code, 0, 0, 0⟩
    if rs.length < 128 then some (fresh, rs)
    else match rs.reverse.find? (·.suppressed == 0) with
      | some v => some (fresh, rs.filter (·.code != v.code))
      | none => none

/-- An event is suppressed and counted (R502). -/
def suppress (s : State) (r : Rate) (rest : List Rate) : State :=
  let s := modShow s fun w => { w with rates := { r with suppressed := satAdd 0xFFFF r.suppressed 1 } :: rest }
  raiseSys (incSat s R.SHOW_SUPPRESSED_COUNT) E.SHOW_EVENT.SUPPRESSED

/-- The next event of the queue (R501, R502, R505): a record, a suppressed event or a dropped one; while frozen, a record
waits in the pending store, and beyond 32 the event is suppressed or dropped. -/
def takeEvent (s : State) (e : ShowEv) (ms : Nat) : State :=
  let frozen := fbit s F.SHOW_CTRL.FREEZE
  if frozen ∧ 32 ≤ s.recorder.pending.length ∧ !(s.recorder.rates.any (·.code == e.code)) then showDrop s
  else match takeRate s.recorder.rates e.code with
    | none => showDrop s
    | some (r, rest) =>
      let written := if r.minute = minuteNow s then r.written else 0
      if 8 ≤ written ∨ (frozen ∧ 32 ≤ s.recorder.pending.length) then suppress s r rest
      else
        let p : ShowPend := ⟨e, rdN s R.SHOW_OPSEC, rdN s R.SHOW_POWER_CYCLES, ms, r.suppressed⟩
        let s := modShow s fun w => { w with rates := ⟨e.code, minuteNow s, written + 1, 0⟩ :: rest }
        if frozen then showCounts (modShow s fun w => { w with pending := w.pending ++ [p] }) else writeRecord s p

/-- FLASH_RECORD_DONE (R478, R499, R501, R504): the record is in the flash and the header rewritten; a flash error ends
writes to the flash until the next L1. A sector is erased before its first record. -/
def execFlashRecordDone (ok : Bool) (s : State) : Host.Outcome State Fault Refusal :=
  match s.recorder.flashQ with
  | [] => .next s
  | b :: rest =>
    if !ok || logSlots s == 0 then
      .next (raiseSys (fset (modShow s fun w => { w with flashQ := [] }) F.SHOW_STATE.FLASH_OK 0) E.SHOW_EVENT.FLASH_ERR)
    else
      let i := s.recorder.pos
      let off := slotOff s i
      let s := if i % 64 = 0 then flashErase s off else s
      let s := modShow (flashProg s off b) fun w => { w with flashQ := rest, pos := (i + 1) % logSlots s }
      .next (saveHeader s)

/-- OPSEC_TICK (R499): a second passes; every 1,024 seconds the header is rewritten. -/
def execOpsecTick (s : State) : Host.Outcome State Fault Refusal :=
  let s := incWrap s R.SHOW_OPSEC
  .next (if rdN s R.SHOW_OPSEC % 1024 = 0 then saveHeader s else s)

/-- SHOW_FREEZE (R505). -/
def execShowFreeze (s : State) : Host.Outcome State Fault Refusal := .next (fset s F.SHOW_CTRL.FREEZE 1)

/-- The pending records are written in order (R505). -/
def thaw (s : State) : State :=
  let ps := s.recorder.pending
  let s := modShow (fset s F.SHOW_CTRL.FREEZE 0) fun w => { w with pending := [] }
  showCounts (ps.foldl writeRecord s)

/-- SHOW_THAW (R505). -/
def execShowThaw (s : State) : Host.Outcome State Fault Refusal := .next (thaw s)

/-- SHOW_FREEZE_EXPIRE (R505): a freeze ends of itself. -/
def execShowFreezeExpire (s : State) : Host.Outcome State Fault Refusal :=
  if fbit s F.SHOW_CTRL.FREEZE then .next (raiseSys (thaw s) E.SHOW_EVENT.THAWED) else .next s

/-- SHOW_LOAD (R506): a record is to be fetched by source and age. -/
def execShowLoad (s : State) : Host.Outcome State Fault Refusal :=
  let s := modShow s fun w => { w with load := some (fbit s F.SHOW_RD_SEL.SRC, fget s F.SHOW_RD_SEL.AGE) }
  .next (wrN s R.SHOW_RD_STATUS 1)

/-- The record of a source and age, if there is one. -/
def recordAt (s : State) (flash : Bool) (age : Nat) : Option (List Byte) :=
  if !flash then s.recorder.ring[age]?
  else
    let n := logSlots s
    if n ≤ age then none
    else
      let b := flashRead s (slotOff s ((s.recorder.pos + n - 1 - age) % n)) 64
      if b.all (· == 0xFF) then none else some b

/-- SHOW_RD_DATA0-15. -/
def putData (s : State) (b : List Byte) : State :=
  (upTo 16).foldl (fun s k => wrN s (R.SHOW_RD_DATA k) (field b (4 * k) 4)) s

/-- SHOW_LOAD_DONE (R506). What the data registers hold with EMPTY is not stated: a free value. -/
def execShowLoadDone (s : State) : Host.Outcome State Fault Refusal :=
  match s.recorder.load with
  | none => .next s
  | some (flash, age) =>
    let s := modShow s fun w => { w with load := none }
    match recordAt s flash age with
    | none => .next (wrN (putData (useFree s) (leBytes 64 (freeVal s))) R.SHOW_RD_STATUS 4)
    | some b => .next (wrN (putData s b) R.SHOW_RD_STATUS (if field b 60 4 = crc32c (b.take 60) then 2 else 0))

/-- SHOW_ERASE (R506): accepted only while frozen; the rings are erased and SEQ restarts; the header is kept. -/
def execShowErase (s : State) : Host.Outcome State Fault Refusal :=
  if !fbit s F.SHOW_CTRL.FREEZE then .next s
  else
    let s := (upTo (logSlots s / 64)).foldl (fun s k => flashErase s (slotOff s (64 * k))) s
    .next (showCounts (wrN (modShow s fun w => { w with ring := [], pos := 0 }) R.SHOW_SEQ 0))

/-- One LOG_SUPPRESSED record for each code with a suppressed count (R502), exempt from the limit. -/
def logSuppressed (s : State) (ms : Nat) : State :=
  let rs := s.recorder.rates.filter (·.suppressed != 0)
  rs.foldl (fun s r =>
    writeRecord s ⟨{ plainEv cLogSupp 0x05 0 with detail := leBytes 2 r.code }, rdN s R.SHOW_OPSEC,
      rdN s R.SHOW_POWER_CYCLES, ms, 0⟩) s

/-! ## MSI-X (R526) -/

/-- MSIX_UNMASK (R526): a pending message is sent. -/
def execMsixUnmask (fn : Fin 32) (v : Fin 64) (s : State) : Host.Outcome State Fault Refusal :=
  let k := fn.val * 64 + v.val
  let e := mget Msix.reset s.msix k
  let s := { s with msix := mput Msix.reset s.msix k { e with mask := false, pending := false } }
  .next (if e.mask && e.pending then send s (.msix fn v) else s)

end Sys2Proof.Machine
end

