-- ==== Sys2Proof/Machine/PowerOps.lean ====
section
/-! DEFINITION. Shared operations of power and clocks (spec/14_power_and_clocks.md R433 to R450, R455 to R457,
spec/15_reset_boot_security.md R464, R465): refusals, the requested point, moves, loops and wake
events. -/

namespace Sys2Proof.Machine

open Sys2Proof

/-- Steps of RST_BOOT_STATE. -/
abbrev bPor : Nat := 0
abbrev bFuses : Nat := 1
abbrev bClocks : Nat := 2
abbrev bRom : Nat := 3
abbrev bWait : Nat := 4
abbrev bVerify : Nat := 5
abbrev bFirmware : Nat := 6
abbrev bRunning : Nat := 7
abbrev bLights : Nat := 8
def bootState (s : State) : Nat := fget s F.RST_BOOT_STATE.STATE
def setBoot (s : State) (v : Nat) : State := fset s F.RST_BOOT_STATE.STATE v

/-! ## Show Report events of clocks and power (R500, R536) -/

abbrev cStateRefused : Nat := 0x0A01
abbrev cOpRefused : Nat := 0x0A02
abbrev cNoAck : Nat := 0x0A03
abbrev cXtalFailed : Nat := 0x0A04
abbrev cThrottle : Nat := 0x0A06

/-- An event of the codes 0x0A01 to 0x0A06, with its DETAIL. -/
def powerEvent (s : State) (code unit sev : Nat) : State :=
  showEvent s { plainEv code unit sev with
    detail := leBytes 4 (rdN s R.PWR_REFUSE_LAST) ++ leBytes 4 (rdN s R.CLK_EVENT) }

/-! ## Refusals (R446) -/

/-- A refused, aborted or curtailed request. `kind` is 0 for a state and 1 for a point. -/
def powerRefuse (s : State) (refuser kind target code : Nat) : State :=
  let s := wrN s R.PWR_REFUSE_LAST (refuser + 2 ^ 4 * kind + 2 ^ 8 * target + 2 ^ 16 * code)
  let k := (refuser - 1) / 2
  let s := fincSat s (if refuser % 2 = 1 then F.PWR_REFUSE_CNT.ODD k else F.PWR_REFUSE_CNT.EVEN k)
  let s := raiseSys s E.PWR_STATUS.REFUSED
  if refuser = 7 then powerEvent s cNoAck 0x03 1
  else if refuser = 6 then powerEvent s cOpRefused 0x03 2
  else s

/-! ## Operating points (R447 to R451) -/

/-- VDD_CORE and VDD_LOFT of a point in mV, and its LPDDR5X rate in MT/s (R6, R30). -/
def vCore (op : Nat) : Nat := [550, 600, 650, 700, 720, 750, 830, 900].getD op 0
def vLoft (op : Nat) : Nat := [600, 600, 650, 700, 720, 750, 830, 900].getD op 0
def dramRate (op : Nat) : Nat := [3200, 3200, 6400, 6400, 8533, 8533, 8533, 8533].getD op 0

/-- The part's highest permitted point (R2). -/
def maxPoint (s : State) : Nat := fget s F.CHIP_VARIANT.MAX_OP

/-- The counted functions (R441). -/
def counted (s : State) : List Nat := onesOf 32 (rdN s R.PWR_VOTE_MASK)

/-- The requested point (R447). -/
def requestedPoint (s : State) : Nat :=
  (counted s).foldl (fun m f => max m (fget s (F.PWR_VOTE.OP_MIN f))) (fget s F.PWR_OP_REQ.OP)

/-- The armed privileged streams, and the highest FLOOR_OP among them (R203). -/
def armedPriv (s : State) : List Nat := (upTo 32).filter fun n => streamArmed s n && streamPriv s n
def floorPoint (s : State) : Nat := (armedPriv s).foldl (fun m n => max m (fget s (F.PIT_S_CFG.FLOOR_OP n))) 0

/-- The voltage writes of a step to a point: the Loft's first on the way up. -/
def avsSteps (a b : Nat) : List AvsStep :=
  let core : AvsStep := ⟨0, vCore b, 0, false, false⟩
  let loft : List AvsStep := if vLoft a = vLoft b then [] else [⟨1, vLoft b, 0, false, false⟩]
  if a < b then loft ++ [core] else core :: loft

/-- The rail select of a rail (PWR_AVS_CFG). -/
def railSel (s : State) (rail : Nat) : Nat := fget s (if rail = 0 then F.PWR_AVS_CFG.RAIL_CORE else F.PWR_AVS_CFG.RAIL_LOFT)

/-- Send the write frames of voltage steps. -/
def sendAvs (s : State) (l : List AvsStep) : State := l.foldl (fun s x => send s (.avs (railSel s x.rail) x.mv)) s

/-- Start a move (R447, R448): voltages first on the way up, edge clocks first on the way down. -/
def startMove (s : State) (b : Nat) : State :=
  let a := fget s F.PWR_STATE.CUR_OP
  if a = b then s
  else
    let s := fset (fset (fset s F.PWR_STATE.TARGET_OP b) F.PWR_STATE.MOVING 1) F.PWR_STATE.CUR_OP (min a b)
    let sw := dramRate a != dramRate b && fbit s F.MEMC_STATE.TRAINED
    if a < b then
      let l := avsSteps a b
      sendAvs (modPwr s fun p => { p with move := some ⟨a, b, .no, true, l⟩ }) l
    else if sw then modPwr s fun p => { p with move := some ⟨a, b, .due, false, []⟩ }
    else
      let l := avsSteps a b
      sendAvs (modPwr s fun p => { p with move := some ⟨a, b, .set, true, l⟩ }) l

/-- Move to the accepted point, no further than the thermal cap (R447, R452), unless a move, a held point or an entry is in
the way. -/
def followGoal (s : State) : State :=
  if s.pwr.move.isSome || fbit s F.PWR_STATE.HELD || s.pwr.entry.isSome then s
  else startMove s (min s.pwr.goal (fget s F.PWR_STATE.CAP_OP))

/-- Check the requested point and move to it (R447). -/
def tryPoint (s : State) (r : Nat) : State :=
  if r < floorPoint s then powerRefuse s 1 1 r cOpRefused
  else if maxPoint s < r then powerRefuse s 2 1 r cOpRefused
  else
    let s := modPwr s fun p => { p with goal := r }
    followGoal (if fget s F.PWR_STATE.CAP_OP < r then powerRefuse s 6 1 r cOpRefused else s)

/-- Evaluate the requested point when it has changed, unless a move or a held point is in the way (R447, R450); House Lights
stays at OP0 (R472). -/
def evalPoint (s : State) : State :=
  let r := requestedPoint s
  if s.pwr.move.isSome || fbit s F.PWR_STATE.HELD || s.pwr.entry.isSome || bootState s == bLights || r == s.pwr.req then s
  else tryPoint (modPwr s fun p => { p with req := r }) r

/-! ## Wake events (R439, R440) -/

/-- A wake event: an entry before its commit point is aborted; after it, or in a deep state, exit follows. -/
def wakeEvent (s : State) : State :=
  match s.pwr.entry with
  | some e =>
    if e.committed then modPwr s fun p => { p with wake := true }
    else evalPoint (powerRefuse (modPwr s fun p => { p with entry := none, req := 8 }) 8 0 e.target cStateRefused)
  | none => if pwrState s = pGreen ∨ pwrState s = pDark then modPwr s fun p => { p with wake := true } else s

/-! ## Crystals and loops (R211, R455 to R457) -/

def xtal (s : State) (x : Nat) : Xtal := if x = 0 then s.pwr.xa else s.pwr.xb
def modXtal (s : State) (x : Nat) (f : Xtal → Xtal) : State :=
  if x = 0 then modPwr s fun p => { p with xa := f p.xa } else modPwr s fun p => { p with xb := f p.xb }

/-- The crystal a loop normally runs from: XA for ML0 to ML4, XB for ML5. -/
def normalXtal (n : Nat) : Nat := if n = 5 then 1 else 0

/-- Whether a loop runs on its alternate reference, and the crystal it runs from. -/
def onAlt (s : State) (n : Nat) : Bool := bit (fget s F.CLK_LOOP_REF.ALT) n
def loopXtal (s : State) (n : Nat) : Nat := if onAlt s n then 1 - normalXtal n else normalXtal n

/-- The pixel clock of an output in force (R246): as written while EN is 0, else as it was when EN was set. -/
def pclk (s : State) (o : Nat) : Nat :=
  if fbit s (F.PROSC_DO_CFG.EN o) then aget s (F.PROSC_DO_PCLK.PCLK_KHZ o) else fget s (F.PROSC_DO_PCLK.PCLK_KHZ o)

/-- The output frequency of a loop in kHz (R455): ML0 half the memory's transfer rate, ML2 and ML3 the pixel clocks of
outputs 0 and 1; ML5's 90,316.8 kHz is shown to the nearest. -/
def loopKhz (s : State) (n : Nat) : Nat :=
  match n with
  | 0 => dramRate (fget s F.PWR_STATE.CUR_OP) * 500
  | 1 => 100000
  | 2 => pclk s 0
  | 3 => pclk s 1
  | 4 => 98304
  | _ => 90317

/-- A loop locks, or is to lock again. -/
def loopLock (s : State) (n : Nat) : State :=
  fset (fset s (F.CLK_ML_FREQ.KHZ n) (loopKhz s n)) (F.CLK_ML_FREQ.LOCKED n) 1
def loopUnlock (s : State) (n : Nat) : State := fset (fset s (F.CLK_ML_FREQ.KHZ n) 0) (F.CLK_ML_FREQ.LOCKED n) 0

/-- Move a loop to its normal or alternate reference, phase-aligned (R211, R455); it locks again. -/
def setRef (s : State) (n : Nat) (alt : Bool) : State :=
  let s := fset s F.CLK_LOOP_REF.ALT (putBits (fget s F.CLK_LOOP_REF.ALT) n n (b2n alt))
  let s := if n = 4 then fset s F.PIT_CLK_STATUS.ML4_ON_XB (b2n alt) else s
  let s := if n = 5 then fset s F.PIT_CLK_STATUS.ML5_ON_XA (b2n alt) else s
  loopUnlock s n

end Sys2Proof.Machine
end

