-- ==== Sys2Proof/Machine/Reset.lean ====
section
/-! DEFINITION. Resets (spec/15_reset_boot_security.md R459 to R463, spec/00_scope.md R21): what each level restores and
stops, the reach table, and how overlapping resets resolve. -/

namespace Sys2Proof.Machine

open Sys2Proof

/-! ## What a level restores (R21) -/

/-- Whether a row of the register table holds a register. -/
def rowHas (r : RegRow) (a : Nat) : Bool :=
  let d := a - r.addr
  decide (r.addr ≤ a) &&
    (if r.n1 ≤ 1 then d % r.s2 == 0 && decide (d / r.s2 < r.n2)
     else decide (d / r.s1 < r.n1) && d % r.s1 % r.s2 == 0 && decide (d % r.s1 / r.s2 < r.n2))

/-- The narrowest level that restores a register. -/
def levelOf (a : Nat) : Nat := ((regTable.find? (rowHas · a)).map (·.level)).getD 0

/-- The registers with those that meet `p` at their reset values. -/
def restored (m : SMap W32) (p : Nat → Bool) : SMap W32 :=
  (resetWords.filter fun w => p w.1).foldl (fun m w => minsert w.1 w.2 m) (m.filter fun w => !p w.1)

/-- Whether a register lies in a function's BAR0 page. -/
def inPage (fn a : Nat) : Bool := inRange a (0x1000000 + fn * 0x10000) 0x10000

/-! ## L3 and L2 -/

/-- Whether an enabled Curtain names a context (R259). -/
def curtainNames (s : State) (cid : Nat) : Bool :=
  (upTo 3).any fun o => fbit s (F.PROSC_DO_CURTAIN_CTRL.EN o) && fget s (F.PROSC_DO_CURTAIN_CTRL.CID o) == cid

/-- The contexts of a function that an L3 destroys (R324). -/
def doomed (s : State) (fn : Nat) : List Nat :=
  (s.ctxs.filter fun p => p.2.state != .free && fnOfCid s p.1 == some fn && !partPriv s p.2.part &&
    !curtainNames s p.1).map (·.1)

/-- The rings of a function are aborted and then disabled (R298). -/
def resetRings (s : State) (fn : Nat) : State :=
  ((s.rings.filter fun p => p.1 / 1024 == fn && p.2.state != .off).map (·.1)).foldl resetRing s

/-- Whether an L3 of a function, or an L2 (`l2`), aborts a context's pass or compression (R241, R432): both spare the chains
of privileged streams (R204, R298), an L2 also what runs in privileged partitions. -/
def engineReset (l2 : Bool) (s : State) (fn : Nat) (c : CueRun) : Bool :=
  (c.opc == 3 || c.opc == 6 || c.opc == 7) && fnOfCid s c.cid == some fn && !isChain s c.src &&
    !(l2 && partPriv s (ctxOf s c.cid).part)

/-- A stream's chain cues stop (R205): none of them goes on. -/
def stopChain (s : State) (n : Nat) : State :=
  stopCues { s with follows := s.follows.filter (·.src != .stream n) } (·.src == .stream n) cCtxLost

/-- What an L3 of a function stops (R204, R265, R298, R324, R383, R459): its rings, streams, layers, contexts, ATS
translations, attestation request and measurement registers; `l2` when an L2 does it, which spares the layers of owners in
privileged partitions. -/
def stopFn (l2 : Bool) (s : State) (fn : Nat) : State :=
  let cs := (s.ctxs.filter fun p => fnOfCid s p.1 == some fn && !(l2 && partPriv s p.2.part)).map (·.1)
  let s := resetRings (cs.foldl (stopLayers true) s) fn
  let mine := fun (n : Nat) => !streamPriv s n && fnOfCid s (streamCid s n) == some fn
  let ns := (upTo 32).filter fun n => streamArmed s n && mine n
  let s := ns.foldl (fun s n => forceDisarm (stopChain s n) n) (dropArming s mine)
  let s := stopCues s (engineReset l2 s fn) cAborted
  let s := (doomed s fn).foldl (fun s c => modCtx s c fun x => { x with byReset := true }) s
  let s := ((doomed s fn).filter fun c => (ctxOf s c).state != .dying).foldl destroyStart s
  let s :=
    { s with
      tc := s.tc.filter fun e => !e.ats || e.owner != fn
      invs := s.invs.filter (·.kind != .cmd fn)
      atsReqs := s.atsReqs.filter (·.fn != fn)
      hostFails := s.hostFails.filter (·.fn != fn)
      atsEn := putBits s.atsEn fn fn 0
      msix := s.msix.filter fun p => p.1 / 64 != fn
      waitAcc := s.waitAcc.filter fun a => match a.path with | .bar0 f => f.val != fn | _ => true }
  modBoot (showInvs s) fun b =>
    { b with
      attQ := b.attQ.filter (·.fn != fn)
      signing := match b.signing with
        | some (r, _) => if r.fn = fn then none else b.signing
        | none => none
      exts := b.exts.filter (·.1 != fn)
      mrs := b.mrs.filter fun p => p.1 / 8 != fn }

/-- L3 (R459): one function. -/
def resetL3 (s : State) (fn : Nat) : State :=
  let s := stopFn false s fn
  evalPoint { s with regs := restored s.regs fun a => inPage fn a && levelOf a == 3 }

/-- L2 (R394, R459): every function, and the HOST domain with the PCI Express link, without which no unit is the head.
Accesses from the host that still wait for a domain are discarded; those of the other paths go on. -/
def resetL2 (s : State) : State :=
  let s := (upTo 32).foldl (stopFn true) s
  let s := { s with regs := restored s.regs fun a => decide (2 ≤ levelOf a) && decide (levelOf a ≤ 3) }
  let s := { s with waitAcc := s.waitAcc.filter fun a => match a.path with | .bar0 _ | .bar2 => false | _ => true }
  let s := fset (setDom s dHost false) F.RST_PENDING.PENDING (putBits (fget s F.RST_PENDING.PENDING) dHost dHost 0)
  evalPoint (modLink s)
where
  modLink (s : State) : State := fset { s with link := { s.link with pcie := false } } F.UL_SELF.HEAD 0

/-! ## L1 and L0 -/

/-- Balls of the groups of a domain during reset (R513). -/
def ballsDuring (b : List Nat) : List Nat := List.replicate 4 0 ++ b.drop 4

/-- The memories as an L1 or L0 leaves them: their contents stay, but every entry of the fence table is clear (R324). -/
def tableless (s : State) : SMap Byte := if carved s then (clearTable s).mem else s.mem

/-- L1 (R459): everything but AON; the contents of the memories are left as they are, but for the fence table. FIO, on
which the start that follows counts, runs (R468). -/
def resetL1 (s : State) : State :=
  let s' :=
    { State.reset with
      pending := s.pending
      regs := restored s.regs fun a => decide (1 ≤ levelOf a)
      bus := s.bus
      free := s.free
      fio := true
      mem := tableless s
      out := s.out
      recorder := s.recorder
      repairs := s.repairs
      flash := s.flash
      sdio := s.sdio
      pwr := { s.pwr with entry := none, wake := false, waking := 0, sampling := false, hits := 0, gated := 0 }
      boot := { BootSt.off with
        head := s.boot.head
        fuses := s.boot.fuses
        shadow := s.boot.shadow
        fault := s.boot.fault
        resetN := s.boot.resetN
        perst := s.boot.perst
        trip := s.boot.trip
        cold := s.boot.cold
        lastShutdown := s.boot.lastShutdown
        loftBad := s.boot.loftBad
        balls := ballsDuring s.boot.balls } }
  fset (fset (fset (fset s' F.PWR_DOMAIN_ON.ON 0) F.RST_PENDING.PENDING 0) F.PWR_STATE.STATE pActive)
    F.RST_BOOT_STATE.STATE bClocks

/-- L0 (R459): everything; fuses and what the board drives stay. SIO and FIO run from the start (R468 step 1). -/
def resetL0 (s : State) : State :=
  { State.reset with
    pending := s.pending
    bus := s.bus
    free := s.free
    fio := true
    mem := tableless s
    out := s.out
    flash := s.flash
    boot := { BootSt.off with
      head := s.boot.head
      fuses := s.boot.fuses
      resetN := s.boot.resetN
      perst := s.boot.perst
      trip := s.boot.trip
      loftBad := s.boot.loftBad } }

/-! ## The reach table (R460, R461) -/

/-- The default level of each source, 9 for NONE, and the permitted levels. -/
def reachTable : List (Nat × List Nat) :=
  [(0, [0]), (0, [0, 1]), (2, [1, 2]), (2, [1, 2]), (2, [2]), (3, [3]), (9, [9, 1, 0]), (0, [0, 1]), (1, [1, 0]), (2, [2]),
    (1, [1, 0]), (1, [1, 9]), (1, [1, 0]), (1, [1, 0])]

/-- The level a code of the REACH row selects. -/
def reachCode (c : Nat) : Option Nat :=
  match c with
  | 1 => some 0
  | 2 => some 1
  | 3 => some 2
  | 4 => some 3
  | 5 => some 9
  | _ => none

/-- The level of a source, and whether its entry is bad. -/
def reachOf (row i : Nat) : Nat × Bool :=
  let e := reachTable.getD i (9, [])
  let c := bits row (3 * i + 2) (3 * i)
  match reachCode c with
  | some l => if e.2.contains l then (l, false) else (e.1, true)
  | none => (e.1, c != 0)

/-- Whether some entry of the row is bad (R461); the reserved ones permit no level. -/
def reachBad (row : Nat) : Bool := (upTo 16).any fun i => (reachOf row i).2

/-! ## Sources (R460 to R463) -/

/-- Count a source (R463). -/
def countSource (s : State) (i : Nat) : State :=
  fincSat s (if i % 2 = 0 then F.RST_SRC_CNT.EVEN (i / 2) else F.RST_SRC_CNT.ODD (i / 2))

/-- Whether a reset of a level is absorbed by one in progress (R463). -/
def absorbed (s : State) (level fn : Nat) : Bool :=
  match s.boot.level with
  | some l => decide (l ≤ level)
  | none => level == 3 && s.boot.l3.contains fn

/-- Carry out a reset of a level, which is then in progress (R459, R463, R469). -/
def doReset (s : State) (level fn : Nat) : State :=
  let failed := s.boot.counted
  match level with
  | 3 => modBoot (resetL3 s fn) fun b => { b with l3 := b.l3 ++ [fn] }
  | 2 => modBoot (resetL2 s) fun b => { b with level := some 2, l3 := [] }
  | 1 =>
    let s := modBoot (resetL1 s) fun b => { b with level := some 1 }
    if failed then raiseRst s E.RST_EVENT.START_FAIL else s
  | _ =>
    let s := modBoot (resetL0 s) fun b => { b with level := some 0, cold := some false }
    if failed then raiseRst s E.RST_EVENT.START_FAIL else s

/-- Whether a source that asserts in the same SIO cycle as the reset in progress wins the tie at its level (R463). -/
def winsTie (s : State) (i level : Nat) : Bool :=
  (match s.boot.level with | some l => l == level | none => level == 3) && decide (i < fget s F.RST_CAUSE.SOURCE)

/-- A source asserts at a level (R442, R463): absorbed, or carried out with RST_CAUSE. Every source is counted; NONE (9)
resets nothing, and in OFF_READY nothing does but power-on and RESET_N. `same` tells that it asserts in the SIO cycle of the
reset in progress: of two at one level RST_CAUSE then shows the lower index. -/
def assertAt (s : State) (i level fn : Nat) (same : Bool) : State :=
  if 4 ≤ level || (pwrState s == pOff && decide (2 ≤ i)) then countSource s i
  else if absorbed s level fn then
    let s := if same && winsTie s i level then fset s F.RST_CAUSE.SOURCE i else s
    countSource (raiseRst s E.RST_EVENT.ABSORBED) i
  else
    let s := fset (fset (doReset s level fn) F.RST_CAUSE.SOURCE i) F.RST_CAUSE.LEVEL level
    countSource (if level = 3 then fset s F.RST_CAUSE.FUNCTION fn else s) i

/-- A source asserts (R460): its level is its entry's in the reach table. -/
def assertSource (s : State) (i fn : Nat) : State := assertAt s i (reachOf s.boot.shadow.reach i).1 fn false

/-- A source asserts, perhaps in the SIO cycle of the one before it (R463). -/
def assertWith (s : State) (i fn : Nat) (same : Bool) : State := assertAt s i (reachOf s.boot.shadow.reach i).1 fn same

/-- A firmware request names a level, and is carried out no wider than its entry (R461). -/
def firmwareReset (s : State) (level : Nat) : State := assertAt s 13 (max level (reachOf s.boot.shadow.reach 13).1) 0 false

end Sys2Proof.Machine
end

