-- ==== Sys2Proof/Machine/Operands.lean ====
section
/-! DEFINITION. Instruction words (spec/02_thread_groups.md R71 to R77, R86 to R89): their fields, the checks that raise
ILLEGAL_INSTR, and a thread's registers and predicates. -/

namespace Sys2Proof.Machine

open Sys2Proof

/-! ## Fields -/

def wClass (w : Nat) : Nat := bits w 63 60
def wOp (w : Nat) : Nat := bits w 59 54
def wPn (w : Nat) : Bool := bit w 53
def wPred (w : Nat) : Nat := bits w 52 50
/-- The four 8-bit fields of formats A, I, M and X, highest first. -/
def wF3 (w : Nat) : Nat := bits w 47 40
def wF2 (w : Nat) : Nat := bits w 39 32
def wF1 (w : Nat) : Nat := bits w 31 24
def wF0 (w : Nat) : Nat := bits w 23 16
def wImm32 (w : Nat) : Nat := bits w 31 0
def wImmb (w : Nat) : Bool := bit w 11
def wMod (w : Nat) : Nat := bits w 10 8
def wType (w : Nat) : Nat := bits w 15 12
def wJoin (w : Nat) : Int := sx 24 (bits w 49 26)
def wTarget (w : Nat) : Int := sx 24 (bits w 25 2)
def wSpace (w : Nat) : Bool := bit w 49
def wRet (w : Nat) : Bool := bit w 48
def wOrder (w : Nat) : Nat := bits w 23 22
def wScope (w : Nat) : Nat := bits w 21 19
def wSize (w : Nat) : Nat := bits w 18 16
def wStag (w : Nat) : Nat := bits w 15 12
def wOffset (w : Nat) : Int := sx 12 (bits w 11 0)
def wBid (w : Nat) : Nat := bits w 47 44
def wSScope (w : Nat) : Nat := bits w 43 41
def wSOrder (w : Nat) : Nat := bits w 40 39

/-- The access size in bytes of format M. -/
def wBytes (w : Nat) : Nat := 2 ^ wSize w
/-- The registers a data operand of that size takes. -/
def wRegs (w : Nat) : Nat := ceilDiv (wBytes w) 4

/-! ## Validity (R68, R71 to R77, R86 to R89) -/

/-- Whether register indices `r` to `r + k - 1` may be named with `n` registers; 255 names vz (R68). -/
def regOk (n r k : Nat) : Bool := r == 255 || decide (r + k ≤ n)

/-- Whether reserved bits of the word's format are zero (R71, R72). -/
def reservedOk (w : Nat) : Bool :=
  match wClass w with
  | 0 => bits w 1 0 == 0
  | 7 => true
  | 8 => true
  | 9 => true
  | 10 => bits w 49 48 == 0 && bits w 38 0 == 0
  | 11 => bits w 49 48 == 0 && bits w 5 0 == 0
  | 12 => bits w 49 48 == 0
  | 13 => bits w 49 48 == 0
  | _ => bits w 49 48 == 0 && bits w 7 0 == 0

/-- Whether OP is defined for the class; the encodings of CTRL, IALU, FALU, CVT, XFN, CMP, SYS and MOVI are not stated. -/
def opOk (w : Nat) : Bool :=
  match wClass w with
  | 6 => decide (0x10 ≤ wOp w) && decide (wOp w ≤ 0x1B)
  | 7 => decide (wOp w ≤ 1)
  | 8 => decide (wOp w ≤ 4)
  | 9 => decide (wOp w ≤ 0xA)
  | 10 => decide (wOp w ≤ 4)
  | 11 => decide (wOp w ≤ 1)
  | c => decide (c < 14) && Config.opDefined c (wOp w)

/-- The checks of format M (R73, R75), `n` the thread's registers. Registers that an instruction does not use are not
checked: SRC2 but in RMW.CMPSWAP, where it must fit and need not be even at 64 bits; DATA of LINE.ZERO and LINE.HINT. The
spec asks for an even DATA only, and does not say whether an unused field names a register (DESIGN CHOICE, log 50). -/
def memOk (w n : Nat) : Bool :=
  let cls := wClass w
  let op := wOp w
  let ctx := cls == 8 || (cls == 9 && !wSpace w)
  let noData := cls == 8 && decide (3 ≤ op)
  decide (wSize w ≤ 4) && decide (wScope w ≤ 4) &&
    (cls == 9 || !wSpace w) &&
    (!ctx || wF2 w % 2 == 0) && regOk n (wF2 w) (if ctx then 2 else 1) &&
    (noData || ((wSize w != 3 || wF3 w % 2 == 0) && (wSize w != 4 || wF3 w % 4 == 0) && regOk n (wF3 w) (wRegs w))) &&
    (cls != 7 || (wOrder w == 0 && wScope w == 0)) &&
    (!noData || (wOrder w == 0 && wScope w == 0)) &&
    (!(cls == 8 && op == 3) || wSize w == 0) &&
    (cls != 9 || ((wSize w == 2 || wSize w == 3) && (op != 10 || wSize w == 2) && (!wSpace w || wSize w == 2) &&
      (op != 9 || regOk n (wF1 w) (wRegs w))))

/-- The checks of SYNC (R76). R76 does not say that the fields an operation does not use are zero: BID, SCOPE and ORDER of
MREGION.BEGIN and MREGION.END, and BID of FENCE, may hold anything (DESIGN CHOICE, log 12). -/
def syncOk (w : Nat) : Bool :=
  match wOp w with
  | 0 => decide (wSScope w ≤ 1) && wSOrder w == 0
  | 1 => decide (wSScope w ≤ 1) && wSOrder w == 0
  | 2 => decide (wSScope w ≤ 4) && wSOrder w != 0
  | _ => wPred w == 7 && !wPn w

/-- Width class and K of a matrix element type: its bits, and the SHAPE its class requires (R88). -/
def matType (code : Nat) : Option (Nat × Nat) :=
  match code with
  | 0 => some (16, 0)
  | 1 => some (16, 0)
  | 2 => some (8, 1)
  | 3 => some (8, 1)
  | 4 => some (8, 3)
  | 6 => some (4, 2)
  | _ => none

/-- The SHAPE code of a class number of `matType`: 8-bit integers share SHAPE 1 with 8-bit floats. -/
def shapeOf (cls : Nat) : Nat := if cls = 3 then 1 else cls

/-- The checks of MATRIX (R76, R88, R89). -/
def matOk (w n : Nat) : Bool :=
  match matType (wType w), matType (bits w 11 8) with
  | some (_, a), some (_, b) =>
    wPred w == 7 && !wPn w && a == b && bits w 7 6 == shapeOf a && wF2 w % 4 == 0 && wF1 w % 4 == 0 &&
      wF3 w % 8 == 0 && decide (wF2 w + 4 ≤ n) && decide (wF1 w + 4 ≤ n) && decide (wF3 w + 8 ≤ n) &&
      (if wOp w = 1 then wF0 w == 0 else wF0 w == 255 || (wF0 w % 8 == 0 && decide (wF0 w + 8 ≤ n)))
  | _, _ => false

/-- The checks of GROUP (R77). -/
def groupOk (w n : Nat) : Bool :=
  let op := wOp w
  let poll := decide (0x14 ≤ op) && decide (op ≤ 0x17)
  let setsPred := op == 0x14 || op == 0x15
  decide (wMod w ≤ 4) && (op != 0x16 || wMod w == 4) && (setsPred || regOk n (wF3 w) 1) &&
    (poll || regOk n (wF2 w) 1) && (!(decide (op ≤ 0x12) && !wImmb w) || regOk n (wF1 w) 1)

/-- The register checks of the arithmetic classes: every operand of format A is named (R68). -/
def aluOk (w n : Nat) : Bool :=
  (wClass w == 5 || regOk n (wF3 w) 1) && regOk n (wF2 w) 1 && (wImmb w || regOk n (wF1 w) 1) && regOk n (wF0 w) 1

/-- Whether a word raises ILLEGAL_INSTR in a thread with `n` registers (R68, R71, R73, R75 to R77, R88, R89). The SA field of
format I (SYS, MOVI) names no operand: it is neither checked as a register nor required to be zero (DESIGN CHOICE, log 12).
-/
def badWord (w n : Nat) : Bool :=
  !reservedOk w || !opOk w ||
    !(match wClass w with
      | 0 => true
      | 6 => groupOk w n
      | 7 => memOk w n
      | 8 => memOk w n
      | 9 => memOk w n
      | 10 => syncOk w
      | 11 => matOk w n
      | 12 => regOk n (wF3 w) 1
      | 13 => regOk n (wF3 w) 1
      | _ => aluOk w n)

/-! ## Pairs (R66, R67) -/

/-- The units an instruction may take, each choice a mask: VA 1, VB 2, memory 4, control 8. -/
def wUnits (w : Nat) : List Nat :=
  match wClass w with
  | 1 | 2 | 5 | 13 => [1, 2]
  | 3 | 4 => [2]
  | 7 | 8 | 9 => [4]
  | 11 => [3]
  | _ => [8]

/-- Whether an instruction polls a predicate (R77). -/
def wPolls (w : Nat) : Bool := wClass w == 6 && decide (0x14 ≤ wOp w) && decide (wOp w ≤ 0x17)

/-- The registers that an instruction writes and reads, as first register and count, and the predicates, as a mask. -/
def wWrites (w : Nat) : List (Nat × Nat) :=
  match wClass w with
  | 1 | 2 | 3 | 4 | 12 | 13 => [(wF3 w, 1)]
  | 6 => if wOp w = 0x14 ∨ wOp w = 0x15 then [] else [(wF3 w, 1)]
  | 7 => if wOp w = 0 then [(wF3 w, wRegs w)] else []
  | 8 => if wOp w = 0 ∨ wOp w = 2 then [(wF3 w, wRegs w)] else []
  | 9 => if wRet w then [(wF3 w, wRegs w)] else []
  | _ => []
def wReads (w : Nat) : List (Nat × Nat) :=
  match wClass w with
  | 1 | 2 | 3 | 4 | 5 => [(wF2 w, 1), (wF0 w, 1)] ++ if wImmb w then [] else [(wF1 w, 1)]
  | 6 => if wPolls w then [] else (wF2 w, 1) :: if wOp w ≤ 0x12 ∧ !wImmb w then [(wF1 w, 1)] else []
  | 7 => (wF2 w, 1) :: if wOp w = 1 then [(wF3 w, wRegs w)] else []
  | 8 => (wF2 w, 2) :: if wOp w = 1 then [(wF3 w, wRegs w)] else []
  | 9 => [(wF2 w, if wSpace w then 1 else 2), (wF3 w, wRegs w)] ++ if wOp w = 9 then [(wF1 w, wRegs w)] else []
  | _ => []
def wPredsSet (w : Nat) : Nat :=
  if wClass w = 5 ∨ (wClass w = 6 ∧ (wOp w = 0x14 ∨ wOp w = 0x15)) then 2 ^ (wF3 w % 8) else 0
def wPredsUsed (w : Nat) : Nat := 2 ^ wPred w ||| wPredsSet w ||| if wPolls w then 2 ^ (wF2 w % 8) else 0

/-- Whether an instruction is a branch, barrier or matrix instruction. -/
def wAlone (w : Nat) : Bool := wClass w == 0 || wClass w == 11 || (wClass w == 10 && decide (wOp w ≤ 1))

/-- Whether the second of two instructions reads or writes a register or predicate that the first writes; vz and p7 are
neither. -/
def wDepends (a b : Nat) : Bool :=
  ((wReads b ++ wWrites b).any fun r => (wWrites a).any fun q => r.1 != 255 && q.1 != 255 && overlaps r.1 r.2 q.1 q.2) ||
    wPredsSet a % 128 &&& wPredsUsed b != 0

/-- Whether two instructions may issue in one beat (R66, R67): different units; from one group, consecutive for the same
threads, neither one that issues alone, and independent; from two groups, of different schedulers. -/
def mayPair (a b : Issued) : Bool :=
  ((wUnits a.word).any fun u => (wUnits b.word).any fun v => u &&& v == 0) &&
    if a.slot = b.slot then
      b.pc == (a.pc + 8) % 2 ^ 48 && a.lanes == b.lanes && !wAlone a.word && !wAlone b.word && !wDepends a.word b.word
    else Config.scheduler a.slot != Config.scheduler b.slot

/-! ## Registers and predicates of a thread (R68) -/

/-- A register's value; vz reads as zero. -/
def Thread.get (t : Thread) (r : Nat) : Nat := if r = 255 then 0 else (mget 0 t.regs r).toNat

/-- Write a register; a write to vz is discarded. -/
def Thread.set (t : Thread) (r v : Nat) : Thread :=
  if r = 255 then t else { t with regs := mput 0 t.regs r (BitVec.ofNat 32 v) }

/-- The `k` registers from `r` as one number, low word first; from vz all read as zero. -/
def Thread.getN (t : Thread) (r : Nat) : Nat → Nat
  | 0 => 0
  | k + 1 => t.get r + 2 ^ 32 * t.getN (if r = 255 then 255 else r + 1) k

/-- Write `k` registers from `r`, low word first. -/
def Thread.setN (t : Thread) (r : Nat) : Nat → Nat → Thread
  | 0, _ => t
  | k + 1, v => (t.set r v).setN (if r = 255 then 255 else r + 1) k (v / 2 ^ 32)

/-- A predicate: p7 is always true. -/
def Thread.pred (t : Thread) (p : Nat) : Bool := p == 7 || bit t.preds p

/-- Write a predicate; there is no p7 to write, and the spec does not say what an instruction that names one does: the write
is discarded (DESIGN CHOICE, log 50). -/
def Thread.setPred (t : Thread) (p : Nat) (b : Bool) : Thread :=
  if p = 7 then t else { t with preds := putBits t.preds p p (b2n b) }

/-- The guard of a word in a thread (R71). -/
def Thread.guard (t : Thread) (w : Nat) : Bool := t.pred (wPred w) != wPn w

/-- A thread that has exited; also what an absent lane reads as. -/
def Thread.gone : Thread := ⟨0, .exited, [], [], [], 0, 0⟩

/-- Whether a thread has not exited. -/
def Thread.live (t : Thread) : Bool := t.stat != .exited

/-- Lane `l` of a group. -/
def Group.th (g : Group) (l : Nat) : Thread := g.threads.getD l Thread.gone

/-- Change the lanes of a group in a list. -/
def Group.mapLanes (g : Group) (ls : List Nat) (f : Nat → Thread → Thread) : Group :=
  { g with threads := (upTo 32).map fun l => if ls.contains l then f l (g.th l) else g.th l }

/-- The lanes of a group that meet `p`. -/
def Group.lanesOf (g : Group) (p : Thread → Bool) : List Nat := (upTo 32).filter fun l => p (g.th l)

end Sys2Proof.Machine
end

