-- ==== Sys2Proof/Machine/Shader.lean ====
section
/-! DEFINITION. Shader cores (spec/02_thread_groups.md): placing workgroups, issue, divergence, control instructions,
arithmetic, barriers, matrix regions, group-wide data and faults. -/

namespace Sys2Proof.Machine

open Sys2Proof

/-! ## Groups and faults -/

/-- The group in a slot of a core, and its workgroup. -/
def groupAt (s : State) (c slot : Nat) : Option Group := (coreOf s c).groups.find? (·.slot == slot)
def wgOf (s : State) (c : Nat) (g : Group) : Option Wg := (coreOf s c).wgs.find? (·.id == g.wg)

/-- Replace a group, or a workgroup, of a core. -/
def putGroup (s : State) (c : Nat) (g : Group) : State :=
  modCore s c fun k => { k with groups := mapWhere (·.slot == g.slot) (fun _ => g) k.groups }
def putWg (s : State) (c : Nat) (w : Wg) : State :=
  modCore s c fun k => { k with wgs := mapWhere (·.id == w.id) (fun _ => w) k.wgs }

/-- A core records a fault of a thread's group (R105): the group issues nothing more. -/
def coreFault (s : State) (c : Nat) (w : Wg) (g : Group) (code lane pc : Nat) (addr : Option Nat) (iword : Nat) (wide : Bool) :
    State :=
  let r := faultRec code (lcoreOf s c) c w.cid g.slot lane pc addr iword wide
  let s := modCore s c fun k => { k with faults := k.faults ++ [⟨w.cid, r, some w.uid⟩] }
  putGroup s c { g with halted := true }

/-! ## Parking and merging (R79) -/

/-- Threads that run and stand at the top of their join stack park there, when the group has issued `now` instructions. -/
def parkTops (now : Nat) (g : Group) : Group :=
  g.mapLanes (upTo 32) fun _ t =>
    match t.joins with
    | j :: _ => if t.stat = .run ∧ t.pc = j.addr then { t with stat := .parked now } else t
    | [] => t

/-- Whether every live thread that holds a join entry has parked at it. -/
def joinComplete (g : Group) (id : Nat) : Bool :=
  (upTo 32).all fun l =>
    let t := g.th l
    !t.live || !(t.joins.any (·.id == id)) ||
      ((match t.stat with | .parked _ => true | _ => false) && (t.joins.head?.map (·.id)) == some id)

/-- The entry a parked thread waits at. -/
def parkedAt (t : Thread) : Option Nat :=
  match t.stat, t.joins with
  | .parked _, j :: _ => some j.id
  | _, _ => none

/-- Pop the entry of every thread that is parked at a complete one. -/
def popComplete (g : Group) : Group :=
  g.mapLanes (upTo 32) fun _ t =>
    match parkedAt t with
    | some id => if joinComplete g id then { t with stat := .run, joins := t.joins.drop 1 } else t
    | none => t

/-- Parking and merging until nothing changes: a thread has at most 8 entries. -/
def settleN (now : Nat) : Nat → Group → Group
  | 0, g => g
  | n + 1, g => settleN now n (popComplete (parkTops now g))

/-- Parking and merging after a group's threads have moved, when it has issued `now` instructions (R79). -/
def settle (now : Nat) (g : Group) : Group := parkTops now (settleN now 8 g)

/-- Move the listed lanes to the next instruction, by an instruction that is being issued. -/
def Group.advance (g : Group) (ls : List Nat) : Group :=
  settle (g.issued + 1) (g.mapLanes ls fun _ t => { t with pc := (t.pc + 8) % 2 ^ 48 })

/-- The listed lanes have issued one more instruction of their group (R79, R80). -/
def Group.issuedBy (g : Group) (ls : List Nat) : Group :=
  { g.mapLanes ls fun _ t => { t with last := g.issued + 1 } with issued := g.issued + 1 }

/-! ## Barriers (R82 to R84) -/

/-- The number of a thread in its workgroup. -/
def threadNo (g : Group) (l : Nat) : Nat := g.idx * 32 + l

/-- The live threads of a workgroup, by number. -/
def wgLive (s : State) (c : Nat) (w : Wg) : List Nat :=
  (((coreOf s c).groups.filter (·.wg == w.id)).flatMap fun g => (g.lanesOf Thread.live).map (threadNo g))

/-- The live threads a barrier of scope `sc` expects for a group. -/
def barExpected (s : State) (c : Nat) (w : Wg) (sc : Nat) (gi : Nat) : List Nat :=
  if sc = 0 then (wgLive s c w).filter fun t => t / 32 == gi else wgLive s c w

/-- Release the threads of a workgroup waiting in the completed generation of a barrier, for one group at group scope; a
thread counted ahead is now counted in the current generation. -/
def releaseBar (s : State) (c : Nat) (w : Wg) (bid sc gi : Nat) : State :=
  modCore s c fun k =>
    { k with
      groups := k.groups.map fun g =>
        if g.wg ≠ w.id ∨ (sc = 0 ∧ g.idx ≠ gi) then g
        else settle g.issued (g.mapLanes (upTo 32) fun _ t =>
          match t.stat with
          | .bar b nx wd =>
            if b ≠ bid then t
            else if nx then { t with stat := .bar b false wd }
            else { t with stat := .run, pc := (t.pc + 8) % 2 ^ 48, last := g.issued }
          | _ => t) }

/-- Complete a barrier's current generation for a scope if as many threads have arrived as are live (R83), on fuel: the
arrivals counted ahead may complete the next one too. -/
def tryBar : Nat → State → Nat → Nat → Nat → Nat → State
  | 0, s, _, _, _, _ => s
  | n + 1, s, c, wid, bid, gi =>
    match (coreOf s c).wgs.find? (·.id == wid) with
    | none => s
    | some w =>
      let b := w.bars.getD bid Barrier.fresh
      match b.scope with
      | none => s
      | some sc =>
        let mine := fun (t : Nat) => sc == 1 || t / 32 == gi
        let got := b.arrived.filter mine
        let live := barExpected s c w sc gi
        if got.isEmpty || live.isEmpty || got.length < live.length then s
        else
          let arrived := b.arrived.filter (!mine ·) ++ b.ahead.filter mine
          let ahead := b.ahead.filter (!mine ·)
          let b' : Barrier := ⟨if arrived.isEmpty && ahead.isEmpty then none else some sc, arrived, ahead⟩
          let s := putWg s c { w with bars := w.bars.set bid b' }
          tryBar n (releaseBar s c w bid sc gi) c wid bid gi

/-- Try every barrier of a workgroup for a group, after a thread has exited. -/
def tryBars (s : State) (c wid gi : Nat) : State := (upTo 16).foldl (fun s b => tryBar 3 s c wid b gi) s

/-- Threads of an issuing subset arrive at a barrier (R82 to R84): counted in the current generation, or in the next when
already in it. The spec says nothing of a thread that arrives when it is counted in both: it is not counted again (DESIGN
CHOICE, log 50). -/
def arriveBar (s : State) (c : Nat) (w : Wg) (g : Group) (lanes : List Nat) (bid sc : Nat) (waits : Bool) (word : Nat) :
    State :=
  let b := w.bars.getD bid Barrier.fresh
  let nos := lanes.map (threadNo g)
  let again := fun (t : Nat) => b.arrived.contains t
  let b' : Barrier := ⟨some sc, b.arrived ++ nos.filter (!again ·), b.ahead ++ nos.filter fun t => again t && !b.ahead.contains t⟩
  let s := putWg s c { w with bars := w.bars.set bid b' }
  let g' :=
    if waits then g.mapLanes lanes fun l t => { t with stat := .bar bid (again (threadNo g l)) word }
    else g.advance lanes
  tryBar 3 (putGroup s c (g'.issuedBy lanes)) c w.id bid g.idx

/-! ## Matrix instructions (R86 to R90, R165) -/

/-- The bits of a matrix operand that lane `l` supplies: four registers; zero from a lane that is not in the region. -/
def matBits (g : Group) (inRegion : List Nat) (r l : Nat) : Nat := if inRegion.contains l then (g.th l).getN r 4 else 0

/-- Element (i, k) of A or B: lane i + 16h holds half h of K, packed in ascending k (R89). -/
def matElem (g : Group) (inRegion : List Nat) (t : ETy) (kk r i k : Nat) : Nat :=
  let half := kk / 2
  bits (matBits g inRegion r (i + 16 * (k / half))) ((k % half + 1) * t.width - 1) (k % half * t.width)

/-- The C term of an output, as a code. -/
def matC (g : Group) (inRegion : List Nat) (w i j : Nat) : Nat :=
  let l := i + 16 * (j / 8)
  if wOp w = 1 ∨ wF0 w = 255 ∨ !inRegion.contains l then 0 else (g.th l).get (wF0 w + j % 8)

/-- One output of a matrix instruction (R90, R165). The C of a GMAC is a term also where C = 255 makes it zero (R89). -/
def matOut (g : Group) (inRegion : List Nat) (w : Nat) (ta tb : ETy) (kk : Nat) (anchor : Option Int) (i j : Nat) : Nat :=
  let a := fun k => ta.decode (matElem g inRegion ta kk (wF2 w) i k)
  let b := fun k => tb.decode (matElem g inRegion tb kk (wF1 w) j k)
  let c := matC g inRegion w i j
  match ta, tb with
  | .flt fa, .flt fb =>
    let st := (upTo kk).foldl (fun st k => st.add anchor (fa.prec + fb.prec) k (a k) (b k)) Accum.zero
    let cTerm := if wOp w = 1 then none else some (fmtFp32.decode c)
    (rne32 (st.finish (anchor.getD 0) cTerm none).1).1
  | _, _ =>
    let sum : Int := (upTo kk).foldl (fun v k => v + ((a k).dy.m * (b k).dy.m)) 0
    ux 32 (sum + c)

/-- The anchor of a matrix instruction: its whole A and B are one anchor tile (R165). -/
def matAnchor (g : Group) (inRegion : List Nat) (w : Nat) (ta tb : ETy) (kk : Nat) : Option Int :=
  let bounds := fun (t : ETy) (r : Nat) =>
    maxBound ((upTo 16).flatMap fun i => (upTo kk).map fun k => (t.decode (matElem g inRegion t kk r i k)).bound)
  anchorOf (bounds ta (wF2 w)) (bounds tb (wF1 w))

/-- The group after a matrix instruction has executed (R87, R89): results go to the live threads in the region, which move
on. -/
def matExec (g : Group) (inRegion : List Nat) (w : Nat) : Group :=
  match etyOf (wType w), etyOf (bits w 11 8) with
  | some ta, some tb =>
    let kk := 256 / ta.width
    let anchor := matAnchor g inRegion w ta tb kk
    let put := fun (l : Nat) (t : Thread) =>
      let t := (upTo 8).foldl (fun (t : Thread) n => t.set (wF3 w + n)
        (matOut g inRegion w ta tb kk anchor (l % 16) (l / 16 * 8 + n))) t
      { t with stat := .run, pc := (t.pc + 8) % 2 ^ 48 }
    settle (g.issued + 1) ((g.mapLanes inRegion put).issuedBy inRegion)
  | _, _ => g

/-- The live threads still in a group's matrix region. -/
def regionLanes (g : Group) : List Nat :=
  match g.region with
  | none => []
  | some m => (upTo 32).filter fun l => bit m l && (g.th l).live

/-- The word of the matrix instruction a thread waits at. -/
def matWaits (t : Thread) : Option Nat :=
  match t.stat with
  | .matrix w => some w
  | _ => none

/-- A matrix instruction executes once every live thread still in the region waits at its address (R87). -/
def tryMatrix (g : Group) : Group :=
  match regionLanes g with
  | [] => g
  | l :: ls =>
    match matWaits (g.th l) with
    | none => g
    | some w =>
      if ls.all fun k => (matWaits (g.th k)).isSome && (g.th k).pc == (g.th l).pc then matExec g (l :: ls) w else g

/-- Threads leave the matrix region; it closes when none is left (R86). The spec gives a thread that is in no open region no
effect of MREGION.END: it only moves on (DESIGN CHOICE, log 50). -/
def leaveRegion (g : Group) (ls : List Nat) : Group :=
  match g.region with
  | none => g
  | some m =>
    let m' := ls.foldl (fun m l => putBits m l l 0) m
    { g with region := if ((upTo 32).filter fun l => bit m' l && (g.th l).live).isEmpty then none else some m' }

/-! ## The end of threads, groups and workgroups (R81, R104) -/

/-- Put back a group whose matrix instruction may have executed, once the last thread it waited for was gone: a beat of its
own, which its context is charged (R87, R334). -/
def putIssued (s : State) (c cid : Nat) (old new : Group) : State :=
  if new.issued = old.issued then putGroup s c new else chargeBeats (putGroup s c new) cid (new.issued - old.issued) 0

/-- A launch has placed and ended all its workgroups (R279): its cue completes. -/
def launchDone (s : State) (uid : Nat) : State :=
  match s.launches.find? (·.uid == uid) with
  | some l =>
    if l.next = l.gridX * l.gridY * l.gridZ ∧ l.ended = l.next then
      endCue { s with launches := s.launches.filter (·.uid != uid) } uid cOk
    else s
  | none => s

/-- Whether a group has ended: no thread of it is live (R81). -/
def Group.ended (g : Group) : Bool := (g.lanesOf Thread.live).isEmpty

/-- A workgroup whose groups have all ended leaves its core with their slots, after the system-scope release of R104. -/
def endWg (s : State) (c : Nat) (w : Wg) : State :=
  if (coreOf s c).groups.any fun g => g.wg == w.id && !g.ended then s
  else
    let s := cleanLines s (c + 1) fun _ => true
    let s := showCore (modCore s c fun k =>
      { k with
        wgs := k.wgs.filter (·.id != w.id)
        groups := k.groups.filter (·.wg != w.id) }) c
    match w.kind with
    | .launch =>
      launchDone { s with launches := mapWhere (·.uid == w.uid) (fun l => { l with ended := l.ended + 1 }) s.launches } w.uid
    | _ => { s with endedWgs := s.endedWgs ++ [w] }

/-- What exits do to a group (R81 to R83, R86, R87): it ends when no thread is live, and keeps its slot until its workgroup
ends; otherwise its region, its matrix instruction and its barriers may complete. -/
def afterExit (s : State) (c : Nat) (w : Wg) (slot : Nat) : State :=
  match groupAt s c slot with
  | none => s
  | some g => endWg (tryBars (putIssued s c w.cid g (tryMatrix (leaveRegion g []))) c w.id g.idx) c w

/-! ## Issue (R71, R78) -/

/-- An instruction in issue: its core, group, workgroup, the lanes of the subset, those whose guard holds, and its word. -/
structure Iss where
  core : Nat
  g : Group
  w : Wg
  lanes : List Nat
  act : List Nat
  pc : Nat
  word : Nat
  paired : Bool

/-- The instruction as the beat's record has it, and whether it may join what its core has issued in the beat (R66). -/
def Iss.issued (x : Iss) : Issued := ⟨x.g.slot, x.lanes, x.pc, x.word, x.w.cid⟩
def Iss.joins (x : Iss) (beat : List Issued) : Bool :=
  match beat with
  | [a] => mayPair a x.issued
  | _ => false

/-- The lanes that issue together with a lane (R78): live threads that run, at its program counter and return-stack
depth. -/
def subsetOf (g : Group) (l : Nat) : List Nat :=
  let t := g.th l
  (upTo 32).filter fun k =>
    let u := g.th k
    u.stat == .run && u.pc == t.pc && u.rets.length == t.rets.length

/-- Whether a subset may issue now (R80): every running thread issues within every 256 instructions of its group. At most 32
subsets stand side by side, so once one has not issued for 224 the oldest goes first. -/
def fair (g : Group) (ls : List Nat) : Bool :=
  let runs := g.lanesOf fun t => t.stat == .run
  let old := runs.foldl (fun m l => min m (g.th l).last) g.issued
  decide (g.issued < old + 224) || ls.any fun l => (g.th l).last == old

/-- The fault of an issuing subset: the lowest faulting lane, the instruction's address and the high half of its word. -/
def issFault (s : State) (x : Iss) (code lane : Nat) (addr : Option Nat) : State :=
  coreFault s x.core x.w x.g code lane x.pc addr (x.word / 2 ^ 32) false

/-- Issue one instruction of the row `isRow` (R68, R71, R78, R80, R362): the group runs, the subset may go now, the word's
address may be fetched from, and the word is valid; then `body` runs. A word of another row changes nothing, and so does the
second of a pair that R66 or R67 does not let issue in one beat with the first. For a word that is not valid, and for a
failed fetch, R107 does not say which lanes count: LANE is the lowest of the issuing subset, lanes whose guard is false
counted too (DESIGN CHOICE, log 50). -/
def issue (s : State) (i : Issue) (isRow : Nat → Bool) (body : State → Iss → State) : State :=
  match groupAt s i.core i.slot with
  | none => s
  | some g =>
    match wgOf s i.core g with
    | none => s
    | some w =>
      let t := g.th i.lane
      if g.halted || t.stat != .run || coreRole s i.core == 3 then s
      else
        let lanes := subsetOf g i.lane
        if !fair g lanes then s else
        let low := lanes.headD i.lane
        let word := i.word.toNat
        let x : Iss := ⟨i.core, g, w, lanes, lanes.filter fun l => (g.th l).guard word, t.pc, word, i.paired⟩
        if i.paired && !x.joins (coreOf s i.core).beat then s else
        match xcheck s w.cid t.pc .fetch with
        | .waits f p => askAts s f p
        | .fault code =>
          useFree (coreFault s i.core w g code low t.pc (some t.pc) (freeVal s % 2 ^ 32) false)
        | .ok .. =>
          if badWord word w.nregs then issFault s x cIllegal low none
          else if isRow word then body s x
          else s

/-- The beat of an instruction that has issued: its core's record holds it, and its context is charged one beat, unless the
instruction is the second of a pair of that context (R334). -/
def noteBeat (s : State) (x : Iss) : State :=
  let beat := if x.paired then (coreOf s x.core).beat else []
  chargeBeats (modCore s x.core fun k => { k with beat := beat ++ [x.issued] }) x.w.cid
    (b2n (!beat.any (·.cid == x.w.cid))) 0

/-- Put back the group of an instruction that has issued, in its beat. -/
def retire (s : State) (x : Iss) (g : Group) : State := noteBeat (putGroup s x.core (g.issuedBy x.lanes)) x

/-- Whether a word is of a class, or of a class and an operation. -/
def isCls (c : Nat) (w : Nat) : Bool := wClass w == c
def isOp (c o : Nat) (w : Nat) : Bool := wClass w == c && wOp w == o

/-- Whether registers of the issuing lanes wait for a load or a returning atomic (interlock, spec/02_thread_groups.md):
`rs` lists first registers and counts. -/
def interlocked (s : State) (x : Iss) (rs : List (Nat × Nat)) : Bool :=
  s.reqs.any fun r => r.core == x.core && r.slot == x.g.slot && x.lanes.contains r.lane && r.reg != 256 &&
    rs.any fun p => p.1 != 255 && overlaps p.1 p.2 r.reg 4

/-- Whether the issuing lanes have any memory access outstanding. -/
def outstanding (s : State) (x : Iss) : Bool :=
  s.reqs.any fun r => r.core == x.core && r.slot == x.g.slot && x.lanes.contains r.lane

/-! ## CTRL (R78, R79, R81) -/

/-- Push a join entry; the oldest of 8 is dropped. -/
def pushJoin (t : Thread) (j : JoinEntry) : Thread := { t with joins := (j :: t.joins).take 8 }

/-- The address `off` instruction words from the branch. -/
def relAddr (pc : Nat) (off : Int) : Nat := ux 48 ((pc : Int) + 8 * off)

/-- CTRL_BRANCH (R79): threads whose guard holds go to TARGET, the others on; every one pushes the join address. -/
def execCtrlBranch (i : Issue) (s : State) : Host.Outcome State Fault Refusal :=
  .next (issue s i (isCls 0) fun s x =>
    let j : JoinEntry := ⟨relAddr x.pc (wJoin x.word), x.g.pushes⟩
    let g := x.g.mapLanes x.lanes fun l t =>
      let t := if wJoin x.word = 0 then t else pushJoin t j
      { t with pc := if x.act.contains l then relAddr x.pc (wTarget x.word) else (x.pc + 8) % 2 ^ 48 }
    retire s x (settle (g.issued + 1) { g with pushes := g.pushes + 1 }))

/-- PARK_TIMEOUT (R79): a subset parked while its group has issued 256 instructions pops and goes on alone. -/
def execParkTimeout (c : Fin 17) (slot : Fin 48) (lane : Fin 32) (s : State) : Host.Outcome State Fault Refusal :=
  match groupAt s c slot with
  | none => .next s
  | some g =>
    match (g.th lane).stat with
    | .parked since =>
      if g.issued < since + 256 then .next s
      else
        let id := parkedAt (g.th lane)
        let late := fun (t : Thread) => parkedAt t == id && t.stat == .parked since
        .next (putGroup s c (settle g.issued (g.mapLanes (g.lanesOf late) fun _ t =>
          { t with stat := .run, joins := t.joins.drop 1 })))
    | _ => .next s

/-- CTRL_CALL (R78): a full return stack raises CALL_DEPTH. -/
def execCtrlCall (i : Issue) (s : State) : Host.Outcome State Fault Refusal :=
  .next (issue s i (isCls 0) fun s x =>
    match x.act.find? fun l => 16 ≤ (x.g.th l).rets.length with
    | some l => issFault s x cCallDepth l none
    | none =>
      retire s x (settle (x.g.issued + 1) (x.g.mapLanes x.lanes fun l t =>
        let ret := (x.pc + 8) % 2 ^ 48
        if x.act.contains l then { t with pc := relAddr x.pc (wTarget x.word), rets := ret :: t.rets }
        else { t with pc := ret })))

/-- CTRL_RETURN (R78): the thread's return stack is popped. Where it is empty the spec does not say where the thread goes
on: a free value, 8-byte aligned. -/
def execCtrlReturn (i : Issue) (s : State) : Host.Outcome State Fault Refusal :=
  .next (issue s i (isCls 0) fun s x =>
    let stray := freeVal s * 8 % 2 ^ 48
    useFree (retire s x (settle (x.g.issued + 1) (x.g.mapLanes x.lanes fun l t =>
      if x.act.contains l then { t with pc := t.rets.headD stray, rets := t.rets.drop 1 }
      else { t with pc := (x.pc + 8) % 2 ^ 48 }))))

/-- CTRL_NOP (R71). -/
def execCtrlNop (i : Issue) (s : State) : Host.Outcome State Fault Refusal :=
  .next (issue s i (isCls 0) fun s x => retire s x (x.g.advance x.lanes))

/-- EXIT (R81 to R83): the threads whose guard holds end, once their own accesses have completed (R104). -/
def execExit (i : Issue) (s : State) : Host.Outcome State Fault Refusal :=
  .next (issue s i (isCls 0) fun s x =>
    if outstanding s x then s
    else
      let stay := x.lanes.filter (!x.act.contains ·)
      let g := (x.g.mapLanes x.act fun _ t => { Thread.gone with pc := t.pc }).advance stay
      afterExit (retire s x g) x.core x.w x.g.slot)

/-! ## Arithmetic, SYS and MOVI (R72) -/

/-- The operands of format A in a thread; IMMB makes SB an immediate. -/
def opA (t : Thread) (w : Nat) : Nat := t.get (wF2 w)
def opB (t : Thread) (w : Nat) : Nat := if wImmb w then wF1 w else t.get (wF1 w)
def opC (t : Thread) (w : Nat) : Nat := t.get (wF0 w)

/-- An arithmetic instruction of a class: its result, which the spec names without stating, is `Config.pipe`'s. -/
def aluIssue (s : State) (i : Issue) (cls : Nat) : State :=
  issue s i (isCls cls) fun s x =>
    let w := x.word
    if interlocked s x [(wF3 w, 1), (wF2 w, 1), (wF1 w, 1), (wF0 w, 1)] then s
    else
      let g := x.g.mapLanes x.act fun _ t =>
        t.set (wF3 w) (Config.pipe cls (wOp w) (bits w 15 0) (opA t w) (opB t w) (opC t w))
      retire s x (g.advance x.lanes)

/-- IALU (R72). -/
def execIalu (i : Issue) (s : State) : Host.Outcome State Fault Refusal := .next (aluIssue s i 1)

/-- FALU (R72). -/
def execFalu (i : Issue) (s : State) : Host.Outcome State Fault Refusal := .next (aluIssue s i 2)

/-- CVT (R72). -/
def execCvt (i : Issue) (s : State) : Host.Outcome State Fault Refusal := .next (aluIssue s i 3)

/-- XFN (R72). -/
def execXfn (i : Issue) (s : State) : Host.Outcome State Fault Refusal := .next (aluIssue s i 4)

/-- CMP (R72): a predicate, DST[2:0], is written; the comparison is `Config.compare`'s. -/
def execCmp (i : Issue) (s : State) : Host.Outcome State Fault Refusal :=
  .next (issue s i (isCls 5) fun s x =>
    let w := x.word
    if interlocked s x [(wF2 w, 1), (wF1 w, 1), (wF0 w, 1)] then s
    else
      let g := x.g.mapLanes x.act fun _ t =>
        t.setPred (wF3 w % 8) (Config.compare (wOp w) (bits w 15 0) (opA t w) (opB t w) (opC t w))
      retire s x (g.advance x.lanes))

/-- The thread, group, workgroup and launch values a SYS read can return. -/
def sysValues (x : Iss) (l : Nat) : List Nat :=
  let n := max 1 x.w.gridX
  let m := max 1 x.w.gridY
  [l, threadNo x.g l, x.g.idx, x.w.index, x.w.index % n, x.w.index / n % m, x.w.index / n / m, x.w.gridX, x.w.gridY,
    x.w.gridZ, x.w.groups, x.w.param % 2 ^ 32, x.w.param / 2 ^ 32]

/-- SYS (R72, R279): one of the index values is read; which OP and immediate name which is `Config.sysIndex`'s. -/
def execSys (i : Issue) (s : State) : Host.Outcome State Fault Refusal :=
  .next (issue s i (isCls 12) fun s x =>
    let w := x.word
    if interlocked s x [(wF3 w, 1)] then s
    else
      let g := x.g.mapLanes x.act fun l t =>
        let vs := sysValues x l
        t.set (wF3 w) (vs.getD (Config.sysIndex (wOp w) (wImm32 w) % vs.length) 0)
      retire s x (g.advance x.lanes))

/-- MOVI (R72). -/
def execMovi (i : Issue) (s : State) : Host.Outcome State Fault Refusal :=
  .next (issue s i (isCls 13) fun s x =>
    if interlocked s x [(wF3 x.word, 1)] then s
    else retire s x ((x.g.mapLanes x.act fun _ t => t.set (wF3 x.word) (wImm32 x.word)).advance x.lanes))

/-! ## SYNC and MATRIX (R76, R82 to R90) -/

/-- An arrival at a barrier (R82 to R84, R100): the issuing threads' earlier accesses have completed, and the scope is the
one the current generation has. Threads whose guard is false go on. R71 counts them as having executed the instruction "for
convergence and deadlock"; that they have not arrived is the model's reading (DESIGN CHOICE, log 50). -/
def barIssue (s : State) (i : Issue) (op : Nat) (waits : Bool) : State :=
  issue s i (isOp 10 op) fun s x =>
    if outstanding s x then s
    else
      let bid := wBid x.word
      let sc := wSScope x.word
      let b := x.w.bars.getD bid Barrier.fresh
      match x.act with
      | [] => retire s x (x.g.advance x.lanes)
      | l :: _ =>
        if b.scope.isSome && b.scope != some sc then issFault s x cIllegal l none
        else
          arriveBar (noteBeat s x) x.core x.w (x.g.advance (x.lanes.filter (!x.act.contains ·))) x.act bid sc waits x.word

/-- BAR_WAIT (R83, R84). -/
def execBarWait (i : Issue) (s : State) : Host.Outcome State Fault Refusal := .next (barIssue s i 0 true)

/-- BAR_PASS (R84). -/
def execBarPass (i : Issue) (s : State) : Host.Outcome State Fault Refusal := .next (barIssue s i 1 false)

/-- The cache action of a release or an acquire at a scope (R102). -/
def releaseL1 (s : State) (c scope : Nat) : State := if 3 ≤ scope then cleanLines s (c + 1) fun _ => true else s
def acquireL1 (s : State) (c scope : Nat) : State :=
  if 3 ≤ scope then dropLines (cleanLines s (c + 1) fun _ => true) (c + 1) fun _ => true else s

/-- FENCE (R76, R99, R102): it waits for the threads' earlier accesses; at device or system scope the L1 is written back,
and for an acquire invalidated. -/
def execFence (i : Issue) (s : State) : Host.Outcome State Fault Refusal :=
  .next (issue s i (isOp 10 2) fun s x =>
    if outstanding s x then s
    else
      let ord := wSOrder x.word
      let sc := wSScope x.word
      let s := retire s x (x.g.advance x.lanes)
      if x.act.isEmpty then s
      else if ord = 2 then releaseL1 s x.core sc
      else acquireL1 s x.core sc)

/-- MREGION_BEGIN (R86): inside an open region it raises ILLEGAL_INSTR. -/
def execMregionBegin (i : Issue) (s : State) : Host.Outcome State Fault Refusal :=
  .next (issue s i (isOp 10 3) fun s x =>
    if x.g.region.isSome then issFault s x cIllegal (x.lanes.headD 0) none
    else
      let m := x.lanes.foldl (fun m l => putBits m l l 1) 0
      retire s x ({ x.g with region := some m }.advance x.lanes))

/-- MREGION_END (R86, R87): the threads leave the region; a matrix instruction that waited for them may now execute. -/
def execMregionEnd (i : Issue) (s : State) : Host.Outcome State Fault Refusal :=
  .next (issue s i (isOp 10 4) fun s x =>
    let g := (leaveRegion x.g x.lanes).advance x.lanes
    putIssued (retire s x g) x.core x.w.cid (g.issuedBy x.lanes) (tryMatrix (g.issuedBy x.lanes)))

/-- A matrix instruction waits for convergence and then executes (R86, R87). A thread that is not in an open region raises
ILLEGAL_INSTR. -/
def matIssue (s : State) (i : Issue) (op : Nat) : State :=
  issue s i (isOp 11 op) fun s x =>
    let w := x.word
    match x.lanes.find? fun l => !(regionLanes x.g).contains l with
    | some l => issFault s x cIllegal l none
    | none =>
      if interlocked s x [(wF3 w, 8), (wF2 w, 4), (wF1 w, 4), (wF0 w, 8)] then s
      else
        let g := tryMatrix (x.g.mapLanes x.lanes fun _ t => { t with stat := .matrix w })
        let s := putGroup s x.core g
        if g.issued = x.g.issued then s else noteBeat s x

/-- GMAC (R87 to R90). -/
def execGmac (i : Issue) (s : State) : Host.Outcome State Fault Refusal := .next (matIssue s i 0)

/-- GMAC_Z (R87 to R90). -/
def execGmacZ (i : Issue) (s : State) : Host.Outcome State Fault Refusal := .next (matIssue s i 1)

/-! ## GROUP (R77) -/

/-- The first lane of a lane's segment. -/
def segBase (w l : Nat) : Nat := l - l % 2 ^ (wMod w + 1)

/-- The lanes of a lane's segment. -/
def segLanes (w l : Nat) : List Nat := (upTo (2 ^ (wMod w + 1))).map (segBase w l + ·)

/-- SA of a source lane; a lane that does not issue supplies 0. -/
def srcLane (x : Iss) (k : Nat) : Nat := if x.act.contains k then opA (x.g.th k) x.word else 0

/-- The issuing lanes of a lane's segment. -/
def segAct (x : Iss) (l : Nat) : List Nat := (segLanes x.word l).filter x.act.contains

/-- A GROUP instruction that writes a register: `f` gives a lane's result. -/
def groupReg (s : State) (i : Issue) (op : Nat) (f : Iss → Nat → Nat) : State :=
  issue s i (isOp 6 op) fun s x =>
    let w := x.word
    if interlocked s x [(wF3 w, 1), (wF2 w, 1), (wF1 w, 1)] then s
    else retire s x ((x.g.mapLanes x.act fun l t => t.set (wF3 w) (f x l)).advance x.lanes)

/-- A GROUP instruction that writes a predicate. -/
def groupPred (s : State) (i : Issue) (op : Nat) (f : Iss → Nat → Bool) : State :=
  issue s i (isOp 6 op) fun s x =>
    retire s x ((x.g.mapLanes x.act fun l t => t.setPred (wF3 x.word % 8) (f x l)).advance x.lanes)

/-- Whether a lane's predicate SA[2:0] holds. -/
def polled (x : Iss) (k : Nat) : Bool := (x.g.th k).pred (wF2 x.word % 8)

/-- LANE_GET (R77). -/
def execLaneGet (i : Issue) (s : State) : Host.Outcome State Fault Refusal :=
  .next (groupReg s i 0x10 fun x l =>
    srcLane x (segBase x.word l + opB (x.g.th l) x.word % 2 ^ (wMod x.word + 1)))

/-- LANE_ROT (R77). -/
def execLaneRot (i : Issue) (s : State) : Host.Outcome State Fault Refusal :=
  .next (groupReg s i 0x11 fun x l =>
    let b := segBase x.word l
    srcLane x (b + (l - b + opB (x.g.th l) x.word) % 2 ^ (wMod x.word + 1)))

/-- LANE_PAIR (R77). -/
def execLanePair (i : Issue) (s : State) : Host.Outcome State Fault Refusal :=
  .next (groupReg s i 0x12 fun x l => srcLane x (l ^^^ (opB (x.g.th l) x.word % 2 ^ (wMod x.word + 1))))

/-- LANE_LEAD (R77). -/
def execLaneLead (i : Issue) (s : State) : Host.Outcome State Fault Refusal :=
  .next (groupReg s i 0x13 fun x l => srcLane x ((segAct x l).headD l))

/-- POLL_EVERY (R77). -/
def execPollEvery (i : Issue) (s : State) : Host.Outcome State Fault Refusal :=
  .next (groupPred s i 0x14 fun x l => (segAct x l).all (polled x))

/-- POLL_SOME (R77). -/
def execPollSome (i : Issue) (s : State) : Host.Outcome State Fault Refusal :=
  .next (groupPred s i 0x15 fun x l => (segAct x l).any (polled x))

/-- POLL_MASK (R77). -/
def execPollMask (i : Issue) (s : State) : Host.Outcome State Fault Refusal :=
  .next (groupReg s i 0x16 fun x _ => (x.act.filter (polled x)).foldl (fun m k => m + 2 ^ k) 0)

/-- POLL_COUNT (R77). -/
def execPollCount (i : Issue) (s : State) : Host.Outcome State Fault Refusal :=
  .next (groupReg s i 0x17 fun x l => countWhere (polled x) (segAct x l))

/-- FOLD_ADD (R77): modulo 2^32. -/
def execFoldAdd (i : Issue) (s : State) : Host.Outcome State Fault Refusal :=
  .next (groupReg s i 0x18 fun x l => sumBy (srcLane x) (segAct x l))

/-- The lesser, or with `mx` the greater, of two values; TYPE 0 is signed. The spec names TYPE 0 and 1 only: the others are
taken as unsigned (DESIGN CHOICE, log 50). -/
def foldPick (w : Nat) (mx : Bool) (a b : Nat) : Nat :=
  let le := if wType w = 0 then decide (sx 32 a ≤ sx 32 b) else decide (a ≤ b)
  if le == mx then b else a

/-- FOLD_MIN (R77). -/
def execFoldMin (i : Issue) (s : State) : Host.Outcome State Fault Refusal :=
  .next (groupReg s i 0x19 fun x l =>
    ((segAct x l).map (srcLane x)).foldl (foldPick x.word false) (srcLane x l))

/-- FOLD_MAX (R77). -/
def execFoldMax (i : Issue) (s : State) : Host.Outcome State Fault Refusal :=
  .next (groupReg s i 0x1A fun x l =>
    ((segAct x l).map (srcLane x)).foldl (foldPick x.word true) (srcLane x l))

/-- FOLD_RUN (R77): the inclusive prefix sum. -/
def execFoldRun (i : Issue) (s : State) : Host.Outcome State Fault Refusal :=
  .next (groupReg s i 0x1B fun x l => sumBy (srcLane x) ((segAct x l).filter (· ≤ l)))

/-! ## Deadlock and faults (R91, R92, R105, R106) -/

/-- Whether a thread is blocked (R91), and whether at a group-scope barrier or a matrix instruction. -/
def blocked (t : Thread) : Bool :=
  match t.stat with
  | .bar .. => true
  | .matrix _ => true
  | _ => false
def blockedInGroup (w : Wg) (t : Thread) : Bool :=
  match t.stat with
  | .bar b _ _ => (w.bars.getD b Barrier.fresh).scope == some 0
  | .matrix _ => true
  | _ => false

/-- Whether every live thread of a group is blocked. -/
def allLive (g : Group) (p : Thread → Bool) : Bool := (g.lanesOf Thread.live).all fun l => p (g.th l)

/-- Whether R91 holds of a group: completions are carried out as they arise, so a wait that stands cannot complete from
the threads present. -/
def deadlocked (s : State) (c : Nat) (w : Wg) (g : Group) : Bool :=
  !(g.lanesOf Thread.live).isEmpty &&
    (allLive g (blockedInGroup w) || ((coreOf s c).groups.filter (·.wg == w.id)).all fun h => allLive h blocked)

/-- The high half of the word a blocked thread waits at. -/
def waitWord (t : Thread) : Nat :=
  match t.stat with
  | .bar _ _ w => w / 2 ^ 32
  | .matrix w => w / 2 ^ 32
  | _ => 0

/-- BARRIER_DEADLOCK (R91, R92): declared for the group in a slot; LANE is 0xFF and the fault is group-wide. Where the
blocked lanes wait at different instructions the spec names none of them for PC and IWORD: those of the lowest blocked lane
(DESIGN CHOICE, log 50). -/
def execBarrierDeadlock (c : Fin 17) (slot : Fin 48) (s : State) : Host.Outcome State Fault Refusal :=
  match groupAt s c slot with
  | none => .next s
  | some g =>
    match wgOf s c g with
    | none => .next s
    | some w =>
      if g.halted || !deadlocked s c w g then .next s
      else
        let t := g.th ((g.lanesOf blocked).headD 0)
        .next (raise (coreFault s c w g cDeadlock 0xFF t.pc none (waitWord t) true) (E.CORE_FAULT_STATUS.DEADLOCK c))

/-- Write a fault record into CORE_FAULT_REC0 to 7. -/
def writeCoreRec (s : State) (c : Nat) (r : List Byte) : State :=
  (upTo 8).foldl (fun s i => wrN s (R.CORE_FAULT_REC c i) (field r (4 * i) 4)) s

/-- The record a core last wrote. -/
def coreRec (s : State) (c : Nat) : List Byte := (upTo 8).flatMap fun i => leBytes 4 (rdN s (R.CORE_FAULT_REC c i))

/-- Whether the record a core last wrote is that of the context's fault: the one in its fault slot, or on its way there. -/
def recStands (s : State) (c cid : Nat) : Bool :=
  let r := (coreRec s c).take 28
  field r 0 2 != 0 && ((ctxOf s cid).slot.take 28 == r || s.faultReps.any fun f => f.cid == cid && f.record.take 28 == r)

/-- A later fault of a context on a core (R106): it only raises FURTHER in the record already written. -/
def furtherFault (c : Nat) (s : State) (f : CoreFault) : State :=
  let s := if recStands s c f.cid then writeCoreRec s c (furtherUp (coreRec s c)) else s
  reportFault s f.cid f.record f.uid

/-- CORE_FAULT_STOPPED (R105, R106): the core stops the groups of the context of its oldest fault. If no fault of the context
is on record, the first that the stop has gathered is written and reported; every other one raises FURTHER only. An
instruction stands for a beat of its own (log 53), so no two faults are of one beat. -/
def execCoreFaultStopped (c : Fin 17) (s : State) : Host.Outcome State Fault Refusal :=
  match (coreOf s c).faults with
  | [] => .next s
  | f :: _ =>
    let mine := (coreOf s c).wgs.filterMap fun w => if w.cid = f.cid then some w.id else none
    let all := (coreOf s c).faults.filter (·.cid == f.cid)
    let s := modCore s c fun k =>
      { k with
        faults := k.faults.filter (·.cid != f.cid)
        groups := mapWhere (fun g => mine.contains g.wg) (fun g => { g with halted := true }) k.groups }
    if (ctxOf s f.cid).state = .live ∧ !s.faultReps.any (·.cid == f.cid) then
      let s := raise (writeCoreRec s c f.record) (E.CORE_FAULT_STATUS.FAULT c)
      .next ((all.drop 1).foldl (furtherFault c) (reportFault s f.cid f.record f.uid))
    else .next (all.foldl (furtherFault c) s)

/-! ## Placing workgroups (R69, R70, R279) -/

/-- A fresh group of a workgroup: 32 threads at the entry address. -/
def freshGroup (slot wg idx pc : Nat) : Group :=
  ⟨slot, wg, idx, List.replicate 32 ⟨pc, .run, [], [], [], 0, 0⟩, 0, 0, none, false⟩

/-- Put a workgroup on a core; the first one of a new split cleans and invalidates the L1 first (R69). -/
def placeWg (s : State) (c : Nat) (w : Wg) : State :=
  let s :=
    if (coreOf s c).split = w.split then s
    else fset (dropLines (cleanLines s (c + 1) fun _ => true) (c + 1) fun _ => true) (cacheInvValid (c + 1)) 1
  showCore (modCore s c fun k =>
    let slots := (freeSlots k).take w.groups
    { k with
      split := w.split
      nextWg := k.nextWg + 1
      wgs := k.wgs ++ [{ w with id := k.nextWg }]
      groups := k.groups ++ (upTo w.groups).map fun i => freshGroup (slots.getD i 0) k.nextWg i w.entry }) c

/-- Whether a core has stopped a context after a fault, or is about to (R105): it takes no new groups of it. -/
def ctxStopping (s : State) (c cid : Nat) : Bool :=
  !ctxLive s cid || s.faultReps.any (·.cid == cid) || (coreOf s c).faults.any (·.cid == cid)

/-- The next workgroup of a launch. -/
def launchWg (l : Launch) : Wg :=
  ⟨0, l.uid, l.cid, .launch, l.split, l.groups, l.nregs, l.localKib, [], List.replicate 16 Barrier.fresh, l.next, l.gridX,
    l.gridY, l.gridZ, l.pc, l.param⟩

/-- WORKGROUP_PLACE (R69, R70, R279, R337, R339, R350, R434): the next workgroup of a source's oldest launch that has one
left goes to a core of its context's partition on which it fits, when it is the next to be placed there and the core is up.
-/
def execWorkgroupPlace (c : Fin 17) (src : Src) (s : State) : Host.Outcome State Fault Refusal :=
  let uids := (cuesOf s (srcOf src)).map (·.uid)
  let left := fun (l : Launch) => uids.contains l.uid && decide (l.next < l.gridX * l.gridY * l.gridZ)
  match s.launches.find? left with
  | none => .next s
  | some l =>
    let p := (ctxOf s l.cid).part
    let u := noteAll s p
    if coreTakes s c p ∧ homeOk s (srcOf src) c ∧ ctxStopping s c l.cid = false ∧
        wgFits (coreOf s c) l.groups l.nregs l.split l.localKib ∧ mayPlace u p l.cid (srcOf src) .workgroup c ∧
        beingTaken s l.cid .workgroup [c] = false then
      let u := { u with launches := mapWhere (·.uid == l.uid) (fun l => { l with next := l.next + 1 }) u.launches }
      .next (whenUp s [dCore + c.val] (startSlice (placeWg u c (launchWg l)) l.cid))
    else .next s

end Sys2Proof.Machine
end

