-- ==== Sys2Proof/Machine/ShaderMem.lean ====
section
/-! DEFINITION. Memory instructions of the shader cores (spec/02_thread_groups.md R73 to R75, R93 to R104): local store,
context memory, line operations, read-modify-writes and their answers. -/

namespace Sys2Proof.Machine

open Sys2Proof

/-! ## Addresses (R73, R74) -/

/-- The effective address in a thread: base plus OFFSET in units of the access size. R74 does not say that the local sum
wraps: taken modulo 2^32, a base near 2^32 with a positive OFFSET comes back to the start of the allocation without LOCAL_OOB
(DESIGN CHOICE, log 50). -/
def localEa (t : Thread) (w : Nat) : Nat := ux 32 ((t.get (wF2 w) : Int) + wOffset w * wBytes w)
def ctxEa (t : Thread) (w : Nat) : Nat := ux 64 ((t.getN (wF2 w) 2 : Int) + wOffset w * wBytes w)

/-- The first lane of the issuing ones that meets `p`. -/
def firstLane (x : Iss) (p : Nat → Bool) : Option Nat := x.act.find? p

/-! ## The local store (R93 to R96) -/

/-- The lanes of each phase of a local access (R93). -/
def localPhases (size : Nat) : List (List Nat) :=
  match size with
  | 3 => [upTo 16, (upTo 16).map (16 + ·)]
  | 4 => (upTo 4).map fun i => (upTo 8).map (8 * i + ·)
  | _ => [upTo 32]

/-- The 32-bit words a lane's access touches. -/
def localWords (ea n : Nat) : List Nat := (upTo ((ea + n - 1) / 4 + 1 - ea / 4)).map (ea / 4 + ·)

/-- The cost of one phase (R94): the most distinct words asked of one bank, at least 1. -/
def phaseCost (words : List Nat) : Nat :=
  (upTo 32).foldl (fun m b => max m (countWhere (fun w => w % 32 == b) words.eraseDups)) 1

/-- The cost of a local load or store (R94). -/
def localCost (x : Iss) (ea : Nat → Nat) : Nat :=
  sumBy (fun ls : List Nat => phaseCost ((ls.filter x.act.contains).flatMap fun l => localWords (ea l) (wBytes x.word)))
    (localPhases (wSize x.word))

/-- The cost of local atomics (R95): lanes that ask for one word take a beat each, so a bank takes as many beats as lanes
ask of it. -/
def atomicCost (x : Iss) (ea : Nat → Nat) : Nat :=
  (upTo 32).foldl (fun m b => max m (countWhere (fun l => ea l / 4 % 32 == b) x.act)) 1

/-- Replay beats are counted and charged to the context (R96, R334). -/
def countReplay (s : State) (c cid cost : Nat) : State :=
  chargeBeats (incSat s (R.CORE_REPLAY_COUNT c) (cost - 1)) cid (cost - 1) 0

/-- Why a local access faults: MISALIGNED before LOCAL_OOB (R74). -/
def localFault (x : Iss) (ea : Nat → Nat) : Option (Nat × Nat) :=
  let n := wBytes x.word
  match firstLane x fun l => ea l % n != 0 || decide (x.w.localKib * 1024 < ea l + n) with
  | none => none
  | some l => some (if ea l % n ≠ 0 then cMisaligned else cLocalOob, l)

/-- The bytes of a workgroup's local store. -/
def localRead (w : Wg) (a n : Nat) : Nat := leNat (mgets 0 w.store a n)

/-- Whether a lane of an instruction has an acquire that has not been answered: nothing of the lane's memory accesses goes
past it (R99, R102). -/
def acquirePending (s : State) (x : Iss) : Bool :=
  s.reqs.any fun r => r.core == x.core && r.slot == x.g.slot && x.act.contains r.lane && r.order % 2 == 1

/-- LOAD_L (R73, R74, R93, R94, R99). The bits of a register above a load of 8 or 16 bits are not stated: a free value. -/
def execLoadL (i : Issue) (s : State) : Host.Outcome State Fault Refusal :=
  .next (issue s i (isOp 7 0) fun s x =>
    let w := x.word
    let ea := fun l => localEa (x.g.th l) w
    if interlocked s x [(wF3 w, wRegs w), (wF2 w, 1)] || acquirePending s x then s
    else match localFault x ea with
      | some (code, l) => issFault s x code l none
      | none =>
        let n := wBytes w
        let up := if n < 4 then freeVal s * 2 ^ (8 * n) else 0
        let g := x.g.mapLanes x.act fun l t => t.setN (wF3 w) (wRegs w) (localRead x.w (ea l) n + up)
        useFree (countReplay (retire s x (g.advance x.lanes)) x.core x.w.cid (localCost x ea)))

/-- STORE_L (R73, R74, R93, R94, R99): lanes store in ascending order, so the higher-numbered lane's byte is kept. -/
def execStoreL (i : Issue) (s : State) : Host.Outcome State Fault Refusal :=
  .next (issue s i (isOp 7 1) fun s x =>
    let w := x.word
    let ea := fun l => localEa (x.g.th l) w
    if interlocked s x [(wF3 w, wRegs w), (wF2 w, 1)] || acquirePending s x then s
    else match localFault x ea with
      | some (code, l) => issFault s x code l none
      | none =>
        let n := wBytes w
        let store := x.act.foldl (fun m l => mputs 0 m (ea l) (leBytes n ((x.g.th l).getN (wF3 w) (wRegs w)))) x.w.store
        let s := putWg s x.core { x.w with store := store }
        countReplay (retire s x (x.g.advance x.lanes)) x.core x.w.cid (localCost x ea))

/-! ## Context memory -/

/-- The port of a core's access (R40): each core has one read port and one write port. -/
def corePort (c : Nat) (kind : ReqKind) : Nat := 2 * c + b2n kind.writes

/-- A request of a lane. -/
def laneReq (s : State) (x : Iss) (l reg va addr : Nat) (kind : ReqKind) (nc uncached : Bool) (at_ : ReqAt) (inst : Nat)
    (unit : List HeldPage) : Req :=
  let p := (ctxOf s x.w.cid).part
  ⟨s.nextReq, x.core, x.g.slot, l, reg, x.w.cid, p, corePort x.core kind, partCls s p, va, addr, kind, wStag x.word, nc,
    uncached, wOrder x.word, wScope x.word, x.pc, x.word / 2 ^ 32, [], at_, none, inst, unit⟩

/-- A cacheable access goes to the core's L1; a non-cacheable one, LOAD.CU, and one to a peer, which no cache takes, behind
it (R74, R352, R360). -/
def sendReq (s : State) (r : Req) : State :=
  if r.uncached ∨ r.nc ∨ reach s r.addr = .peer then
    let place := regulated s r (routeOf s (r.core + 1) r)
    addReq s { r with at_ := place }
  else addReq s { r with at_ := .cache (r.core + 1) }

/-- What the issuing lanes' context addresses give: a fault with its lane and address, a host page to wait for, or the
device address and cacheability of each lane. MISALIGNED is found before a translation fault (R74). -/
inductive LaneRes where
  | fault (code lane addr : Nat)
  | waits (fn page : Nat)
  | ok (l : List (Nat × Nat × Nat × Bool))

/-- Check and translate the issuing lanes in ascending order (R74, R362). -/
def laneAddrs (s : State) (x : Iss) (kind : XKind) : List Nat → LaneRes
  | [] => .ok []
  | l :: ls =>
    let t := x.g.th l
    let va := ctxEa t x.word
    if va % wBytes x.word ≠ 0 then .fault cMisaligned l va
    else if 2 ^ 48 ≤ t.getN (wF2 x.word) 2 then .fault cUnmapped l va
    else match xlate s x.w.cid va kind with
      | .fault code => .fault code l va
      | .waits f p => .waits f p
      | .ok da nc .. =>
        match laneAddrs s x kind ls with
        | .ok r => .ok ((l, va, da, nc) :: r)
        | r => r

/-- Whether a lane's access must wait for an earlier one of the same lane: to the same line (R97), an acquire that has not
been answered (R99), or any when this one releases. -/
def laneBusy (s : State) (x : Iss) (va : Nat → Nat) : Bool :=
  s.reqs.any fun r => r.core == x.core && r.slot == x.g.slot && x.act.contains r.lane &&
    (r.order % 2 == 1 || decide (2 ≤ wOrder x.word) || r.va / 64 == va r.lane / 64)

/-- The gated domains that the table walks of some accesses reach (R434). -/
def walkGated (s : State) (cid : Nat) (vas : List Nat) : List Nat :=
  (vas.flatMap fun v => (tableReads s cid v).filterMap (domAt s)).filter (!domOn s ·)

/-- Issue context-memory requests, one for each lane that performs the instruction: `kind` gives what a thread's request
does, `reg` its destination (256 for none). A release at device scope or wider writes the L1 back first (R102). -/
def memIssue (s : State) (x : Iss) (xk : XKind) (names : List (Nat × Nat)) (reg : Nat) (uncached : Bool)
    (kind : Thread → Nat → ReqKind) : State :=
  let w := x.word
  let gated := walkGated s x.w.cid (x.act.map fun l => ctxEa (x.g.th l) w)
  if interlocked s x ((wF2 w, 2) :: names) || laneBusy s x (fun l => ctxEa (x.g.th l) w) then s
  else if !gated.isEmpty then wakeFor s gated
  else match laneAddrs s x xk x.act with
    | .fault code l a => issFault s x code l (some a)
    | .waits f p => askAts s f p
    | .ok ls =>
      let s := if 2 ≤ wOrder w ∧ !x.act.isEmpty then releaseL1 s x.core (wScope w) else s
      let s := x.act.foldl (fun s l => useTc s x.w.cid (ctxEa (x.g.th l) w)) s
      let n := s.nextReq
      let unit := ls.map fun p => (⟨p.2.1, 1, p.2.2.1, p.2.2.2⟩ : HeldPage)
      let s := ls.foldl (fun s p =>
        sendReq s (laneReq s x p.1 reg p.2.1 p.2.2.1 (kind (x.g.th p.1) p.2.2.1) p.2.2.2 uncached .host n unit)) s
      retire s x (x.g.advance x.lanes)

/-- LOAD_C (R73, R74). -/
def execLoadC (i : Issue) (s : State) : Host.Outcome State Fault Refusal :=
  .next (issue s i (isOp 8 0) fun s x =>
    memIssue s x .read [(wF3 x.word, wRegs x.word)] (wF3 x.word) false fun _ _ => .load (wBytes x.word))

/-- STORE_C (R73, R74). -/
def execStoreC (i : Issue) (s : State) : Host.Outcome State Fault Refusal :=
  .next (issue s i (isOp 8 1) fun s x =>
    let w := x.word
    memIssue s x .write [(wF3 w, wRegs w)] 256 false fun t _ => .store (leBytes (wBytes w) (t.getN (wF3 w) (wRegs w))))

/-- LOAD_CU (R74): the L1 takes no part. -/
def execLoadCu (i : Issue) (s : State) : Host.Outcome State Fault Refusal :=
  .next (issue s i (isOp 8 2) fun s x =>
    memIssue s x .read [(wF3 x.word, wRegs x.word)] (wF3 x.word) true fun _ _ => .load (wBytes x.word))

/-- LINE_ZERO (R58, R74): each thread's 64-byte line. -/
def execLineZero (i : Issue) (s : State) : Host.Outcome State Fault Refusal :=
  .next (issue s i (isOp 8 3) fun s x => memIssue s x .write [] 256 false fun _ _ => .zero)

/-- LINE_HINT (R74, R99): lines of mapped, aligned, cacheable addresses are asked for, none of a peer (R360); nothing faults.
"Bring the line into the L1" is a prefetch here: the line comes into the L1's side buffer by a later PREFETCH_FILL, and not
in write-through mode, in which prefetch is off (R49; DESIGN CHOICE, log 50). -/
def execLineHint (i : Issue) (s : State) : Host.Outcome State Fault Refusal :=
  .next (issue s i (isOp 8 4) fun s x =>
    if interlocked s x [(wF2 x.word, 2)] || acquirePending s x then s
    else
      let k := x.core + 1
      let lines := x.act.filterMap fun l => match xlate s x.w.cid (ctxEa (x.g.th l) x.word) .read with
        | .ok da nc .. => if nc || reach s da == .peer then none else some (da / 64)
        | _ => none
      let s :=
        if fbit s (cacheEn k) then
          modCache s k fun c =>
            let new := lines.eraseDups.filter fun n =>
              !(c.lines.any (·.line == n) || c.side.any (·.line == n) || c.wanted.any (·.1 == n))
            { c with wanted := c.wanted ++ new.map fun n => (n, x.w.cid) }
        else s
      retire s x (x.g.advance x.lanes))

/-! ## Read-modify-writes (R75, R95, R101) -/

/-- The atomics of one instruction on the local store, in ascending lane order (R95): the store after them, and each
lane's old value. -/
def rmwLocal (x : Iss) (op : Nat) (ea : Nat → Nat) : SMap Byte × List (Nat × Nat) :=
  x.act.foldl (fun p l =>
    let t := x.g.th l
    let old := leNat (mgets 0 p.1 (ea l) 4)
    (mputs 0 p.1 (ea l) (leBytes 4 (rmwValue op 4 old (t.get (wF3 x.word)) (t.get (wF1 x.word)))), p.2 ++ [(l, old)]))
    (x.w.store, [])

/-- One RMW instruction (R75): on the local store when SPACE is 1, else on context memory. -/
def rmwIssue (s : State) (i : Issue) (op : Nat) : State :=
  issue s i (isOp 9 op) fun s x =>
    let w := x.word
    let names := (wF3 w, wRegs w) :: (if op = 9 then [(wF1 w, wRegs w)] else [])
    if wSpace w then
      let ea := fun l => localEa (x.g.th l) w
      if interlocked s x ((wF2 w, 1) :: names) || acquirePending s x || (2 ≤ wOrder w && outstanding s x) then s
      else match localFault x ea with
        | some (code, l) => issFault s x code l none
        | none =>
          let p := rmwLocal x op ea
          let g := if wRet w then x.g.mapLanes x.act fun l t => t.set (wF3 w) ((p.2.lookup l).getD 0) else x.g
          let s := putWg s x.core { x.w with store := p.1 }
          let s := countReplay (retire s x (g.advance x.lanes)) x.core x.w.cid (atomicCost x ea)
          if x.act.isEmpty then s
          else if wOrder w % 2 = 1 then acquireL1 s x.core (wScope w)
          else if wOrder w = 2 then releaseL1 s x.core (wScope w) else s
    else
      memIssue s x .write names (if wRet w then wF3 w else 256) false fun t _ =>
        .rmw op (wBytes w) (t.getN (wF3 w) (wRegs w)) (t.getN (wF1 w) (wRegs w))

/-- RMW_ADD (R75). -/
def execRmwAdd (i : Issue) (s : State) : Host.Outcome State Fault Refusal := .next (rmwIssue s i 0)

/-- RMW_SMIN (R75). -/
def execRmwSmin (i : Issue) (s : State) : Host.Outcome State Fault Refusal := .next (rmwIssue s i 1)

/-- RMW_SMAX (R75). -/
def execRmwSmax (i : Issue) (s : State) : Host.Outcome State Fault Refusal := .next (rmwIssue s i 2)

/-- RMW_UMIN (R75). -/
def execRmwUmin (i : Issue) (s : State) : Host.Outcome State Fault Refusal := .next (rmwIssue s i 3)

/-- RMW_UMAX (R75). -/
def execRmwUmax (i : Issue) (s : State) : Host.Outcome State Fault Refusal := .next (rmwIssue s i 4)

/-- RMW_AND (R75). -/
def execRmwAnd (i : Issue) (s : State) : Host.Outcome State Fault Refusal := .next (rmwIssue s i 5)

/-- RMW_OR (R75). -/
def execRmwOr (i : Issue) (s : State) : Host.Outcome State Fault Refusal := .next (rmwIssue s i 6)

/-- RMW_XOR (R75). -/
def execRmwXor (i : Issue) (s : State) : Host.Outcome State Fault Refusal := .next (rmwIssue s i 7)

/-- RMW_SWAP (R75). -/
def execRmwSwap (i : Issue) (s : State) : Host.Outcome State Fault Refusal := .next (rmwIssue s i 8)

/-- RMW_CMPSWAP (R75). -/
def execRmwCmpswap (i : Issue) (s : State) : Host.Outcome State Fault Refusal := .next (rmwIssue s i 9)

/-- RMW_FADD (R75): fp32, round to nearest even, denormals kept. -/
def execRmwFadd (i : Issue) (s : State) : Host.Outcome State Fault Refusal := .next (rmwIssue s i 10)

/-! ## Answers -/

/-- What a host answer does to a request (R359, R366): its code and data, and the write it makes at the host. -/
def hostAnswer (s : State) (r : Req) (ans : HostData) : State × Nat × List Byte :=
  match ans with
  | .fail e => (if e = .error then raise s E.XLAT_EVENT.HOST_ERR else s, hostCode e, [])
  | .data v =>
    let h := r.addr - hostBase
    let fn := (fnOfCid s r.cid).getD 0
    match r.kind with
    | .load n => (s, cOk, leBytes n v.toNat)
    | .store bs => (hostPut s fn h bs, cOk, [])
    | .zero => (hostPut s fn (h / 64 * 64) (List.replicate 64 0), cOk, [])
    | .rmw op n d c => (hostPut s fn h (leBytes n (rmwValue op n v.toNat d c)), cOk, leBytes n v.toNat)

/-- Deliver an answer to the thread (R38, R73, R102, R105): its registers are written, an acquire invalidates the L1, and
a failure is the thread's fault. The bits above a load of 8 or 16 bits are a free value. -/
def deliver (s : State) (r : Req) (code : Nat) (data : List Byte) : State :=
  let s := { s with reqs := s.reqs.filter (·.id != r.id) }
  match groupAt s r.core r.slot with
  | none => s
  | some g =>
    match wgOf s r.core g with
    | none => s
    | some w =>
      if code ≠ cOk then coreFault s r.core w g code r.lane r.pc (some r.va) r.iword false
      else
        let s := if r.order % 2 = 1 then acquireL1 s r.core r.scope else s
        if r.reg = 256 then s
        else
          let n := data.length
          let up := if n < 4 then freeVal s * 2 ^ (8 * n) else 0
          useFree (putGroup s r.core (g.mapLanes [r.lane] fun _ t => t.setN r.reg (ceilDiv n 4) (leNat data + up)))

/-- The code a request has been answered with, when it has failed. -/
def failedCode (r : Req) : Option Nat := match r.at_ with | .done code _ => if code = cOk then none else some code | _ => none

/-- The requests of the instruction that made a request. -/
def sameInstr (r q : Req) : Bool := q.core == r.core && q.slot == r.slot && q.inst == r.inst

/-- A failed request is its instruction's fault once every lane has its answer: that of the lowest faulting lane (R107,
R371). The instruction's other failures are one with it. -/
def deliverFail (s : State) (r : Req) : State :=
  let mates := s.reqs.filter (sameInstr r)
  if mates.any fun q => match q.at_ with | .done .. => false | _ => true then s
  else match minBy (·.lane) (mates.filter fun q => (failedCode q).isSome) with
    | none => s
    | some q =>
      deliver { s with reqs := s.reqs.filter fun x => !(sameInstr r x && (failedCode x).isSome) } q ((failedCode q).getD cOk) []

/-- The oldest request of a group that is answered without failing, or stands at the host for itself. -/
def readyAnswer (s : State) (c slot : Nat) : Option Req :=
  s.reqs.find? fun r => r.core == c && r.slot == slot && (failedCode r).isNone &&
    (match r.at_ with | .done .. => true | .host => r.fills.isEmpty | _ => false)

/-- MEMORY_RESPONSE (R38, R359): the oldest answered request of a group is delivered, or the oldest one at the host is
answered with what the host says. Failures come after what has succeeded. -/
def execMemoryResponse (c : Fin 17) (slot : Fin 48) (host : HostData) (s : State) : Host.Outcome State Fault Refusal :=
  match readyAnswer s c slot with
  | some r =>
    match r.at_ with
    | .done code data => .next (deliver s r code data)
    | _ =>
      let p := hostAnswer s r host
      if p.2.1 = cOk then .next (deliver p.1 r cOk p.2.2) else .next (answer p.1 r.id p.2.1 [])
  | none => match s.reqs.find? fun r => r.core == c.val && r.slot == slot.val && (failedCode r).isSome with
    | some r => .next (deliverFail s r)
    | none => .next s

end Sys2Proof.Machine
end

