-- ==== Sys2Proof/Machine/TensorCalc.lean ====
section
/-! DEFINITION. The arithmetic of the tensor operations (spec/03_tensor_engine.md R112, R119 to R132, R143 to R145, R169 to
R176): exact sums, output rounding, the functions of RECUR and ROUTE, and counters. -/

namespace Sys2Proof.Machine

open Sys2Proof

/-! ## Counters (R175, R176) -/

/-- Counts a computation adds: products flushed, what rounding reported, and invalid events as (row, column, k). -/
structure Ev where
  flushed : Nat
  sat : Nat
  ovf : Nat
  inv : List (Nat × Nat × Nat)

def Ev.none : Ev := ⟨0, 0, 0, []⟩
def Ev.add (a b : Ev) : Ev := ⟨a.flushed + b.flushed, a.sat + b.sat, a.ovf + b.ovf, a.inv ++ b.inv⟩
def Ev.ofRnd (r : RndEv) : Ev := ⟨0, b2n r.sat, b2n r.ovf, []⟩
def Ev.ofInv (x : Nat × Nat × Nat) : Ev := ⟨0, 0, 0, [x]⟩

/-- Whether one event's indices come before another's (R176). -/
def evBefore (a b : Nat × Nat × Nat) : Bool :=
  decide (a.1 < b.1) || (a.1 == b.1 && (decide (a.2.1 < b.2.1) || (a.2.1 == b.2.1 && decide (a.2.2 < b.2.2))))

/-- The first of two events. -/
def evFirst (a : Option (Nat × Nat × Nat)) (b : Nat × Nat × Nat) : Option (Nat × Nat × Nat) :=
  match a with
  | none => some b
  | some x => if evBefore b x then some b else some x

/-- The counters after a computation; each saturates (R175). -/
def TenCount.add (c : TenCount) (e : Ev) : TenCount :=
  ⟨satAdd 0xFFFFFFFF c.flushed e.flushed, satAdd 0xFFFF c.sat e.sat, satAdd 0xFFFF c.ovf e.ovf,
    satAdd 0xFFFF c.inv e.inv.length, e.inv.foldl evFirst c.first⟩

/-- The numeric block (R177). -/
def TenCount.block (c : TenCount) : List Byte :=
  let f := c.first.getD (0xFFFFFFFF, 0xFFFF, 0xFFFFFFFF)
  leBytes 4 c.flushed ++ leBytes 2 c.sat ++ leBytes 2 c.ovf ++ leBytes 2 c.inv ++ leBytes 2 f.2.1 ++ leBytes 4 f.1 ++
    leBytes 4 f.2.2

abbrev kSum : Nat := 0xFFFFFFFE
abbrev kCell : Nat := 0xFFFFFFFF

/-! ## Small exact sums and fp32 results -/

/-- The exact sum of terms, each a product that may be invalid (`none`) (R166, R167): the number and the number of invalid
steps. -/
def sumTerms (ts : List (Option Num)) : Num × Nat :=
  let bad := countWhere (·.isNone) ts
  let xs := ts.filterMap id
  let isInf := fun (neg : Bool) (x : Num) => x == .inf neg
  if bad ≠ 0 then (.nan, bad)
  else if xs.any (· == .nan) then (.nan, 0)
  else if xs.any (isInf false) && xs.any (isInf true) then (.nan, 1)
  else if xs.any (isInf false) then (.inf false, 0)
  else if xs.any (isInf true) then (.inf true, 0)
  else
    let d := xs.foldl (fun d t => d.add t.dy) (⟨0, 0⟩ : Dyadic)
    if d.m = 0 then (.fin (!xs.isEmpty && xs.all Num.isNegZero) 0 0, 0) else (.fin (decide (d.m < 0)) d.m.natAbs d.e, 0)

/-- The number an fp32 code holds. -/
def f32 (c : Nat) : Num := fmtFp32.decode c

/-- rne32 of a sum of terms, with what it counts at an index (R172). -/
def rneSum (ts : List (Option Num)) (ix : Nat × Nat × Nat) : Nat × Ev :=
  let p := sumTerms ts
  let r := rne32 p.1
  (r.1, (Ev.ofRnd r.2).add ⟨0, 0, 0, List.replicate p.2 ix⟩)

/-! ## exp, σ and tanh, correctly rounded (R126, R132) -/

/-- The fixed point of the exponential: 320 fraction bits. -/
abbrev expF : Nat := 2 ^ 320

/-- The Taylor sum of e^y for a fixed-point y below 2^-16, on fuel: `t` is the current term. -/
def expTaylor : Nat → Nat → Nat → Nat → Nat → Nat
  | 0, _, _, _, acc => acc
  | n + 1, i, y, t, acc =>
    let t' := t * y / expF / (i + 1)
    expTaylor n (i + 1) y t' (acc + t')

/-- Square a fixed-point number `n` times. -/
def sqN : Nat → Nat → Nat
  | 0, v => v
  | n + 1, v => sqN n (v * v / expF)

/-- e^|x| in fixed point for a magnitude m * 2^e; magnitudes of 110 and above are taken as 110, where every result of the
functions below has its limit. -/
def expMag (m : Nat) (e : Int) : Nat :=
  let y := if e ≥ 0 then m * 2 ^ e.toNat * expF else m * expF / 2 ^ (-e).toNat
  let y := min y (110 * expF)
  sqN 16 (expTaylor 24 0 (y / 2 ^ 16) expF expF)

/-- fp32 of a positive rational. -/
def ratTo32 (neg : Bool) (num den : Nat) : Nat × RndEv := tyFp32.roundRat .rne neg num den 0

/-- exp of an fp32 number that is not positive (R132). -/
def exp32 (x : Num) : Nat × RndEv :=
  match x with
  | .nan => (fmtFp32.nanCode, .none)
  | .inf neg => if neg then (0, .none) else (fmtFp32.infCode false, .none)
  | .fin neg m e => if neg then ratTo32 false expF (expMag m e) else ratTo32 false (expMag m e) expF

/-- σ (R126). -/
def sigma32 (x : Num) : Nat :=
  match x with
  | .nan => fmtFp32.nanCode
  | .inf neg => if neg then 0 else 0x3F800000
  | .fin neg m e =>
    let v := expMag m e
    (if neg then ratTo32 false expF (expF + v) else ratTo32 false v (expF + v)).1

/-- tanh (R126). -/
def tanh32 (x : Num) : Nat :=
  match x with
  | .nan => fmtFp32.nanCode
  | .inf neg => if neg then 0xBF800000 else 0x3F800000
  | .fin neg m e =>
    if m = 0 then b2n neg * 2 ^ 31
    else
      let v := expMag m (e + 1)
      (ratTo32 neg (v - expF) (v + expF)).1

/-! ## Output tiles of GEMM, CONV1D_CAUSAL and ROUTE -/

/-- What one block of outputs is computed from: elements of A and B by index, the length K, the types, the C, bias and
scale of an output, the output type, rounding and activation, and the rows of the operation for R136. -/
structure Block where
  a : Nat → Nat → Num
  b : Nat → Nat → Num
  k : Nat
  wid : Nat
  isInt : Bool
  c : Nat → Nat → Option Num
  bias : Nat → Option Num
  scale : Nat → Option Num
  oty : ETy
  rmode : Nat
  rbits : Nat
  relu : Bool
  seed : Nat
  rows : Nat
  /-- The k indices that each engine of a gang column takes, top engine first (R138); one list for a single engine. -/
  slices : List (List Nat)

/-- The bound of a row of A, and of a column of B, over the full K (R143). -/
def Block.rowBound (x : Block) (m : Nat) : Option Int := maxBound ((upTo x.k).map fun k => (x.a m k).bound)
def Block.colBound (x : Block) (n : Nat) : Option Int := maxBound ((upTo x.k).map fun k => (x.b k n).bound)

/-- The anchor of a 32 x 32 anchor tile (R160, R163). -/
def Block.anchor (x : Block) (rows cols : List Nat) : Option Int :=
  if x.isInt then some 111 else anchorOf (maxBound (rows.map x.rowBound)) (maxBound (cols.map x.colBound))

/-- RELU on an output code (R112): a negative result or -0 becomes +0, a NaN stays. -/
def reluCode (t : ETy) (c : Nat) : Nat :=
  match t with
  | .flt f => if bit c (f.eb + f.fb) && f.decode c != .nan then 0 else c
  | .int w => if bit c (w - 1) then 0 else c

/-- The rounding of the output at row `r` and column `n` (R136, R173). -/
def outRnd (rmode rbits seed rows r n : Nat) : Rnd :=
  ⟨rmode, rbits, if rmode = 2 then genOut seed (n % 32) (n / 32 * rows + r) else 0⟩

/-- The accumulator states of one output that the engines of a gang column pass on, the top engine's first and the one
that is finished last: each adds the products of its own k slice to the state it receives (R138, R161, R162). -/
def Block.states (x : Block) (anchor : Option Int) (m n : Nat) : List Accum :=
  (x.slices.foldl (fun (p : List Accum × Accum) ks =>
    let own := ks.foldl (fun st k => st.add anchor x.wid k (x.a m k) (x.b k n)) Accum.zero
    let st := p.2.join own
    (p.1 ++ [st], st)) ([], Accum.zero)).1

/-- One output (R112, R161 to R171): its code and what it counts. -/
def Block.out (x : Block) (anchor : Option Int) (m n : Nat) : Nat × Ev :=
  let st := (x.states anchor m n).getLastD Accum.zero
  let p := st.finish (anchor.getD 0) (x.c m n) (x.bias n)
  let z := match x.isInt, p.1 with
    | true, .fin _ 0 _ => Num.zero
    | _, v => v
  let q := match x.scale n with
    | none => (z, false)
    | some sc => scaleBy z sc
  let r := x.oty.round (outRnd x.rmode x.rbits x.seed x.rows m n) q.1
  let code := if x.relu then reluCode x.oty r.1 else r.1
  let inv := (st.invalid.map fun k => (m, n, k)) ++ (if p.2 then [(m, n, kSum)] else []) ++ (if q.2 then [(m, n, kSum)] else [])
  (code, ⟨st.flushed, b2n r.2.sat, b2n r.2.ovf, inv⟩)

/-- The outputs of a block of rows and columns, by row, and their counts; the columns fall into anchor tiles of 32. -/
def Block.outs (x : Block) (rows cols : List Nat) : List (List Nat) × Ev :=
  let tiles := (cols.map (· / 32)).eraseDups
  let anchors := tiles.map fun t => (t, x.anchor rows (cols.filter fun n => n / 32 == t))
  rows.foldl (fun acc m =>
    let r := cols.foldl (fun (acc : List Nat × Ev) n =>
      let o := x.out ((anchors.lookup (n / 32)).getD none) m n
      (acc.1 ++ [o.1], acc.2.add o.2)) ([], Ev.none)
    (acc.1 ++ [r.1], acc.2.add r.2)) ([], Ev.none)

/-- A bound-table entry (R158). -/
def boundEntry : Option Int → Nat
  | none => 0x8000
  | some b => ux 16 b
def entryBound (v : Nat) : Option Int := if v = 0x8000 then none else some (sx 16 v)

/-- The bound of a row of output codes (R145, R158). -/
def codesBound (t : ETy) (cs : List Nat) : Option Int := maxBound (cs.map fun c => (t.decode c).bound)

/-! ## RECUR (R124 to R126) -/

/-- One LSTM or GRU cell of hidden index `j`, from the four fp32 pre-activations and the previous h and c: the new h and c,
and what it counts. -/
def cellStep (gru : Bool) (a0 a1 a2 a3 h c : Nat) (ix : Nat × Nat × Nat) : Nat × Nat × Ev :=
  if gru then
    let r := sigma32 (f32 a0)
    let z := f32 (sigma32 (f32 a1))
    let p := rneSum [some (f32 a2), (f32 r).mul (f32 a3)] ix
    let n := f32 (tanh32 (f32 p.1))
    let q := rneSum [some n, (z.mul n).map Num.neg, z.mul (f32 h)] ix
    (q.1, 0, p.2.add q.2)
  else
    let i := f32 (sigma32 (f32 a0))
    let f := f32 (sigma32 (f32 a1))
    let g := f32 (tanh32 (f32 a2))
    let o := f32 (sigma32 (f32 a3))
    let p := rneSum [f.mul (f32 c), i.mul g] ix
    let q := rneSum [o.mul (f32 (tanh32 (f32 p.1)))] ix
    (q.1, p.1, p.2.add q.2)

/-! ## ROUTE (R131, R132) -/

/-- Whether score `a` ranks before score `b` at a higher index (R131). -/
def ranksBefore (a b : Nat) : Bool :=
  match f32 a, f32 b with
  | .nan, .nan => true
  | .nan, _ => false
  | _, .nan => true
  | .inf false, _ => true
  | _, .inf true => true
  | .inf true, _ => false
  | _, .inf false => false
  | x, y => (y.dy).le x.dy

/-- Insert a scored expert into a ranking; equal scores keep the lower index first. -/
def rankInsert (x : Nat × Nat) : List (Nat × Nat) → List (Nat × Nat)
  | [] => [x]
  | y :: ys => if ranksBefore y.2 x.2 then y :: rankInsert x ys else x :: y :: ys

/-- The first `k` experts of a token's scores, in rank order. -/
def rankTop (k : Nat) (scores : List (Nat × Nat)) : List (Nat × Nat) :=
  (scores.foldl (fun r x => rankInsert x r) []).take k

/-- The gates of the selected scores (R132), with the internal counts; `ix` are the indices of an invalid step. -/
def gatesOf (softmax : Bool) (ss : List Nat) (ix : Nat × Nat × Nat) : List Nat × Ev :=
  if !softmax then (ss.map fun _ => 0x3F800000, Ev.none)
  else
    let s1 := f32 (ss.headD 0)
    let ds := ss.map fun s => rneSum [some (f32 s), some s1.neg] ix
    let es := ds.map fun d => exp32 (f32 d.1)
    let sum := rneSum (es.map fun e => some (f32 e.1)) ix
    let gs := es.map fun e =>
      match f32 e.1, f32 sum.1 with
      | .fin _ m x, .fin _ n y =>
        if n = 0 then (fmtFp32.nanCode, RndEv.none)
        else if x ≥ y then tyFp32.roundRat .rne false (m * 2 ^ (x - y).toNat) n 0
        else tyFp32.roundRat .rne false m (n * 2 ^ (y - x).toNat) 0
      | _, _ => (fmtFp32.nanCode, RndEv.none)
    let ev := (ds.foldl (fun a d => a.add d.2) Ev.none).add sum.2
    (gs.map (·.1), (es ++ gs).foldl (fun a r => a.add (Ev.ofRnd r.2)) ev)

end Sys2Proof.Machine
end

