-- ==== Sys2Proof/Machine/Tensor.lean ====
section
/-! DEFINITION. The tensor engine and the Prompter (spec/03_tensor_engine.md): descriptors and their checks, tiles, faults,
completion and resumption. -/

namespace Sys2Proof.Machine

open Sys2Proof

/-! ## Descriptors (R113 to R133) -/

abbrev Desc := List Byte

def dOpc (d : Desc) : Nat := field d 0 1
def dFlag (d : Desc) (i : Nat) : Bool := bit (field d 2 2) i
def dA (d : Desc) : Nat := field d 4 1 % 16
def dB (d : Desc) : Nat := field d 4 1 / 16
def dC (d : Desc) : Nat := field d 5 1 % 16
def dO (d : Desc) : Nat := field d 5 1 / 16
def dRmode (d : Desc) : Nat := field d 6 1 % 4
def dAct (d : Desc) : Nat := field d 6 1 / 4 % 4
def dRbits (d : Desc) : Nat := field d 7 1
def dGr (d : Desc) : Nat := field d 8 1 % 4
def dGc (d : Desc) : Nat := field d 8 1 / 4 % 4
def dGang (d : Desc) : Nat := 2 ^ (dGr d + dGc d)
/-- 32-bit, 16-bit and 8-byte fields by offset. -/
def d4 (d : Desc) (o : Nat) : Nat := field d o 4
def d2 (d : Desc) (o : Nat) : Nat := field d o 2
def d8 (d : Desc) (o : Nat) : Nat := field d o 8
def d1 (d : Desc) (o : Nat) : Nat := field d o 1

/-- The element type a code names, bf16 for a reserved one (which the check refuses). -/
def ty (code : Nat) : ETy := (etyOf code).getD (.flt fmtBf16)

/-- The width class of a code (R115): 0 16-bit, 1 8-bit float, 2 8-bit integer, 3 4-bit integer, 4 4-bit float, 5 and 6 the
32-bit types. -/
def widthClass (code : Nat) : Option Nat :=
  match code with
  | 0 => some 0
  | 1 => some 0
  | 2 => some 1
  | 3 => some 1
  | 4 => some 2
  | 6 => some 3
  | 7 => some 4
  | 8 => some 5
  | 9 => some 6
  | _ => none

/-- Kt of a width class (R109). -/
def ktOf (code : Nat) : Nat :=
  match widthClass code with
  | some 0 => 32
  | some 1 => 64
  | some 2 => 64
  | _ => 128

def isIntCode (c : Nat) : Bool := c == 4 || c == 6

/-- The frames of history of a convolution (R122). -/
def convH (d : Desc) : Nat := (d1 d 24 - 1) * d2 d 26

/-- The rows, columns and length K of an operation's products (R135). -/
def dRows (d : Desc) : Nat :=
  match dOpc d with
  | 3 => d4 d 16 * d1 d 25
  | _ => d4 d 16
def dCols (d : Desc) : Nat :=
  match dOpc d with
  | 1 => d4 d 20
  | 2 => d2 d 22
  | 3 => d2 d 20
  | 4 => d4 d 20
  | _ => d2 d 22
def dK (d : Desc) : Nat :=
  match dOpc d with
  | 1 => d4 d 24
  | 2 => d1 d 24 * d2 d 20
  | 3 => d2 d 22 + d2 d 20
  | _ => d2 d 20

/-- The columns of a logical output tile (R138). -/
def tileCols (d : Desc) : Nat := 32 * 2 ^ dGc d

/-- The output tiles of an operation (R135). -/
def tileCount (d : Desc) : Nat :=
  match dOpc d with
  | 3 => d4 d 16
  | 4 => ceilDiv (d4 d 20) 32
  | 5 => ceilDiv (d4 d 16) 32
  | _ => ceilDiv (dRows d) 32 * ceilDiv (dCols d) (tileCols d)

/-- The numbers from `lo` below `min (lo + n) cap`. -/
def span (lo n cap : Nat) : List Nat := (upTo (min n (cap - lo))).map (lo + ·)

/-- The rows and columns of tile `i`: for GEMM and CONV1D_CAUSAL, n-tiles outermost (R145, R153). -/
def tileRows (d : Desc) (i : Nat) : List Nat := span (i % ceilDiv (dRows d) 32 * 32) 32 (dRows d)
def tileColsOf (d : Desc) (i : Nat) : List Nat := span (i / ceilDiv (dRows d) 32 * tileCols d) (tileCols d) (dCols d)

/-- The largest tile work (R153). -/
def tileWork (d : Desc) : Nat :=
  match dOpc d with
  | 3 => recurBeats d
  | 4 => d4 d 16
  | _ => ceilDiv (dK d) (ktOf (dA d) * 2 ^ dGr d) * max 4 (min 32 (dRows d))
where
  /-- The beats of a RECUR step (R128). -/
  recurBeats (d : Desc) : Nat :=
    let count := ceilDiv (4 * d2 d 20) 32 * ceilDiv (d2 d 22 + d2 d 20) 32
    count * max (if count ≤ 16 then 4 else 16) (d1 d 25) + 40

/-- Whether a RECUR keeps its weights resident (R128). -/
def dResident (d : Desc) : Bool :=
  dOpc d == 3 && decide (ceilDiv (4 * d2 d 20) 32 * ceilDiv (d2 d 22 + d2 d 20) 32 ≤ 16)

/-- An address that is used only when `b` holds: aligned when used, else zero. -/
def addrIf (d : Desc) (o a : Nat) (b : Bool) : Bool := if b then d8 d o % a == 0 else d8 d o == 0

/-- Bytes of an element, one for the 4-bit types. -/
def esize (code : Nat) : Nat := max 1 ((ty code).width / 8)

/-- The rules of R116 that hold for operations with an output type. -/
def typesOk (d : Desc) : Bool :=
  let isI := isIntCode (dA d)
  (widthClass (dA d)).isSome && widthClass (dA d) == widthClass (dB d) &&
    (if isI then
      (if dO d = 9 then dRmode d == 0 && !dFlag d 2 else dFlag d 2) && (!dFlag d 0 || dC d == 9)
     else dO d != 4 && dO d != 9 && (!dFlag d 0 || dC d == 8 || dC d == dO d))

/-- The common header's checks (R114). -/
def headerOk (d : Desc) : Bool :=
  d1 d 1 == 1 && decide (d2 d 2 < 64) && decide (dRmode d ≠ 3) && decide (dAct d ≤ 1) && decide (d1 d 6 < 16) &&
    (if dRmode d = 2 then decide (1 ≤ dRbits d) && decide (dRbits d ≤ 16) else dRbits d == 0) &&
    decide (dGr d ≤ 2) && decide (dGc d ≤ 2) && decide (d1 d 8 < 16) && zeros d 9 7

def rng (lo x hi : Nat) : Bool := decide (lo ≤ x) && decide (x ≤ hi)

/-- The output types of GEMM and CONV1D_CAUSAL (R116). -/
def outOk (c : Nat) : Bool := [0, 1, 8, 2, 3, 4, 9].contains c

/-- GEMM's checks (R116, R119 to R121). -/
def gemmOk (d : Desc) : Bool :=
  let m := d4 d 16
  let n := d4 d 20
  let k := d4 d 24
  let lda := d4 d 64
  let ldb := d4 d 68
  let four := dA d == 6 || dA d == 7
  [0, 1, 2, 3, 4, 6, 7].contains (dA d) && outOk (dO d) && typesOk d && rng 1 m 1048576 && rng 1 n 65536 &&
    rng 1 k 65536 && zeros d 28 4 && decide (k ≤ lda) && decide (n ≤ ldb) && (!dFlag d 0 || decide (n ≤ d4 d 72)) &&
    decide (n ≤ d4 d 76) && (!four || (lda % 2 == 0 && ldb % 2 == 0)) &&
    (dA d != 7 || (k % 32 == 0 && lda % 32 == 0)) &&
    addrIf d 32 (esize (dA d)) true && addrIf d 40 (esize (dB d)) true && addrIf d 48 (esize (dC d)) (dFlag d 0) &&
    addrIf d 56 (esize (dO d)) true && addrIf d 80 4 (dFlag d 1) && addrIf d 88 4 (dFlag d 2) &&
    addrIf d 96 2 (dFlag d 3) && addrIf d 104 2 (dFlag d 4) && addrIf d 112 2 (dFlag d 5) &&
    addrIf d 120 4096 (dGang d != 1)

/-- CONV1D_CAUSAL's checks (R116, R122, R123). -/
def convOk (d : Desc) : Bool :=
  [0, 1, 2, 3, 4, 6].contains (dA d) && outOk (dO d) && typesOk d && !dFlag d 0 && !dFlag d 3 &&
    rng 1 (d4 d 16) 65536 && rng 1 (d2 d 20) 4096 && rng 1 (d2 d 22) 4096 && rng 1 (d1 d 24) 64 && zeros d 25 1 &&
    rng 1 (d2 d 26) 4096 && zeros d 28 4 && zeros d 112 16 &&
    addrIf d 32 (esize (dA d)) true && addrIf d 40 (esize (dB d)) true && addrIf d 48 (esize (dA d)) (convH d != 0) &&
    addrIf d 56 (esize (dO d)) true && addrIf d 64 (esize (dA d)) (convH d != 0) && addrIf d 72 4 (dFlag d 1) &&
    addrIf d 80 4 (dFlag d 2) && addrIf d 88 2 (dFlag d 4) && addrIf d 96 2 (dFlag d 5) && addrIf d 104 4096 (dGang d != 1)

/-- RECUR's checks (R116, R124 to R127). -/
def recurOk (d : Desc) : Bool :=
  let h := d2 d 20
  let i := d2 d 22
  decide (dA d ≤ 1) && decide (dB d ≤ 1) && [0, 1, 8].contains (dO d) && (d2 d 2 == 0 || d2 d 2 == 2) && dGang d == 1 &&
    rng 1 (d4 d 16) 65536 && rng 1 h 256 && rng 1 i 1024 && decide (i + h ≤ 1280) && decide (d1 d 24 ≤ 1) &&
    rng 1 (d1 d 25) 32 && decide (d1 d 25 * h * (2 - d1 d 24) * 4 ≤ 65536) && zeros d 26 6 && zeros d 80 48 &&
    addrIf d 32 2 true && addrIf d 40 2 true && addrIf d 48 4 (dFlag d 1) && addrIf d 56 4 true && addrIf d 64 4 true &&
    addrIf d 72 (esize (dO d)) true

/-- SCAN's checks (R116, R129, R130). -/
def scanOk (d : Desc) : Bool :=
  [0, 1, 8].contains (dA d) && [0, 1, 8].contains (dB d) && [0, 1, 8].contains (dO d) &&
    widthClass (dA d) == widthClass (dB d) && d2 d 2 == 0 && dGang d == 1 && rng 1 (d4 d 16) 65536 &&
    rng 1 (d4 d 20) 65536 && decide (d1 d 24 ≤ 1) && zeros d 25 7 && zeros d 72 56 &&
    addrIf d 32 (esize (dA d)) true && addrIf d 40 (esize (dB d)) true && addrIf d 48 4 true && addrIf d 56 4 true &&
    addrIf d 64 (esize (dO d)) true

/-- ROUTE's checks (R116, R131 to R133). SEL holds entries of 8 bytes with fields of at most 4, the report fields of 4: the
spec calls neither its "element size" (R117), and both are checked for 4 (DESIGN CHOICE, log 52). -/
def routeOk (d : Desc) : Bool :=
  let bytes := d2 d 20 * esize (dA d)
  decide (dA d ≤ 3) && widthClass (dA d) == widthClass (dB d) && dO d == 0 && dRmode d == 0 &&
    (d2 d 2 == 0 || d2 d 2 == 2) && dGang d == 1 && rng 1 (d4 d 16) 65536 && rng 64 bytes 4096 && bytes % 64 == 0 &&
    rng 1 (d2 d 22) 4096 && rng 1 (d1 d 24) 8 && decide (d1 d 24 ≤ d2 d 22) && decide (d1 d 25 ≤ 1) &&
    decide (d2 d 26 < 4096) && decide (d2 d 26 + d2 d 22 ≤ 4096) && zeros d 72 56 &&
    addrIf d 32 (esize (dA d)) true && addrIf d 40 (esize (dB d)) true && addrIf d 48 4 (dFlag d 1) && addrIf d 56 4 true &&
    addrIf d 64 4 true

/-! ## Extents (R118) -/

/-- Bytes of `n` elements of a type. -/
def tyBytes (code n : Nat) : Nat := (n * (ty code).width + 7) / 8

/-- The byte extent of a matrix of `r` rows and `c` columns with a row stride, scale tails apart. -/
def matExtent (code r c ld : Nat) : Nat := tyBytes code ((r - 1) * ld + c)

/-- The extents of an operation as (address, length): inputs and outputs, and apart from them each output that may
coincide with an input of its own, with that input. -/
structure Extents where
  ins : List (Nat × Nat)
  outs : List (Nat × Nat)
  pairs : List ((Nat × Nat) × (Nat × Nat))

/-- An extent that is present only when `b` holds. -/
def exIf (b : Bool) (a n : Nat) : List (Nat × Nat) := if b then [(a, n)] else []

/-- The extents of an operation (R118 to R133). -/
def extents (d : Desc) : Extents :=
  match dOpc d with
  | 1 =>
    let m := d4 d 16
    let n := d4 d 20
    let k := d4 d 24
    let aLen := if dA d = 7 then m * d4 d 64 / 2 + (m - 1) * (d4 d 64 / 32) + k / 32 else matExtent (dA d) m k (d4 d 64)
    let bLen := if dB d = 7 then k * d4 d 68 / 2 + (k / 32 - 1) * d4 d 68 + n else matExtent (dB d) k n (d4 d 68)
    let dx := (d8 d 56, matExtent (dO d) m n (d4 d 76))
    let cx := (d8 d 48, matExtent (dC d) m n (d4 d 72))
    let same := d8 d 48 == d8 d 56 && d4 d 72 == d4 d 76 && esize (dC d) == esize (dO d)
    ⟨[(d8 d 32, aLen), (d8 d 40, bLen)] ++ exIf (dFlag d 1) (d8 d 80) (4 * n) ++ exIf (dFlag d 2) (d8 d 88) (4 * n) ++
        exIf (dFlag d 3) (d8 d 96) (2 * m) ++ exIf (dFlag d 4) (d8 d 104) (2 * n) ++ (if dFlag d 0 && !same then [cx] else []),
      (if dFlag d 0 && same then [] else [dx]) ++ exIf (dFlag d 5) (d8 d 112) (2 * m),
      if dFlag d 0 && same then [(dx, cx)] else []⟩
  | 2 =>
    let t := d4 d 16
    let ci := d2 d 20
    let co := d2 d 22
    let h := convH d
    ⟨[(d8 d 32, tyBytes (dA d) (t * ci)), (d8 d 40, tyBytes (dB d) (d1 d 24 * ci * co))] ++
        exIf (dFlag d 1) (d8 d 72) (4 * co) ++ exIf (dFlag d 2) (d8 d 80) (4 * co) ++ exIf (dFlag d 4) (d8 d 88) (2 * co),
      [(d8 d 56, tyBytes (dO d) (t * co))] ++ exIf (dFlag d 5) (d8 d 96) (2 * t),
      if h = 0 then [] else [((d8 d 64, tyBytes (dA d) (h * ci)), (d8 d 48, tyBytes (dA d) (h * ci)))]⟩
  | 3 =>
    let h := d2 d 20
    let b := d1 d 25
    let st := b * h * (2 - d1 d 24) * 4
    ⟨[(d8 d 32, tyBytes (dA d) (d4 d 16 * b * d2 d 22)), (d8 d 40, tyBytes (dB d) ((d2 d 22 + h) * 4 * h))] ++
        exIf (dFlag d 1) (d8 d 48) (16 * h),
      [(d8 d 72, tyBytes (dO d) (d4 d 16 * b * h))], [((d8 d 64, st), (d8 d 56, st))]⟩
  | 4 =>
    let t := d4 d 16
    let c := d4 d 20
    ⟨[(d8 d 32, tyBytes (dA d) (t * c)), (d8 d 40, tyBytes (dB d) (if d1 d 24 = 0 then t * c else c))],
      [(d8 d 64, tyBytes (dO d) (t * c))], [((d8 d 56, 4 * c), (d8 d 48, 4 * c))]⟩
  | _ =>
    let n := d4 d 16
    ⟨[(d8 d 32, tyBytes (dA d) (n * d2 d 20)), (d8 d 40, tyBytes (dB d) (d2 d 20 * d2 d 22))] ++
        exIf (dFlag d 1) (d8 d 48) (4 * d2 d 22),
      [(d8 d 56, 8 * d1 d 24 * n), (d8 d 64, 32)], []⟩

/-- Whether two extents overlap. -/
def exMeet (a b : Nat × Nat) : Bool := overlaps a.1 a.2 b.1 b.2

/-- Whether a list of extents has two that overlap. -/
def exClash : List (Nat × Nat) → Bool
  | [] => false
  | x :: xs => xs.any (exMeet x) || exClash xs

/-- No output overlaps an input or another output; an output with an input of its own may coincide exactly with that one
(R118). -/
def extentsOk (d : Desc) : Bool :=
  let e := extents d
  let outs := e.outs ++ e.pairs.map (·.1)
  !exClash outs && outs.all (fun o => e.ins.all fun i => !exMeet o i) &&
    e.outs.all (fun o => e.pairs.all fun p => !exMeet o p.2) && e.pairs.all fun p => !exMeet p.1 p.2 || p.1 == p.2

/-- Whether a descriptor passes the checks of R117 and R118 in a partition. -/
def descOk (s : State) (p : Nat) (d : Desc) : Bool :=
  headerOk d &&
    (match dOpc d with
     | 1 => gemmOk d
     | 2 => convOk d
     | 3 => recurOk d
     | 4 => scanOk d
     | 5 => routeOk d
     | _ => false) &&
    decide (dGang d ≤ (partCores s p).length) && decide (tileWork d ≤ partNpl s p) && extentsOk d

/-! ## Engines -/

/-- The operation on an engine. -/
def opOn (s : State) (c : Nat) : Option TensorOp := s.tensors.find? (·.cores.contains c)

/-- The operation whose gang position (0, 0) is on a core. -/
def headOn (s : State) (c : Nat) : Option TensorOp := s.tensors.find? (·.cores.head? == some c)

/-- Change an operation. -/
def modOp (s : State) (uid : Nat) (f : TensorOp → TensorOp) : State :=
  { s with tensors := mapWhere (·.uid == uid) f s.tensors }

/-- CORE_TE_STATUS, TILE and DESC of a member show the operation. -/
def showTe (s : State) (o : TensorOp) : State :=
  o.cores.foldl (fun s c =>
    let g := (o.cores.takeWhile (· != c)).length
    let ganged := b2n (dGang o.desc != 1)
    let s := wrN s (R.CORE_TE_STATUS c) (1 + 2 * (dOpc o.desc % 8) + 16 * b2n (dResident o.desc) + 32 * ganged + 256 * g)
    fset (wrN (wrN s (R.CORE_TE_TILE c) o.next) (R.CORE_TE_DESC_LO c) o.daddr) (F.CORE_TE_DESC_HI.ADDR c)
      (o.daddr / 2 ^ 32)) s

/-- Whether held translations are those of tiles an operation's Prompter has run ahead to. -/
def isAheadOf (uid : Nat) (h : Held) : Bool := match h.agent with | .prompter _ u _ => u == uid | _ => false

/-- The engines of an operation are idle again, and what their Prompters held for it is gone. -/
def idleTe (s : State) (o : TensorOp) : State :=
  let s := o.cores.foldl (fun s c => unhold (wrN s (R.CORE_TE_STATUS c) 0) (.tensor c)) s
  { s with helds := s.helds.filter (!isAheadOf o.uid ·) }

/-- An operation leaves its engines and ends its cue. -/
def endOp (s : State) (o : TensorOp) (code : Nat) : State :=
  endCue (idleTe { s with tensors := s.tensors.filter (·.uid != o.uid) } o) o.uid code o.num.block

/-- CORE_TE_DESC of an engine shows a descriptor's address. -/
def showDesc (s : State) (c daddr : Nat) : State :=
  fset (wrN s (R.CORE_TE_DESC_LO c) daddr) (F.CORE_TE_DESC_HI.ADDR c) (daddr / 2 ^ 32)

/-- The fault record of a tensor engine (R117, R151), and its report by the core. The record names no thread group, and its
group-wide bit is clear (R107; DESIGN CHOICE, log 52). -/
def tensorFaultAt (s : State) (c cid uid daddr iword code addr : Nat) : State :=
  let r := faultRec code (lcoreOf s c) c cid 0xFE 0xFF daddr (some addr) iword false
  let s := raise (showDesc s c daddr) (E.CORE_TE_EVENT.XLAT_FAULT c)
  if (ctxOf s cid).state = .live ∧ !s.faultReps.any (·.cid == cid) then
    reportFault (raise (writeCoreRec s c r) (E.CORE_FAULT_STATUS.FAULT c)) cid r (some uid)
  else furtherFault c s ⟨cid, r, some uid⟩

/-- An operation ends with CUE_INVALID at the check of R117 and R118. -/
def tensorInvalid (s : State) (c uid : Nat) : State :=
  endCue (raise s (E.CORE_TE_EVENT.DESC_INVALID c)) uid cCueInvalid

/-- An operation that has just been read: its cue, context, engine, descriptor, descriptor address and seed. -/
def freshOp (uid cid c : Nat) (d : Desc) (ea seed : Nat) : TensorOp :=
  { uid := uid
    cid := cid
    cores := [c]
    desc := d
    daddr := ea
    seed := seed
    next := 0
    stage := .boundary
    num := TenCount.zero
    store := []
    pairs := []
    sent := []
    handed := 0
    delivered := 0
    undeliv := 0
    localN := 0
    firstFail := none
    ob0 := []
    ob1 := []
    ahead := [] }

/-- Whether a chain cue of a privileged stream is ganged or a ROUTE (R202). -/
def chainBad (s : State) (src : CueSrc) (d : Desc) : Bool :=
  match src with
  | .ring _ => false
  | .stream n => streamPriv s n && (dGang d != 1 || dOpc d == 5)

/-- Such a cue puts its stream into FAULTED (R202). -/
def chainFault (s : State) (src : CueSrc) : State :=
  match src with
  | .ring _ => s
  | .stream n => streamFault s n cCueInvalid

/-- Whether a gang of the partition that has been checked comes before a context's tensor work (R337): engines that free are
then reserved for it. -/
def gangFirst (s : State) (p cid : Nat) : Bool :=
  s.tensors.any fun g => g.stage == .gang && (ctxOf s g.cid).part == p && (g.cid == cid || earlier s g.cid cid)

/-- The operation that a started cue has read ahead on an engine, or none (R147). -/
def readAhead (s : State) (c uid : Nat) : Option NextOp := s.prefetched.find? fun n => n.op.uid == uid && n.core == c

/-- A cue is no longer among those read ahead. -/
def dropNext (s : State) (uid : Nat) : State := { s with prefetched := s.prefetched.filter (·.op.uid != uid) }

/-- The engine of a core as it reads a descriptor for a cue. -/
def descEng (s : State) (c : Nat) (cue : CueRun) (daddr : Nat) : EngAsk :=
  ⟨2 * c, cue.cid, noTag, .cue cue.uid, lcoreOf s c, c, 0xFE, daddr, 0⟩

/-- Start the next cue of a source as tensor operation `opc` on an engine (R113, R117, R141, R337, R434): the descriptor is
read and checked; a gang then waits to be placed. What the Prompter has read ahead is used, and a failure held then is raised
now (R147). A descriptor of another operation leaves the cue to its own step; one whose OPC is reserved fails the check in
any. A chain cue of a privileged stream that is ganged or a ROUTE ends with CUE_INVALID too, and its stream faults (R202);
that is no failure of R117 or R118, and DESC_INVALID stays as it is. -/
def tensorStart (s : State) (c : Nat) (src : CueSrc) (opc : Nat) : State :=
  let s := noteAll s ((partOfCore s c).getD 8)
  if (opOn s c).isSome then s
  else startCue s src 1 fun s' cue =>
    let p := (ctxOf s cue.cid).part
    if !coreTakes s c p || !homeOk s src c || !mayPlace s p cue.cid src .tensor c ||
        (!isChain s src && gangFirst s p cue.cid) || beingTaken s cue.cid .tensor [c] then s
    else whenUp s [dCore + c] (
      let go := fun (s' : State) (o : TensorOp) =>
        let d := o.desc
        if dOpc d ≠ opc ∧ 1 ≤ dOpc d ∧ dOpc d ≤ 5 then s
        else
          let s' := dropNext s' cue.uid
          if !descOk s' p d then
            let s' := tensorInvalid (showDesc s' c cue.ea) c cue.uid
            if chainBad s' src d then chainFault s' src else s'
          else if chainBad s' src d then chainFault (endCue s' cue.uid cCueInvalid) src
          else
            let o : TensorOp := { o with stage := if dGang d = 1 then .boundary else .gang, seed := cue.seed }
            showTe { startSlice s' cue.cid with tensors := s'.tensors ++ [o] } o
      let fail := fun (s' : State) (code a : Nat) =>
        useFree (endCue (tensorFaultAt s' c cue.cid cue.uid cue.ea (freeVal s' % 2 ^ 32) code a) cue.uid code)
      match readAhead s c cue.uid with
      | some n => match n.fail with
        | some (code, a) => fail (dropNext s' cue.uid) code a
        | none => go s' n.op
      | none =>
        match xlateUnit s' cue.cid [(cue.ea, 128, false)] with
        | .waits f g => askAts s f g
        | .fault code a => fail s' code a
        | .ok pages =>
          let e := descEng s' c cue cue.ea
          if engineWaits s' e pages [(cue.ea, 128, false)] then unitWait s s' e pages [(cue.ea, 128, false)]
          else
            let d := ctxRead s' pages cue.ea 128
            go (portUse (usePages s' cue.cid pages) e pages [((cue.ea, 128, false), noTag)])
              (freshOp cue.uid cue.cid c d cue.ea cue.seed))

/-- TENSOR_GEMM (R117 to R121). -/
def execTensorGemm (c : Fin 17) (src : Src) (s : State) : Host.Outcome State Fault Refusal :=
  .next (tensorStart s c (srcOf src) 1)

/-- TENSOR_CONV1D_CAUSAL (R117, R118, R122, R123). -/
def execTensorConv1dCausal (c : Fin 17) (src : Src) (s : State) : Host.Outcome State Fault Refusal :=
  .next (tensorStart s c (srcOf src) 2)

/-- TENSOR_RECUR (R117, R118, R124 to R128). -/
def execTensorRecur (c : Fin 17) (src : Src) (s : State) : Host.Outcome State Fault Refusal :=
  .next (tensorStart s c (srcOf src) 3)

/-- TENSOR_SCAN (R117, R118, R129, R130). -/
def execTensorScan (c : Fin 17) (src : Src) (s : State) : Host.Outcome State Fault Refusal :=
  .next (tensorStart s c (srcOf src) 4)

/-- TENSOR_ROUTE (R117, R118, R131 to R134). -/
def execTensorRoute (c : Fin 17) (src : Src) (s : State) : Host.Outcome State Fault Refusal :=
  .next (tensorStart s c (srcOf src) 5)

/-! ## Footprints (R138, R141, R145) -/

/-- A range that a tile reads or writes, with its stream tag (R146), the operand buffer that may hold it ahead (R140): 0 OB0,
1 OB1, 2 neither; and the member of the gang that reads or writes it, by its own core's port (R138). -/
structure OpRange where
  va : Nat
  n : Nat
  w : Bool
  tag : Nat
  ob : Nat
  mem : Nat

def OpRange.plain (r : OpRange) : Nat × Nat × Bool := (r.va, r.n, r.w)

/-- Ranges of a kind: A, frames and inputs; B, W and WR; C, bias and scale; history and state; bound tables; outputs. -/
def lab (tag ob : Nat) (l : List (Nat × Nat × Bool)) : List OpRange := l.map fun r => ⟨r.1, r.2.1, r.2.2, tag, ob, 0⟩
def labA := lab 8 1
def labB := lab 9 0
def labC := lab 10 1
def labH := lab 11 1
def labT := lab 11 2
def labO := lab noTag 2

/-- The bytes of `n` elements from element `i` of an array. -/
def elRange (addr code i n : Nat) (w : Bool) : Nat × Nat × Bool :=
  let bits := (ty code).width
  let lo := i * bits / 8
  (addr + lo, (i * bits + n * bits + 7) / 8 - lo, w)

/-- A range present only when a flag is set. -/
def rIf (b : Bool) (r : Nat × Nat × Bool) : List (Nat × Nat × Bool) := if b then [r] else []

/-- The k slices of gang row `r` (R138), each its first index and its length: slice `r` of every logical k-tile. -/
def kSlices (d : Desc) (r : Nat) : List (Nat × Nat) :=
  if dGr d = 0 then [(0, dK d)]
  else
    let kt := ktOf (dA d)
    ((upTo (ceilDiv (dK d) kt)).filter (· % 2 ^ dGr d == r)).map fun t => (t * kt, min kt (dK d - t * kt))

/-- The columns of tile `i` that gang column `c` takes (R138). -/
def memberCols (d : Desc) (i c : Nat) : List Nat := (tileColsOf d i).filter fun n => n / 32 % 2 ^ dGc d == c

/-- Channels `c0` to `c0 + n - 1` of `m` frames of x' from frame `lo` on (R122): history in HIN, the block in X. -/
def frameRanges (d : Desc) (lo m c0 n : Nat) : List OpRange :=
  let h := convH d
  let ci := d2 d 20
  if n = ci then
    (if lo < h then labH [elRange (d8 d 48) (dA d) (lo * ci) ((min (lo + m) h - lo) * ci) false] else []) ++
      (if lo + m > h then labA [elRange (d8 d 32) (dA d) ((max lo h - h) * ci) ((lo + m - max lo h) * ci) false] else [])
  else (upTo m).flatMap fun q =>
    let f := lo + q
    if f < h then labH [elRange (d8 d 48) (dA d) (f * ci + c0) n false]
    else labA [elRange (d8 d 32) (dA d) ((f - h) * ci + c0) n false]

/-- The frames that rows `r0` to `r0 + nr - 1` of a convolution read for the k indices from `k.1` on (R122, R141): tap by
tap. -/
def tapRanges (d : Desc) (r0 nr : Nat) (k : Nat × Nat) : List OpRange :=
  let ci := d2 d 20
  (span (k.1 / ci) (ceilDiv (k.1 + k.2) ci - k.1 / ci) (d1 d 24)).flatMap fun j =>
    let c0 := max k.1 (j * ci) - j * ci
    let c1 := min (k.1 + k.2) ((j + 1) * ci) - j * ci
    frameRanges d (convH d + r0 - j * d2 d 26) nr c0 (c1 - c0)

/-- What the engine at gang position (r, c) reads and writes in tile `i` of GEMM or CONV1D_CAUSAL (R138, R141, R145): its k
slices of A and of its columns of B; the engine at the foot of a gang column the other operands of its columns, the bound
tables, which integer inputs do not use (R158), and the outputs, and in column 0 the history. -/
def matPrint (d : Desc) (i r c : Nat) : List OpRange :=
  let rows := tileRows d i
  let cols := memberCols d i c
  let n0 := cols.headD 0
  let nc := cols.length
  let r0 := rows.headD 0
  let nr := rows.length
  let foot := r + 1 == 2 ^ dGr d
  let first := foot && c == 0
  let ks := kSlices d r
  if nc = 0 then []
  else if dOpc d = 1 then
    let k := d4 d 24
    let lda := d4 d 64
    let ldb := d4 d 68
    let aTail := d8 d 32 + d4 d 16 * lda / 2
    let bTail := d8 d 40 + k * ldb / 2
    labA (ks.flatMap fun q => rows.map fun m => elRange (d8 d 32) (dA d) (m * lda + q.1) q.2 false) ++
      (if dA d = 7 then labA (ks.flatMap fun q => rows.map fun m => (aTail + m * (lda / 32) + q.1 / 32, q.2 / 32, false))
       else []) ++
      labB (ks.flatMap fun q => (upTo q.2).map fun e => elRange (d8 d 40) (dB d) ((q.1 + e) * ldb + n0) nc false) ++
      (if dB d = 7 then labB (ks.flatMap fun q => (upTo (q.2 / 32)).map fun e => (bTail + (q.1 / 32 + e) * ldb + n0, nc, false))
       else []) ++
      (if !foot then [] else
        (if dFlag d 0 then labC (rows.map fun m => elRange (d8 d 48) (dC d) (m * d4 d 72 + n0) nc false) else []) ++
        labC (rIf (dFlag d 1) (d8 d 80 + 4 * n0, 4 * nc, false) ++ rIf (dFlag d 2) (d8 d 88 + 4 * n0, 4 * nc, false)) ++
        labT (rIf (dFlag d 3 && !isIntCode (dA d)) (d8 d 96 + 2 * r0, 2 * nr, false) ++
          rIf (dFlag d 4 && !isIntCode (dB d)) (d8 d 104 + 2 * n0, 2 * nc, false) ++
          rIf (dFlag d 5 && first) (d8 d 112 + 2 * r0, 2 * nr, true)) ++
        labO (rows.map fun m => elRange (d8 d 56) (dO d) (m * d4 d 76 + n0) nc true))
  else
    let co := d2 d 22
    let h := convH d
    ks.flatMap (tapRanges d r0 nr) ++
      labB (ks.flatMap fun q => (upTo q.2).map fun e => elRange (d8 d 40) (dB d) ((q.1 + e) * co + n0) nc false) ++
      (if !foot then [] else
        labC (rIf (dFlag d 1) (d8 d 72 + 4 * n0, 4 * nc, false) ++ rIf (dFlag d 2) (d8 d 80 + 4 * n0, 4 * nc, false)) ++
        labT (rIf (dFlag d 4 && !isIntCode (dB d)) (d8 d 88 + 2 * n0, 2 * nc, false) ++ rIf (dFlag d 5 && first) (d8 d 96 + 2 * r0, 2 * nr, true)) ++
        labO (rows.map fun t => elRange (d8 d 56) (dO d) (t * co + n0) nc true) ++
        (if first && i + 1 == tileCount d && h != 0 then
          frameRanges d (d4 d 16) h 0 (d2 d 20) ++ lab 11 2 [elRange (d8 d 64) (dA d) 0 (h * d2 d 20) true]
         else []))

/-- The gang position of member `x` of an operation: row and column. -/
def gangPos (d : Desc) (x : Nat) : Nat × Nat := (x / 2 ^ dGc d, x % 2 ^ dGc d)

/-- The footprint of tile `i` (R141, R145): every operand byte it reads over the full K, its bound-table entries and its
outputs, member by member in a gang. -/
def footprint (d : Desc) (i : Nat) : List OpRange :=
  let last := i + 1 == tileCount d
  match dOpc d with
  | 3 =>
    let h := d2 d 20
    let b := d1 d 25
    let st := b * h * (2 - d1 d 24) * 4
    labA [elRange (d8 d 32) (dA d) (i * b * d2 d 22) (b * d2 d 22) false] ++
      labB [elRange (d8 d 40) (dB d) 0 ((d2 d 22 + h) * 4 * h) false] ++ labC (rIf (dFlag d 1) (d8 d 48, 16 * h, false)) ++
      labH (rIf (i == 0) (d8 d 56, st, false)) ++ lab 11 2 (rIf last (d8 d 64, st, true)) ++
      labO [elRange (d8 d 72) (dO d) (i * b * h) (b * h) true]
  | 4 =>
    let t := d4 d 16
    let c := d4 d 20
    let c0 := 32 * i
    let k := (span (32 * i) 32 c).length
    labA (((upTo t).map fun q => elRange (d8 d 32) (dA d) (q * c + c0) k false) ++
        (if d1 d 24 = 0 then (upTo t).map fun q => elRange (d8 d 40) (dB d) (q * c + c0) k false
         else [elRange (d8 d 40) (dB d) c0 k false])) ++
      labH [(d8 d 48 + 4 * c0, 4 * k, false)] ++ lab 11 2 [(d8 d 56 + 4 * c0, 4 * k, true)] ++
      labO ((upTo t).map fun q => elRange (d8 d 64) (dO d) (q * c + c0) k true)
  | 5 =>
    let dm := d2 d 20
    let ts := span (32 * i) 32 (d4 d 16)
    labA [elRange (d8 d 32) (dA d) (32 * i * dm) (ts.length * dm) false] ++
      labB [elRange (d8 d 40) (dB d) 0 (dm * d2 d 22) false] ++ labC (rIf (dFlag d 1) (d8 d 48, 4 * d2 d 22, false)) ++
      labO ([(d8 d 56 + 8 * d1 d 24 * (32 * i), 8 * d1 d 24 * ts.length, true)] ++ rIf last (d8 d 64, 32, true))
  | _ => (upTo (dGang d)).flatMap fun x => (matPrint d i (gangPos d x).1 (gangPos d x).2).map fun r => { r with mem := x }

/-- The member of a gang that reads or writes an address in tile `i`: the first in gang order (R139). -/
def memberOf (d : Desc) (i va : Nat) : Nat :=
  if dGang d = 1 then 0
  else (((footprint d i).find? fun r => inRange va r.va r.n).map (·.mem)).getD 0

/-- The engine of a member of an operation as it accesses memory (R138, R151): its own core's ports. -/
def tensorEng (s : State) (o : TensorOp) (x : Nat) : EngAsk :=
  let c := o.cores.getD x (o.cores.headD 0)
  ⟨2 * c, o.cid, noTag, .cue o.uid, lcoreOf s c, c, 0xFE, o.daddr, field o.desc 0 4⟩

/-- The stream tag of a member's traffic: none while PF_TAGS of its core is clear (R55, R146). -/
def memTag (s : State) (o : TensorOp) (x tag : Nat) : Nat :=
  if fbit s (F.CORE_PR_CTRL.PF_TAGS (o.cores.getD x (o.cores.headD 0))) then tag else noTag

/-- The engine that writes an address in the next tile of an operation, with the tag of what it writes. -/
def writeEng (s : State) (o : TensorOp) (va : Nat) : EngAsk :=
  match (footprint o.desc o.next).find? fun r => r.w && inRange va r.va r.n with
  | some r => { tensorEng s o r.mem with tag := memTag s o r.mem r.tag }
  | none => tensorEng s o 0

/-- Write bytes of an operation's results. -/
def opWrite (s : State) (pg : List HeldPage) (o : TensorOp) (va : Nat) (bs : List Byte) : State :=
  ctxWrite s (writeEng s o va) pg va bs

/-- A class 0x01 fault of an operation ends it, with the record of the member it arose in (R139, R151). -/
def tensorFault (s : State) (o : TensorOp) (code addr : Nat) : State :=
  let c := o.cores.getD (memberOf o.desc o.next addr) (o.cores.headD 0)
  endOp (tensorFaultAt s c o.cid o.uid o.daddr (field o.desc 0 4) code addr) o code

/-! ## The Prompter (R128, R140 to R142, R146, R147) -/

/-- Bytes in the operand buffers of a member. -/
def obBytes (l : List ObChunk) (x : Nat) : Nat := sumBy (·.bytes.length) (l.filter (·.mem == x))

/-- How many bytes the two buffers of a member may hold together (CORE_PR_CTRL.RUNAHEAD_KIB of its core). -/
def obLimit (s : State) (o : TensorOp) (x : Nat) : Nat :=
  1024 * max 4 (min 64 (fget s (F.CORE_PR_CTRL.RUNAHEAD_KIB (o.cores.getD x (o.cores.headD 0)))))

/-- Whether the buffers of every member of an operation are full. -/
def obFull (s : State) (o : TensorOp) : Bool :=
  (upTo (max 1 o.cores.length)).all fun x => decide (obLimit s o x ≤ obBytes o.ob0 x + obBytes o.ob1 x)

/-- Whether OB0 holds the resident weights of a RECUR (R128): then no step reads W again. -/
def weightsIn (o : TensorOp) : Bool :=
  dResident o.desc && o.ob0.any fun k =>
    k.va == d8 o.desc 40 && decide (tyBytes (dB o.desc) ((d2 o.desc 22 + d2 o.desc 20) * 4 * d2 o.desc 20) ≤ k.bytes.length)

/-- What tile `i` of an operation still reads from memory, and what it writes. -/
def tilePrint (o : TensorOp) (i : Nat) : List OpRange :=
  (footprint o.desc i).filter fun r => !(weightsIn o && r.ob == 0)

/-- The gang exchange buffer of an operation (R120, R123, R137), and its range, which the gang's tiles hold too. -/
def xbufOf (d : Desc) : Nat := if dOpc d = 2 then d8 d 104 else d8 d 120
def xbufRange (d : Desc) : List (Nat × Nat × Bool) := if dGang d = 1 then [] else [(xbufOf d, 32768 * dGang d, true)]

/-- Where the state that member `x` passes down for output (m, n) of tile `i` stands: the halves of the member's 32 KiB by
turns. DESIGN CHOICE (log 51): the spec gives the buffer's size and not its order. -/
def xbufAt (d : Desc) (i x m n : Nat) : Nat := xbufOf d + 32768 * x + 16384 * (i % 2) + 16 * (32 * (m % 32) + n % 32)

/-- What the members of a gang column read of the exchange buffer in tile `i` (R138): each but the first the states of the
one above. What they write, `exchange` writes. -/
def xbufReads (d : Desc) (i : Nat) : List OpRange :=
  if dGr d = 0 then [] else
    (span (2 ^ dGc d) (dGang d - 2 ^ dGc d) (dGang d)).map fun x => ⟨xbufAt d i (x - 2 ^ dGc d) 0 0, 16384, false, 12, 2, x⟩

/-- What the Prompter's pre-pass of tile `i` reads once more (R143): floating-point operands without a bound table, of a
RECUR the weights only where they are not resident in OB0. -/
def prePass (o : TensorOp) (i : Nat) : List OpRange :=
  let d := o.desc
  let a := !isIntCode (dA d) && !(dOpc d == 1 && dFlag d 3)
  let b := !isIntCode (dB d) && !(decide (dOpc d ≤ 2) && dFlag d 4)
  if 3 < dOpc d then []
  else (tilePrint o i).filter fun r => !r.w && ((a && (r.tag == 8 || (r.tag == 11 && r.ob == 1))) || (b && r.tag == 9))

/-- Whether a chunk in a buffer holds a range of a tile. -/
def inOb (o : TensorOp) (i : Nat) (r : OpRange) : Bool :=
  (o.ob0 ++ o.ob1).any fun k => k.tile == i && k.va == r.va && k.bytes.length == r.n

/-- The places of tile `i` as its translations stand when the array reaches it (R142): a failure held ahead stays, a
translation held ahead and still valid is not made again, and everything else is checked now. -/
def tilePoints (s : State) (o : TensorOp) (i : Nat) (rs : List OpRange) : List PointRes :=
  let a := o.ahead.find? (·.tile == i)
  let held := heldPages s (.prompter (o.cores.headD 0) o.uid i)
  let fails := (a.map (·.fails)).getD []
  (fails.map fun f => ⟨f.1, f.2.1, .fault f.2.2.1, f.2.2.2⟩) ++
    ((pointsOf s o.cid (rs.map (·.plain))).filter fun p => !fails.any fun f => f.1 == p.1 && f.2.1 == p.2).map fun p =>
      match held.find? fun h => a.isSome && inRange p.1 h.va h.size with
      | some h => ⟨p.1, p.2, .ok (h.da + (p.1 - h.va)) h.nc h.va h.size h.da, true⟩
      | none => checkPoint s o.cid p

/-- Count the pages that the Prompters of an operation have translated, each for what its engine touches (R141). -/
def countXlat (s : State) (o : TensorOp) (i : Nat) (pages : List HeldPage) : State :=
  ((upTo o.cores.length).zip o.cores).foldl (fun s x =>
    let mine := if dGang o.desc = 1 then pages else
      let rs := matPrint o.desc i (gangPos o.desc x.1).1 (gangPos o.desc x.1).2
      pages.filter fun p => rs.any fun r => overlaps r.va r.n p.va p.size
    incSat s (R.CORE_PR_XLAT x.2) mine.length) s

/-- The traffic of an operation's ranges, each member's through its own core's ports (R40, R138, R146); a tag trains the
CACHE region's detectors while the core's PF_TAGS is set. -/
def tensorUse (s : State) (o : TensorOp) (pages : List HeldPage) (rs : List OpRange) : State :=
  (upTo (max 1 o.cores.length)).foldl (fun s x =>
    portUse s (tensorEng s o x) pages ((rs.filter (·.mem == x)).map fun r => (r.plain, memTag s o x r.tag))) s

/-- Whether a unit of an operation is held back (R351, R434), and what that leaves. -/
def tensorWaits (s : State) (o : TensorOp) (pages : List HeldPage) (rs : List OpRange) : Bool :=
  (upTo (max 1 o.cores.length)).any fun x =>
    engineWaits s (tensorEng s o x) pages ((rs.filter (·.mem == x)).map (·.plain))
def tensorWait (s : State) (o : TensorOp) (pages : List HeldPage) (rs : List OpRange) : State :=
  (upTo (max 1 o.cores.length)).foldl (fun t x =>
    unitWait t t (tensorEng s o x) pages ((rs.filter (·.mem == x)).map (·.plain))) s

/-- Run-ahead of one tile (R140, R142): every page of its footprint is translated, and where none fails its operands enter
the buffers as far as there is room; `used` are the bytes that other work holds in OB0 and OB1. A failure is held. Each
engine has buffers of 32 KiB for its own operands, and its RUNAHEAD_KIB bounds what its two hold together. -/
def fetchAhead (s : State) (o : TensorOp) (used : Nat × Nat) (i : Nat) : State × Option TensorOp :=
  let c := o.cores.headD 0
  let rs := tilePrint o i
  let pts := (pointsOf s o.cid (rs.map (·.plain))).map (checkPoint s o.cid)
  match unitVerdict pts with
  | .waits f g => (askAts s f g, none)
  | .fault _ _ =>
    let fails := pts.filterMap fun p => match p.res with | .fault code => some (p.va, p.w, code, p.got) | _ => none
    let s := holdAhead (countXlat s o i (pagesHeld pts)) (.prompter c o.uid i) o.cid (pagesHeld pts)
    (s, some { o with ahead := o.ahead ++ [⟨i, fails⟩] })
  | .ok pages =>
    let reads := rs.filter fun r => !r.w && decide (r.ob < 2)
    match heldBad s o.cid pages (reads.map (·.plain)) with
    | some (v, code) =>
      let s := holdAhead (countXlat s o i pages) (.prompter c o.uid i) o.cid pages
      (s, some { o with ahead := o.ahead ++ [⟨i, [(v, false, code, true)]⟩] })
    | none =>
      if tensorWaits s o pages reads then (tensorWait s o pages reads, none)
      else
        let take := fun (p : TensorOp × List OpRange) (r : OpRange) =>
          let in0 := obBytes p.1.ob0 r.mem + used.1
          let in1 := obBytes p.1.ob1 r.mem + used.2
          let own := if r.ob = 0 then in0 else in1
          let m := min r.n (min (32768 - own) (obLimit s o r.mem - (in0 + in1)))
          if m = 0 then p
          else
            let k : ObChunk := ⟨r.mem, i, r.va, ctxRead s pages r.va m⟩
            (if r.ob = 0 then { p.1 with ob0 := p.1.ob0 ++ [k] } else { p.1 with ob1 := p.1.ob1 ++ [k] },
              p.2 ++ [{ r with n := m }])
        let q := reads.foldl take (o, [])
        let s := holdAhead (countXlat (tensorUse s o pages q.2) o i pages) (.prompter c o.uid i) o.cid pages
        (s, some { q.1 with ahead := q.1.ahead ++ [⟨i, []⟩] })

/-- The first tile that the Prompter of an operation has not run ahead to. -/
def nextAhead (o : TensorOp) : Nat :=
  let base := o.next + (if o.stage = .tile ∨ o.stage = .pairs then 1 else 0)
  base + countWhere (fun a : Ahead => decide (base ≤ a.tile)) o.ahead

/-! ## Tiles -/

/-- What the array holds before a tile starts (R128, R140): in resident mode the weights, loaded whole into OB0 when they are
not there. -/
def loadWeights (s : State) (o : TensorOp) (pages : List HeldPage) : TensorOp :=
  if dResident o.desc && !weightsIn o then
    let r := elRange (d8 o.desc 40) (dB o.desc) 0 ((d2 o.desc 22 + d2 o.desc 20) * 4 * d2 o.desc 20) false
    { o with ob0 := [⟨0, 0, r.1, ctxRead s pages r.1 r.2.1⟩] }
  else o

/-- TILE_START (R128, R137, R141 to R143, R148, R151): at a boundary at which no pre-emption is asked for, the translations
of the next tile are confirmed, and the tile starts or the operation faults. A gang holds the exchange buffer's translations
too, which are no part of the footprint. -/
def execTileStart (c : Fin 17) (s : State) : Host.Outcome State Fault Refusal :=
  match headOn s c with
  | none => .next s
  | some o =>
    if o.stage ≠ .boundary ∨ tileCount o.desc ≤ o.next ∨ beingTaken s o.cid .tensor o.cores then .next s
    else
      let rs := tilePrint o o.next
      let pts := tilePoints s o o.next rs
      let unread := rs.filter fun r => !inOb o o.next r
      match unitVerdict pts, mapUnit s o.cid (xbufRange o.desc) with
      | .waits f g, _ => .next (askAts s f g)
      | .fault code a, _ => .next (tensorFault s o code a)
      | .ok _, .waits f g => .next (askAts s f g)
      | .ok _, .fault code a => .next (tensorFault s o code a)
      | .ok own, .ok xb =>
        let pages := own ++ xb.filter (!own.contains ·)
        let reads := unread ++ prePass o o.next ++ xbufReads o.desc o.next
        match heldBad s o.cid pages (unread.map (·.plain)) with
        | some (v, code) => .next (tensorFault s o code v)
        | none =>
          if tensorWaits s o pages reads then .next (tensorWait s o pages reads)
          else
            let old := heldPages s (.prompter c o.uid o.next)
            let s := countXlat s o o.next (own.filter (!old.contains ·))
            let s := tensorUse s o pages (reads.filter (!·.w))
            let o' := { loadWeights s o pages with stage := .tile, ahead := o.ahead.filter (·.tile != o.next) }
            .next (modOp (hold (unhold s (.prompter c o.uid o.next)) (.tensor c) o.cid pages) o.uid fun _ => o')

/-- PROMPTER_FETCH (R140, R142): the Prompter runs ahead to the next tile it has not reached, unless its buffers are full. -/
def execPrompterFetch (c : Fin 17) (s : State) : Host.Outcome State Fault Refusal :=
  match headOn s c with
  | none => .next s
  | some o =>
    if (o.stage ≠ .boundary ∧ o.stage ≠ .tile ∧ o.stage ≠ .pairs) ∨ tileCount o.desc ≤ nextAhead o ∨
        obFull s o = true then .next s
    else
      let r := fetchAhead s o (0, 0) (nextAhead o)
      match r.2 with
      | some o' => .next (modOp r.1 o.uid fun _ => o')
      | none => .next r.1

/-- PROMPTER_PREFETCH_NEXT (R113, R147): once the last tile has been fetched, the descriptor of the next tensor cue of the
same source is read, when the cue may issue on this engine; then its first tiles are run ahead to into free buffer space. A
failure is held against that cue. A gang's tiles wait for its placement. -/
def execPrompterPrefetchNext (c : Fin 17) (s : State) : Host.Outcome State Fault Refusal :=
  match headOn s c with
  | none => .next s
  | some o =>
    match cueOf s o.uid with
    | none => .next s
    | some cue =>
      match nextWaiting s cue.src with
      | none => .next s
      | some n =>
        if nextAhead o < tileCount o.desc ∨ n.opc ≠ 1 ∨ !cueReady s n ∨ n.indirect ∨ !homeOk s cue.src c then .next s
        else match readAhead s c n.uid with
          | some x =>
            if x.fail.isSome ∨ dGang x.op.desc ≠ 1 ∨ !descOk s (ctxOf s n.cid).part x.op.desc ∨
                tileCount x.op.desc ≤ nextAhead x.op then .next s
            else
              let r := fetchAhead s x.op (obBytes o.ob0 0, obBytes o.ob1 0) (nextAhead x.op)
              match r.2 with
              | some o' =>
                .next { r.1 with
                  prefetched := mapWhere (·.op.uid == n.uid) (fun x => { x with op := o' }) r.1.prefetched }
              | none => .next r.1
          | none =>
            let put := fun (s : State) (d : Desc) (fail : Option (Nat × Nat)) =>
              { s with prefetched := s.prefetched ++ [⟨c, freshOp n.uid n.cid c d n.addr n.seed, fail⟩] }
            match xlateUnit s n.cid [(n.addr, 128, false)] with
            | .waits f g => .next (askAts s f g)
            | .fault code a => .next (put s [] (some (code, a)))
            | .ok pages =>
              let e := descEng s c n n.addr
              if engineWaits s e pages [(n.addr, 128, false)] then .next (unitWait s s e pages [(n.addr, 128, false)])
              else
                .next (put (portUse (usePages s n.cid pages) e pages [((n.addr, 128, false), noTag)])
                  (ctxRead s pages n.addr 128) none)

/-- A byte that a tile reads: from an operand buffer where it has been fetched, else from memory (R140). -/
def opByte (s : State) (pg : List HeldPage) (o : TensorOp) (va : Nat) : Byte :=
  let mine := fun (k : ObChunk) => (k.tile == o.next || dResident o.desc) && inRange va k.va k.bytes.length
  match (o.ob0 ++ o.ob1).find? mine with
  | some k => k.bytes.getD (va - k.va) 0
  | none => (ctxRead s pg va 1).headD 0

/-- The operand bytes of a tile at an address. -/
abbrev Reader := Nat → Nat → List Byte
def opReader (s : State) (pg : List HeldPage) (o : TensorOp) : Reader := fun va n => (upTo n).map fun i => opByte s pg o (va + i)

/-- Element `i` of an array in context memory. -/
def elem (rd : Reader) (addr code i : Nat) : Nat :=
  let w := (ty code).width
  if w = 4 then leNat (rd (addr + i / 2) 1) / 2 ^ (4 * (i % 2)) % 16
  else leNat (rd (addr + i * (w / 8)) (w / 8))

/-- The number an element holds. -/
def num (rd : Reader) (addr code i : Nat) : Num := (ty code).decode (elem rd addr code i)

/-- An e2m1 element with the scale byte of its block (R156). -/
def scaled (x : Num) (sc : Nat) : Num :=
  if sc = 0xFF then .nan
  else match x with
    | .fin neg m e => .fin neg m (e + (sc : Int) - 127)
    | y => y

/-- Element (t, i) of x' of a convolution (R122). -/
def frameNum (rd : Reader) (d : Desc) (t i : Nat) : Num :=
  let h := convH d
  if t < h then num rd (d8 d 48) (dA d) (t * d2 d 20 + i) else num rd (d8 d 32) (dA d) ((t - h) * d2 d 20 + i)

/-- The code of the weight with indices k and n (R119, R122, R124, R131). -/
def weightCode (rd : Reader) (d : Desc) (k n : Nat) : Nat :=
  let ld := match dOpc d with | 1 => d4 d 68 | 3 => 4 * d2 d 20 | _ => d2 d 22
  if k < dK d then elem rd (d8 d 40) (dB d) (k * ld + n) else 0

/-- The 16-bit weight register of cell (i, j) for the weight tile of k index `k0` and column `n0` (R109): elements k0 + i
Kt/32 up to k0 + (i + 1) Kt/32 - 1 of column n0 + j, the lower k in the lower bits. -/
def weightReg (d : Desc) (code : Nat → Nat → Nat) (k0 n0 i j : Nat) : Nat :=
  let e := ktOf (dB d) / 32
  sumBy (fun q => code (k0 + i * e + q) (n0 + j) * 2 ^ (16 / e * q)) (upTo e)

/-- A weight tile as the array holds it: the registers of cells (0, 0), (0, 1), … (31, 31), 2 KiB (R109). -/
def weightTile (d : Desc) (code : Nat → Nat → Nat) (k0 n0 : Nat) : List Nat :=
  (upTo 1024).map fun x => weightReg d code k0 n0 (x / 32) (x % 32)

/-- The element that a cell multiplies for indices k and n (R109). -/
def cellElem (d : Desc) (code : Nat → Nat → Nat) (k n : Nat) : Nat :=
  let kt := ktOf (dB d)
  let e := kt / 32
  weightReg d code (k / kt * kt) (n / 32 * 32) (k % kt / e) (n % 32) / 2 ^ (16 / e * (k % e)) % 2 ^ (16 / e)

/-- The weight registers of an operation's engines after a tile (R109): each holds the last weight tile of its slice. -/
def showWeights (s : State) (rd : Reader) (o : TensorOp) : State :=
  let d := o.desc
  let kt := ktOf (dB d)
  { s with
    weights := ((upTo o.cores.length).zip o.cores).foldl (fun m x =>
      let p := gangPos d x.1
      let k := ((kSlices d p.1).getLastD (0, 0))
      let k0 := (k.1 + k.2 - 1) / kt * kt
      let n0 :=
        if dOpc d = 3 then (4 * d2 d 20 - 1) / 32 * 32
        else if 2 < dOpc d then (dCols d - 1) / 32 * 32
        else if dGang d = 1 then ((tileColsOf d o.next).headD 0) / 32 * 32
        else ((memberCols d o.next p.2).headD 0) / 32 * 32
      mput noWeights m x.2 (weightTile d (weightCode rd d) k0 n0)) s.weights }

/-- The block of outputs of GEMM, CONV1D_CAUSAL or ROUTE (R119, R121, R122, R131); the weights are those the array's cells
hold (R109). -/
def blockOf (rd : Reader) (o : TensorOp) : Block :=
  let d := o.desc
  let prec := fun (c : Nat) => match ty c with | .flt f => f.prec | .int _ => 0
  let f32v := fun (b : Bool) (addr n : Nat) => if b then some (f32 (leNat (rd (addr + 4 * n) 4))) else none
  let w := fun (k n : Nat) => (ty (dB d)).decode (cellElem d (weightCode rd d) k n)
  let slices := if dGr d = 0 ∨ 2 < dOpc d then [upTo (dK d)]
    else (upTo (2 ^ dGr d)).map fun r => (kSlices d r).flatMap fun k => (upTo k.2).map (k.1 + ·)
  let base : Block :=
    { a := fun _ _ => .zero
      b := w
      k := dK d
      wid := if isIntCode (dA d) then 0 else prec (dA d) + prec (dB d)
      isInt := isIntCode (dA d)
      c := fun _ _ => none
      bias := fun _ => none
      scale := fun _ => none
      oty := ty (dO d)
      rmode := dRmode d
      rbits := dRbits d
      relu := dAct d == 1
      seed := o.seed
      rows := dRows d
      slices := slices }
  match dOpc d with
  | 1 =>
    let lda := d4 d 64
    let ldb := d4 d 68
    let aTail := d8 d 32 + d4 d 16 * lda / 2
    let bTail := d8 d 40 + d4 d 24 * ldb / 2
    { base with
      a := fun m q =>
        let x := num rd (d8 d 32) (dA d) (m * lda + q)
        if dA d = 7 then scaled x (leNat (rd (aTail + m * (lda / 32) + q / 32) 1)) else x
      b := fun q n => if dB d = 7 then scaled (w q n) (leNat (rd (bTail + q / 32 * ldb + n) 1)) else w q n
      c := fun m n => if dFlag d 0 then some (num rd (d8 d 48) (dC d) (m * d4 d 72 + n)) else none
      bias := f32v (dFlag d 1) (d8 d 80)
      scale := f32v (dFlag d 2) (d8 d 88) }
  | 2 =>
    let ci := d2 d 20
    { base with
      a := fun t q => frameNum rd d (convH d + t - q / ci * d2 d 26) (q % ci)
      bias := f32v (dFlag d 1) (d8 d 72)
      scale := f32v (dFlag d 2) (d8 d 80) }
  | _ =>
    { base with
      a := fun t q => num rd (d8 d 32) (dA d) (t * d2 d 20 + q)
      bias := f32v (dFlag d 1) (d8 d 48)
      oty := tyFp32
      rmode := 0
      relu := false }

/-- Whether a supplied bound of the tile differs from the true one (R144, R158): integer inputs read no tables. -/
def boundsDiffer (rd : Reader) (o : TensorOp) (x : Block) (rows cols : List Nat) : Bool :=
  let d := o.desc
  let entry := fun (addr i : Nat) => entryBound (leNat (rd (addr + 2 * i) 2))
  let bAddr := if dOpc d = 1 then d8 d 104 else d8 d 88
  !x.isInt && ((dFlag d 3 && rows.any fun m => entry (d8 d 96) m != x.rowBound m) ||
    (dFlag d 4 && cols.any fun n => entry bAddr n != x.colBound n))

/-- Write a row bound (R145): the tile of column 0 writes its own, a later one the larger of it and the entry. -/
def putBound (s : State) (pg : List HeldPage) (o : TensorOp) (addr : Nat) (first : Bool) (b : Option Int) : State :=
  let v := if first then b else maxBound [b, entryBound (leNat (ctxRead s pg addr 2))]
  opWrite s pg o addr (leBytes 2 (boundEntry v))

/-- The states that the engines of a gang column pass down, written into the exchange buffer (R138, R162): 16 bytes per
output, a tile of 16 KiB, by the sending engine. DESIGN CHOICE (log 51): the shares of the exponent pre-pass, for which the
spec gives no form, are combined without a place in the buffer. -/
def exchange (s : State) (pg : List HeldPage) (o : TensorOp) (x : Block) (rows cols : List Nat) : State :=
  let d := o.desc
  if dGr d = 0 then s
  else
    let anchor := fun (n : Nat) => x.anchor rows (cols.filter fun q => q / 32 == n / 32)
    rows.foldl (fun s m => cols.foldl (fun s n =>
      let sts := (x.states (anchor n) m n).dropLast
      ((upTo sts.length).zip sts).foldl (fun s q =>
        let member := q.1 * 2 ^ dGc d + n / 32 % 2 ^ dGc d
        ctxWrite s { tensorEng s o member with tag := memTag s o member 12 } pg (xbufAt d o.next member m n)
          (leBytes 16 q.2.code)) s) s) s

/-- Write a row of outputs, the 32 columns of each gang column by its own engine (R138). -/
def colRuns (d : Desc) (row : List Nat) (es : Nat) (put : State → Nat → List Byte → State) (s : State) : State :=
  if dGang d = 1 then put s 0 (row.flatMap (leBytes es))
  else (upTo (ceilDiv row.length 32)).foldl (fun s q => put s (32 * q) (((row.drop (32 * q)).take 32).flatMap (leBytes es))) s

/-- GEMM and CONV1D_CAUSAL: the outputs, the row bounds, and after the last tile HOUT (R112, R122, R144, R145). Where a 4-bit
history has an odd number of elements, the spec does not say what the high half of its last byte holds: 0 (DESIGN CHOICE, log
51). -/
def finishMat (s : State) (pg : List HeldPage) (o : TensorOp) : State × Ev × Bool :=
  let d := o.desc
  let rd := opReader s pg o
  let rows := tileRows d o.next
  let cols := tileColsOf d o.next
  let x := blockOf rd o
  let retry := boundsDiffer rd o x rows cols
  let r := x.outs rows cols
  let n0 := cols.headD 0
  let es := esize (dO d)
  let ld := if dOpc d = 1 then d4 d 76 else d2 d 22
  let db := if dOpc d = 1 then d8 d 112 else d8 d 96
  let s := exchange s pg o x rows cols
  let s := (rows.zip r.1).foldl (fun s p =>
    let s := colRuns d p.2 es (fun s c bs => opWrite s pg o (d8 d 56 + (p.1 * ld + n0 + c) * es) bs) s
    if dFlag d 5 then putBound s pg o (db + 2 * p.1) (n0 == 0) (codesBound (ty (dO d)) p.2) else s) s
  let h := convH d
  let s :=
    if dOpc d = 2 ∧ h ≠ 0 ∧ o.next + 1 = tileCount d then
      let w := (ty (dA d)).width
      let bitsOf := (upTo (h * d2 d 20)).foldl (fun v q =>
        let t := d4 d 16 + q / d2 d 20
        let e := if t < h then elem rd (d8 d 48) (dA d) (t * d2 d 20 + q % d2 d 20)
                 else elem rd (d8 d 32) (dA d) ((t - h) * d2 d 20 + q % d2 d 20)
        v + e * 2 ^ (w * q)) 0
      opWrite s pg o (d8 d 64) (leBytes (tyBytes (dA d) (h * d2 d 20)) bitsOf)
    else s
  (s, r.2, retry)

/-- One sequence of a RECUR step (R124 to R126): its new state (h, then c for LSTM) and the counts. With BIAS clear R127 has
a bias of zero and R166 no bias among the terms: it is taken as absent, so that a sum of negative zeros stays -0 (DESIGN
CHOICE, log 51). -/
def recurSeq (rd : Reader) (o : TensorOp) (b : Nat) (old : List Nat) : List Nat × Ev :=
  let d := o.desc
  let h := d2 d 20
  let i := d2 d 22
  let row := o.next * d1 d 25 + b
  let hp := (upTo h).map fun j => (ty (dA d)).round .rne (f32 (old.getD j 0))
  let ev0 := hp.foldl (fun e r => e.add (Ev.ofRnd r.2)) Ev.none
  let v := ((upTo i).map fun q => num rd (d8 d 32) (dA d) (row * i + q)) ++ hp.map fun r => (ty (dA d)).decode r.1
  let base := blockOf rd o
  let x : Block :=
    { base with
      a := fun _ q => v.getD q .zero
      bias := fun n => if dFlag d 1 then some (f32 (leNat (rd (d8 d 48 + 4 * n) 4))) else none }
  let pre := x.outs [row] (upTo (4 * h))
  let a := pre.1.headD []
  let cells := (upTo h).map fun j =>
    cellStep (d1 d 24 == 1) (a.getD j 0) (a.getD (h + j) 0) (a.getD (2 * h + j) 0) (a.getD (3 * h + j) 0)
      (old.getD j 0) (old.getD (h + j) 0) (row, j, kCell)
  let ev := cells.foldl (fun e p => e.add p.2.2) (ev0.add pre.2)
  (cells.map (·.1) ++ (if d1 d 24 = 0 then cells.map (·.2.1) else []), ev)

/-- One step of RECUR (R124 to R127): the state store after it, the outputs, and after the last step SOUT. -/
def finishRecur (s : State) (pg : List HeldPage) (o : TensorOp) : State × Ev × List Nat :=
  let d := o.desc
  let h := d2 d 20
  let w := h * (2 - d1 d 24)
  let bn := d1 d 25
  let rd := opReader s pg o
  let store := if o.next = 0 then (upTo (bn * w)).map fun q => leNat (rd (d8 d 56 + 4 * q) 4) else o.store
  let seqs := (upTo bn).map fun b => recurSeq rd o b ((store.drop (b * w)).take w)
  let new := seqs.flatMap (·.1)
  let es := esize (dO d)
  let ys := (upTo bn).flatMap fun b => (upTo h).map fun j =>
    let row := o.next * bn + b
    (ty (dO d)).round (outRnd (dRmode d) (dRbits d) o.seed (dRows d) row j) (f32 (new.getD (b * w + j) 0))
  let ev := ys.foldl (fun e r => e.add (Ev.ofRnd r.2)) (seqs.foldl (fun e p => e.add p.2) Ev.none)
  let s := opWrite s pg o (d8 d 72 + o.next * bn * h * es) (ys.flatMap fun r => leBytes es r.1)
  let s := if o.next + 1 = tileCount d then opWrite s pg o (d8 d 64) (new.flatMap (leBytes 4)) else s
  (s, ev, new)

/-- The h of one channel of SCAN after each step, newest last, with the counts (R129). -/
def scanChannel (rd : Reader) (d : Desc) (c : Nat) : List Nat × Ev :=
  let cn := d4 d 20
  let h0 := leNat (rd (d8 d 48 + 4 * c) 4)
  let r := (upTo (d4 d 16)).foldl (fun (p : List Nat × Ev × Nat) t =>
    let a := num rd (d8 d 40) (dB d) (if d1 d 24 = 0 then t * cn + c else c)
    let u := num rd (d8 d 32) (dA d) (t * cn + c)
    let q := rneSum [a.mul (f32 p.2.2), some u] (t, c, kCell)
    (p.1 ++ [q.1], p.2.1.add q.2, q.1)) ([], Ev.none, h0)
  (r.1, r.2.1)

/-- A group of 32 channels of SCAN over all T steps (R129, R130). -/
def finishScan (s : State) (pg : List HeldPage) (o : TensorOp) : State × Ev :=
  let d := o.desc
  let cn := d4 d 20
  let t := d4 d 16
  let es := esize (dO d)
  let cs := span (32 * o.next) 32 cn
  let rd := opReader s pg o
  let hs := cs.map fun c => (c, scanChannel rd d c)
  let ys := hs.flatMap fun p => (upTo t).map fun q =>
    (p.1, q, (ty (dO d)).round (outRnd (dRmode d) (dRbits d) o.seed (dRows d) q p.1) (f32 (p.2.1.getD q 0)))
  let ev := ys.foldl (fun e r => e.add (Ev.ofRnd r.2.2.2)) (hs.foldl (fun e p => e.add p.2.2) Ev.none)
  let s := ys.foldl (fun s r => opWrite s pg o (d8 d 64 + (r.2.1 * cn + r.1) * es) (leBytes es r.2.2.1)) s
  let s := hs.foldl (fun s p => opWrite s pg o (d8 d 56 + 4 * p.1) (leBytes 4 (p.2.1.getD (t - 1) 0))) s
  (s, ev)

/-- 32 tokens of ROUTE (R131 to R133): SEL is written and the selected pairs wait to be handed over. The k index of an
invalid softmax step is not stated: a free value of the token and the expert of its first score (R108), the same in every
run. -/
def finishRoute (s : State) (pg : List HeldPage) (o : TensorOp) : State × Ev × List RoutePair :=
  let d := o.desc
  let k := d1 d 24
  let ts := span (32 * o.next) 32 (d4 d 16)
  let r := (blockOf (opReader s pg o) o).outs ts (upTo (d2 d 22))
  let sel := (ts.zip r.1).map fun p =>
    let top := rankTop k ((upTo p.2.length).zip p.2)
    let e := (top.headD (0, 0)).1
    let g := gatesOf (d1 d 25 == 1) (top.map (·.2)) (p.1, e, Config.softmaxIndex p.1 e % 2 ^ 32)
    (p.1, (top.zip g.1).map fun q => (q.1.1 + d2 d 26, q.2), g.2)
  let ev := sel.foldl (fun e p => e.add p.2.2) r.2
  let s := sel.foldl (fun s p =>
    opWrite s pg o (d8 d 56 + 8 * k * p.1) (p.2.1.flatMap fun q => leBytes 2 q.1 ++ leBytes 2 0 ++ leBytes 4 q.2)) s
  (s, ev, sel.flatMap fun p => ((upTo p.2.1.length).zip p.2.1).map fun q => ⟨p.1, q.1, q.2.1, q.2.2⟩)

/-- An operation after a tile: at the next boundary, with what the operand buffers held for the tile gone; the resident
weights of a RECUR stay (R128, R140). -/
def pastTile (o : TensorOp) : TensorOp :=
  let keep := fun (k : ObChunk) => decide (o.next < k.tile)
  { o with
    next := o.next + 1
    stage := .boundary
    ob0 := if dResident o.desc then o.ob0 else o.ob0.filter keep
    ob1 := o.ob1.filter keep }

/-- Beats in which an operation's engines are busy (R334): counted and charged for every member. -/
def busyBeats (s : State) (o : TensorOp) (beats : Nat) : State :=
  chargeBeats (o.cores.foldl (fun s m => add64 s (R.CORE_TE_BEAT_COUNT_LO m) beats) s) o.cid 0 (beats * o.cores.length)

/-- Beats of a tile, or of its hand-over, that ends before it is finished (R334, R345): charged for every member, its overrun
debt. -/
def tileBeats (s : State) (o : TensorOp) (beats extra dup : Nat) : State :=
  if o.stage = .tile ∨ o.stage = .pairs then accrueDebt (busyBeats s o beats) o.cid (ownOverrun s o.cid extra dup) else s

/-- TILE_FINISH (R112, R122, R124, R129, R131, R138, R144, R145, R161 to R176, R334, R345): the tile's outputs are finished
and written, its counts added, and the operation stands at the next boundary; a tile of ROUTE then hands its pairs over first
(R135). What the tile's accesses meet by then fails them (R151, R373, R376). `beats` and `wait` are the beats it took and
waited for operands, charged to its context for every member; `extra` those beyond its declared cost, `dup` of these after
the end of the context's slice (R345). -/
def execTileFinish (c : Fin 17) (beats wait extra dup : Nat) (s : State) : Host.Outcome State Fault Refusal :=
  match headOn s c with
  | none => .next s
  | some o =>
    if o.stage ≠ .tile then .next s
    else
      let pg := heldPages s (.tensor c)
      let rd := opReader s pg o
      let w := fun (s : State) => if dOpc o.desc = 4 then s else showWeights s rd o
      let rs := (tilePrint o o.next).filter fun r => !inOb o o.next r
      match heldBad s o.cid pg (rs.map (·.plain)) with
      | some (v, code) => .next (tensorFault (tileBeats s o beats extra dup) o code v)
      | none =>
      let s := o.cores.foldl (fun s m => incSat s (R.CORE_PR_WAIT m) wait) (tileBeats s o beats extra dup)
      let s := tensorUse (w s) o pg (rs.filter (·.w))
      let step := fun (s : State) (ev : Ev) (f : TensorOp → TensorOp) =>
        let o' := f (pastTile { o with num := o.num.add ev })
        showTe (modOp (unhold s (.tensor c)) o.uid fun _ => o') o'
      match dOpc o.desc with
      | 3 => let r := finishRecur s pg o; .next (step r.1 r.2.1 fun o => { o with store := r.2.2 })
      | 4 => let r := finishScan s pg o; .next (step r.1 r.2 id)
      | 5 =>
        let r := finishRoute s pg o
        if r.2.2.isEmpty then .next (step r.1 r.2.1 id)
        else .next (modOp r.1 o.uid fun o => { o with num := o.num.add r.2.1, stage := .pairs, pairs := r.2.2 })
      | _ =>
        let r := finishMat s pg o
        let s := if r.2.2 then o.cores.foldl (fun s m => incSat s (R.CORE_TE_BOUND_RETRY m)) r.1 else r.1
        .next (step s r.2.1 id)

/-- The last pair of a tile of ROUTE has been handed over: the operation stands at the next boundary (R135). -/
def tileHanded (s : State) (o : TensorOp) : State :=
  let o' := pastTile o
  showTe (modOp (unhold s (.tensor (o.cores.headD 0))) o.uid fun _ => o') o'

/-- TENSOR_OP_COMPLETE (R152): the last tile is written and the operation completes; ROUTE completes with its report. -/
def execTensorOpComplete (c : Fin 17) (s : State) : Host.Outcome State Fault Refusal :=
  match headOn s c with
  | none => .next s
  | some o =>
    if o.stage = .boundary ∧ o.next = tileCount o.desc ∧ dOpc o.desc ≠ 5 then .next (endOp s o cOk) else .next s

/-- TENSOR_ABORT (R150): the engine stops without waiting for a tile boundary; accumulators and state store are discarded,
and the numeric block holds the counts reached (R177). Lines of a tile whose write had begun 'may be partly written': none of
a tile cut short is (DESIGN CHOICE, log 51). A saved operation's pages stay held (R333). The beats of a tile cut short are
its context's as those of a finished one (R334, R345). -/
def execTensorAbort (src : Src) (beats extra dup : Nat) (s : State) : Host.Outcome State Fault Refusal :=
  match stopOf s (srcOf src) [1] with
  | none => .next s
  | some (c, code) =>
    match s.tensors.find? (·.uid == c.uid) with
    | none => .next (stopDone s c.uid code)
    | some o =>
      let s := idleTe { tileBeats s o beats extra dup with tensors := s.tensors.filter (·.uid != c.uid) } o
      .next (stopDone s c.uid code o.num.block)

/-! ## Saving and resuming (R148, R149) -/

/-- An operation's save image (R148, R340): the descriptor as read, 128 bytes of progress with the cue seed, the next tile
and the completion record's counters and indices, and the state store. DESIGN CHOICE (log 29): the spec gives the parts of
the progress and not their places. -/
def tensorImage (o : TensorOp) : List Byte :=
  padTo 128 o.desc ++ padTo 128 (leBytes 4 o.seed ++ leBytes 4 o.next ++ o.num.block) ++ o.store.flatMap (leBytes 4)

/-- A saved work's image was read back with an uncorrectable error (R343): the context faults with AV = 0. -/
def imageFault (s : State) (cid uid slot pc iword : Nat) (num : List Byte := zeroNum) : State :=
  endCue (reportFault s cid (faultRec cMemUe 0xFF 0xFF cid slot 0xFF pc none iword false) (some uid)) uid cMemUe num

/-- The image with a number goes, with its pages. -/
def dropImage (s : State) (id : Nat) : State := showSave { s with images := s.images.filter (·.id != id) }

/-- Whether an image reads back with an uncorrectable error. -/
def imageBad (s : State) (id : Nat) (ecc : Ecc) : Bool :=
  (match ecc with | .double _ => true | _ => false) || s.images.any fun i => i.id == id && i.bad

/-- A gang is placed on engines once the first one has checked its exchange buffer (R137): a failed page is a translation
fault, and a buffer outside SCRATCH ends the operation with CUE_INVALID, which is no failure of R117 or R118 and leaves
DESC_INVALID as it is (DEDUCED, log 52). `wait` is the state while a core has still to wake or a host page
to be translated. -/
def placeGang (wait s : State) (o : TensorOp) (cs : List Nat) (stage : TenStage) : State :=
  let n := 32768 * cs.length
  let o := { o with cores := cs, stage := stage }
  whenUp wait (cs.map (dCore + ·)) <| match mapUnit s o.cid [(xbufOf o.desc, n, true)] with
  | .waits f g => askAts wait f g
  | .fault code a => tensorFault (modOp s o.uid fun _ => o) o code a
  | .ok pages =>
    if (checkPoints (checkStep s o.cid) (xbufOf o.desc) n).all fun v => reach s (heldAddr pages v) == .scratch then
      showTe (modOp (startSlice s o.cid) o.uid fun _ => o) o
    else endOp s o cCueInvalid

/-- Whether a saved operation may resume on a list of cores (R149, R337): as many as its gang has, all taking its partition's
work, and it is the next to be placed there. -/
def resumeFits (s : State) (cs : List Nat) (o : TensorOp) : Bool :=
  let p := (ctxOf s o.cid).part
  !o.holds && ctxLive s o.cid && !beingTaken s o.cid .tensor cs && cs.length == dGang o.desc && cs.eraseDups == cs &&
    cs.all fun c => coreTakes s c p && match cueOf s o.uid with
      | some q => homeOk s q.src c && mayPlace s p o.cid q.src .tensor c && (isChain s q.src || !gangFirst s p o.cid)
      | none => false

/-- TENSOR_RESUME (R149, R337, R342, R343, R434): the oldest saved operation of the first core's partition that the free
engines listed, their cores up, can take resumes there. One in the hand-over of a tile's pairs goes on with it (R148). An
image that reads back with an uncorrectable error is not resumed: its context faults, and its pages stay held until the
context is destroyed (R333). -/
def execTensorResume (cores : List (Fin 17)) (ecc : Ecc) (s : State) : Host.Outcome State Fault Refusal :=
  let cs := cores.map (·.val)
  let s := noteAll s ((cs.head?.bind (partOfCore s ·)).getD 8)
  let free := cs.all fun c => (opOn s c).isNone
  match s.tensors.find? (resumeFits s cs) with
  | none => .next s
  | some o =>
    match o.stage with
    | .saved id =>
      if !free then .next s
      else if imageBad s id ecc then
        .next (imageFault { s with tensors := s.tensors.filter (·.uid != o.uid) } o.cid o.uid 0xFE o.daddr
          (field o.desc 0 4) o.num.block)
      else
        let stage := if o.pairs.isEmpty then TenStage.boundary else .pairs
        let fee := fun (s : State) => charge s (ctxOf s o.cid).part 1 (tensorImage o).length
        if dGang o.desc = 1 then
          let o' := { o with cores := cs, stage := stage }
          .next (whenUp s (cs.map (dCore + ·)) (showTe (modOp (startSlice (dropImage (fee s) id) o.cid) o.uid fun _ => o') o'))
        else .next (placeGang s (dropImage (fee s) id) o cs stage)
    | _ => .next s

end Sys2Proof.Machine
end

