-- ==== Sys2Proof/Machine/Link.lean ====
section
/-! DEFINITION. The Umram link: ports and flits, addressing and routing, peer accesses, credits, tokens and entry rings,
and register access to members (spec/12_umram_link.md R387 to R418; spec/03_tensor_engine.md R134). -/

namespace Sys2Proof.Machine

open Sys2Proof

/-! ## Codes and ports -/

abbrev cTopology : Nat := 0x0503
abbrev cHeadConflict : Nat := 0x0504
abbrev cEringFull : Nat := 0x0505
abbrev cEringInvalid : Nat := 0x0506
abbrev cCreditShort : Nat := 0x0507
abbrev cNoExpert : Nat := 0x0508
abbrev cRaccTimeout : Nat := 0x0509

def modLink (s : State) (f : LinkSt → LinkSt) : State := { s with link := f s.link }
def portOf (s : State) (p : Nat) : LinkPort := mget LinkPort.fresh s.link.ports p
def modPort (s : State) (p : Nat) (f : LinkPort → LinkPort) : State :=
  modLink s fun k => { k with ports := mmod LinkPort.fresh k.ports p f }

/-- Port states (UL_Pn_STATE). -/
abbrev pDown : Nat := 0
abbrev pTraining : Nat := 1
abbrev pUp4 : Nat := 2
abbrev pUp3 : Nat := 3
abbrev pMiswired : Nat := 4
def portUp (s : State) (p : Nat) : Bool := portState s p == pUp4 || portState s p == pUp3

/-- An error of addressing, with its code (R388, R393, R396, R398). -/
def linkErr (s : State) (f : Flag) (code : Nat) : State := raiseSys (fset s F.UL_STATUS.CODE code) f

/-! ## Unit addresses (R395) -/

/-- UNIT of an address, and the address of a UNIT and DEPTH. -/
def unitNum (a : List Nat) : Nat := sumBy (fun k => a.getD k 0 * 2 ^ (20 - 4 * k)) (upTo a.length)
def unitAddr (unit depth : Nat) : List Nat := (upTo depth).map fun k => bits unit (23 - 4 * k) (20 - 4 * k)

/-- This unit's address. -/
def me (s : State) : List Nat := s.link.pos

/-! ## Routing (R393, R401) -/

def rosterRing (r : Roster) (pre : List Nat) : Option RosterRing := r.rings.find? (·.pre == pre)
def rosterUnit (r : Roster) (a : List Nat) : Option RosterUnit := r.units.find? (·.addr == a)
def rosterSize (r : Roster) (pre : List Nat) : Nat := ((rosterRing r pre).map (·.size)).getD 1

/-- The gateway of a group on a side: 1 west, 2 east. -/
def rosterGateway (r : Roster) (grp : List Nat) (side : Nat) : Option RosterUnit :=
  r.units.find? fun u => u.gw == side && u.addr.dropLast == grp && u.addr.length == grp.length + 1

/-- The unit that stands for a member on a side: itself, or its gateway there; and the port it uses. -/
def rosterSideOf (r : Roster) (m : List Nat) (east : Bool) : Option (RosterUnit × Nat) :=
  if (rosterRing r m).isSome then (rosterGateway r m (if east then 2 else 1)).map fun u => (u, 2)
  else (rosterUnit r m).map fun u => (u, if east then 0 else 1)
def rosterSideUp (r : Roster) (m : List Nat) (east : Bool) : Bool :=
  match rosterSideOf r m east with
  | some (u, k) => u.up.getD k false
  | none => false

/-- Whether a position of a ring is taken, by a unit or a group. -/
def rosterHas (r : Roster) (pre : List Nat) (p : Nat) : Bool := r.units.any fun u => u.addr.take (pre.length + 1) == pre ++ [p]

/-- The next position of a ring on a side: the nearest one that is taken, for an open ring leaves positions between its two
ends free (R397). -/
def stepPos (r : Roster) (pre : List Nat) (p : Nat) (east : Bool) : Nat :=
  let n := rosterSize r pre
  (((upTo n).map fun k => if east then (p + 1 + k) % n else (p + 2 * n - 1 - k) % n).find? (rosterHas r pre)).getD p

/-- Whether the link from a position to its neighbour on a side is up at both ends. -/
def rosterLinkUp (r : Roster) (pre : List Nat) (p : Nat) (east : Bool) : Bool :=
  rosterSideUp r (pre ++ [p]) east && rosterSideUp r (pre ++ [stepPos r pre p east]) !east

/-- Whether every link of the way from a position to `t` is up, in at most `d` steps. -/
def rosterWayUp (r : Roster) (pre : List Nat) (east : Bool) (t : Nat) : Nat → Nat → Bool
  | 0, p => p == t
  | d + 1, p => p == t || rosterLinkUp r pre p east && rosterWayUp r pre east t d (stepPos r pre p east)

/-- Leading levels in which two addresses agree. -/
def agree : List Nat → List Nat → Nat
  | a :: as, b :: bs => if a = b then agree as bs + 1 else 0
  | _, _ => 0

/-- The way round a ring from `p` to `t` (R401): the shorter one, east on a tie, or the other when it is down. -/
def rosterRingWay (r : Roster) (pre : List Nat) (p t : Nat) : Option Bool :=
  let n := rosterSize r pre
  let e := (t + n - p % n) % n
  let w := (p + n - t % n) % n
  let first := decide (e ≤ w)
  let up : Bool → Bool := fun east => rosterWayUp r pre east t (if east then e else w) p
  if up first then some first else if up !first then some !first else none

/-- The rule of R401 at unit `u`: `some none` to deliver here, a port (0 east, 1 west, 2 up), or `none` when neither way
is up. -/
def rosterRoute (r : Roster) (u dest : List Nat) : Option (Option Nat) :=
  if dest = u then some none
  else
    let k := u.length - 1
    let pre := u.dropLast
    let inRing := fun (t : Nat) => (rosterRingWay r pre (u.getD k 0) t).map fun e => some (if e then 0 else 1)
    if agree u dest < k then
      let up := u.take (k - 1)
      let n := rosterSize r up
      let m := dest.getD (k - 1) 0
      let g := u.getD (k - 1) 0
      let first := decide ((m + n - g % n) % n ≤ (g + n - m % n) % n)
      let way := if rosterLinkUp r up g first then some first else if rosterLinkUp r up g !first then some !first else none
      match way with
      | none => none
      | some east =>
        match rosterGateway r pre (if east then 2 else 1) with
        | none => none
        | some w => if w.addr = u then some (some 2) else inRing (w.addr.getD k 0)
    else inRing (dest.getD k 0)

/-- The unit at the far end of a port (R393). -/
def rosterHop (r : Roster) (u : List Nat) (port : Nat) : Option (List Nat) :=
  let at_ := fun (pre : List Nat) (p : Nat) (east : Bool) =>
    (rosterSideOf r (pre ++ [stepPos r pre p east]) !east).map (·.1.addr)
  if port = 2 then
    let grp := u.dropLast
    at_ grp.dropLast (grp.getLastD 0) (((rosterUnit r u).map (·.gw)).getD 0 == 2)
  else at_ u.dropLast (u.getLastD 0) (port == 0)

/-- Whether a packet from `u` reaches its destination, hop by hop. -/
def rosterReaches (r : Roster) (dest : List Nat) : Nat → List Nat → Bool
  | 0, _ => false
  | n + 1, u =>
    match rosterRoute r u dest with
    | none => false
    | some none => true
    | some (some p) => match rosterHop r u p with
      | none => false
      | some v => rosterReaches r dest n v

/-- Whether a member can be reached from this unit (R414). -/
def canReach (s : State) (r : Roster) (dest : List Nat) : Bool := rosterReaches r dest 64 (me s)

/-! ## Packets, credits and flits (R390, R401, R406 to R408) -/

/-- The destination of a packet. -/
def pktDest : LinkPkt → List Nat
  | .peerReq d .. => d
  | .peerResp d .. => d
  | .token b => unitAddr (field b 4 3) (bits (field b 7 1) 2 0)
  | .tokAck d .. => d
  | .raccReq d .. => d
  | .raccResp d .. => d

/-- The source of a packet. -/
def pktSrc : LinkPkt → List Nat
  | .peerReq _ s .. => s
  | .peerResp _ s .. => s
  | .token b => unitAddr (field b 8 3) (bits (field b 11 1) 2 0)
  | .tokAck _ s .. => s
  | .raccReq _ s .. => s
  | .raccResp _ s .. => s

/-- A packet's fields as numbers. -/
def pktNums : LinkPkt → List Nat
  | .peerReq d s x a op => [0, unitNum d, d.length, unitNum s, s.length, x, a] ++ (match op with
      | .read n => [0, n]
      | .write bs => [1, bs.length, leNat bs]
      | .rmw o n v c => [2, o, n, v, c])
  | .peerResp d s x c bs => [1, unitNum d, d.length, unitNum s, s.length, x, c, bs.length, leNat bs]
  | .token b => [2, leNat b]
  | .tokAck d s x c => [3, unitNum d, d.length, unitNum s, s.length, x, c]
  | .raccReq d s o a v => [4, unitNum d, d.length, unitNum s, s.length, o, a, v]
  | .raccResp d s v => [5, unitNum d, d.length, unitNum s, s.length, v]

/-- A byte string in pieces of 64 bytes; `n` bounds their number. -/
def pieces : Nat → List Byte → List (List Byte)
  | 0, _ => []
  | n + 1, b => if b.isEmpty then [] else padTo 64 b :: pieces n (b.drop 64)

/-- The flits of a packet: a token's are its own bytes (R410), those of the other packets are not stated. -/
def pktFlits (p : LinkPkt) : List (List Byte) :=
  match p with
  | .token b => pieces b.length b
  | _ => match (Config.packetFlits (pktNums p)).map (padTo 64) with
    | [] => [List.replicate 64 0]
    | fs => fs

/-- Credits a packet takes (R408). -/
def pktCredits (p : LinkPkt) : Nat := match p with | .token b => ceilDiv b.length 64 | _ => 1

/-- A packet with the credit class of its hop (R410). -/
def pktOnClass (p : LinkPkt) (cls : Nat) : LinkPkt :=
  match p with
  | .token b => .token (b.take 13 ++ leBytes 1 cls ++ b.drop 14)
  | p => p

/-- Credits of a class on a port (R406). A change of a pool is applied by each port on its own (R408). -/
def classSize (s : State) (p cls : Nat) : Nat :=
  if cls < 8 then oget s p (F.UL_P_CREDITS.CREDITS cls) else if cls = 8 then 64 else 128

/-- UL_Pp_CRED_USED shows the pools. -/
def showUsed (s : State) : State :=
  (upTo 8).foldl (fun s c =>
    fset s (F.UL_P_CRED_USED.IN_USE c) ((upTo 3).foldl (fun m p => max m ((portOf s p).used.getD c 0)) 0)) s

/-- The 72 bytes of a flit (R390). -/
def mkFlit (seq ack kind cls cnt : Nat) (payload : List Byte) : List Byte :=
  let low := leBytes 4 (seq % 1024 + 2 ^ 10 * (ack % 1024) + 2 ^ 20 * kind + 2 ^ 22 * cls + 2 ^ 26 * cnt)
  payload ++ low ++ leBytes 4 (crc32c (payload ++ low))

/-- Send one flit that takes the next sequence number: data, or an idle flit for its credit return. It carries a credit
return and enters the replay buffer. -/
def sendFlit (p kind : Nat) (s : State) (payload : List Byte) (ends : Option (Nat × LinkPkt)) : State :=
  let q := portOf s p
  let ret := q.give.headD (0, 0)
  let n := min ret.2 63
  let f := mkFlit q.tx (q.rxNext + 1023) kind ret.1 n payload
  let s := modPort s p fun q =>
    { q with
      tx := (q.tx + 1) % 1024
      acked := q.rxNext
      unacked := q.unacked ++ [⟨q.tx, kind, (ret.1, n), payload, ends⟩]
      give := if n < ret.2 then (ret.1, ret.2 - n) :: q.give.drop 1 else q.give.drop 1 }
  send (if kind = 1 then add64 s (R.UL_P_TX_FLITS_LO p) 1 else s) (.flit p f)

/-- Send a flit that only acknowledges, idle (0) or negatively (2): it takes no sequence number (DESIGN CHOICE, log 57). The
payload of a flit that carries no data is not stated: a free value. -/
def sendAck (p kind : Nat) (s : State) : State :=
  let q := portOf s p
  let f := mkFlit q.tx (q.rxNext + 1023) kind 0 0 (leBytes 64 (freeVal s))
  send (useFree (modPort s p fun q => { q with acked := q.rxNext, nak := q.nak || kind == 2 })) (.flit p f)

/-- Credits to return, or an acknowledgement, that no data flit has carried leave with an idle flit (R390, R406). -/
def sendIdle (s : State) : State :=
  match (upTo 3).find? fun p => portUp s p && (!(portOf s p).give.isEmpty || (portOf s p).acked != (portOf s p).rxNext) with
  | none => s
  | some p =>
    if (portOf s p).give.isEmpty then sendAck p 0 s
    else if (portOf s p).unacked.length < 512 then sendFlit p 0 (useFree s) (leBytes 64 (freeVal s)) none
    else s

/-- Whether a packet can be sent whole on a port now: the port is up, its class has the credits, and the replay buffer has
room (R390, R408). -/
def canSend (s : State) (p cls : Nat) (pkt : LinkPkt) : Bool :=
  portUp s p && decide ((portOf s p).used.getD cls 0 + pktCredits pkt ≤ classSize s p cls) &&
    decide ((portOf s p).unacked.length + (pktFlits pkt).length ≤ 512)

/-- Send a packet on a port in a class. -/
def emit (s : State) (p cls : Nat) (pkt : LinkPkt) : State :=
  let pkt := pktOnClass pkt cls
  let fs := pktFlits pkt
  let s := ((upTo fs.length).zip fs).foldl (fun s q =>
    sendFlit p 1 s q.2 (if q.1 + 1 = fs.length then some (cls, pkt) else none)) s
  showUsed (modPort s p fun q => { q with used := q.used.set cls (q.used.getD cls 0 + pktCredits pkt) })

/-- Flits up to an acknowledged sequence number leave the replay buffer. -/
def ackFlits (ack : Nat) (l : List SentFlit) : List SentFlit :=
  if l.any (·.seq == ack) then (l.dropWhile (·.seq != ack)).drop 1 else l

/-- Resend every flit not acknowledged, each with the credit return it carries (R390, R391). -/
def resend (s : State) (p : Nat) : State :=
  let q := portOf s p
  q.unacked.foldl (fun s f =>
      send (incSat s (R.UL_P_REPLAY p)) (.flit p (mkFlit f.seq (q.rxNext + 1023) f.kind f.ret.1 f.ret.2 f.payload)))
    (modPort s p fun q => { q with acked := q.rxNext })

/-! ### Address tokens, rosters and topology updates (R406) -/

/-- One leaves by a port that is up for one credit of the MGMT class, or waits for it. A port that is down carries none. -/
def sendMgmt (s : State) (p : Nat) (m : Msg) : State :=
  if !portUp s p then s
  else if (portOf s p).used.getD 8 0 < classSize s p 8 then
    send (modPort s p fun q => { q with used := q.used.set 8 (q.used.getD 8 0 + 1) }) m
  else modLink s fun k => { k with mgmt := k.mgmt ++ [(p, m)] }

/-- Those that wait for a port's credits, sent again. -/
def drainMgmt (s : State) (p : Nat) : State :=
  let w := s.link.mgmt.filter (·.1 == p)
  w.foldl (fun s m => sendMgmt s p m.2) (modLink s fun k => { k with mgmt := k.mgmt.filter (·.1 != p) })

/-- One that has arrived on a port has left its buffer: its credit goes back. -/
def mgmtTaken (s : State) (p : Nat) : State := modPort s p fun q => { q with give := q.give ++ [(8, 1)] }

/-- A returned credit count (R406). -/
def creditBack (s : State) (p cls n : Nat) : State :=
  let s := showUsed (modPort s p fun q => { q with used := q.used.set cls (q.used.getD cls 0 - n) })
  if cls = 8 ∧ n ≠ 0 then drainMgmt s p else s

/-- What a negative acknowledgement does (R390). -/
def nakFlits (s : State) (p ack : Nat) : State := resend (modPort s p fun q => { q with unacked := ackFlits ack q.unacked }) p

/-- A flit is discarded and counted, and a negative acknowledgement asks for the one expected (R390). -/
def discardFlit (s : State) (p : Nat) (ask : Bool) : State :=
  let s := incSat s (R.UL_P_CRC_ERR p)
  if ask then sendAck p 2 s else s

/-- FLIT_RECEIVE (R390, R406): a flit that passes its check acknowledges, and when it is the one expected its credits are
returned and its data delivered; any other is discarded. An idle flit without a credit return has no place in the order. -/
def execFlitReceive (p : Fin 3) (flit : BitVec 576) (s : State) : Host.Outcome State Fault Refusal :=
  let b := leBytes 72 flit.toNat
  let ctl := field b 64 4
  if !portUp s p then .next s
  else if crc32c (b.take 68) ≠ field b 68 4 ∨ bits ctl 21 20 = 3 then .next (discardFlit s p true)
  else
    let s := modPort s p fun q => { q with unacked := ackFlits (bits ctl 19 10) q.unacked }
    let q := portOf s p
    let kind := bits ctl 21 20
    if kind = 2 then .next (resend s p)
    else if kind = 0 ∧ bits ctl 31 26 = 0 then .next s
    else if bits ctl 9 0 = q.rxNext then
      let s := modPort s p fun q =>
        { q with
          rx := if kind = 1 then q.rx ++ [b.take 64] else q.rx
          rxNext := (q.rxNext + 1) % 1024
          nak := false }
      .next (creditBack s p (bits ctl 25 22) (bits ctl 31 26))
    else .next (discardFlit s p (!q.nak && decide ((bits ctl 9 0 + 1024 - q.rxNext) % 1024 < 512)))

/-- NEGATIVE_ACK (R390): flits up to `ack` are acknowledged, and the sender resends from the next one. -/
def execNegativeAck (p : Fin 3) (ack : BitVec 10) (s : State) : Host.Outcome State Fault Refusal :=
  if portUp s p then .next (nakFlits s p ack.toNat) else .next s

/-! ## The roster and reachability (R402, R405, R413 to R415) -/

/-- A pair of a ROUTE has its outcome (R134, R413); the first undeliverable pair is the first in hand-over order. -/
def pairDone (s : State) (uid : Nat) (pr : RoutePair) (ok isLocal : Bool) : State :=
  let rank := (pr.token * 8 + pr.rank) * 4096 + pr.expert
  modOp s uid fun o =>
    { o with
      sent := dropFirst (· == pr) o.sent
      delivered := o.delivered + b2n ok
      undeliv := o.undeliv + b2n !ok
      localN := o.localN + b2n isLocal
      firstFail := if ok then o.firstFail else some (min rank (o.firstFail.getD rank)) }

/-- A transfer of this unit is lost (R405, R413): a token is undeliverable, a peer access ends with LINK_DOWN. -/
def loseTransfer (s : State) (f : Flying) : State :=
  let s := modLink s fun k => { k with flying := dropFirst (· == f) k.flying }
  match f.tok with
  | some (uid, pr) => pairDone s uid pr false false
  | none =>
    match s.reqs.find? fun r => r.at_ == .away && f.req == some r.id with
    | some r => reqAnswered s r cLinkDown []
    | none => s

/-- Apply a roster (R402, R414): members that can no longer be reached are reported, and transfers to them are lost. -/
def applyRoster (s : State) (r : Roster) : State :=
  let lost := (r.units.map (·.addr)).filter fun u => u != me s && canReach s s.link.roster u && !canReach s r u
  let s := modLink s fun k => { k with roster := r, outq := k.outq.filter fun p => canReach s r (pktDest p.2) }
  let s := (s.link.flying.filter fun f => !canReach s r f.dest).foldl loseTransfer s
  lost.foldl (fun s _ => showEvent (raiseSys s E.UL_STATUS.UNREACH) (plainEv cLinkDown 0x24 2)) s

/-- A roster with a port of a unit up or down. -/
def rosterSetPort (r : Roster) (u : List Nat) (p : Nat) (up : Bool) : Roster :=
  { r with units := mapWhere (·.addr == u) (fun x => { x with up := x.up.set p up }) r.units }

/-- Whether this unit is the head with an address to give (R394, R396). -/
def isHead (s : State) : Bool := s.link.strap && s.link.pcie && !s.link.conflict

/-- The ports of the rings that this unit belongs to: its own ring's, and a gateway's uplink (R393, R402). -/
def ringPorts (s : State) : List Nat := if fget s F.UL_SELF.GATEWAY = 0 then [0, 1] else [0, 1, 2]

/-- Where a roster that came on a port goes on to (R396 step 6): round the ring; at a gateway from one ring into the other;
the head, where it began, sends it no further. The ways are not stated: DESIGN CHOICE (log 57). -/
def rosterPorts (s : State) (q : Nat) : List Nat :=
  if isHead s then []
  else if fget s F.UL_SELF.GATEWAY ≠ 0 then (if q = 2 then [0, 1] else [2])
  else if q = 0 then [1] else if q = 1 then [0] else []

/-- Send the roster held out of some ports. -/
def sendRoster (s : State) (ps : List Nat) : State := ps.foldl (fun s p => sendMgmt s p (.roster p s.link.roster)) s

/-- One of this unit's ports went up or down: the roster follows, and a topology update goes round every ring it belongs to
(R402). -/
def ownPort (s : State) (p : Nat) (up : Bool) : State :=
  (ringPorts s).foldl (fun s q => sendMgmt s q (.topology q (me s) p up)) (applyRoster s (rosterSetPort s.link.roster (me s) p up))

/-- A head has been reset: a unit that was left unaddressed by its tokens takes a new one (R398). The fall of a link tells
it: DESIGN CHOICE (log 57). -/
def endConflict (s : State) : State :=
  if s.link.strap && s.link.pcie then s else modLink s fun k => { k with conflict := false }

/-- Where a topology update that came on a port goes on to: every other port of a ring that the unit in it belongs to. -/
def updatePorts (s : State) (q : Nat) (u : List Nat) : List Nat :=
  let far := u.dropLast != (me s).dropLast || ((rosterUnit s.link.roster u).map (·.gw)).getD 0 != 0
  (ringPorts s).filter fun x => x != q && (x != 2 || far)

/-- TOPOLOGY_UPDATE (R398, R399, R402, R405, R414, R415): an update that says something new is applied and passed on round
the ring, and when a port has come up the head sends the roster again. -/
def execTopologyUpdate (q : Fin 3) (u : List Nat) (p : Fin 3) (up : Bool) (s : State) : Host.Outcome State Fault Refusal :=
  let s := mgmtTaken s q
  let r := rosterSetPort s.link.roster u p up
  if r = s.link.roster ∧ (up ∨ !s.link.conflict) then .next s
  else
    let s := applyRoster (if up then s else endConflict s) r
    let s := (updatePorts s q u).foldl (fun s x => sendMgmt s x (.topology x u p up)) s
    .next (if up ∧ isHead s ∧ fbit s F.UL_SELF.ADDR_DONE then sendRoster s [0, 1] else s)

/-! ## Training and lanes (R388, R389, R391, R392) -/

/-- The transaction of a packet that this unit issued. -/
def pktOwnXid (me : List Nat) : LinkPkt → Option Nat
  | .peerReq _ s x .. => if s = me then some x else none
  | .token b => if unitAddr (field b 8 3) (bits (field b 11 1) 2 0) = me then some (field b 26 2) else none
  | _ => none

/-- A port goes down (R392, R402): packets not acknowledged will be sent another way. -/
def portGone (s : State) (p : Nat) : State :=
  let back := (portOf s p).unacked.filterMap (·.ends)
  let mine := back.filterMap fun b => pktOwnXid (me s) b.2
  let s := modLink (modPort (endConflict s) p fun q => { LinkPort.fresh with rx := q.rx }) fun k =>
    { k with
      outq := back ++ k.outq
      mgmt := k.mgmt.filter (·.1 != p)
      flying := mapWhere (fun f => mine.contains f.xid) (fun f => { f with port := 3 }) k.flying }
  let s := fset (setPort s p pDown) (F.UL_P_STATE.LANES_OK p) 0
  ownPort (raiseSys (showUsed s) E.UL_STATUS.PORT_DOWN) p false

/-- The head starts addressing (R396 step 1). -/
def startAddressing (s : State) : State :=
  if s.link.strap && s.link.pcie && portUp s 0 && (me s).isEmpty && !s.link.conflict then
    sendMgmt (modLink s fun k => { k with pos := [0], tokOut := true, second := false, upTok := [] }) 0
      (.addrToken 0 ⟨[], 1, false, []⟩)
  else s

/-- PORT_TRAINED (R388, R389, R392, R396, R399): a port comes up on `lanes`, stays down as MISWIRED, or has its failed
lanes back. -/
def execPortTrained (p kind : Fin 3) (lanes : BitVec 4) (reversed : Bool) (s : State) :
    Host.Outcome State Fault Refusal :=
  let n := (onesOf 4 lanes.toNat).length
  let st := portState s p
  if st = pUp3 ∧ (portOf s p).retrain then
    let s := modPort s p fun q => { q with retrain := false }
    if n = 4 then .next (resend (fset (setPort s p pUp4) (F.UL_P_STATE.LANES_OK p) 15) p) else .next s
  else if !mayTrain s p ∨ 2 ≤ st ∨ n < 3 then .next s
  else
    let s := fset (fset s (F.UL_P_STATE.PEER_KIND p) kind) (F.UL_P_STATE.REVERSED p) (b2n reversed)
    if kind = p ∧ p ≠ 2 then .next (linkErr (setPort s p pMiswired) E.UL_STATUS.TOPO_ERR cTopology)
    else
      let s := fset (setPort s p (if n = 4 then pUp4 else pUp3)) (F.UL_P_STATE.LANES_OK p) lanes.toNat
      let s := modPort s p fun q => { LinkPort.fresh with rx := q.rx }
      let s := ownPort (raiseSys s E.UL_STATUS.PORT_UP) p true
      let s := if isHead s ∧ fbit s F.UL_SELF.ADDR_DONE then sendRoster s [0, 1] else s
      .next (if p = 0 then startAddressing s else s)

/-- TRAIN_FAIL (R389). -/
def execTrainFail (p : Fin 3) (s : State) : Host.Outcome State Fault Refusal :=
  if 2 ≤ portState s p then .next s else .next (incSat (setPort s p pDown) (R.UL_P_TRAIN_FAIL p))

/-- TRAINING_RETRY (R389). -/
def execTrainingRetry (p : Fin 3) (s : State) : Host.Outcome State Fault Refusal :=
  if mayTrain s p ∧ portState s p = pDown then .next (setPort s p pTraining) else .next s

/-- A lane fails (R391, R392): four lanes become three with everything unacknowledged sent again; three become none. -/
def failLane (p : Nat) (s : State) (l : Nat) : State :=
  let ok := fget s (F.UL_P_STATE.LANES_OK p)
  if !portUp s p || !bit ok l then s
  else if portState s p = pUp4 then
    let s := fset (setPort s p pUp3) (F.UL_P_STATE.LANES_OK p) (putBits ok l l 0)
    resend (raiseSys s E.UL_STATUS.LANE_FAIL) p
  else portGone s p

/-- LANE_FAIL (R391, R392): a lane has lost block lock. -/
def execLaneFail (p : Fin 3) (l : Fin 4) (s : State) : Host.Outcome State Fault Refusal := .next (failLane p s l)

/-- LANE_ERR_WINDOW_END (R391): the bad blocks of each lane in the window. -/
def execLaneErrWindowEnd (p : Fin 3) (errs : List Nat) (s : State) : Host.Outcome State Fault Refusal :=
  let limit := max 1 (fget s (F.UL_P_CFG.LANE_ERR_LIMIT p))
  .next (((upTo 4).filter fun l => decide (limit ≤ errs.getD l 0)).foldl (failLane p) s)

/-- RETRAIN (R392). -/
def execRetrain (p : Fin 3) (s : State) : Host.Outcome State Fault Refusal :=
  regCmd s dLink <|
  let st := portState s p
  if st = pUp3 then .next (modPort s p fun q => { q with retrain := true })
  else if mayTrain s p ∧ (st = pDown ∨ st = pMiswired) then .next (setPort s p pTraining)
  else .next s

/-! ## Addressing (R394, R396 to R399) -/

/-- PCIE_LINK_UP (R365, R394, R396, R465, R472): the link comes up once the HOST domain does; with the HEAD strap high the
unit is the head and starts addressing. `ats` are the functions whose ATS Enable bit the host sets once the link is up
(DESIGN CHOICE, notes/assumptions/46.md). -/
def execPcieLinkUp (ats : BitVec 32) (s : State) : Host.Outcome State Fault Refusal :=
  if !domOn s dHost then .next s
  else
    let s := modLink { s with atsEn := ats.toNat } fun k => { k with pcie := true, strap := s.boot.head }
    .next (startAddressing (if s.boot.head then fset s F.UL_SELF.HEAD 1 else s))

/-- A counter's next value: positions rise eastward, and fall from 7 on a second token (R396, R397). -/
def nextCount (t : AddrTok) : Nat := if t.west then t.counter - 1 else t.counter + 1

/-- A token goes on round its ring. -/
def tokenOn (s : State) (p : Nat) (t : AddrTok) (upper : List UpTok) : State :=
  let out := if p = 1 then 0 else 1
  if p = 2 then s else sendMgmt s out (.addrToken out { t with counter := nextCount t, upper := upper })

/-- A unit takes a position and passes the token on (R396 steps 2 and 4): the first with an uplink that leads upward is the
other gateway of its group, and sends the upper token on; a further one is too many (R393). -/
def takePosition (s : State) (p : Nat) (t : AddrTok) : State :=
  let s := modLink s fun k => { k with pos := t.pre ++ [t.counter] }
  if t.pre.isEmpty ∨ !portUp s 2 then tokenOn s p t t.upper
  else match t.upper with
    | u :: rest =>
      let up : AddrTok := ⟨u.pre, u.counter, u.west, rest⟩
      let s := fset s F.UL_SELF.GATEWAY (if u.west then 1 else 2)
      tokenOn (sendMgmt s 2 (.addrToken 2 { up with counter := nextCount up })) p t []
    | [] => tokenOn (linkErr s E.UL_STATUS.TOPO_ERR cTopology) p t []

/-- A unit becomes the gateway of its group (R396 step 3): its sub-token carries the upper token, and those that this one
carries. -/
def becomeGateway (s : State) (t : AddrTok) : State :=
  let grp := t.pre ++ [t.counter]
  let up := ⟨t.pre, t.counter, t.west⟩ :: t.upper
  let s := modLink s fun k => { k with pos := grp ++ [0], tokOut := true, second := false, upTok := up }
  sendMgmt (fset s F.UL_SELF.GATEWAY (if t.west then 2 else 1)) 0 (.addrToken 0 ⟨grp, 1, false, up⟩)

/-- A unit that the conflicting tokens of two heads reach has no address (R398). -/
def loseAddress (s : State) : State :=
  let s := modLink s fun k => { k with conflict := true, pos := [], tokOut := false }
  fset (fset (fset s F.UL_SELF.UNIT 0) F.UL_SELF.DEPTH 0) F.UL_SELF.ADDR_DONE 0

/-- The address that a token gives to the unit it reaches. -/
def tokenAddr (p : Nat) (t : AddrTok) : List Nat := if p = 2 then t.pre ++ [t.counter, 0] else t.pre ++ [t.counter]

/-- ADDRESS_TOKEN (R393, R396 to R399): a token arrives on a port; `own` tells that it is this unit's own, come back. One
that reaches a head, or would give an addressed unit another address, is of two heads: it leaves the unit without one and
goes on. A token whose counter has run past 7, which R4 leaves no position for, is an error of topology and goes no further:
what a unit does with it is not stated (DESIGN CHOICE, log 57). -/
def execAddressToken (p : Fin 3) (t : AddrTok) (own : Bool) (s : State) : Host.Outcome State Fault Refusal :=
  let s := mgmtTaken s p
  if own then
    if s.link.tokOut then .next (fset (modLink s fun k => { k with tokOut := false }) F.UL_RING.SIZE t.counter) else .next s
  else if s.link.strap ∧ s.link.pcie then
    .next (tokenOn (linkErr (loseAddress s) E.UL_STATUS.HEAD_CONFLICT cHeadConflict) p t t.upper)
  else if s.link.conflict then .next (tokenOn s p t t.upper)
  else if 6 < t.pre.length + (if p = 2 then 2 else 1) ∨ 7 < t.counter then
    .next (linkErr s E.UL_STATUS.TOPO_ERR cTopology)
  else if fbit s F.UL_SELF.ADDR_DONE ∧ tokenAddr p t ≠ me s then
    .next (if t.west ∨ p = 2 then s else tokenOn (loseAddress s) p t t.upper)
  else .next (if p = 2 then becomeGateway s t else takePosition s p t)

/-- TOKEN_TIMEOUT (R397): this unit's token has not returned; its ring is open, and a second token goes west. -/
def execTokenTimeout (s : State) : Host.Outcome State Fault Refusal :=
  if !s.link.tokOut then .next s
  else
    let again := !s.link.second
    let s := fset (modLink s fun k => { k with tokOut := again, second := true }) F.UL_RING.OPEN 1
    .next (if again then sendMgmt s 1 (.addrToken 1 ⟨(me s).dropLast, 7, true, s.link.upTok⟩) else s)

/-- Members of a ring whose uplink leads upward (R393). -/
def uplinks (r : Roster) (pre : List Nat) : Nat :=
  if pre.isEmpty then 0 else countWhere (fun u : RosterUnit => u.addr.dropLast == pre && u.up.getD 2 false) r.units

/-- ROSTER (R393, R396 step 6, R397, R399): the unit writes its address and what the roster says of its rings, and passes the
roster on; a unit that has none takes the gap it fills. The head makes the roster, without a port, once its ring has closed
or is open: what it holds comes with the command, for the rules do not say how the head learns it (DESIGN CHOICE, log 57). -/
def execRoster (q : Option (Fin 3)) (r : Roster) (gap : List Nat) (s : State) : Host.Outcome State Fault Refusal :=
  let s := match q with
    | some q => mgmtTaken s q
    | none => s
  if s.link.conflict ∨ (q = none ∧ (!isHead s ∨ s.link.tokOut)) then .next s
  else
    let s := if (me s).isEmpty then modLink s fun k => { k with pos := gap } else s
    let a := me s
    if a.isEmpty then .next s
    else
      let pre := a.dropLast
      let ring := fun (q : List Nat) (size : Nat) => (((rosterRing r q).map (·.size)).getD size, ((rosterRing r q).map (·.isOpen)).getD false)
      let own := ring pre 1
      let up := if pre.isEmpty then (0, false) else ring pre.dropLast 0
      let s := applyRoster s r
      let s := fset (fset (fset s F.UL_SELF.UNIT (unitNum a)) F.UL_SELF.DEPTH a.length) F.UL_SELF.ADDR_DONE 1
      let s := fset s F.UL_SELF.GATEWAY (((rosterUnit r a).map (·.gw)).getD 0)
      let s := fset (fset s F.UL_RING.SIZE own.1) F.UL_RING.OPEN (b2n own.2)
      let s := fset (fset s F.UL_RING.UP_SIZE up.1) F.UL_RING.UP_OPEN (b2n up.2)
      let s := if 2 < uplinks r pre then linkErr s E.UL_STATUS.TOPO_ERR cTopology else s
      .next (sendRoster s (match q with | some q => rosterPorts s q | none => [0, 1]))

/-! ## Forwarding (R401, R402, R407, R408) -/

/-- The position of a ring at which a packet entered it (R401): its source's, or the gateway on the side of the ring above
that it came from; on fuel. -/
def enterPos (r : Roster) (src : List Nat) : Nat → List Nat → Nat
  | 0, pre => src.getD pre.length 0
  | n + 1, pre =>
    if src.take pre.length = pre then src.getD pre.length 0
    else
      let k := rosterSize r pre.dropLast
      let g := pre.getLastD 0
      let p := enterPos r src n pre.dropLast
      let east := decide ((g + k - p % k) % k ≤ (p + k - g % k) % k)
      ((rosterGateway r pre (if east then 1 else 2)).map fun u => u.addr.getD pre.length 0).getD 0

/-- Whether a packet that leaves position `p` of a ring on a side crosses the dateline there (R407). -/
def crosses (r : Roster) (pre : List Nat) (p : Nat) (east : Bool) : Bool :=
  if east then p + 1 == rosterSize r pre else p == 0

/-- The class of a packet's next hop (R406, R407). A request or token in transit uses TRANSIT0 until it crosses the dateline
of the ring it travels, on its first hop (class 0 to 7) too, and TRANSIT1 from there on in that ring; a new ring begins in
TRANSIT0. A packet that goes on round the ring above through this gateway has crossed that ring's dateline when it has come
round from where it entered it. `inPort` is 3 for a packet that is sent another way. -/
def hopClass (s : State) (pkt : LinkPkt) (cls inPort out : Nat) : Nat :=
  let r := s.link.roster
  let pre := (me s).dropLast
  let p := (me s).getLastD 0
  let transit := fun (b : Bool) => if b then 11 else 10
  if cls = 8 ∨ cls = 9 then cls
  else if out = 2 then
    let east := fget s F.UL_SELF.GATEWAY == 2
    let g := pre.getLastD 0
    let from_ := enterPos r (pktSrc pkt) 6 pre.dropLast
    transit (crosses r pre.dropLast g east || decide (if east then g < from_ else from_ < g))
  else if inPort = 2 then transit (crosses r pre p (out == 0))
  else
    let came := if inPort = 1 then p == 0 else inPort == 0 && crosses r pre p true
    transit (crosses r pre p (out == 0) || cls == 11 || came)

/-- The request kinds of the link. -/
def peerOpOf : ReqKind → PeerOp
  | .load n => .read n
  | .store bs => .write bs
  | .zero => .write (List.replicate 64 0)
  | .rmw op n d c => .rmw op n d c

/-- The packet of a peer request of this unit, with the next transaction number (R400, R403); LINE.ZERO writes its whole
line. -/
def peerPkt (s : State) (r : Req) : Option (Nat × LinkPkt) :=
  let a := if r.kind = .zero then r.addr / 64 * 64 else r.addr
  (peerTarget s a).map fun t => (min r.part 7, .peerReq t.1 (me s) (s.link.nextXid % 65536) t.2 (peerOpOf r.kind))

/-- What waits to be sent: packets of the queue, then peer requests, each with its class. -/
def waiting (s : State) : List (Option Nat × Nat × LinkPkt) :=
  (s.link.outq.map fun q => (none, q.1, q.2)) ++
    (s.reqs.filter (·.at_ == .peer)).filterMap fun r => (peerPkt s r).map fun p => (some r.id, p.1, p.2)

/-- Whether a new way to a destination must wait for transfers outstanding on another (R402). -/
def wayHeld (s : State) (pkt : LinkPkt) (port : Nat) : Bool :=
  match pktOwnXid (me s) pkt with
  | none => false
  | some x => s.link.flying.any fun f => f.dest == pktDest pkt && f.xid != x && f.port < 3 && f.port != port

/-- Whether a token needs more credits than its pool on a port now holds (R408). -/
def tokenShort (s : State) (p cls : Nat) (pkt : LinkPkt) : Bool :=
  match pkt with
  | .token _ => decide (classSize s p cls < pktCredits pkt)
  | _ => false

/-- The class of a packet of the queue on a port: its own, or in transit the one of R407. -/
def outClass (s : State) (pkt : LinkPkt) (cls p : Nat) : Nat := if cls < 8 then cls else hopClass s pkt cls 3 p

/-- The first packet that can go: its route, or none when it has no way or, a token, more flits than its pool has credits;
one behind a packet for the same destination in the same class waits. -/
def pickOut (s : State) : List (Option Nat × Nat × LinkPkt) → List (Nat × List Nat) →
    Option ((Option Nat × Nat × LinkPkt) × Option (Option Nat))
  | [], _ => none
  | q :: qs, held =>
    let d := pktDest q.2.2
    if held.contains (q.2.1, d) then pickOut s qs held
    else match rosterRoute s.link.roster (me s) d with
      | some (some p) =>
        if tokenShort s p (outClass s q.2.2 q.2.1 p) q.2.2 then some (q, none)
        else if canSend s p (outClass s q.2.2 q.2.1 p) q.2.2 && !wayHeld s q.2.2 p && (q.1.isNone || decide (s.link.flying.length < 1024)) then
          some (q, some (some p))
        else pickOut s qs ((q.2.1, d) :: held)
      | r => some (q, r)

/-- A packet leaves the waiting set. -/
def unqueue (s : State) (q : Option Nat × Nat × LinkPkt) (port : Nat) : State :=
  match q.1 with
  | some id =>
    modLink (modReq s id fun r => { r with at_ := .away }) fun k =>
      { k with
        flying := k.flying ++ [⟨k.nextXid % 65536, pktDest q.2.2, port, none, some id⟩]
        nextXid := k.nextXid + 1 }
  | none =>
    let s := modLink s fun k => { k with outq := dropFirst (· == (q.2.1, q.2.2)) k.outq }
    match pktOwnXid (me s) q.2.2 with
    | none => s
    | some x =>
      modLink s fun k => { k with flying := mapWhere (·.xid == x) (fun f => { f with port := port }) k.flying }

/-- This unit's next packet: sent by its route, delivered here, or ended when there is no way (R401, R405, R413); with none
to send, what is owed to the far ends goes by itself. -/
def sendNext (s : State) : State :=
  match pickOut s (waiting s) [] with
  | none => sendIdle s
  | some (q, some (some p)) =>
    let s := emit (unqueue s q p) p (outClass s q.2.2 q.2.1 p) q.2.2
    match q.2.2 with
    | .token _ => incSat s R.UL_TOK_SENT
    | _ => s
  | some (q, some none) => modLink (unqueue s q 3) fun k => { k with arrived := k.arrived ++ [q.2.2] }
  | some (q, none) =>
    match q.1 with
    | some id => match s.reqs.find? (·.id == id) with
      | some r => reqAnswered s r cLinkDown []
      | none => s
    | none =>
      let s := unqueue s q 3
      match (pktOwnXid (me s) q.2.2).bind fun x => s.link.flying.find? (·.xid == x) with
      | some f => loseTransfer s f
      | none => s

/-- The packet that stands at the front of a port, its class and its flits: a token spells itself, any other is what the
operands say. -/
def frontPkt (q : LinkPort) (n cls : Nat) (pkt : LinkPkt) : Option (Nat × Nat × LinkPkt) :=
  match q.rx with
  | [] => none
  | h :: _ =>
    let len := if field h 0 1 = 1 then 1 + field h 14 2 else max n 1
    if q.rx.length < len then none
    else if field h 0 1 = 1 then some (len, field h 13 1, .token (q.rx.take len).flatten)
    else some (len, cls, pkt)

/-- A packet for this unit: a reset from a link neighbour asserts source 11 (R416, R460); any other waits for its step. -/
def deliverHere (s : State) (pkt : LinkPkt) : State :=
  match pkt with
  | .raccReq _ _ 3 _ _ => assertSource s 11 0
  | _ => modLink s fun k => { k with arrived := k.arrived ++ [pkt] }

/-- LINK_PACKET_FORWARD (R401, R402, R404, R406 to R408, R416): the packet at the front of a port is delivered or sent on,
and its credits are returned; with no port, this unit's own next packet is sent. -/
def execLinkPacketForward (p : Option (Fin 3)) (n cls : Nat) (pkt : LinkPkt) (s : State) : Host.Outcome State Fault Refusal :=
  match p with
  | none => .next (sendNext s)
  | some p =>
    match frontPkt (portOf s p) n cls pkt with
    | none => .next s
    | some (len, cls, pkt) =>
      let take := fun (s : State) =>
        modPort s p fun q => { q with rx := q.rx.drop len, give := q.give ++ [(cls, pktCredits pkt)] }
      match rosterRoute s.link.roster (me s) (pktDest pkt) with
      | some none => .next (deliverHere (take s) pkt)
      | none => .next (take s)
      | some (some out) =>
        let c := hopClass s pkt cls p out
        if canSend s out c pkt then .next (emit (take s) out c pkt) else .next s

/-! ## Peer accesses (R377, R403 to R405) -/

/-- What a peer operation does at the memory. -/
def reqKindOf : PeerOp → ReqKind
  | .read n => .load n
  | .write bs => .store bs
  | .rmw op n d c => .rmw op n d c

/-- Take the first arrived packet that `f` accepts. -/
def takeArrived {α : Type} (s : State) (f : LinkPkt → Option α) : Option (State × α) :=
  match s.link.arrived.find? fun p => (f p).isSome with
  | none => none
  | some p => (f p).map fun x => (modLink s fun k => { k with arrived := dropFirst (· == p) k.arrived }, x)

/-- Queue a packet of this unit. -/
def queuePkt (s : State) (cls : Nat) (p : LinkPkt) : State := modLink s fun k => { k with outq := k.outq ++ [(cls, p)] }

/-- Keep the newest 4,096 outcomes of a source (R403). -/
def keepOutcomes (src : List Nat) : Nat → List ((List Nat × Nat) × (Nat × List Byte)) → List ((List Nat × Nat) × (Nat × List Byte))
  | _, [] => []
  | n, o :: os =>
    if o.1.1 = src then (if n = 0 then keepOutcomes src 0 os else o :: keepOutcomes src (n - 1) os) else o :: keepOutcomes src n os
def recordOutcome (s : State) (src : List Nat) (xid code : Nat) (data : List Byte) : State :=
  modLink s fun k => { k with outcomes := keepOutcomes src 4096 (((src, xid), (code, data)) :: k.outcomes) }

/-- What SECDED finds at a memory address of this unit (R60 to R62, R534). -/
def memEcc (s : State) (a : Nat) (ecc : Ecc) : State :=
  if reach s a = .dram then dramEcc s a ecc .block else loftEcc s a ecc .block

/-- A peer's access at the memory (R39, R60 to R62, R373, R376, R377): checked against the granule's tag, performed unless
its read meets an uncorrectable error or its line is marked bad; the state after it, its code and data. -/
def peerServe (s : State) (a : Nat) (kind : ReqKind) (ecc : Ecc) (tagBad : Bool) : State × Nat × List Byte :=
  let tagged := reach s a == .scratch || reach s a == .dram
  let s := if tagBad && tagged then tagLost s a else s
  let c := peerCheck s a kind.writes
  let done := fun (s : State) => let r := perform s a kind; (r.1, cOk, r.2)
  if c ≠ cOk then (s, c, [])
  else if badLine s a then (s, cMemUe, [])
  else if kindReads a kind then
    match foundEcc s a kind.size ecc with
    | .double w => (memEcc s a (.double w), cMemUe, [])
    | e => done (memEcc s a e)
  else done s

/-- PEER_REQUEST (R377, R403, R434): the oldest peer request that has arrived is performed once and answered; one that
arrives again is answered from its record. -/
def execPeerRequest (ecc : Ecc) (tagBad : Bool) (s : State) : Host.Outcome State Fault Refusal :=
  match takeArrived s fun p => match p with | .peerReq _ src x a op => some (src, x, a, op) | _ => none with
  | none => .next s
  | some (s', (src, x, a, op)) =>
    match s.link.outcomes.lookup (src, x) with
    | some (code, data) => .next (queuePkt (incSat s' R.UL_DUP_DROPPED) 9 (.peerResp src (me s) x code data))
    | none =>
      let r := peerServe s' a (reqKindOf op) ecc tagBad
      .next (whenUp s (domAt s a).toList (queuePkt (recordOutcome r.1 src x r.2.1 r.2.2) 9 (.peerResp src (me s) x r.2.1 r.2.2)))

/-- PEER_RESPONSE (R377, R403 to R405): the oldest response that has arrived answers its access. -/
def execPeerResponse (s : State) : Host.Outcome State Fault Refusal :=
  match takeArrived s fun p => match p with | .peerResp _ _ x c d => some (x, c, d) | _ => none with
  | none => .next s
  | some (s, (x, code, data)) =>
    match s.link.flying.find? fun f => f.xid == x && f.req.isSome with
    | none => .next s
    | some f =>
      let s := modLink s fun k => { k with flying := dropFirst (· == f) k.flying }
      match s.reqs.find? fun r => r.at_ == .away && f.req == some r.id with
      | some r => .next (reqAnswered s r code data)
      | none => .next s

/-! ## Entry rings (R411, R412) -/

def erOf (s : State) (n : Nat) : EntryRing := mget EntryRing.idle s.link.erings n

/-- The slots of an entry ring and its consumer count (R411). -/
def erRanges (s : State) (n : Nat) : List (Nat × Nat × Bool) :=
  [(rd64 s (R.UL_ER_BASE_LO n) % 2 ^ 48, 2 ^ (fget s (F.UL_ER_CFG.COUNT_LOG2 n) + fget s (F.UL_ER_CFG.SLOT_LOG2 n)), true),
    (rd64 s (R.UL_ER_RD_LO n) % 2 ^ 48, 4, false)]

/-- The set-up of an entry ring is checked and the ring enabled (R411); a failed check refuses the enable, and one that needs
a host page not yet translated waits for it. The code shown with ER_REFUSED is not stated: a free value. -/
def erTry (s : State) (n : Nat) : State :=
  let cid := fget s (F.UL_ER_CFG.CID n)
  let cnt := fget s (F.UL_ER_CFG.COUNT_LOG2 n)
  let slot := fget s (F.UL_ER_CFG.SLOT_LOG2 n)
  let f := fenceOf s (fget s (F.UL_ER_FENCE.FENCE n))
  let fenceOk := f.state == .active && fnOfCid s f.owner == fnOfCid s cid
  let ok := inRange cnt 1 12 && inRange slot 7 7 && ctxLive s cid && (fnOfCid s cid).isSome && fenceOk
  let put := fun (s : State) (e : EntryRing) => modLink s fun k => { k with erings := mput EntryRing.idle k.erings n e }
  let now := { erOf s n with asking := false }
  match if ok then ownedScratch s cid (erRanges s n) else .fault cOwner 0 with
    | .waits g h => askAts (put s { now with asking := true }) g h
    | .fault .. => linkErr (useFree (put s now)) E.UL_STATUS.ER_REFUSED (freeVal s % 2 ^ 16)
    | .ok pages =>
      let rd := leNat (ctxRead s pages (rd64 s (R.UL_ER_RD_LO n) % 2 ^ 48) 4)
      hold (wrN (fset (put s ⟨f.value, rd, false⟩) (F.UL_ER_CFG.EN n) 1) (R.UL_ER_WR n) 0) (.entryRing n) cid pages

/-- Enables that wait for a host translation are tried again. -/
def erWaiting (s : State) : State := (s.link.erings.filter (·.2.asking)).foldl (fun s p => erTry s p.1) s

/-- ENTRY_RING_ENABLE (R411). -/
def execEntryRingEnable (n : Fin 256) (s : State) : Host.Outcome State Fault Refusal :=
  regCmd s dLink (.next (if fbit s (F.UL_ER_CFG.EN n) then s else erTry s n))

/-- ENTRY_RING_DISABLE (R411); an enable that still waits is given up. -/
def execEntryRingDisable (n : Fin 256) (s : State) : Host.Outcome State Fault Refusal :=
  regCmd s dLink <|
  let s := modLink s fun k => { k with erings := mmod EntryRing.idle k.erings n fun e => { e with asking := false } }
  .next (unhold (fset s (F.UL_ER_CFG.EN n) 0) (.entryRing n))

/-- The UL unit as it accesses an entry ring of a context, through its port into the Loft (R40). -/
abbrev linkPort : Nat := 46
def erEng (cid : Nat) : EngAsk := ⟨linkPort, cid, noTag, .block, 0xFF, 0xFF, 0xFA, 0, 0⟩

/-- What a token's delivery reaches: the slot it is written to, and the consumer count (R412). -/
def slotRanges (s : State) (b : List Byte) : List (Nat × Nat × Bool) :=
  let n := field b 12 1
  let slot := 2 ^ fget s (F.UL_ER_CFG.SLOT_LOG2 n)
  let size := 2 ^ fget s (F.UL_ER_CFG.COUNT_LOG2 n)
  [(rd64 s (R.UL_ER_BASE_LO n) % 2 ^ 48 + rdN s (R.UL_ER_WR n) % size * slot, b.length, true), (rd64 s (R.UL_ER_RD_LO n) % 2 ^ 48, 4, false)]

/-- The Loft quadrants that a token's delivery reaches (R434); none for a ring that is not enabled. -/
def slotDoms (s : State) (b : List Byte) : List Nat :=
  let n := field b 12 1
  if fbit s (F.UL_ER_CFG.EN n) then
    unitDoms s (fget s (F.UL_ER_CFG.CID n)) (heldPages s (.entryRing n)) (slotRanges s b)
  else []

/-- A token at its entry ring (R412): its code, and the ring after it. Where an access of the ring meets a failed ownership
check or an uncorrectable error, its context faults (R105) and the token is refused with that code: the rules name no other
outcome (DESIGN CHOICE, log 57). -/
def enterRing (s : State) (b : List Byte) : State × Nat :=
  let n := field b 12 1
  let cid := fget s (F.UL_ER_CFG.CID n)
  let size := 2 ^ fget s (F.UL_ER_CFG.COUNT_LOG2 n)
  let slot := 2 ^ fget s (F.UL_ER_CFG.SLOT_LOG2 n)
  let pg := heldPages s (.entryRing n)
  let eng := erEng cid
  let refuse := fun (s : State) (c : Nat) => (incSat s R.UL_TOK_REFUSED, c)
  if !fbit s (F.UL_ER_CFG.EN n) then refuse s cEringInvalid
  else if bits (field b 7 1) 6 4 ≠ (ctxOf s cid).part then refuse s cEringInvalid
  else if slot < 64 * (1 + field b 14 2) then refuse s cEringInvalid
  else
    let wr := rdN s (R.UL_ER_WR n)
    let full := fun (rd : Nat) => decide (size ≤ (wr + 2 ^ 32 - rd % 2 ^ 32) % 2 ^ 32)
    let ask := full (erOf s n).rd
    match heldBad s cid pg ((slotRanges s b).filter fun r => r.2.2 || ask) with
    | some (v, c) => refuse (engFault s eng c v) c
    | none =>
      let rd := if ask then leNat (ctxRead s pg (rd64 s (R.UL_ER_RD_LO n) % 2 ^ 48) 4) else (erOf s n).rd
      let s := modLink s fun k => { k with erings := mmod EntryRing.idle k.erings n fun e => { e with rd := rd } }
      if full rd then refuse (raise s (E.UL_ER_STATUS.FULL n)) cEringFull
      else
        let s := ctxWrite s eng pg (rd64 s (R.UL_ER_BASE_LO n) % 2 ^ 48 + wr % size * slot) b
        let s := charge s (ctxOf s cid).part 1 b.length
        let s := incWrap s (R.UL_ER_WR n)
        let s := signalFence s (fget s (F.UL_ER_FENCE.FENCE n)) ((erOf s n).v0 + BitVec.ofNat 64 (rdN s (R.UL_ER_WR n)))
        (incSat (noteReadyAll s) R.UL_TOK_DELIVERED, cOk)

/-- TOKEN_DELIVER (R403, R412, R434): the oldest token that has arrived enters its ring or is refused, and is acknowledged. -/
def execTokenDeliver (s : State) : Host.Outcome State Fault Refusal :=
  match takeArrived s fun p => match p with | .token b => some b | _ => none with
  | none => .next s
  | some (s', b) =>
    let src := pktSrc (.token b)
    let x := field b 26 2
    match s.link.outcomes.lookup (src, x) with
    | some (code, _) => .next (queuePkt (incSat s' R.UL_DUP_DROPPED) 9 (.tokAck src (me s) x code))
    | none =>
      let r := enterRing s' b
      .next (whenUp s (slotDoms s b) (queuePkt (recordOutcome r.1 src x r.2 []) 9 (.tokAck src (me r.1) x r.2)))

/-- TOKEN_ACK (R413): the oldest acknowledgement that has arrived gives its pair its outcome. -/
def execTokenAck (s : State) : Host.Outcome State Fault Refusal :=
  match takeArrived s fun p => match p with | .tokAck _ _ x c => some (x, c) | _ => none with
  | none => .next s
  | some (s, (x, code)) =>
    match s.link.flying.find? fun f => f.xid == x && f.tok.isSome with
    | none => .next s
    | some f =>
      let s := modLink s fun k => { k with flying := dropFirst (· == f) k.flying }
      match f.tok with
      | none => .next s
      | some (uid, pr) => .next (pairDone s uid pr (code == cOk) false)

/-! ## ROUTE's pairs (R134, R408 to R410, R413) -/

/-- The directory entry of an expert, as applied (R409). -/
def dirEntry (s : State) (e : Nat) : Nat :=
  (mget 0 s.applied (R.UL_DIR_LO e)).toNat + 2 ^ 32 * (mget 0 s.applied (R.UL_DIR_HI e)).toNat

/-- The header flit of a token (R410). -/
def tokenHeader (s : State) (part tag xid len entry : Nat) (pr : RoutePair) : List Byte :=
  padTo 64 (leBytes 1 1 ++ leBytes 1 0 ++ leBytes 2 pr.expert ++ leBytes 3 (bits entry 23 0) ++
    leBytes 1 (bits entry 26 24 + 16 * bits entry 30 28) ++ leBytes 3 (unitNum (me s)) ++
    leBytes 1 ((me s).length + 16 * part) ++ leBytes 1 (bits entry 39 32) ++ leBytes 1 part ++ leBytes 2 len ++
    leBytes 4 tag ++ leBytes 4 pr.token ++ leBytes 1 pr.rank ++ leBytes 1 0 ++ leBytes 2 xid ++ leBytes 4 pr.gate)

/-- The pool of a partition on the first-hop port to a member (R408). -/
def firstPool (s : State) (dest : List Nat) (part : Nat) : Nat :=
  match rosterRoute s.link.roster (me s) dest with
  | some (some p) => classSize s p part
  | _ => 0

/-- Whether a ROUTE in a tile's hand-over waits for link credits (R135, R148, R408): a pair of its own that it has handed
over cannot be sent for lack of them, or no further transaction may be outstanding. -/
def routeWaits (s : State) (o : TensorOp) : Bool :=
  let own := fun (q : Nat × LinkPkt) =>
    s.link.flying.any fun f => pktOwnXid (me s) q.2 == some f.xid && (f.tok.map (·.1)) == some o.uid
  let lacks := fun (q : Nat × LinkPkt) => match rosterRoute s.link.roster (me s) (pktDest q.2) with
    | some (some p) => portUp s p && decide (classSize s p q.1 < (portOf s p).used.getD q.1 0 + pktCredits q.2)
    | _ => false
  o.stage == .pairs && (s.link.outq.any (fun q => own q && lacks q) || decide (1024 ≤ s.link.flying.length))

/-- The token of a pair: its header and its vector (R410). -/
def pairToken (s : State) (o : TensorOp) (pages : List HeldPage) (row n entry : Nat) (pr : RoutePair) : List Byte :=
  tokenHeader s (ctxOf s o.cid).part (d4 o.desc 28) (s.link.nextXid % 65536) (n / 64) entry pr ++ ctxRead s pages row n

/-- A pair is sent, delivered here, or found undeliverable (R134, R408, R413). -/
def handPair (s : State) (o : TensorOp) (pr : RoutePair) (entry n : Nat) (b : List Byte) : State :=
  let dest := unitAddr (bits entry 23 0) (bits entry 26 24)
  let part := (ctxOf s o.cid).part
  if bits entry 26 24 = 0 then pairDone s o.uid pr false false
  else if dest = me s then
    let r := enterRing s b
    pairDone r.1 o.uid pr (r.2 == cOk) true
  else if firstPool s dest part < 1 + n / 64 ∨ !canReach s s.link.roster dest then pairDone s o.uid pr false false
  else
    queuePkt (modLink s fun k =>
      { k with
        flying := k.flying ++ [⟨k.nextXid % 65536, dest, 3, some (o.uid, pr), none⟩]
        nextXid := k.nextXid + 1 }) part (.token b)

/-- ROUTE_PAIR_HANDOVER (R134, R334, R408 to R410, R413): the next pair is sent, delivered here, or found undeliverable; its
`beats` are the context's. -/
def execRoutePairHandover (c : Fin 17) (beats : Nat) (s : State) : Host.Outcome State Fault Refusal :=
  match headOn s c with
  | none => .next s
  | some o =>
    match o.pairs with
    | [] => .next s
    | pr :: rest =>
      let n := d2 o.desc 20 * (ty (dA o.desc)).width / 8
      let row := d8 o.desc 32 + pr.token * n
      let entry := dirEntry s pr.expert
      let here := bits entry 26 24 ≠ 0 ∧ unitAddr (bits entry 23 0) (bits entry 26 24) = me s
      let ds := if here then slotDoms s (pairToken s o [] row n entry pr) else []
      let last := fun (s : State) => match s.tensors.find? (·.uid == o.uid) with
        | some o => if o.stage = .pairs ∧ o.pairs.isEmpty then tileHanded s o else s
        | none => s
      if o.stage ≠ .pairs ∨ 1024 ≤ s.link.flying.length then .next s
      else .next (whenUp s ds (engineUnit s s (tensorEng s o 0) [(row, n, false)] (tensorFault s o · ·) fun s pages =>
        let b := pairToken s o pages row n entry pr
        let s := modOp (busyBeats s o beats) o.uid fun o => { o with pairs := rest, sent := o.sent ++ [pr], handed := o.handed + 1 }
        last (handPair s o pr entry n b)))

/-- The route report (R134). -/
def routeReport (o : TensorOp) : List Byte :=
  leBytes 4 o.handed ++ leBytes 4 o.delivered ++ leBytes 4 o.undeliv ++
    leBytes 2 (match o.firstFail with | some r => r % 4096 | none => 0xFFFF) ++ leBytes 2 0 ++ leBytes 4 o.localN ++ leBytes 12 0

/-- ROUTE_COMPLETE (R134): every pair has its outcome; the report is written last and the operation completes. -/
def execRouteComplete (c : Fin 17) (s : State) : Host.Outcome State Fault Refusal :=
  match headOn s c with
  | none => .next s
  | some o =>
    if dOpc o.desc ≠ 5 ∨ o.stage ≠ .boundary ∨ o.next ≠ tileCount o.desc ∨ !o.pairs.isEmpty ∨ !o.sent.isEmpty then .next s
    else .next (engineUnit s s (tensorEng s o 0) [(d8 o.desc 64, 32, true)] (tensorFault s o · ·) fun s pages =>
        endOp (ctxWrite s (tensorEng s o 0) pages (d8 o.desc 64) (routeReport o)) o (if o.undeliv = 0 then cOk else cExpertUnreach))

/-! ## Register access to members (R416) -/

/-- Start a register access; a write of OP while BUSY is ignored, and so is one on a unit other than the head, which never
sees the group's management registers (R394). -/
def raccStart (s : State) (op : Nat) : State :=
  if fbit s F.UL_RACC_STATUS.BUSY || !fbit s F.UL_SELF.HEAD then s
  else
    let dest := unitAddr (fget s F.UL_RACC_UNIT.UNIT) (fget s F.UL_RACC_UNIT.DEPTH)
    let s := modLink (fset s F.UL_RACC_STATUS.BUSY 1) fun k => { k with racc := op }
    queuePkt s 8 (.raccReq dest (me s) op (rdN s R.UL_RACC_OFF) (rdN s R.UL_RACC_DATA))

/-- RACC_READ (R416). -/
def execRaccRead (s : State) : Host.Outcome State Fault Refusal :=
  regCmd s dLink (.next (raccStart s 1))
/-- RACC_WRITE (R416). -/
def execRaccWrite (s : State) : Host.Outcome State Fault Refusal :=
  regCmd s dLink (.next (raccStart s 2))
/-- RACC_RESET (R416). -/
def execRaccReset (s : State) : Host.Outcome State Fault Refusal :=
  regCmd s dLink (.next (raccStart s 3))

/-- RACC_RESPONSE (R416): RESULT is OK, and a read has its data. -/
def execRaccResponse (s : State) : Host.Outcome State Fault Refusal :=
  match takeArrived s fun p => match p with | .raccResp _ _ v => some v | _ => none with
  | none => .next s
  | some (s, v) =>
    if !fbit s F.UL_RACC_STATUS.BUSY then .next s
    else
      let s := fset (fset s F.UL_RACC_STATUS.BUSY 0) F.UL_RACC_STATUS.RESULT cOk
      .next (if s.link.racc = 1 then wrN s R.UL_RACC_DATA v else s)

/-- RACC_TIMEOUT (R416). -/
def execRaccTimeout (s : State) : Host.Outcome State Fault Refusal :=
  if !fbit s F.UL_RACC_STATUS.BUSY then .next s
  else .next (fset (fset s F.UL_RACC_STATUS.BUSY 0) F.UL_RACC_STATUS.RESULT cRaccTimeout)

end Sys2Proof.Machine
end

