-- ==== Sys2Proof/Machine/Preempt.lean ====
section
/-! DEFINITION. Pre-emption (spec/10_stage_manager.md R338 to R343): requests, save pages, save images and the points at
which work stops. -/

namespace Sys2Proof.Machine

open Sys2Proof

/-! ## Save pages (R333, R340) -/

/-- The 4 KiB pages of a partition's part of the save areas, as page numbers within them. -/
def savePages (s : State) (p : Nat) : List Nat :=
  (upTo (aget s (F.SMGR_P_SAVE.SAVE_MIB p) * 256)).map (aget s (F.SMGR_P_SAVE.SAVE_BASE p) * 256 + ·)

/-- The free ones. -/
def freeSavePages (s : State) (p : Nat) : List Nat :=
  (savePages s p).filter fun n => !s.images.any (·.pages.contains n)

/-- Whole pages of an image. -/
def imagePages (bytes : Nat) : Nat := ceilDiv bytes 4096

/-- The size of a workgroup's image (R340). -/
def wgImage (w : Wg) : Nat := 512 + w.groups * (6144 + 128 * w.nregs) + 1024 * w.localKib

/-- The largest image an operation may write (R148, R340). -/
def opImageMax (o : TensorOp) : Nat :=
  if dOpc o.desc = 3 then 256 + 4 * (d1 o.desc 25 * (d2 o.desc 20 * (2 - d1 o.desc 24))) else 256

/-- The raster save record and its bitmap, and a copy's image (R340). -/
abbrev rasImage : Nat := 256 + 2048
abbrev copyImage : Nat := 64

/-! ## Requests (R339, R341) -/

/-- The workgroups, tensor operations, pass and copies a request asks for. A request for all of a context's work leaves a
pass its own workgroups, with which it reaches its flush point (R238, R338, R339 step 3). -/
def Preempt.wgs (s : State) (q : Preempt) : List (Nat × Wg) :=
  (upTo 17).flatMap fun c =>
    if q.wants .workgroup [c] then
      ((coreOf s c).wgs.filter fun w => w.cid == q.cid && (w.kind == .launch || q.kind.isSome)).map fun w => (c, w)
    else []
def Preempt.ops (s : State) (q : Preempt) : List TensorOp :=
  s.tensors.filter fun o => o.cid == q.cid && o.holds && q.wants .tensor o.cores
def Preempt.pass (s : State) (q : Preempt) : Option RasterRun :=
  match s.raster with
  | none => none
  | some r => if r.cid = q.cid ∧ q.wants .raster [] then some r else none
def Preempt.copies (s : State) (q : Preempt) : List CopySt :=
  s.copies.filter fun c => !c.stopped && cidOfCue s c.uid == q.cid && q.wants .copy []
def Preempt.comps (s : State) (q : Preempt) : List CompRun := s.comps.filter fun c => c.cid == q.cid && q.wants .comp []

/-- The pages that the largest images of a request's work may need. -/
def Preempt.need (s : State) (q : Preempt) : Nat :=
  sumBy (fun p : Nat × Wg => imagePages (wgImage p.2)) (q.wgs s) + sumBy (fun o => imagePages (opImageMax o)) (q.ops s) +
    (if (q.pass s).isSome then 1 else 0) + (q.copies s).length

/-- Whether a request's work still holds resources. -/
def Preempt.busy (s : State) (q : Preempt) : Bool :=
  !(q.wgs s).isEmpty || !(q.ops s).isEmpty || (q.pass s).isSome || !(q.copies s).isEmpty || !(q.comps s).isEmpty

/-- The partition of a request. -/
def Preempt.part (s : State) (q : Preempt) : Nat := (ctxOf s q.cid).part

/-- Whether the save area has pages for a request beside those already promised (R339 step 1); it has none before the Loft is
carved. -/
def Preempt.fits (s : State) (q : Preempt) : Bool :=
  let p := q.part s
  let promised := sumBy (fun r : Preempt => r.need s) (s.preempts.filter fun r => !r.deferred && r.part s == p)
  carved s && decide (q.need s + promised ≤ (freeSavePages s p).length)

/-- A raster pass asked to yield (R238). -/
def askYield (s : State) (q : Preempt) : State :=
  if (q.pass s).isSome then { s with raster := s.raster.map fun r => { r with yielding := true } } else s

/-- Send or defer a request (R339, R341); one already made, or one with nothing to pre-empt, changes nothing. -/
def preemptReq (s : State) (cid core : Nat) (kind : Option WorkKind) (sliceEnd : Bool) : State :=
  let q : Preempt := ⟨cid, core, kind, false, sliceEnd⟩
  if !q.busy s || s.preempts.any (fun r => r.cid == cid && r.core == core && r.kind == kind) then s
  else if q.fits s then askYield { s with preempts := s.preempts ++ [q] } q
  else raise { s with preempts := s.preempts ++ [{ q with deferred := true }] } E.SMGR_EVENT.SAVE_WAIT

/-- Deferred requests of a partition are retried in order (R341). -/
def retryDeferred (s : State) (p : Nat) : State :=
  s.preempts.foldl (fun s q =>
    if q.deferred && q.part s == p && q.fits s then
      askYield { s with preempts := mapFirst (· == q) (fun q => { q with deferred := false }) s.preempts } q
    else s) s

/-! ## What work waits for, and who holds it (R337, R349, R350) -/

/-- How many cores a cue's waiting work of a kind needs (1 for an engine that every core shares): a tensor cue not yet read
needs the one that reads it, a checked gang all of its engines, a launch as many as its remaining workgroups fill. -/
def coresNeeded (s : State) (q : CueRun) (k : WorkKind) : Nat :=
  let image := s.images.any fun i => i.uid == q.uid && i.kind == k
  match k with
  | .tensor => match s.tensors.find? (·.uid == q.uid) with
    | some o => if o.stage = .gang ∨ !o.holds then dGang o.desc else 0
    | none => b2n (cuePlaceable s k q)
  | .workgroup =>
    sumBy (fun l : Launch =>
      if l.uid = q.uid then ceilDiv (l.gridX * l.gridY * l.gridZ - l.next) (max 1 (residentMax l.groups l.nregs l.split l.localKib))
      else 0) s.launches + countWhere (fun v : SavedWg => v.wg.uid == q.uid) s.savedWgs
  | .copy => 0
  | _ => b2n (cuePlaceable s k q || image)

/-- Whether a core has room for a cue's waiting work of a kind. -/
def roomOn (s : State) (q : CueRun) (k : WorkKind) (c : Nat) : Bool :=
  match k with
  | .tensor => match opOn s c with | none => true | some o => o.uid == q.uid
  | .workgroup =>
    (s.launches.any fun l => l.uid == q.uid && launchFits s c l) ||
      s.images.any fun i => i.uid == q.uid && i.kind == k && imageFits s i c
  | .raster => s.raster.isNone
  | .comp => decide (s.comps.length < 2)
  | .copy => true

/-- The contexts and cues that hold resources of a kind on a core. -/
def holdersOn (s : State) (k : WorkKind) (c : Nat) : List (Nat × Nat) :=
  match k with
  | .tensor => ((opOn s c).map fun o => (o.cid, o.uid)).toList
  | .workgroup => ((coreOf s c).wgs.map fun w => (w.cid, w.uid)).eraseDups
  | .raster => (s.raster.map fun r => (r.cid, r.uid)).toList
  | .comp => s.comps.map fun r => (r.cid, r.uid)
  | .copy => []

/-- Whether a cue is a chain cue of a privileged stream. -/
def isChainCue (s : State) (uid : Nat) : Bool := match cueOf s uid with | some c => isChain s c.src | none => false

/-- The requests that would free what a cue's work lacks, from the holders (context and cue) that meet `may`: the lowest
cores that such a holder occupies, as many as are lacking (DESIGN CHOICE, log 30). Chain cues of privileged streams are
never among them (R350). -/
def victims (s : State) (p : Nat) (q : CueRun) (may : Nat → Bool) : List Preempt :=
  let ok := fun (h : Nat × Nat) => may h.1 && !isChainCue s h.2
  [WorkKind.tensor, .workgroup, .raster, .comp].flatMap fun k =>
    let cs := if k.onCore then (partCores s p).filter (homeOk s q.src) else [17]
    let lack := coresNeeded s q k - countWhere (roomOn s q k) cs
    let held := (cs.filter fun c => !roomOn s q k c && (holdersOn s k c).any ok).take lack
    (held.flatMap fun c => ((holdersOn s k c).filter ok).map fun h =>
      (⟨h.1, c, some k, false, false⟩ : Preempt)).eraseDups

/-- Make the requests of a list. -/
def preemptAll (s : State) (l : List Preempt) : State := l.foldl (fun s q => preemptReq s q.cid q.core q.kind q.sliceEnd) s

/-- The cues of a context that have work to place. -/
def cuesToPlace (s : State) (cid : Nat) : List CueRun :=
  s.cues.filter fun q => q.cid == cid && (q.stage == .running || cueReady s q)

/-- Whether a context lacks what a holder occupies (R337). -/
def blockedBy (s : State) (p cid holder : Nat) : Bool :=
  (cuesToPlace s cid).any fun q => !(victims s p q (· == holder)).isEmpty

/-- A chain cue of a privileged stream pre-empts the work that holds what it needs on its HOME_CORE (R350). -/
def chainPreempt (s : State) (q : CueRun) : State := preemptAll s (victims s (ctxOf s q.cid).part q fun _ => true)

/-- The chain cues of a partition's privileged streams that have work to place. -/
def chainCues (s : State) (p : Nat) : List CueRun :=
  s.cues.filter fun q => isChain s q.src && (ctxOf s q.cid).part == p && ctxLive s q.cid && (q.stage == .running || cueReady s q)

/-! ## Images (R340, R343) -/

/-- Write an image (R340): its pages are the partition's first free ones, written in order and charged to the partition's
Loft regulator (R352). -/
def addImage (s : State) (kind : WorkKind) (cid uid : Nat) (bytes : List Byte) : State :=
  let p := (ctxOf s cid).part
  let pages := (freeSavePages s p).take (imagePages bytes.length)
  let i : SaveImage := ⟨s.nextImage, kind, cid, uid, p, pages, false⟩
  let s := ((upTo pages.length).zip pages).foldl (fun s x =>
    memWrite s (saveBase s + 4096 * x.2) ((bytes.drop (4096 * x.1)).take 4096)) s
  let s := charge s p 1 bytes.length
  showSave { s with images := s.images ++ [i], nextImage := s.nextImage + 1 }

/-- The thread control of a thread: 192 bytes (R340). The spec gives the parts of a workgroup's image and not their places
(DESIGN CHOICE, log 29, here and below). -/
def threadImage (g : Group) (i : Nat) (t : Thread) : List Byte :=
  let st := match t.stat with
    | .run => (0, 0, 0)
    | .bar b n w => (1 + b2n n, b, w)
    | .matrix w => (3, 0, w)
    | .parked since => (4, 0, since)
    | .exited => (5, 0, 0)
  padTo 192 (leBytes 8 t.pc ++ padTo 96 (t.rets.flatMap (leBytes 6)) ++
    padTo 64 (t.joins.flatMap fun j => leBytes 6 j.addr ++ leBytes 2 j.id) ++ leBytes 1 t.preds ++
    leBytes 1 t.rets.length ++ leBytes 1 t.joins.length ++ leBytes 1 st.1 ++ leBytes 1 st.2.1 ++ leBytes 8 st.2.2 ++
    leBytes 8 t.last ++ leBytes 1 (match g.region with | some m => b2n (bit m i) | none => 0))

/-- A group's part of the image: thread control, then the registers. -/
def groupImage (w : Wg) (g : Group) : List Byte :=
  (((upTo 32).zip g.threads).flatMap fun p => threadImage g p.1 p.2) ++
    (upTo w.nregs).flatMap fun r => g.threads.flatMap fun t => leBytes 4 (mget 0 t.regs r).toNat

/-- The image of a workgroup (R340): the header, its groups, its local store. -/
def wgBytes (w : Wg) (gs : List Group) : List Byte :=
  let record := leBytes 8 w.entry ++ leBytes 8 w.param ++ leBytes 4 w.gridX ++ leBytes 4 w.gridY ++ leBytes 4 w.gridZ ++
    leBytes 1 w.groups ++ leBytes 1 (w.nregs / 8) ++ leBytes 1 w.split ++ leBytes 1 0 ++ leBytes 4 (1024 * w.localKib)
  let bar := fun (b : Barrier) =>
    leBytes 1 (match b.scope with | none => 2 | some k => k) ++ leBytes 2 b.arrived.length ++ leBytes 2 b.ahead.length
  padTo 512 (leBytes 1 w.split ++ padTo 64 record ++ leBytes 8 w.index ++ w.bars.flatMap bar) ++
    gs.flatMap (groupImage w) ++ mgets 0 w.store 0 (1024 * w.localKib)

/-- The image of a copy (R340): its record, its context and the offset of its next chunk, in 64 bytes. -/
def copyBytes (cid : Nat) (c : CopySt) : List Byte :=
  padTo 64 (leBytes 8 c.src ++ leBytes 8 c.dst ++ leBytes 8 c.len ++ leBytes 8 0 ++ leBytes 2 cid ++ leBytes 6 0 ++
    leBytes 8 c.done)

/-- Whether a workgroup is at an instruction boundary with nothing outstanding, and not halted by a fault. -/
def wgAtPoint (s : State) (c : Nat) (w : Wg) : Bool :=
  let gs := (coreOf s c).groups.filter (·.wg == w.id)
  gs.all fun g => !g.halted && !s.reqs.any fun r => r.core == c && r.slot == g.slot

/-- Save a workgroup (R340, R342). Its stores leave the L1, so that the core it resumes on reads them (R97). -/
def saveWg (s : State) (c : Nat) (w : Wg) : State :=
  if !wgAtPoint s c w then s
  else
    let s := cleanLines s (c + 1) fun _ => true
    let gs := (coreOf s c).groups.filter (·.wg == w.id)
    let s := { s with savedWgs := s.savedWgs ++ [⟨s.nextImage, w, gs⟩] }
    let s := addImage s .workgroup w.cid w.uid (wgBytes w gs)
    showCore (modCore s c fun k => dropWgs (·.id == w.id) k) c

/-- Save an operation that stands at a tile boundary, or between pairs while it waits for link credits (R148): what the
Prompters hold for it, and what they have read ahead on its engines, is discarded, and its engines are free. Link credits
that it reserved and has not used return to its partition's pool (R339 step 4, R408): the pairs handed over and not yet sent
keep theirs, and nothing else is reserved between commands. -/
def saveOp (s : State) (o : TensorOp) : State :=
  if o.stage ≠ .boundary ∧ o.stage ≠ .gang ∧ !routeWaits s o then s
  else
    let id := s.nextImage
    let s := idleTe (addImage s .tensor o.cid o.uid (tensorImage o)) o
    let mine := fun (a : Agent) => match a with | .prompter c _ _ => o.cores.contains c | _ => false
    { s with
      tensors := mapWhere (·.uid == o.uid)
        (fun o => { o with stage := .saved id, cores := [], ob0 := [], ob1 := [], ahead := [] }) s.tensors
      prefetched := s.prefetched.filter fun n => !o.cores.contains n.core
      helds := s.helds.filter fun h => !mine h.agent }

/-- Save a copy at a chunk boundary (R280, R340). -/
def saveCopy (s : State) (c : CopySt) : State :=
  let cid := cidOfCue s c.uid
  let s := unhold (addImage s .copy cid c.uid (copyBytes cid c)) (.copy c.uid)
  { s with copies := mapWhere (·.uid == c.uid) (fun c => { c with stopped := true }) s.copies }

/-- Take everything a request asks for that stands at its point (R338, R339 steps 3 to 6). The raster block stops at a
flush point by its own step. -/
def takeWork (s : State) (q : Preempt) : State :=
  let s := (q.wgs s).foldl (fun s p => saveWg s p.1 p.2) s
  let s := (q.ops s).foldl saveOp s
  (q.copies s).foldl saveCopy s

/-- A request whose work has all stopped is complete (R339, R345): pre-emptions are counted, the context's slice ends when
it holds no work any more, and after a request made at the slice's end the `late` beats since then are debt. -/
def finishPreempt (late : Nat) (s : State) (q : Preempt) : State :=
  if q.busy s then s
  else
    let s := { s with preempts := dropFirst (· == q) s.preempts }
    let s := incSat s (R.SMGR_P_PREEMPTS (q.part s))
    let s := noteIdle (modCtx s q.cid fun c => { c with preempts := satAdd 0xFFFFFFFF c.preempts 1 }) q.cid
    if q.sliceEnd then accrueDebt s q.cid late else s

/-- PREEMPT_POINT_REACHED (R338 to R340, R345): the units that hold work of a context reach their points. Every request in
force for the context takes what stands at its point; those with nothing left are complete. `late` are the beats of the lead
core since the context's slice ended. -/
def execPreemptPointReached (cid : Fin 1024) (late : Nat) (s : State) : Host.Outcome State Fault Refusal :=
  let mine := s.preempts.filter fun q => !q.deferred && q.cid == cid.val
  .next (mine.foldl (finishPreempt late) (mine.foldl takeWork s))

/-- SAVE_PAGES_RELEASED (R341): the deferred requests are retried. -/
def execSavePagesReleased (p : Fin 8) (s : State) : Host.Outcome State Fault Refusal :=
  .next (retryDeferred s p)

/-! ## Resuming (R342, R343) -/

/-- Put a saved workgroup's groups into free slots of a core. -/
def placeSaved (s : State) (c : Nat) (v : SavedWg) : State :=
  let s := acquireL1 s c 3
  let s := if (coreOf s c).split = v.wg.split then s else fset s (cacheInvValid (c + 1)) 1
  showCore (modCore s c fun k =>
    let slots := freeSlots k
    { k with
      split := v.wg.split
      nextWg := k.nextWg + 1
      wgs := k.wgs ++ [{ v.wg with id := k.nextWg }]
      groups := k.groups ++ (upTo v.groups.length).zipWith (fun i g =>
        { g with slot := slots.getD i 0, wg := k.nextWg }) v.groups }) c

/-- The first saved workgroup that a core can take (R337, R342): of its partition and split, with room, and the next of its
kind to be placed there. A pass that is to yield goes on with its own workgroups (R338). -/
def resumable (s : State) (c : Nat) : Option SavedWg :=
  s.savedWgs.find? fun v =>
    let p := (ctxOf s v.wg.cid).part
    coreTakes s c p && ctxLive s v.wg.cid && !ctxStopping s c v.wg.cid &&
      !(if v.wg.kind = .launch then beingTaken s v.wg.cid .workgroup [c] else passTaken s v.wg.cid c) &&
      wgFits (coreOf s c) v.wg.groups v.wg.nregs v.wg.split v.wg.localKib &&
      match cueOf s v.wg.uid with
      | some q => homeOk s q.src c && mayPlace s p v.wg.cid q.src .workgroup c
      | none => false

/-- Resume a workgroup on a core. An image with an uncorrectable error is not resumed: its context faults, and its pages stay
held until the context is destroyed (R333, R343). R107 names no SLOT, LANE or PC for that fault: the record holds 0xFF, 0xFF
and the workgroup's entry address (DESIGN CHOICE, log 50). -/
def resumeWg (s : State) (c : Nat) (v : SavedWg) (ecc : Ecc) : State :=
  let s := { s with savedWgs := s.savedWgs.filter (·.image != v.image) }
  if imageBad s v.image ecc then
    let r := faultRec cMemUe (lcoreOf s c) c v.wg.cid 0xFF 0xFF v.wg.entry none 0 false
    reportFault s v.wg.cid r (some v.wg.uid)
  else startSlice (dropImage (placeSaved (charge s (ctxOf s v.wg.cid).part 1 (wgImage v.wg)) c v) v.image) v.wg.cid

/-- Resume the oldest saved copy of a partition that may run. -/
def resumeCopy (s : State) (p : Nat) (ecc : Ecc) : State :=
  let fits := fun (k : CopySt) =>
    let cid := cidOfCue s k.uid
    k.stopped && (ctxOf s cid).part == p && ctxLive s cid && !beingTaken s cid .copy []
  match s.copies.find? fits with
  | none => s
  | some k =>
    match s.images.find? fun i => i.uid == k.uid && i.kind == .copy with
    | none => s
    | some i =>
      if imageBad s i.id ecc then
        imageFault { s with copies := s.copies.filter (·.uid != k.uid) } (cidOfCue s k.uid) k.uid 0xF9
          (((cueOf s k.uid).map cuePc).getD 0) 0
      else
        let s := { s with copies := mapWhere (·.uid == k.uid) (fun c => { c with stopped := false }) s.copies }
        startSlice (dropImage (charge s p 1 copyImage) i.id) i.cid

/-- WORK_RESUME (R337, R342, R343, R434): a saved workgroup that the core, when it is up, can take, or else the oldest saved
copy of its partition. -/
def execWorkResume (c : Fin 17) (ecc : Ecc) (s : State) : Host.Outcome State Fault Refusal :=
  match partOfCore s c with
  | none => .next s
  | some p =>
    let s := noteAll s p
    match resumable s c with
    | some v => .next (whenUp s [dCore + c.val] (resumeWg s c v ecc))
    | none => .next (resumeCopy s p ecc)

end Sys2Proof.Machine
end

