-- ==== Sys2Proof/Machine/Pit.lean ====
section
/-! DEFINITION. The Pit (spec/05_the_pit.md): serial audio ports, camera receivers, the block cycle, chains, arming and
disarming. Replay stands with core takeover. -/

namespace Sys2Proof.Machine

open Sys2Proof

/-! ## Ports (R179 to R181) -/

/-- Fields of a port's configuration word. -/
def cMode (v : Nat) : Nat := bits v 1 0
def cRole (v : Nat) : Nat := bits v 2 2
def cFamily (v : Nat) : Nat := bits v 3 3
def cMult (v : Nat) : Nat := bits v 5 4
def cSrc (v : Nat) : Nat := bits v 14 13

/-- The configuration written to a port, and the one in force. -/
def sapCfg (s : State) (p : Nat) : Nat := rdN s (R.PIT_SAP_CFG p)
def sapOf (s : State) (p : Nat) : SapPort := mget SapPort.idle s.saps p
def modSap (s : State) (p : Nat) (f : SapPort → SapPort) : State := { s with saps := mmod SapPort.idle s.saps p f }
def sapForce (s : State) (p : Nat) : Nat := (sapOf s p).force

/-- The clock source of a port under a configuration. -/
def clockSrc (cfg : Nat → Nat) (p : Nat) : Nat := cSrc (cfg p)

/-- Slots in a port's frame: two in I2S, SLOTS in TDM, none when off or reserved (R179). -/
def slotsOf (v : Nat) : Nat :=
  if cMode v = 1 then 2 else if cMode v = 2 ∧ bits v 8 6 ≤ 4 then 2 ^ (1 + bits v 8 6) else 0

/-- Whether a port's slots respect R180 at its source's rate. -/
def slotsFit (s : State) (p : Nat) : Bool :=
  let m := cMult (sapCfg s (clockSrc (sapCfg s) p))
  let n := slotsOf (sapCfg s p)
  decide (m ≤ 2) && decide (0 < n) && decide (n ≤ 32 / 2 ^ m)

/-- Frames per second of a port (R179). -/
def frameRate (s : State) (p : Nat) : Nat :=
  let v := sapCfg s (clockSrc (sapCfg s) p)
  (if cFamily v = 0 then 48000 else 44100) * 2 ^ cMult v

/-! ## Stream parameters (R183, R184) -/

def stOutPort (s : State) (n : Nat) : Nat := fget s (F.PIT_S_CFG.OUT_PORT n)
def stOutEn (s : State) (n : Nat) : Bool := fbit s (F.PIT_S_CFG.OUT_EN n)
def stFirst (s : State) (n : Nat) : Nat := fget s (F.PIT_S_CFG.FIRST_SLOT n)
def stOutSlot (s : State) (n : Nat) : Nat := fget s (F.PIT_S_OWNER.OUT_SLOT n)
def stCh (s : State) (n : Nat) : Nat := fget s (F.PIT_S_CFG.CHANNELS n)
def stN (s : State) (n : Nat) : Nat := 8 * 2 ^ fget s (F.PIT_S_CFG.BLOCK n)
def stFmt (s : State) (n : Nat) : Nat := fget s (F.PIT_S_CFG.FORMAT n)
def stLine (s : State) (n : Nat) : Nat := fget s (F.PIT_S_VIDEO.LINE_BYTES n)
def stBytes (s : State) (n : Nat) : Nat := fget s (F.PIT_S_STATE_BYTES.STATE_BYTES n)
def stHome (s : State) (n : Nat) : Nat := fget s (F.PIT_S_OWNER.HOME_CORE n)
def stGen (s : State) (n : Nat) : Nat := fget s (F.PIT_S_STATE.GEN n)
def stPages (s : State) (n : Nat) : List HeldPage := heldPages s (.pit n)
def outAddr (s : State) (n p : Nat) : Nat := pairAddr s (if p % 2 = 0 then R.PIT_S_OUT0_LO n else R.PIT_S_OUT1_LO n)
def stateAddr (s : State) (n p : Nat) : Nat := pairAddr s (if p % 2 = 0 then R.PIT_S_STATE0_LO n else R.PIT_S_STATE1_LO n)
def chainAddr (s : State) (n p : Nat) : Nat := pairAddr s (if p % 2 = 0 then R.PIT_S_CHAIN0_LO n else R.PIT_S_CHAIN1_LO n)

/-- Bytes of a sample in a buffer. -/
def sampleBytes (fmt : Nat) : Nat := if fmt ≤ 1 then 4 else 2

/-- Bytes of one input or output block. -/
def blockBytes (s : State) (n : Nat) : Nat :=
  if stIsSap s n then stN s n * stCh s n * sampleBytes (stFmt s n) else stN s n * stLine s n

/-- The byte offset of element [t][c] of a block (R184). -/
def elemOff (s : State) (n t c : Nat) : Nat :=
  sampleBytes (stFmt s n) * (if fbit s (F.PIT_S_CFG.LAYOUT n) then c * stN s n + t else t * stCh s n + c)

/-! ## Samples (R185) -/

/-- The number format of FORMAT 1 to 3. -/
def sampleFmt (fmt : Nat) : Fmt := match fmt with | 1 => fmtFp32 | 2 => fmtBf16 | _ => fmtFp16

/-- A slot value as stored in a buffer: unchanged, or v * 2^-31 rounded once to the format. -/
def sampleIn (fmt v : Nat) : Nat :=
  if fmt = 0 then v
  else
    let i := sx 32 v
    ((ETy.flt (sampleFmt fmt)).round .rne (.fin (decide (i < 0)) i.natAbs (-31))).1

/-- A buffer's element as sent: NaN is 0; another value is rounded to a multiple of 2^-31 and clamped. -/
def sampleOut (fmt x : Nat) : Nat :=
  if fmt = 0 then x
  else
    match (sampleFmt fmt).decode x with
    | .nan => 0
    | .inf neg => if neg then 2 ^ 31 else 2 ^ 31 - 1
    | .fin neg m e => ((ETy.int 32).round .rne (.fin neg m (e + 31))).1

/-! ## Block information, state copies, boundaries (R188 to R196) -/

/-- Write the block information of the block in processing. -/
def writeInfo (s : State) (n : Nat) : State :=
  match (streamOf s n).proc with
  | none => s
  | some b => pitWrite s n (pairAddr s (R.PIT_S_INFO_LO n)) (infoBytes s n b)

/-- Copy STATE(GEN) to STATE(to) when a dropped block left it behind (R196): whether it did. -/
def carryState (s : State) (n place : Nat) : State × Bool :=
  if stGen s n = place % 2 ∨ stBytes s n = 0 then (s, false)
  else
    match pitRead s n (stateAddr s n (stGen s n)) (stBytes s n) with
    | (s, none) => (s, false)
    | (s, some d) =>
      let s := pitWrite s n (stateAddr s n place) d
      if streamState s n = sFaulted then (s, false) else (fset s (F.PIT_S_STATE.GEN n) (place % 2), true)

/-- Block `b` goes into processing at its boundary (R189): the state copy of a stream that is not privileged, the block
information, and the head cue to be submitted. -/
def startBlock (s : State) (n b first lines : Nat) (zero : Bool) : State :=
  let p := if streamPriv s n then (s, (streamOf s n).carried) else carryState s n b
  if streamState p.1 n = sFaulted then p.1
  else
    let s := modStream p.1 n fun q =>
      { q with proc := some ⟨b, first, lines, zero, p.2, false, true, false, false, [], 0, 0⟩, carried := false }
    writeInfo s n

/-- A stream becomes IDLE: its translations are released and its slots carry zero. -/
def goIdle (s : State) (n : Nat) : State :=
  unhold (modStream (fset s (F.PIT_S_STATE.STATE n) sIdle) n fun _ => PitStream.idle) (.pit n)

/-- A chain is complete (R195, R198, R207): its block commits, GEN names the state it wrote. -/
def commitBlock (s : State) (n : Nat) (b : PitBlock) : State :=
  let s := fset s (F.PIT_S_STATE.GEN n) ((b.n + 1) % 2)
  let s := modStream s n fun p => { p with proc := some { b with complete := true }, dropped := 0 }
  let s := if b.late && !streamPriv s n then pitRaise s n (E.PIT_S_STATUS.DEADLINE n) else s
  s

/-- Read the samples of a channel list of an output frame (R184, R185, R190): none where a read fails. -/
def readSamples (n ph t : Nat) : State → List Nat → State × Option (List Nat)
  | s, [] => (s, some [])
  | s, c :: cs =>
    let b := sampleBytes (stFmt s n)
    match pitRead s n (outAddr s n ph + elemOff s n t c) b with
    | (s, none) => (s, none)
    | (s, some bs) =>
      let r := readSamples n ph t s cs
      (r.1, r.2.map (sampleOut (stFmt s n) (leNat bs) :: ·))

/-- Read output frame `t` of a block, one frame ahead of the frame that sends it (R190). -/
def readFrame (s : State) (n ph t : Nat) : State :=
  if !stOutEn s n then s
  else
    let r := readSamples n ph t s (upTo (stCh s n))
    modStream r.1 n fun p => { p with ahead := r.2 }

/-- The output point (R190, R197, R209): a complete block will be sent, and its first frame is read; any other is dropped,
its cues aborted, FILL sent in its place, UNDERRUN set, and the state carried on for a privileged stream. -/
def outputPoint (s : State) (n : Nat) : State :=
  match (streamOf s n).proc with
  | none => s
  | some b =>
    if b.complete then readFrame (modStream s n fun p => { p with proc := none, nextOut := .block (b.n % 2) }) n b.n 0
    else
      let s := stopCues s (·.src == .stream n) cDeadline
      let s := { s with follows := s.follows.filter (·.src != .stream n) }
      let s := modStream s n fun p => { p with proc := none, nextOut := .fill, dropped := satAdd 0xFFFF p.dropped 1 }
      let s := pitRaise s n (E.PIT_S_STATUS.UNDERRUN n)
      if !streamPriv s n then s
      else
        let s := showEvent s (streamEv s n b.n cUnderrun 3 [])
        let s := showEvent s (streamEv s n b.n cDeadline 3 [])
        let p := carryState s n (b.n + 1)
        modStream p.1 n fun q => { q with carried := q.carried || p.2 }

/-- The boundary at the end of the block being filled (R188, R189, R205): `first'` is where the next block begins. -/
def boundary (s : State) (n first' : Nat) : State :=
  let s := outputPoint s n
  let p := streamOf s n
  let live := streamState s n != sFaulted
  let s := if live then modStream s n fun p => { p with out := p.nextOut, nextOut := .zero } else s
  if !live then s
  else if streamState s n = sDisarming then
    if p.nextOut = .zero ∨ !stOutEn s n then goIdle s n
    else modStream s n fun p => { p with draining := true, t := 0 }
  else
    let s := startBlock s n p.block p.first p.t p.zero
    let s := modStream s n fun q =>
      { q with
        block := p.block + 1
        t := 0
        first := first'
        zero := false
        missing := [] }
    let s := if streamState s n = sFaulted then s else fset s (F.PIT_S_STATE.STATE n) sRunning
    wr64 s (R.PIT_S_BLOCK_LO n) (p.block + 1)

/-! ## Frames of a clock group (R181, R183, R184, R188 to R191) -/

/-- Store one input frame of a stream: frame `t` of the block being filled. -/
def storeFrame (s : State) (n : Nat) (slots : List Nat) (lost : Bool) : State :=
  let p := streamOf s n
  let zero := lost || p.fifoLost
  let s := (upTo (stCh s n)).foldl (fun s c =>
    let v := if zero then 0 else slots.getD (stFirst s n + c) 0
    pitWrite s n (inAddr s n p.block + elemOff s n p.t c)
      (leBytes (sampleBytes (stFmt s n)) (sampleIn (stFmt s n) v))) s
  modStream s n fun p => { p with t := p.t + 1, zero := p.zero || zero, fifoLost := false }

/-- What FILL sends: zero, or each channel's last sent sample (R197). -/
def fillSamples (s : State) (n : Nat) : List Nat :=
  (upTo (stCh s n)).map fun c => if fbit s (F.PIT_S_CFG.FILL n) then (streamOf s n).last.getD c 0 else 0

/-- What a stream sends in the frame that starts, channel by channel; FILL where the frame could not be read (R187). -/
def outSamples (s : State) (n : Nat) : List Nat :=
  match (streamOf s n).out with
  | .zero => (upTo (stCh s n)).map fun _ => 0
  | .fill => fillSamples s n
  | .block _ => (streamOf s n).ahead.getD (fillSamples s n)

/-- Send a stream's samples, unless the word clock is lost (R213), and read the frame that the next one sends (R190). -/
def sendFrame (s : State) (n : Nat) (lost : Bool) : State :=
  if !stOutEn s n then s
  else
    let xs := outSamples s n
    let s :=
      if lost then s
      else ((upTo xs.length).zip xs).foldl (fun s q => send s (.samples (stOutPort s n) (stOutSlot s n + q.1) q.2))
        (modStream s n fun q => { q with last := xs })
    match (streamOf s n).out with
    | .block ph => if (streamOf s n).t + 1 < stN s n then readFrame s n ph ((streamOf s n).t + 1) else s
    | _ => s

/-- Whether an armed stream drives an output slot (R183). -/
def slotDriven (s : State) (q k : Nat) : Bool :=
  (upTo 32).any fun n => streamArmed s n && stIsSap s n && stOutEn s n && stOutPort s n == q &&
    inRange k (stOutSlot s n) (stCh s n)

/-- The output slots of ports that no armed stream drives carry zero (R183). -/
def sendZeros (s : State) (ports : List Nat) : State :=
  let open_ := ports.flatMap fun q =>
    ((upTo (slotsOf (sapForce s q))).filter fun k => !slotDriven s q k).map fun k => (q, k)
  open_.foldl (fun s p => send s (.samples p.1 p.2 0)) s

/-- One frame start for one SAP stream: `slots` is the frame that ended, `now` the frame counter. -/
def streamFrame (slots : Nat → List Nat) (lost : Bool) (now : Nat) (s : State) (n : Nat) : State :=
  let p := streamOf s n
  let st := streamState s n
  let s :=
    if st = sFaulted ∨ p.forced then s
    else if p.draining then
      if p.t + 1 = stN s n then goIdle s n else modStream s n fun p => { p with t := p.t + 1 }
    else if !p.begun then modStream s n fun p => { p with begun := true, t := 0, first := now }
    else
      let s := storeFrame s n (slots (stPort s n)) lost
      if p.t + 1 = stN s n ∧ streamState s n ≠ sFaulted then boundary s n now else s
  if streamArmed s n then sendFrame s n lost else s

/-- The armed SAP streams of a clock group. -/
def groupStreams (s : State) (p : Nat) : List Nat :=
  (upTo 32).filter fun n => streamArmed s n && stIsSap s n && clockSrc (sapForce s) (stPort s n) == p

/-- FRAME_START (R181, R183 to R191, R213): port configurations written take effect, the counter of the group counts, the
frame that ended is stored and the one that starts is sent, with zero in the slots no armed stream drives. `ins` lists the
slots received by each port. Nothing is counted while the source's MODE is 0, and nothing sent while the word clock is
lost. -/
def execFrameStart (p : Fin 4) (ins : List (List (BitVec 32))) (s : State) : Host.Outcome State Fault Refusal :=
  let mine := (upTo 4).filter fun q => clockSrc (sapForce s) q == p.val || q == p.val
  let old := groupStreams s p
  let s := mine.foldl (fun s q => modSap s q fun a => { a with force := sapCfg s q }) s
  if clockSrc (sapForce s) p ≠ p.val ∨ cMode (sapForce s p) = 0 then .next s
  else
    let lost := fbit s (F.PIT_SAP_STATUS.LOST p)
    let s := incWrap s (R.PIT_SAP_FRAME p)
    let slots := fun (q : Nat) => (ins.getD q []).map (·.toNat)
    let now := rdN s (R.PIT_SAP_FRAME p)
    let ns := (upTo 32).filter fun n => old.contains n || (groupStreams s p).contains n
    let s := ns.foldl (streamFrame slots lost now) s
    .next (if lost then s else sendZeros s (mine.filter fun q => clockSrc (sapForce s) q == p.val))

/-- Whether a port is in use (R181): an armed stream names it, or it is the clock source of one that is. -/
def namesPort (s : State) (n p : Nat) : Bool :=
  streamArmed s n && ((stIsSap s n && stPort s n == p) || (stOutEn s n && stOutPort s n == p))
def portInUse (s : State) (p : Nat) : Bool :=
  (upTo 32).any fun n => namesPort s n p || (upTo 4).any fun q => namesPort s n q && clockSrc (sapCfg s) q == p

/-- SAP_CFG_WRITE (R181, R513): refused while the port is in use; else written, to take effect at the next frame start. A
mode other than 0 gives the port's balls to it. -/
def execSapCfgWrite (p : Fin 4) (v : BitVec 32) (s : State) : Host.Outcome State Fault Refusal :=
  regCmd s dPit <|
  if portInUse s p then .next (raise s (E.PIT_SAP_STATUS.CFG_REFUSED p))
  else
    .next (modBoot (wrN s (R.PIT_SAP_CFG p) (v.toNat &&& 0x37FFF)) fun b =>
      { b with balls := b.balls.set p (if cMode v.toNat = 0 then 1 else 2) })

/-- WORD_CLOCK_LOST (R213): a slave-clocked group has had no FSYNC edge for 2 frame periods. Which ports of the group show it
is not stated: CLOCK_LOST and LOST are set in the port that is its clock source (DESIGN CHOICE, log 47). -/
def execWordClockLost (p : Fin 4) (s : State) : Host.Outcome State Fault Refusal :=
  let v := sapForce s p
  if cSrc v ≠ p.val ∨ cRole v = 0 ∨ cMode v = 0 ∨ fbit s (F.PIT_SAP_STATUS.LOST p) then .next s
  else
    .next (modSap (fset (raise s (E.PIT_SAP_STATUS.CLOCK_LOST p)) (F.PIT_SAP_STATUS.LOST p) 1) p
      fun a => { a with good := 0 })

/-- FSYNC_EDGE_WHILE_LOST (R213): the fourth good period in a row regains the word clock. -/
def execFsyncEdgeWhileLost (p : Fin 4) (good : Bool) (s : State) : Host.Outcome State Fault Refusal :=
  if !fbit s (F.PIT_SAP_STATUS.LOST p) then .next s
  else if !good then .next (modSap s p fun a => { a with good := 0 })
  else if (sapOf s p).good + 1 < 4 then .next (modSap s p fun a => { a with good := a.good + 1 })
  else .next (modSap (fset s (F.PIT_SAP_STATUS.LOST p) 0) p fun a => { a with good := 0 })

/-! ## Camera receivers (R182, R184, R188) -/

/-- The accepted data types: RAW8, RAW10, RAW12, YUV422 8-bit, RGB888. PRESUMED: their codes are those of MIPI CSI-2. -/
def csiTypes : List Nat := [0x2A, 0x2B, 0x2C, 0x1E, 0x24]

/-- The armed streams of a receiver and virtual channel that take lines. -/
def csiStreams (s : State) (c vc : Nat) : List Nat :=
  (upTo 32).filter fun n =>
    let st := streamState s n
    (st == sArmed || st == sRunning || st == sDisarming) && !(streamOf s n).forced && stPort s n == 4 + c &&
      fget s (F.PIT_S_VIDEO.VC n) == vc

/-- Missing lines are written as zeros and counted when the block completes (R182). -/
def fillMissing (s : State) (n : Nat) : State :=
  let p := streamOf s n
  p.missing.foldl (fun s i =>
    let s := pitWrite s n (inAddr s n p.block + i * stLine s n) (List.replicate (stLine s n) 0)
    modStream (lineLost s n) n fun p => { p with zero := true }) s

/-- The end of a CSI block: the next begins at line `first'` of the frame. -/
def csiBoundary (s : State) (n first' : Nat) : State :=
  let s := fillMissing s n
  if streamState s n = sFaulted then s else boundary s n first'

/-- A line, or a missing one, of a stream. -/
def csiLine (data : Option (List Byte)) (s : State) (n : Nat) : State :=
  let p := streamOf s n
  if !p.begun ∨ streamState s n = sFaulted then s
  else
    let s := match data with
      | some d => pitWrite s n (inAddr s n p.block + p.t * stLine s n) (d.take (stLine s n))
      | none => modStream s n fun p => { p with missing := p.missing ++ [p.t] }
    let s := modStream s n fun p => { p with t := p.t + 1 }
    if p.t + 1 = stN s n then csiBoundary s n (p.first + p.t + 1) else s

/-- A corrected header of an accepted packet is counted (R182). -/
def headerSeen (s : State) (c : Nat) (vc : Fin 16) (corrected : Bool) : State :=
  if corrected ∧ vc.val < 4 then raise s (E.PIT_CSI_STATUS.HDR_CORR c) else s

/-- CSI_PACKET (R182, R184, R188): what a camera receiver gets. -/
def execCsiPacket (c : Fin 2) (pkt : CsiPkt) (s : State) : Host.Outcome State Fault Refusal :=
  if !fbit s (F.PIT_CSI_CFG.EN c) then .next s
  else match pkt with
    | .frameStart vc corrected =>
      .next ((csiStreams s c vc).foldl (fun s n =>
        modStream s n fun p => { p with begun := true, first := if p.t = 0 then 0 else p.first }) (headerSeen s c vc corrected))
    | .frameEnd vc corrected =>
      let s := headerSeen s c vc corrected
      let s := if vc.val < 4 then incWrap s (R.PIT_CSI_FRAME c) else s
      .next ((csiStreams s c vc).foldl (fun s n => if (streamOf s n).t = 0 then s else csiBoundary s n 0) s)
    | .lineSync vc corrected => .next (headerSeen s c vc corrected)
    | .headerBad => .next s
    | .lineMissing vc dt =>
      .next (((csiStreams s c vc).filter fun n => fget s (F.PIT_S_VIDEO.DT n) == dt.val).foldl (csiLine none) s)
    | .line vc dt corrected crcBad data =>
      if 4 ≤ vc.val ∨ !csiTypes.contains dt.val then .next s
      else
        let s := headerSeen s c vc corrected
        let s := if crcBad then raise s (E.PIT_CSI_STATUS.CRC_ERR c) else s
        .next (((csiStreams s c vc).filter fun n => fget s (F.PIT_S_VIDEO.DT n) == dt.val).foldl (csiLine (some data)) s)

/-! ## Chains (R189, R193, R195, R350) -/

/-- Whether any cue or follow-on of a stream is still in the machine. -/
def chainBusy (s : State) (n : Nat) : Bool :=
  s.cues.any (·.src == .stream n) || s.follows.any (·.src == .stream n)

/-- The frames of a stream's clock to the output point of its block in processing, in units of 1/28,224,000 s, of which every
frame rate of R179 divides a second into whole ones (R190). -/
def outputDue (s : State) (n : Nat) : Nat := (stN s n - 1 - (streamOf s n).t) * (28224000 / frameRate s (stPort s n))

/-- Whether another chain of the same HOME_CORE is to be replayed first (R207). -/
def replayBefore (s : State) (n : Nat) (b : PitBlock) : Bool :=
  b.replay && (upTo 32).any fun m => stHome s m == stHome s n && streamPriv s m &&
    match (streamOf s m).proc with
    | some q => q.replay && q.head && decide (q.turn < b.turn)
    | none => false

/-- CHAIN_HEAD_ISSUE (R189, R193, R197, R207, R350): the head cue of the block in processing is submitted as a follow-on of
the stream's context, once no cue of the stream is left; a privileged stream pre-empts what holds its resources, and replays
go in their order. -/
def execChainHeadIssue (n : Fin 32) (s : State) : Host.Outcome State Fault Refusal :=
  match (streamOf s n).proc with
  | none => .next s
  | some b =>
    if !b.head || chainBusy s n || replayBefore s n b then .next s
    else
      let ph := b.n % 2
      match pitRead s n (chainAddr s n ph) 64 with
      | (s, none) => .next s
      | (s, some raw) =>
        let run := fetchedCue s s.nextUid (.stream n) none (streamCid s n) ph true raw
        let s := modProc { s with cues := s.cues ++ [run], nextUid := s.nextUid + 1 } n fun b => { b with head := false, headUid := run.uid }
        let s := noteReady s run.cid
        .next (if streamPriv s n && run.stage == .waiting then chainPreempt s run else s)

/-- CHAIN_COMPLETE (R193, R195, R198, R207, R215): a cue of the chain has completed with no follow-on pending, `beats` after
its head cue issued. -/
def execChainComplete (n : Fin 32) (beats : Nat) (s : State) : Host.Outcome State Fault Refusal :=
  match (streamOf s n).proc with
  | none => .next s
  | some b =>
    if b.head || b.complete || chainBusy s n then .next s
    else
      let s := commitBlock s n b
      if !streamPriv s n then .next s
      else
        let s := wrN s (R.PIT_S_PEAK n) (max (rdN s (R.PIT_S_PEAK n)) (min beats 0xFFFFFFFF))
        if !b.replay then .next s
        else .next (showEvent (pitRaise s n (E.PIT_S_STATUS.REPLAYED n)) (streamEv s n b.n cReplayed 1 b.cores))

/-- OUTPUT_POINT (R190, R197): N - 1 frames after the boundary, and in no other frame. A CSI stream's output point is its
next boundary. -/
def execOutputPoint (n : Fin 32) (s : State) : Host.Outcome State Fault Refusal :=
  .next (if stIsSap s n && (streamOf s n).t + 1 == stN s n then outputPoint s n else s)

/-! ## Arming (R200, R201) -/

abbrev cBudget : Nat := 0x0604
abbrev cStreamConfig : Nat := 0x0605
abbrev cPitNoRoom : Nat := 0x0606

/-- Whether a port's clock source is its own (R181). -/
def sourceOk (s : State) (p : Nat) : Bool :=
  let q := clockSrc (sapCfg s) p
  clockSrc (sapCfg s) q == q

/-- Whether another armed stream drives one of the output slots (R183). -/
def slotsClash (s : State) (n : Nat) : Bool :=
  (upTo 32).any fun m => m != n && streamArmed s m && stOutEn s m && stOutPort s m == stOutPort s n &&
    overlaps (stOutSlot s m) (stCh s m) (stOutSlot s n) (stCh s n)

/-- The SAP half of the configuration check (R180, R181, R183). -/
def sapConfigOk (s : State) (n : Nat) : Bool :=
  let p := stPort s n
  let q := stOutPort s n
  let ch := stCh s n
  sourceOk s p && slotsFit s p && slotsFit s (clockSrc (sapCfg s) p) && rng 1 ch 32 &&
    decide (stFirst s n + ch ≤ slotsOf (sapCfg s p)) &&
    (!stOutEn s n || (clockSrc (sapCfg s) q == clockSrc (sapCfg s) p && slotsFit s q &&
      decide (stOutSlot s n + ch ≤ slotsOf (sapCfg s q)) && !slotsClash s n))

/-- The areas of a stream in register order (R200 step 2): address, bytes, alignment, whether it is written. -/
def areas (s : State) (n : Nat) : List (Nat × Nat × Nat × Bool) :=
  let b := blockBytes s n
  [(inAddr s n 0, b, 64, true), (inAddr s n 1, b, 64, true)] ++
    (if stOutEn s n then [(outAddr s n 0, b, 64, false), (outAddr s n 1, b, 64, false)] else []) ++
    (if stBytes s n = 0 then [] else [(stateAddr s n 0, stBytes s n, 64, true), (stateAddr s n 1, stBytes s n, 64, true)]) ++
    [(chainAddr s n 0, 64, 64, false), (chainAddr s n 1, 64, 64, false), (pairAddr s (R.PIT_S_INFO_LO n), 16, 16, true),
      (pairAddr s (R.PIT_S_CRING_LO n), 32 * 2 ^ fget s (F.PIT_S_CRING_SIZE.CRING_LOG2 n), 32, true)]

/-- The current operating point. -/
def curOp (s : State) : Nat := fget s F.PWR_STATE.CUR_OP

/-- The checks of a privileged stream's configuration (R200 step 1). -/
def privConfigOk (s : State) (n : Nat) : Bool :=
  let p := fget s (F.PIT_S_OWNER.PARTITION n)
  let h := stHome s n
  stIsSap s n && partEn s p && partPriv s p && (ctxOf s (streamCid s n)).state != .free &&
    (ctxOf s (streamCid s n)).part == p && bit (partMask s p) h && !bit (rdN s R.SMGR_SC_PENDING) (10 + h) &&
    decide (fget s (F.PIT_S_CFG.FLOOR_OP n) ≤ curOp s)

/-- R200 step 1. What LINE_BYTES of 0 means is not stated: a CSI stream with it is refused (DESIGN CHOICE, log 47). -/
def streamConfigOk (s : State) (n : Nat) : Bool :=
  decide (stPort s n < 6) && decide (fget s (F.PIT_S_CFG.BLOCK n) ≤ 5) &&
    (if stIsSap s n then sapConfigOk s n else !stOutEn s n && decide (0 < stLine s n)) &&
    decide (stBytes s n % 64 = 0) && decide (stBytes s n ≤ 131072) && rng 4 (fget s (F.PIT_S_CRING_SIZE.CRING_LOG2 n)) 12 &&
    (areas s n).all (fun a => a.1 % a.2.2.1 == 0) && (!streamPriv s n || privConfigOk s n)

/-- The check of one page point of an area (R200 step 2). -/
inductive AreaRes where
  | ok (pages : List HeldPage)
  | bad (code : Nat)
  | waits (fn page : Nat)

/-- Check every page of the areas in order: the first failure, a host page to wait for, or the pages held. -/
def checkAreas (s : State) (cid : Nat) (priv : Bool) : List (Nat × Bool) → AreaRes
  | [] => .ok []
  | (va, w) :: rest =>
    match xcheck s cid va (if w then .write else .read) with
    | .fault code => .bad code
    | .waits f g => .waits f g
    | .ok da nc page size pda =>
      if priv && reach s da != .scratch then .bad cOwner
      else match checkAreas s cid priv rest with
        | .ok ps => .ok (⟨page, size, pda, nc⟩ :: ps)
        | r => r

/-- R200 step 3: staging space for the CSI streams, the new one included. -/
def stagingFits (s : State) (n : Nat) : Bool :=
  let ls := (upTo 32).filter fun m => !stIsSap s m && (m == n || streamArmed s m)
  stIsSap s n || decide (4 * sumBy (stLine s) ls + 192 * 1024 ≤ fget s F.LOFT_PIT_SIZE.PIT_MIB * mib)

/-- Guaranteed beats per microsecond at an operating point (R201). -/
def beatsPerUs (op : Nat) : Nat := [620, 760, 950, 1140, 1260, 1380, 1610, 1840].getD op 0

/-- R201: the budget of one stream at `g` beats per microsecond. -/
def budget (s : State) (g n : Nat) : Nat := g * (stN s n / 2 - 1) * 1000000 / frameRate s (stPort s n)

/-- R200 step 4, R201. -/
def budgetOk (s : State) (n : Nat) : Bool :=
  let ms := (upTo 32).filter fun m => streamPriv s m && (m == n || (streamArmed s m && stHome s m == stHome s n))
  let g := beatsPerUs (ms.foldl (fun a m => max a (fget s (F.PIT_S_CFG.FLOOR_OP m))) 0)
  let cost := sumBy (fun m => rdN s (R.PIT_S_CHAIN_BEATS m)) ms +
    max (1240 + partNpl s (fget s (F.PIT_S_OWNER.PARTITION n))) 2480
  ms.all fun m => decide (cost ≤ budget s g m)

/-- An arm is refused (R200): the code is recorded, ARM_REFUSED set, and the stream stays IDLE. -/
def refuseArm (s : State) (n code : Nat) : State :=
  let s := modStream (seeFails s (streamCid s n)) n fun p => { p with arming := false }
  pitRaise (fset s (F.PIT_S_STATE.CODE n) code) n (E.PIT_S_STATUS.ARM_REFUSED n)

/-- A stream is armed (R186, R195, R200): translations are held, GEN, CODE and the counts since arm are cleared. -/
def armStream (s : State) (n : Nat) (pages : List HeldPage) : State :=
  let s := hold s (.pit n) (streamCid s n) pages.eraseDups
  let s := wrN s (R.PIT_S_STATE n) sArmed
  let s := wrN (wr64 (wrN s (R.PIT_S_CRING_WR n) 0) (R.PIT_S_BLOCK_LO n) 0) (R.PIT_S_PEAK n) 0
  modStream s n fun _ => PitStream.idle

/-- The checks of an arm in order (R200, R201); until the Loft is carved the Pit's sub-region answers OWNER_MISMATCH (R44,
log 54). One that needs a host page not yet translated waits for it, and is then made again. -/
def armTry (s : State) (n : Nat) : State :=
  if !streamConfigOk s n then refuseArm s n cStreamConfig
  else
    let g := checkStep s (streamCid s n)
    let pts := (areas s n).flatMap fun a => (checkPoints g a.1 a.2.1).map fun v => (v, a.2.2.2)
    match checkAreas s (streamCid s n) (streamPriv s n) pts with
    | .waits f g => askAts (modStream s n fun p => { p with arming := true }) f g
    | .bad code => refuseArm s n code
    | .ok pages =>
      if !carved s then refuseArm s n cOwner
      else if !stagingFits s n then refuseArm s n cPitNoRoom
      else if streamPriv s n && !budgetOk s n then refuseArm s n cBudget
      else armStream s n pages

/-- Arms that wait for a host translation are tried again (R200). -/
def armWaiting (s : State) : State :=
  ((upTo 32).filter fun n => (streamOf s n).arming).foldl armTry s

/-- STREAM_ARM (R200, R201): the checks; ignored unless the stream is IDLE. -/
def execStreamArm (n : Fin 32) (s : State) : Host.Outcome State Fault Refusal :=
  regCmd s dPit (if streamArmed s n then .next s else .next (armTry s n))

/-- STREAM_DISARM (R205): a FAULTED stream becomes IDLE; an armed or running one disarms at its next boundary. An arm that
still waits is given up. -/
def execStreamDisarm (n : Fin 32) (s : State) : Host.Outcome State Fault Refusal :=
  regCmd s dPit <|
  let s := dropArming s (· == n.val)
  if streamState s n = sFaulted then .next (goIdle s n)
  else if streamState s n = sArmed ∨ streamState s n = sRunning then
    .next (fset s (F.PIT_S_STATE.STATE n) sDisarming)
  else .next s

/-- FORCED_DISARM_DONE (R205): once the stream's cues have stopped, its translations are released and it is IDLE. -/
def execForcedDisarmDone (n : Fin 32) (s : State) : Host.Outcome State Fault Refusal :=
  if (streamOf s n).forced ∧ !chainBusy s n then .next (goIdle s n) else .next s

end Sys2Proof.Machine
end

