-- ==== Sys2Proof/Machine/Pixels.lean ====
section
/-! DEFINITION. Exact arithmetic on numbers, colour formats and blending (spec/06_raster.md R218, R234, R235;
spec/07_proscenium.md R253 to R255). -/

namespace Sys2Proof.Machine

open Sys2Proof

/-! ## Exact sums, products and correctly rounded quotients -/

/-- The value of an fp32 code, and the code nearest to a value. -/
def fv (c : Nat) : Num := fmtFp32.decode c
def r32 (x : Num) : Nat := (rne32 x).1

/-- The number `n`. -/
def Num.ofNat (n : Nat) : Num := .fin false n 0
def Num.ofInt (i : Int) : Num := .fin (decide (i < 0)) i.natAbs 0

/-- The exact sum; opposite infinities give NaN. -/
def Num.add : Num → Num → Num
  | .nan, _ => .nan
  | _, .nan => .nan
  | .inf a, .inf b => if a = b then .inf a else .nan
  | .inf a, .fin .. => .inf a
  | .fin .., .inf b => .inf b
  | .fin a m e, .fin b n f =>
    let d := (Num.fin a m e).dy.add (Num.fin b n f).dy
    if d.m = 0 then .fin (a && b) 0 0 else .fin (decide (d.m < 0)) d.m.natAbs d.e

/-- The exact product; zero times infinity gives NaN. -/
def Num.times (x y : Num) : Num := (x.mul y).getD .nan

/-- The exact difference. -/
def Num.sub (x y : Num) : Num := x.add y.neg

/-- The exact sum of a list. -/
def Num.sum (l : List Num) : Num := l.foldl Num.add .zero

/-- The quotient rounded once to fp32. PRESUMED: quotients by zero and of infinities are those of IEEE 754. -/
def divR (x y : Num) : Nat :=
  match x, y with
  | .nan, _ => fmtFp32.nanCode
  | _, .nan => fmtFp32.nanCode
  | .inf _, .inf _ => fmtFp32.nanCode
  | .inf a, .fin b _ _ => fmtFp32.infCode (a != b)
  | .fin a _ _, .inf b => b2n (a != b) * 2 ^ 31
  | .fin a m e, .fin b n f =>
    if n = 0 then (if m = 0 then fmtFp32.nanCode else fmtFp32.infCode (a != b))
    else (tyFp32.roundRat .rne (a != b) m n (e - f)).1

/-- Whether a number is at or above zero (NaN is not). -/
def Num.nonneg : Num → Bool
  | .nan => false
  | .inf neg => !neg
  | .fin neg m _ => !neg || m == 0

/-- Whether a number is finite. -/
def Num.finite : Num → Bool
  | .fin .. => true
  | _ => false

/-- x ≤ y, false when either is NaN. -/
def Num.le : Num → Num → Bool
  | .nan, _ => false
  | _, .nan => false
  | .inf true, _ => true
  | _, .inf false => true
  | .inf false, _ => false
  | _, .inf true => false
  | x, y => x.dy.le y.dy

/-- x = y, false when either is NaN. -/
def Num.eqv (x y : Num) : Bool := x.le y && y.le x

/-- A number clamped to [0, 1]; NaN is 0 (R235). -/
def clamp01 (x : Num) : Num :=
  if !x.nonneg then .zero else if Num.le (.ofNat 1) x then .ofNat 1 else x

/-- A number rounded to the nearest integer, ties to even; infinities and NaN give 0 here and are not used. -/
def rneInt (x : Num) : Int :=
  match x with
  | .fin neg m e =>
    let p := roundMag .rne 0 0 true m 1 e
    if m = 0 then 0 else if neg then -(p.1 : Int) else p.1
  | _ => 0

/-! ## Normalised codes and the transfer function (R235) -/

/-- An n-bit unorm code and its fp32 value. -/
def unormEnc (n : Nat) (x : Num) : Nat := (rneInt ((clamp01 x).times (.ofNat (2 ^ n - 1)))).toNat
def unormDec (n c : Nat) : Nat := (tyFp32.roundRat .rne false c (2 ^ n - 1) 0).1

/-- The largest t below 2^n with t^5 * q ≤ p. -/
def root5 (p q : Nat) : Nat → Nat → Nat
  | 0, t => t
  | n + 1, t => root5 p q n (if (t + 2 ^ n) ^ 5 * q ≤ p then t + 2 ^ n else t)

/-- The fp32 code nearest to (p/q)^(1/5), for 0 < p ≤ q: the exponent k is the greatest with 2^(5k) * q ≤ p. -/
def fifthRoot32 (p q : Nat) : Nat :=
  match (upTo 40).find? fun k => decide (q ≤ p * 2 ^ (5 * k)) with
  | none => 0
  | some k =>
    let p' := p * 2 ^ (5 * (23 + k))
    let t := root5 p' q 25 0
    let up := decide ((2 * t + 1) ^ 5 * q < p' * 32) || (decide ((2 * t + 1) ^ 5 * q = p' * 32) && t % 2 == 1)
    (fmtFp32.encode 0 false (t + b2n up) (-(23 + k : Nat))).1

/-- The fp32 value of an 8-bit sRGB code: code/255/12.92 below 0.04045, else ((code/255 + 0.055)/1.055)^2.4. -/
def srgbDec (c : Nat) : Nat :=
  if c * 100000 ≤ 4045 * 255 then (tyFp32.roundRat .rne false (c * 100) (255 * 1292) 0).1
  else fifthRoot32 ((1000 * c + 55 * 255) ^ 12) ((1055 * 255) ^ 12)

/-- The sRGB code whose value is nearest, ties to the even code. -/
def srgbEnc (x : Num) : Nat :=
  let y := (clamp01 x).times (.ofNat 2)
  countWhere (fun i =>
    let mid := (fv (srgbDec i)).add (fv (srgbDec (i + 1)))
    if (i + 1) % 2 = 0 then mid.le y else mid.le y && !(y.le mid)) (upTo 255)

/-- rne(E(x) * (2^n - 1)) for the IEC 61966-2-1 encoding E, exactly: 12.92 x up to 0.0031308, else
1.055 x^(5/12) - 0.055, by comparing twelfth powers at each half-way point. -/
def transferEnc (n : Nat) (x : Num) : Nat :=
  match clamp01 x with
  | .fin _ m e =>
    let top := 2 ^ n - 1
    if Num.le ((Num.fin false m e).times (.ofNat 10000000)) (.ofNat 31308) then
      let p := roundMag .rne 0 0 true (m * 1292 * top) 100 e
      if m = 0 then 0 else p.1
    else
      let l := if 0 ≤ e then (m * 2 ^ e.toNat) ^ 5 else m ^ 5
      let r := if 0 ≤ e then 1 else 2 ^ (5 * (-e).toNat)
      countWhere (fun i =>
        let a := (1000 * (2 * i + 1) + 110 * top) ^ 12 * r
        let b := l * (2110 * top) ^ 12
        if (i + 1) % 2 = 0 then decide (a ≤ b) else decide (a < b)) (upTo top)
  | _ => 0

/-! ## Pixel formats (R218) -/

/-- Bytes per pixel of a colour format. -/
def pxBytes (fmt : Nat) : Nat := if fmt = 5 then 8 else 4

/-- The lowest bit and the width of red, green, blue and alpha. -/
def chanField (fmt i : Nat) : Nat × Nat :=
  match fmt with
  | 2 => ([16, 8, 0, 24].getD i 0, 8)
  | 4 => ([0, 10, 20, 30].getD i 0, if i = 3 then 2 else 10)
  | 5 => (16 * i, 16)
  | _ => (8 * i, 8)

/-- A channel's code in a pixel. -/
def chanCode (fmt px i : Nat) : Nat := bits px ((chanField fmt i).1 + (chanField fmt i).2 - 1) (chanField fmt i).1

/-- A channel decoded to fp32 (R235). -/
def chanDec (fmt px i : Nat) : Nat :=
  let c := chanCode fmt px i
  if fmt = 5 then r32 (fmtFp16.decode c)
  else if fmt = 3 ∧ i < 3 then srgbDec c else unormDec (chanField fmt i).2 c

/-- A channel encoded from a number (R235). -/
def chanEnc (fmt i : Nat) (x : Num) : Nat :=
  if fmt = 5 then ((ETy.flt fmtFp16).round .rne x).1
  else if fmt = 3 ∧ i < 3 then srgbEnc x else unormEnc (chanField fmt i).2 x

/-- A pixel with a channel's code replaced. -/
def putChan (fmt px i c : Nat) : Nat := putBits px ((chanField fmt i).1 + (chanField fmt i).2 - 1) (chanField fmt i).1 c

/-- A pixel from four fp32 channels. -/
def pxEnc (fmt : Nat) (v : Nat → Num) : Nat := (upTo 4).foldl (fun px i => putChan fmt px i (chanEnc fmt i (v i))) 0

/-! ## Blending (R234) -/

/-- A blend factor for channel `i`, exact. -/
def blendFactor (code i : Nat) (s d c : Nat → Num) : Num :=
  let one := Num.ofNat 1
  let x : Num := match code / 2 with
    | 0 => .zero
    | 1 => s i
    | 2 => s 3
    | 3 => d i
    | 4 => d 3
    | _ => c i
  match code with
  | 0 => .zero
  | 1 => one
  | k => if k % 2 = 0 then x else one.sub x

/-- The lesser or greater of two numbers; NaN if either is. -/
def numPick (mx : Bool) (x y : Num) : Num :=
  if x = .nan ∨ y = .nan then .nan else if x.le y == mx then y else x

/-- The blended value of channel `i` as an fp32 code. -/
def blendChan (word i : Nat) (s d c : Nat → Num) : Nat :=
  if !bit word 0 then r32 (s i)
  else
    let o := if i = 3 then 12 else 1
    let op := if i = 3 then bits word 22 20 else bits word 11 9
    let fs := blendFactor (bits word (o + 3) o) i s d c
    let fd := blendFactor (bits word (o + 7) (o + 4)) i s d c
    let a := (s i).times fs
    let b := (d i).times fd
    r32 (match op with
      | 0 => a.add b
      | 1 => a.sub b
      | 2 => b.sub a
      | 3 => numPick false (s i) (d i)
      | _ => numPick true (s i) (d i))

/-- A stored pixel after a fragment's output is blended into it: channels whose WMASK bit is clear keep their value. -/
def blendPx (fmt word px : Nat) (s c : Nat → Num) : Nat :=
  let d := fun i => fv (chanDec fmt px i)
  (upTo 4).foldl (fun q i =>
    if bit word (23 + i) then putChan fmt q i (chanEnc fmt i (fv (blendChan word i s d c))) else q) px

end Sys2Proof.Machine
end

