-- ==== Sys2Proof/Machine/Proscenium.lean ====
section
/-! DEFINITION. Display composition: flips, latching, the lines sent, the Safety Curtain and the side channels
(spec/07_proscenium.md R244 to R266; spec/10_stage_manager.md R349). -/

namespace Sys2Proof.Machine

open Sys2Proof

/-! ## Outputs and the copies that a latch instant takes (R246) -/

def outOf (s : State) (o : Nat) : OutSt := mget OutSt.off s.outputs o
def modOut (s : State) (o : Nat) (f : OutSt → OutSt) : State := { s with outputs := mmod OutSt.off s.outputs o f }

/-- Whether an output's timing runs. -/
def outEn (s : State) (o : Nat) : Bool := fbit s (F.PROSC_DO_CFG.EN o)

/-- Copy registers into the set in force. -/
def takeRegs (s : State) (rs : List Nat) : State :=
  { s with applied := rs.foldl (fun m r => mput 0 m r (rd s r)) s.applied }

/-- The registers of an output that a latch instant takes: what it shows, and its Curtain (R246). -/
def lookRegs (o : Nat) : List Nat :=
  [R.PROSC_DO_CFG o, R.PROSC_DO_BG o, R.PROSC_DO_CURTAIN_CTRL o, R.PROSC_DO_CURTAIN_POS o, R.PROSC_DO_CURTAIN_SIZE o,
    R.PROSC_DO_CURTAIN_STRIDE o, R.PROSC_DO_CURTAIN_FALLBACK o]

/-- The timing registers, taken only while EN is 0 (R246). -/
def timeRegs (o : Nat) : List Nat :=
  [R.PROSC_DO_HTIME o, R.PROSC_DO_HSYNC o, R.PROSC_DO_VTIME o, R.PROSC_DO_VSYNC o, R.PROSC_DO_PCLK o]

/-- A timing field in force (R246): as written while EN is 0, else as it was when EN was set. -/
def timing (s : State) (o : Nat) (f : Fld) : Nat := if outEn s o then aget s f else fget s f
def hActive (s : State) (o : Nat) : Nat := timing s o (F.PROSC_DO_HTIME.HACTIVE o)
def vActive (s : State) (o : Nat) : Nat := timing s o (F.PROSC_DO_VTIME.VACTIVE o)
def vTotal (s : State) (o : Nat) : Nat := timing s o (F.PROSC_DO_VTIME.VTOTAL o)

/-- Layers of an output whose buffers an invalidation has revoked: their reads of the line have drained, and they show
nothing (R264). -/
def drainLayers (s : State) (o : Nat) : State :=
  ((upTo 24).filter fun l => layerOut s l == some o && !(layerOf s l).losing.isEmpty).foldl
    (fun s l => modLayer s l LayerSt.gone) s

/-- OUTPUT_ENABLE (R246): EN starts an output's timing at line 0 of frame 0 with the fields as written, or stops it. What it
shows else, the Curtain included, changes at a latch instant; its CFG is in force from the start (DEDUCED, log 55). -/
def execOutputEnable (o : Fin 3) (en : Bool) (s : State) : Host.Outcome State Fault Refusal :=
  regCmd s dProsc <|
  if outEn s o = en then .next s
  else
    let s := fset s (F.PROSC_DO_CFG.EN o) (b2n en)
    if !en then
      let s := drainLayers s o
      .next (if fbit s (F.PROSC_DO_CURTAIN_CTRL.EN o) then s else unhold s (.curtain o))
    else
      let s := takeRegs s (R.PROSC_DO_CFG o :: timeRegs o)
      let s := fset (wrN s (R.PROSC_DO_FRAME o) 0) (F.PROSC_DO_SCAN.LINE o) 0
      .next (modOut s o fun u => { u with outCrc := 0xFFFFFFFF, curCrc := 0xFFFFFFFF, near := [], flipped := true })

/-! ## Flip records (R247, R248) -/

abbrev cNotOwned : Nat := 0x0381
abbrev cLayerConfig : Nat := 0x0382
abbrev cSuperseded : Nat := 0x0383
abbrev cFlipFence : Nat := 0x0384

def fFmt (b : List Byte) : Nat := field b 24 1
def fPremult (b : List Byte) : Bool := bit (field b 25 1) 0
def fHide (b : List Byte) : Bool := bit (field b 25 1) 1
def fFenced (b : List Byte) : Bool := bit (field b 25 1) 2
def fLayer (b : List Byte) : Nat := field b 30 2
def fFence (b : List Byte) : Nat := field b 48 2
def fValue (b : List Byte) : W64 := BitVec.ofNat 64 (field b 52 8)
def fGroup (b : List Byte) : Nat := field b 50 1
def fGroupSize (b : List Byte) : Nat := field b 51 1
/-- A rectangle of a record: X, Y, W, H. -/
def fRect (b : List Byte) (off : Nat) : Nat × Nat × Nat × Nat :=
  (field b off 2, field b (off + 2) 2, field b (off + 4) 2, field b (off + 6) 2)

/-- Bytes per pixel of plane 0. -/
def planeBytes (fmt : Nat) : Nat := if fmt = 0x10 then 2 else if fmt = 0x11 then 1 else pxBytes fmt

/-- The layers of an output, and the flips queued on it with their layers. -/
def layersOf (s : State) (o : Nat) : List Nat := (upTo 24).filter fun l => layerOut s l == some o
def queuedOn (s : State) (o : Nat) : List (Nat × Flip) :=
  (layersOf s o).flatMap fun l => (layerOf s l).queue.map fun f => (l, f)

/-- Check 2 of R248: the record meets R247 and the rules of R248. -/
def flipOk (s : State) (b : List Byte) : Bool :=
  let fmt := fFmt b
  let (sx0, sy0, sw, sh) := fRect b 32
  let (dx, dy, dw, dh) := fRect b 40
  let nv := fmt == 0x11
  let g := fGroup b
  match layerOut s (fLayer b) with
  | none => false
  | some o =>
    let members := (queuedOn s o).filter fun p => fGroup p.2.raw == g
    (inRange fmt 1 5 || fmt == 0x10 || nv) && field b 16 4 % 4 == 0 && (nv || field b 20 4 == 0) && (nv || field b 8 8 == 0) &&
      bits (field b 25 1) 7 3 == 0 && (!fHide b || (field b 0 8 == 0 && field b 8 8 == 0)) && decide (field b 26 1 ≤ 7) &&
      decide (field b 27 1 ≤ 3) && (!(fmt == 0x10 || nv) || (sw % 2 == 0 && sx0 % 2 == 0)) &&
      (!nv || (sh % 2 == 0 && sy0 % 2 == 0)) && (if g = 0 then fGroupSize b == 0 else inRange (fGroupSize b) 1 24) &&
      zeros b 60 4 && decide (dx + dw ≤ hActive s o) && decide (dy + dh ≤ vActive s o) && decide (sw ≤ 4 * dw) &&
      decide (sh ≤ 4 * dh) && decide (dw ≤ 8 * sw) && decide (dh ≤ 8 * sh) &&
      (g == 0 || (members.all (fun p => fGroupSize p.2.raw == fGroupSize b) && decide (members.length < fGroupSize b)))

/-- The byte ranges of the SRC rectangle in each plane (R248). -/
def flipRanges (b : List Byte) : List (Nat × Nat × Bool) :=
  let (x, y, w, h) := fRect b 32
  let n := planeBytes (fFmt b)
  if fHide b then []
  else ((upTo h).map fun j => (field b 0 8 + (y + j) * field b 16 4 + x * n, w * n, false)) ++
    if fFmt b = 0x11 then (upTo (h / 2)).map fun j => (field b 8 8 + (y / 2 + j) * field b 20 4 + x, w, false) else []

/-- The fault record of a flip (R248, R537), and the end of its cue. -/
def flipFault (s : State) (c : CueRun) (code iword addr : Nat) : State :=
  endCue (reportFault s c.cid (faultRec code 0xFF 0xFF c.cid 0xFC 0xFF c.ea (some addr) iword false) (some c.uid)) c.uid code

/-- FLIP_ISSUE (R247, R248, R314): the record is read and checked, and the flip joins its layer's queue; a cue that finds
the queue of the layer it names full does not issue, and is not checked. -/
def execFlipIssue (src : Src) (s : State) : Host.Outcome State Fault Refusal :=
  .next (startCue s (srcOf src) 4 fun s' c =>
    match xlateUnit s' c.cid [(c.ea, 64, false)] with
    | .waits f g => askAts s f g
    | .fault code a => useFree (flipFault s' c code (freeVal s' % 2 ^ 32) a)
    | .ok pages =>
      let b := ctxRead s' pages c.ea 64
      let l := fLayer b
      if l < 24 ∧ 4 ≤ (layerOf s' l).queue.length then s
      else if l < 24 ∧ layerOwner s' l ≠ c.cid then endCue s' c.uid cNotOwned
      else if 24 ≤ l ∨ !flipOk s' b then endCue s' c.uid cLayerConfig
      else if fFenced b ∧ !mayWait s' (fFence b) c.cid then endCue s' c.uid cCueInvalid
      else match mapUnit s' c.cid (flipRanges b) with
        | .waits f g => askAts s f g
        | .fault code a => flipFault s' c code (field b 0 4) a
        | .ok pages => modLayer s' l fun y => { y with queue := y.queue ++ [⟨c.uid, c.cid, b, c.ea, pages, false⟩] })

/-! ## The latch instant (R249 to R251) -/

/-- A flip's fence as sampled: ready, or failed with a code. -/
def flipFailed (s : State) (f : Flip) : Option Nat :=
  if !fFenced f.raw then none
  else match (fenceOf s (fFence f.raw)).state with
    | .error => if f.freed then some cFenceFreed else some cFlipFence
    | .free => some cFenceFreed
    | .active => if f.freed then some cFenceFreed else none
def flipReady (s : State) (f : Flip) : Bool :=
  !fFenced f.raw || ((flipFailed s f).isNone && (fenceOf s (fFence f.raw)).state == .active &&
    atOrBeyond (fenceOf s (fFence f.raw)).value (fValue f.raw))

/-- The members of a flip's group on an output: the flip alone without one. -/
def groupOf (s : State) (o : Nat) (f : Flip) : List (Nat × Flip) :=
  (queuedOn s o).filter fun p => if fGroup f.raw = 0 then p.2.uid == f.uid else fGroup p.2.raw == fGroup f.raw

/-- A layer held by an output: its OUTPUT names it and its EN is set (R252). -/
def heldBy (s : State) (o l : Nat) : Bool := oget s o (F.PROSC_L_CTRL.OUTPUT l) == o && oget s o (F.PROSC_L_CTRL.EN l) == 1

/-- Failed flips at queue heads leave with their groups (R250), `n` times at most, the lowest layer first. -/
def failHeads (o : Nat) : Nat → State → State
  | 0, s => s
  | n + 1, s =>
    let head := fun (l : Nat) => match (layerOf s l).queue with
      | [] => none
      | f :: _ => (flipFailed s f).map fun c => (f, c)
    match ((layersOf s o).filter (heldBy s o)).findSome? head with
    | none => s
    | some (f, code) =>
      let gone := (groupOf s o f).map (·.2.uid)
      failHeads o n ((layersOf s o).foldl (fun s l => dropFlips s l code fun g => gone.contains g.uid) s)

/-- One round of eligibility (R250): a flip joins when all of its group is queued, held and ready, and every flip ahead of
each member is eligible or of the group. -/
def eligStep (s : State) (o : Nat) (ready : Flip → Bool) (e : List Nat) : List Nat :=
  ((queuedOn s o).filter fun p =>
    let g := groupOf s o p.2
    let us := g.map (·.2.uid)
    (fGroup p.2.raw == 0 || g.length == fGroupSize p.2.raw) && g.all fun q =>
      heldBy s o q.1 && ready q.2 &&
        ((layerOf s q.1).queue.takeWhile (·.uid != q.2.uid)).all fun a => e.contains a.uid || us.contains a.uid).map (·.2.uid)

/-- The eligible flips of an output: the least set the rounds reach. -/
def eligible (s : State) (o : Nat) (ready : Flip → Bool) : List Nat :=
  (upTo ((queuedOn s o).length + 1)).foldl (fun e _ => eligStep s o ready e) []

/-- The last eligible flip of a layer latches and completes; those ahead of it are superseded (R250, R251). -/
def latchLayer (e : List Nat) (s : State) (l : Nat) : State :=
  let fs := (layerOf s l).queue.takeWhile fun f => e.contains f.uid
  match fs.getLast? with
  | none => s
  | some f =>
    let s := dropFlips s l cSuperseded fun g => fs.any (·.uid == g.uid) && g.uid != f.uid
    let s := modLayer s l fun y => { y with queue := y.queue.filter (·.uid != f.uid), latched := some f, dark := false }
    let s := modLayer s l LayerSt.drained
    endCue s f.uid cOk

/-- The device-virtual ranges of a Curtain buffer at an address. -/
def curtainRanges (s : State) (o a : Nat) : List (Nat × Nat × Bool) :=
  (upTo (fget s (F.PROSC_DO_CURTAIN_SIZE.H o))).map fun j =>
    (a + j * rdN s (R.PROSC_DO_CURTAIN_STRIDE o), 4 * fget s (F.PROSC_DO_CURTAIN_SIZE.W o), false)

/-- The pages of a Curtain buffer when all of it lies in SCRATCH granules owned by its context, itself a live one of the
physical function (R259). -/
def curtainPages (s : State) (o a : Nat) : UnitRes :=
  let cid := fget s (F.PROSC_DO_CURTAIN_CTRL.CID o)
  if !ctxUsable s 0 cid then .fault cOwner a else ownedScratch s cid (curtainRanges s o a)

/-- Hold the translations of the Curtain buffer in force; lines of one that does not translate show FALLBACK (R262). -/
def curtainHold (s : State) (o : Nat) : State :=
  let s := modOut s o fun u => { u with asking := false }
  match curtainPages s o (outOf s o).curtain with
  | .ok pages => hold s (.curtain o) (fget s (F.PROSC_DO_CURTAIN_CTRL.CID o)) pages
  | .waits f g => askAts (modOut (unhold s (.curtain o)) o fun u => { u with asking := true }) f g
  | .fault .. => unhold s (.curtain o)

/-- The Curtain's part of a latch instant (R246, R261): the fields written, and the shadow address when FLIP is set, or the
address that the enable has checked. -/
def latchCurtain (s : State) (o : Nat) : State :=
  let s := takeRegs s (lookRegs o)
  let flip := fbit s (F.PROSC_DO_CURTAIN_FLIP.FLIP o)
  let next := if flip then some (rd64 s (R.PROSC_DO_CURTAIN_ADDR_LO o) % 2 ^ 48) else (outOf s o).curNext
  let s := fset s (F.PROSC_DO_CURTAIN_FLIP.FLIP o) 0
  let s := match next with
    | some a => modOut s o fun u => { u with curtain := a, curNext := none, flipped := true }
    | none => s
  if aget s (F.PROSC_DO_CURTAIN_CTRL.EN o) = 0 then modOut (unhold s (.curtain o)) o fun u => { u with flipped := true }
  else if flip then curtainHold s o
  else s

/-! ## Proscenium's part of a Scene Change (R266, R355, R356) -/

/-- Whether a register holds a layer's shadowed fields, the matrix sets or the coefficients, or an output's matrix (R266). -/
def inLayer (a : Nat) : Bool := inRange a (R.PROSC_L_CTRL 0) 0x600 && (a - R.PROSC_L_CTRL 0) % 0x40 == 0
def inProscSets (a : Nat) : Bool := inRange a (R.PROSC_MATRIX 0 0) 0x200 || inRange a 0x484000 0x2000
def inOutMatrix (o a : Nat) : Bool := inRange a (R.PROSC_DO_MATRIX o 0) 0x30

/-- The part of a map that a predicate selects. -/
def part {α : Type} (p : Nat → Bool) (m : SMap α) : SMap α := m.filter fun e => p e.1

/-- A field of the committed set. -/
def cget (s : State) (f : Fld) : Nat := bits (mget 0 s.committed f.reg).toNat f.hi f.lo

/-- The layers whose change concerns an output: it had the layer, or gets it (R266). -/
def layerConcerns (s : State) (o l : Nat) : Bool :=
  oget s o (F.PROSC_L_CTRL.OUTPUT l) == o || cget s (F.PROSC_L_CTRL.OUTPUT l) == o

/-- The queued flips of a layer whose OWNER changes complete with LAYER_NOT_OWNED (R266). -/
def ownerChange (s : State) (l old new : Nat) : State :=
  if old = new then s else dropFlips s l cNotOwned fun _ => true

/-- Copy a layer's committed word into an output's applied values; a layer newly enabled has no flip latched (R252). -/
def applyLayer (o : Nat) (s : State) (l : Nat) : State :=
  let old := oget s o (F.PROSC_L_CTRL.OWNER l)
  let on := oget s o (F.PROSC_L_CTRL.EN l) == 0 && cget s (F.PROSC_L_CTRL.EN l) == 1
  let r := R.PROSC_L_CTRL l
  let s := if layerConcerns s o l then ownerChange s l old (cget s (F.PROSC_L_CTRL.OWNER l)) else s
  let s := if on && cget s (F.PROSC_L_CTRL.OUTPUT l) == o then modLayer s l fun y => { y with latched := none } else s
  { s with applied := mput 0 s.applied (oKey o r) (mget 0 s.committed r) }

/-- An output's part: its layers, its matrix, the matrix sets and the coefficients. -/
def applyOut (s : State) (o : Nat) : State :=
  let s := ((upTo 24).filter (layerConcerns s o)).foldl (applyLayer o) s
  let mine := fun (a : Nat) => inProscSets a || inOutMatrix o a
  let rest := s.applied.filter fun e => !(inRange e.1 (o * 2 ^ 28) (2 ^ 28) && mine (e.1 - o * 2 ^ 28))
  { s with applied := (part mine s.committed).foldl (fun m e => mput 0 m (oKey o e.1) e.2) rest }

/-- An output takes its part of a commit that is pending (R355). -/
def takeCommit (s : State) (o : Nat) : State := if scPending s (5 + o) then scApplied (applyOut s o) (5 + o) else s

/-! ## The latch instant -/

/-- LATCH_INSTANT (R246, R249 to R251, R261, R266, R349, R356): at the start of line VACTIVE. A pending commit applies first,
and the flips of the instant meet its values. -/
def execLatchInstant (o : Fin 3) (s : State) : Host.Outcome State Fault Refusal :=
  if !outEn s o ∨ fget s (F.PROSC_DO_SCAN.LINE o) ≠ vActive s o then .next s
  else
    let s := takeCommit s o
    let s := failHeads o ((queuedOn s o).length) s
    let e := eligible s o (flipReady s)
    let s := ((layersOf s o).filter (heldBy s o)).foldl (latchLayer e) s
    let s := latchCurtain s o
    .next { s with ctxs := mmap Ctx.none (fun _ c => { c with boost := putBits c.boost o o 0 }) s.ctxs }

/-! ## Fences near the deadline (R258, R349) -/

/-- The boost of R349 for output `o`: the owner of the flip's fence, when it is in the partition, goes first, and what it
lacks is taken from work of a lower effective share. -/
def boost (s : State) (o p : Nat) (f : Flip) : State :=
  let s := fset s (F.SMGR_P_EVT.DEADLINE_EVT p) (fget s (F.SMGR_P_EVT.DEADLINE_EVT p) + 1)
  let r := (fenceOf s (fFence f.raw)).owner
  if !ctxLive s r ∨ (ctxOf s r).part ≠ p then s
  else
    let s := fset s (F.SMGR_P_EVT.BOOST_EVT p) (fget s (F.SMGR_P_EVT.BOOST_EVT p) + 1)
    let s := modCtx s r fun c => { c with boost := putBits c.boost o o 1 }
    let lower := fun (h : Nat) => h != r && (ctxOf s h).part == p && decide ((ctxOf s h).effShare < (ctxOf s r).effShare)
    preemptAll s ((cuesToPlace s r).flatMap fun q => victims s p q lower).eraseDups

/-- One flip's part of a deadline: once for each partition, output and frame. -/
def nearFlip (o : Nat) (s : State) (f : Flip) : State :=
  let p := (ctxOf s f.cid).part
  if (outOf s o).near.contains p then s
  else boost (raiseDisp (modOut s o fun u => { u with near := u.near ++ [p] }) (E.PROSC_DO_STATUS.DEADLINE_NEAR o)) o p f

/-- DEADLINE_NEAR (R258, R349): at the start of DEADLINE_LINE, flips that only their unsignalled fences hold back. -/
def execDeadlineNear (o : Fin 3) (s : State) : Host.Outcome State Fault Refusal :=
  let line := fget s (F.PROSC_DO_DEADLINE.LINE o)
  if !outEn s o ∨ fget s (F.PROSC_DO_SCAN.LINE o) ≠ line ∨ vTotal s o ≤ line then .next s
  else
    let late := fun (p : Nat × Flip) =>
      !flipReady s p.2 && (flipFailed s p.2).isNone &&
        (eligible s o fun f => f.uid == p.2.uid || flipReady s f).contains p.2.uid
    .next (((queuedOn s o).filter late).foldl (fun s p => nearFlip o s p.2) s)

/-! ## Composition (R252 to R257) -/

/-- A source pixel of a flip as four fp32 codes (R253 step 1). -/
def srcPixel (s : State) (f : Flip) (x y : Nat) : List Nat :=
  let b := f.raw
  let n := planeBytes (fFmt b)
  let px := fun (a n : Nat) => leNat (ctxRead s f.pages a n)
  let row := field b 0 8 + y * field b 16 4
  let u8 := fun (c : Nat) => unormDec 8 c
  let one := r32 (.ofNat 1)
  match fFmt b with
  | 0x10 =>
    let w := px (row + x / 2 * 4) 4
    [u8 (if x % 2 = 0 then bits w 7 0 else bits w 23 16), u8 (bits w 15 8), u8 (bits w 31 24), one]
  | 0x11 =>
    let c := px (field b 8 8 + y / 2 * field b 20 4 + x / 2 * 2) 2
    [u8 (px (row + x) 1), u8 (bits c 7 0), u8 (bits c 15 8), one]
  | fmt => (upTo 4).map fun i => chanDec fmt (px (row + x * n) n) i

/-- The address of a coefficient word, and a coefficient as applied by an output: the store holds its difference from the
linear kernel of R257. -/
def coefAddr (set axis phase tap : Nat) : Nat := 0x484000 + set * 0x800 + axis * 0x400 + phase * 0x10 + tap / 2 * 4
def coefKernel (phase tap : Nat) : Nat := if tap = 3 then 4096 - 64 * phase else if tap = 4 then 64 * phase else 0
def coefWord (phase tap : Nat) : Nat := coefKernel phase (tap / 2 * 2) + 2 ^ 16 * coefKernel phase (tap / 2 * 2 + 1)
def coef (s : State) (o set axis phase tap : Nat) : Int :=
  let w := (mget 0 s.applied (oKey o (coefAddr set axis phase tap))).toNat ^^^ coefWord phase tap
  sx 16 (if tap % 2 = 0 then bits w 15 0 else bits w 31 16)

/-- Output sample `i` of an axis (R256): `get k` is source sample `k` as fp32 codes. -/
def scaleAxis (s : State) (o set axis src dst i : Nat) (get : Nat → List Nat) : List Nat :=
  if src = dst then get i
  else
    let step : Int := ((roundMag .rne 0 0 true (src * 2 ^ 20) dst 0).1 : Nat)
    let p : Int := (2 * (i : Int) + 1) * step - 2 ^ 20
    let base : Int := p / 2 ^ 21
    let phase := (p % 2 ^ 21 / 2 ^ 15).toNat
    let at_ := fun (t : Nat) => (min (max (base - 3 + (t : Int)) 0) ((src : Int) - 1)).toNat
    let taps := (upTo 8).map fun t => (Num.ofInt (coef s o set axis phase t), get (at_ t))
    (upTo 4).map fun c => r32 ((Num.sum (taps.map fun q => q.1.times (fv (q.2.getD c 0)))).times (.fin false 1 (-12)))

/-- A layer's pixel at (i, j) of DST after scaling, alpha clamped (R253 step 2, R256). -/
def layerPixel (s : State) (o : Nat) (f : Flip) (i j : Nat) : List Num :=
  let b := f.raw
  let (x, y, w, h) := fRect b 32
  let (_, _, dw, dh) := fRect b 40
  let set := field b 27 1
  let v := scaleAxis s o set 1 h dh j fun r => scaleAxis s o set 0 w dw i fun c => srcPixel s f (x + c) (y + r)
  (upTo 4).map fun k => if k = 3 then clamp01 (fv (v.getD 3 0)) else fv (v.getD k 0)

/-- A matrix on three channels (R255): `m k` is word `k`. -/
def matrix3 (m : Nat → Nat) (v : List Num) : List Num :=
  (upTo 3).map fun i =>
    fv (r32 (Num.sum [(fv (m (4 * i))).times (v.getD 0 .zero), (fv (m (4 * i + 1))).times (v.getD 1 .zero),
      (fv (m (4 * i + 2))).times (v.getD 2 .zero), fv (m (4 * i + 3))]))

/-- One layer blended over the value below (R253 steps 3 and 4). -/
def blendLayer (s : State) (o : Nat) (f : Flip) (px d : List Num) : List Num :=
  let b := f.raw
  let c := matrix3 (fun k => oget s o (F.PROSC_MATRIX.M (field b 26 1) k)) px
  let pa := Num.ofNat (field b 28 2)
  let top := Num.ofNat 65535
  let a := (px.getD 3 .zero).times pa
  (upTo 3).map fun i =>
    let own := (c.getD i .zero).times (if fPremult b then pa else a)
    fv (divR (own.add ((d.getD i .zero).times (top.sub a))) top)

/-- The flip a layer shows on an output, if it shows anything (R252). -/
def shown (s : State) (o l : Nat) : Option Flip :=
  if !heldBy s o l ∨ (layerOf s l).dark then none
  else (layerOf s l).latched.filter fun f => !fHide f.raw

/-- The layers of an output from bottom to top (R252). -/
def stack (s : State) (o : Nat) : List (Nat × Flip) :=
  let ls := (upTo 24).filterMap fun l => (shown s o l).map fun f => (l, f)
  if aget s (F.PROSC_DO_CFG.ORDER_MODE o) = 0 then ls
  else (upTo 32).flatMap fun z => ls.filter fun p => oget s o (F.PROSC_L_CTRL.ZORDER p.1) == z

/-- A 10-bit colour register's channel. -/
def ten (w i : Nat) : Nat := bits w (10 * i + 9) (10 * i)

/-- The pool's picture at (x, y), encoded (R252 to R254); `lost l` is where layer `l` underruns in the line, if it does. -/
def poolPixel (s : State) (o x y : Nat) (ls : List (Nat × Flip)) (lost : Nat → Option Nat) : List Nat :=
  let bg := (upTo 3).map fun i => fv (unormDec 10 (ten (aget s (F.PROSC_DO_BG.BG o)) i))
  let mix := ls.foldl (fun d p =>
    let (dx, dy, dw, dh) := fRect p.2.raw 40
    let here := inRange x dx dw && inRange y dy dh && (match lost p.1 with | some k => decide (x < k) | none => true)
    if here then blendLayer s o p.2 (layerPixel s o p.2 (x - dx) (y - dy)) d else d) bg
  let out := matrix3 (fun k => oget s o (F.PROSC_DO_MATRIX.M o k)) mix
  let n := 8 + 2 * aget s (F.PROSC_DO_CFG.BPC o)
  out.map fun v => if aget s (F.PROSC_DO_CFG.TRANSFER o) = 1 then transferEnc n v else unormEnc n v

/-! ## The Safety Curtain (R259 to R262) -/

/-- A Curtain channel at the output's width (R260). -/
def curtainCode (n fmt c : Nat) : Nat :=
  let w := if fmt = 4 then 10 else 8
  if w = n then c else if w < n then unormEnc n (fv (unormDec w c)) else Config.narrow c % 2 ^ n

/-- The Curtain blended over a pool pixel (R260). -/
def curtainBlend (n fmt px : Nat) (q : List Nat) : List Nat :=
  let a := fv (chanDec fmt px 3)
  (upTo 3).map fun i =>
    let c := Num.ofNat (curtainCode n fmt (chanCode fmt px i))
    (rneInt ((c.times a).add ((Num.ofNat (q.getD i 0)).times ((Num.ofNat 1).sub a)))).toNat

/-- The Curtain's rectangle, and the row of its buffer at a line. -/
def curtainRect (s : State) (o : Nat) : Nat × Nat × Nat × Nat :=
  (aget s (F.PROSC_DO_CURTAIN_POS.X o), aget s (F.PROSC_DO_CURTAIN_POS.Y o), aget s (F.PROSC_DO_CURTAIN_SIZE.W o),
    aget s (F.PROSC_DO_CURTAIN_SIZE.H o))

/-- The bytes of the Curtain on a line; `none` when the line cannot be fetched whole. -/
def curtainRow (s : State) (o y : Nat) : Option (List Byte) :=
  let (_, cy, w, _) := curtainRect s o
  let a := (outOf s o).curtain + (y - cy) * aget s (F.PROSC_DO_CURTAIN_STRIDE.STRIDE o)
  let pg := heldPages s (.curtain o)
  if (pagesOf a (4 * w)).all fun v => pg.any fun p => inRange v p.va p.size then some (ctxRead s pg a (4 * w)) else none

/-- The line as sent (R254, R260, R262): `row` is the Curtain's part, `none` where its rectangle does not reach, and
`some none` where it shows FALLBACK. -/
def sentLine (s : State) (o y : Nat) (lost : Nat → Option Nat) (row : Option (Option (List Byte))) : List (List Nat) :=
  let ls := stack s o
  let n := 8 + 2 * aget s (F.PROSC_DO_CFG.BPC o)
  let fmt := aget s (F.PROSC_DO_CURTAIN_CTRL.FMT o)
  let fall := aget s (F.PROSC_DO_CURTAIN_FALLBACK.FALLBACK o)
  let (cx, _, cw, _) := curtainRect s o
  (upTo (hActive s o)).map fun x =>
    let q := poolPixel s o x y ls lost
    if !inRange x cx cw then q
    else match row with
      | none => q
      | some none => (upTo 3).map fun i => curtainCode n 4 (ten fall i)
      | some (some bs) => curtainBlend n fmt (field bs (4 * (x - cx)) 4) q

/-- The next line of an output; a new frame begins at line 0. -/
def nextLine (s : State) (o : Nat) : State :=
  let y := fget s (F.PROSC_DO_SCAN.LINE o) + 1
  if y < vTotal s o then fset s (F.PROSC_DO_SCAN.LINE o) y
  else incWrap (fset (modOut s o fun u => { u with near := [] }) (F.PROSC_DO_SCAN.LINE o) 0) (R.PROSC_DO_FRAME o)

/-- The CRC registers at the end of a frame's active lines (R262), and what the Curtain slice compares (R493). -/
def frameCrcs (s : State) (o : Nat) : State :=
  let u := outOf s o
  let c := u.curCrc ^^^ 0xFFFFFFFF
  let same := u.flipped || rdN s (R.PROSC_DO_CURTAIN_CRC o) == c
  let s := wrN (wrN s (R.PROSC_DO_OUT_CRC o) (u.outCrc ^^^ 0xFFFFFFFF)) (R.PROSC_DO_CURTAIN_CRC o) c
  modOut s o fun u => { u with flipped := false, moved := u.moved || !same }

/-- SCAN_LINE (R252 to R257, R260, R262, R263): the current line is composited and sent, and the scan moves on. `under`
lists the pool layers whose data has not arrived, from which pixel on; `bad` tells that the Curtain's line met an error. At
the line's end revoked layers have drained (R264). -/
def execScanLine (o : Fin 3) (under : List (Fin 24 × Nat)) (bad : Bool) (s : State) : Host.Outcome State Fault Refusal :=
  let y := fget s (F.PROSC_DO_SCAN.LINE o)
  if !outEn s o then .next s
  else if vActive s o ≤ y then .next (nextLine (drainLayers s o) o)
  else
    let hit := under.filter fun p => (shown s o p.1).isSome
    let lost := fun (l : Nat) => (hit.find? (·.1.val == l)).map (·.2)
    let (_, cy, _, ch) := curtainRect s o
    let cur := aget s (F.PROSC_DO_CURTAIN_CTRL.EN o) == 1 && inRange y cy ch
    let got := if bad then none else curtainRow s o y
    let line := sentLine s o y lost (if cur then some got else none)
    let px := line.map fun c => c.getD 0 0 + 2 ^ 16 * c.getD 1 0 + 2 ^ 32 * c.getD 2 0
    let s1 := if y = 0 then modOut s o fun u => { u with outCrc := 0xFFFFFFFF, curCrc := 0xFFFFFFFF } else s
    let s2 := modOut s1 o fun u =>
      { u with
        outCrc := crcRun u.outCrc (Config.packLine (aget s (F.PROSC_DO_CFG.BPC o)) px)
        curCrc := if cur then crcRun u.curCrc (got.getD []) else u.curCrc }
    let s3 := hit.foldl (fun s p => raiseDisp s (E.PROSC_L_STATUS.UNDERRUN p.1)) (send s2 (.pixels o y px))
    let s4 := if cur ∧ got.isNone then raiseDisp s3 (E.PROSC_DO_STATUS.CURTAIN_FAULT o) else s3
    .next (nextLine (drainLayers (if y + 1 = vActive s o then frameCrcs s4 o else s4) o) o)

/-- Whether an output's Curtain fields are frozen (R262). -/
def curtainLocked (s : State) (o : Nat) : Bool := fbit s (F.PROSC_DO_CURTAIN_CTRL.LOCK o)

/-- The Curtain's enable (R259): its buffer is translated and checked, and the translations are held beside those of a buffer
still shown; a failure refuses the enable, and a host page not yet translated keeps it waiting. -/
def curtainTry (s : State) (o : Nat) : State :=
  let fmt := fget s (F.PROSC_DO_CURTAIN_CTRL.FMT o)
  let a := rd64 s (R.PROSC_DO_CURTAIN_ADDR_LO o) % 2 ^ 48
  let s := modOut s o fun u => { u with asking := false }
  match if fmt = 1 ∨ fmt = 2 ∨ fmt = 4 then curtainPages s o a else .fault cOwner a with
  | .fault .. => raiseDisp s (E.PROSC_DO_STATUS.CURTAIN_FAULT o)
  | .waits f g => askAts (modOut s o fun u => { u with asking := true }) f g
  | .ok pages =>
    let s := hold s (.curtain o) (fget s (F.PROSC_DO_CURTAIN_CTRL.CID o)) (heldPages s (.curtain o) ++ pages).eraseDups
    modOut (fset s (F.PROSC_DO_CURTAIN_CTRL.EN o) 1) o fun u => { u with curNext := some a }

/-- CURTAIN_ENABLE (R259, R262); what it shows changes at the next latch instant (R246). -/
def execCurtainEnable (o : Fin 3) (s : State) : Host.Outcome State Fault Refusal :=
  regCmd s dProsc (.next (if curtainLocked s o || fbit s (F.PROSC_DO_CURTAIN_CTRL.EN o) then s else curtainTry s o))

/-- The Curtain's EN is cleared (R259): it is shown to the next latch instant, which lets its translations go; they go at
once while the output is off (DEDUCED, log 55). -/
def curtainOff (s : State) (o : Nat) : State :=
  let s := modOut (fset s (F.PROSC_DO_CURTAIN_CTRL.EN o) 0) o fun u => { u with curNext := none, asking := false }
  if outEn s o then s else takeRegs (unhold s (.curtain o)) [R.PROSC_DO_CURTAIN_CTRL o]

/-- Curtains that wait for a host translation are tried again. -/
def curtainWaiting (s : State) : State :=
  ((upTo 3).filter fun o => (outOf s o).asking).foldl (fun s o =>
    if fbit s (F.PROSC_DO_CURTAIN_CTRL.EN o) then curtainHold s o else curtainTry s o) s

/-- CURTAIN_FLIP (R261). -/
def execCurtainFlip (o : Fin 3) (s : State) : Host.Outcome State Fault Refusal :=
  regCmd s dProsc (.next (fset s (F.PROSC_DO_CURTAIN_FLIP.FLIP o) 1))

/-- CURTAIN_LOCK (R262). -/
def execCurtainLock (o : Fin 3) (s : State) : Host.Outcome State Fault Refusal :=
  regCmd s dProsc (.next (fset s (F.PROSC_DO_CURTAIN_CTRL.LOCK o) 1))

/-! ## Side channels (R244) -/

/-- Whether an output has a kind of side transaction: AUX on DO0 and DO1, DSI on DO2; of up to 16 bytes. -/
def sideOk (o kind len : Nat) : Bool := (if o = 2 then inRange kind 4 4 else decide (kind < 4)) && decide (len ≤ 16)

/-- Kinds that carry their payload out, and kinds that read. -/
def sideReads (kind : Nat) : Bool := kind == 1 || kind == 3 || kind == 7

/-- The payload registers of an output as bytes. -/
def sideData (s : State) (o : Nat) : List Byte := (upTo 4).flatMap fun k => leBytes 4 (rdN s (R.PROSC_DO_SIDE_DATA o k))

/-- A write of SIDE_CMD (PROSC registers): the register takes it, and the transaction starts unless one runs or the output
has no such kind. -/
def sideStart (s : State) (o kind len addr : Nat) : State :=
  let s := wrN s (R.PROSC_DO_SIDE_CMD o) (kind + 16 * len + 4096 * addr)
  if (outOf s o).side ∨ !sideOk o kind len then s
  else send (modOut s o fun u => { u with side := true })
    (.side o kind addr (if sideReads kind then [] else (sideData s o).take len))

/-- AUX_NATIVE_WRITE (R244). -/
def execAuxNativeWrite (o : Fin 3) (len : Fin 32) (addr : BitVec 20) (s : State) : Host.Outcome State Fault Refusal :=
  regCmd s dProsc (.next (sideStart s o 0 len addr.toNat))
/-- AUX_NATIVE_READ (R244). -/
def execAuxNativeRead (o : Fin 3) (len : Fin 32) (addr : BitVec 20) (s : State) : Host.Outcome State Fault Refusal :=
  regCmd s dProsc (.next (sideStart s o 1 len addr.toNat))
/-- I2C_OVER_AUX_WRITE (R244). -/
def execI2cOverAuxWrite (o : Fin 3) (len : Fin 32) (addr : BitVec 20) (s : State) : Host.Outcome State Fault Refusal :=
  regCmd s dProsc (.next (sideStart s o 2 len addr.toNat))
/-- I2C_OVER_AUX_READ (R244). -/
def execI2cOverAuxRead (o : Fin 3) (len : Fin 32) (addr : BitVec 20) (s : State) : Host.Outcome State Fault Refusal :=
  regCmd s dProsc (.next (sideStart s o 3 len addr.toNat))
/-- DSI_DCS_SHORT_WRITE (R244). -/
def execDsiDcsShortWrite (o : Fin 3) (len : Fin 32) (addr : BitVec 20) (s : State) : Host.Outcome State Fault Refusal :=
  regCmd s dProsc (.next (sideStart s o 4 len addr.toNat))
/-- DSI_DCS_LONG_WRITE (R244). -/
def execDsiDcsLongWrite (o : Fin 3) (len : Fin 32) (addr : BitVec 20) (s : State) : Host.Outcome State Fault Refusal :=
  regCmd s dProsc (.next (sideStart s o 5 len addr.toNat))
/-- DSI_GENERIC_WRITE (R244). -/
def execDsiGenericWrite (o : Fin 3) (len : Fin 32) (addr : BitVec 20) (s : State) : Host.Outcome State Fault Refusal :=
  regCmd s dProsc (.next (sideStart s o 6 len addr.toNat))
/-- DSI_DCS_READ (R244). -/
def execDsiDcsRead (o : Fin 3) (len : Fin 32) (addr : BitVec 20) (s : State) : Host.Outcome State Fault Refusal :=
  regCmd s dProsc (.next (sideStart s o 7 len addr.toNat))

/-- SIDE_TRANSACTION_DONE (R244): RESULT is written, data read goes to SIDE_DATA, and AUX_DONE is set. -/
def execSideTransactionDone (o : Fin 3) (result : Fin 4) (data : BitVec 128) (s : State) : Host.Outcome State Fault Refusal :=
  if !(outOf s o).side then .next s
  else
    let c := rdN s (R.PROSC_DO_SIDE_CMD o)
    let n := min (bits c 8 4) 16
    let bs := leBytes n data.toNat ++ (sideData s o).drop n
    let s := if sideReads (bits c 3 0) ∧ result.val = 0 then
        (upTo 4).foldl (fun s k => wrN s (R.PROSC_DO_SIDE_DATA o k) (field bs (4 * k) 4)) s
      else s
    let s := fset (modOut s o fun u => { u with side := false }) (F.PROSC_DO_SIDE_STATUS.RESULT o) result
    .next (raiseDisp s (E.PROSC_DO_STATUS.AUX_DONE o))

/-- HPD_IRQ (R244): a change of HPD or an IRQ pulse on it; the level after it is `level`. -/
def execHpdIrq (o : Fin 2) (level : Bool) (s : State) : Host.Outcome State Fault Refusal :=
  .next (raiseDisp (fset s (F.PROSC_DO_STATUS.HPD o) (b2n level)) (E.PROSC_DO_STATUS.HPD_IRQ o))

end Sys2Proof.Machine
end

