-- ==== Sys2Proof/Machine/Power.lean ====
section
/-! DEFINITION. Power domains, power states, operating points and clock sources (spec/14_power_and_clocks.md R433 to R458,
spec/05_the_pit.md R211, R212). -/

namespace Sys2Proof.Machine

open Sys2Proof

/-! ## Domains (R433, R435) -/

/-- Whether an output has EN set; whether some stream is armed. -/
def anyOutput (s : State) : Bool := (upTo 3).any fun o => fbit s (F.PROSC_DO_CFG.EN o)
def anyStream (s : State) : Bool := (upTo 32).any (streamArmed s)

/-- Whether a core is the HOME_CORE of an armed stream, stands aside while a privileged one is armed, or is under
Run-through. -/
def coreHeld (s : State) (n : Nat) : Bool :=
  ((upTo 32).any fun k => streamArmed s k && coreRole s n == 0 && fget s (F.PIT_S_OWNER.HOME_CORE k) == lcoreOf s n) ||
    (coreRole s n == 1 && !(armedPriv s).isEmpty) || coreRole s n == 2

/-- The "held on whenever" column of R433. -/
def heldOn (s : State) (d : Nat) : Bool :=
  if d < dLoft then coreHeld s d
  else if d < dRaster then anyStream s || anyOutput s || !carved s
  else if d = dRaster then s.raster.isSome
  else if d = dProsc then anyOutput s
  else if d = dPit then anyStream s
  else if d = dLink then (upTo 3).any fun p => fget s (F.UL_P_STATE.STATE p) != 0
  else if d = dXfer then !s.comps.isEmpty
  else if d = dMemc then (cacheOf s 0).lines.any fun l => l.dirty != 0
  else true

/-- Whether a domain has work. -/
def domBusy (s : State) (d : Nat) : Bool :=
  if d < dLoft then !(coreOf s d).wgs.isEmpty || s.tensors.any (fun o => o.holds && o.cores.contains d)
  else if d < dRaster then s.reqs.any fun r => match r.at_ with | .bank b => b / 16 + dLoft == d | _ => false
  else if d = dMemc then s.reqs.any (·.at_ == .dram)
  else false

/-- Wake latencies in µs (R433). -/
def wakeLatency (d : Nat) : Nat :=
  if d < dLoft then 8
  else if d < dRaster then 3
  else [6, 6, 4, 6, 4, 18, 0].getD (d - dRaster) 0

/-- The effective budget in µs and the permitted depth (R441). A budget of 0xFF_FFFF is no limit. -/
def budgetUs (s : State) : Option Nat :=
  (counted s).foldl (fun m f =>
    let b := fget s (F.PWR_LATENCY_BUDGET.BUDGET f)
    if b = 0xFFFFFF then m else match m with | some x => some (min x b) | none => some b) none
def fitsBudget (s : State) (us : Nat) : Bool := match budgetUs s with | some b => decide (us ≤ b) | none => true
def depth (s : State) : Nat := (counted s).foldl (fun m f => min m (fget s (F.PWR_VOTE.DEEPEST f))) 3

/-- DOMAIN_GATE (R433, R435): a domain idle for GATE_DELAY is gated when nothing holds it on. -/
def execDomainGate (d : Fin 28) (s : State) : Host.Outcome State Fault Refusal :=
  if domOn s d && decide (pwrState s ≤ pIdle) && bit (fget s F.PWR_AUTO.MASK) 0 && !bit (fget s F.PWR_DOMAIN_KEEP.KEEP) d &&
      !heldOn s d && !domBusy s d && fitsBudget s (wakeLatency d) then .next (gateDom s d)
  else .next s

/-! ## Power states (R437 to R443) -/

/-- Whether the device is quiet (R438); `link` tells that PCI Express is in L1 with L1.2 enabled, or down. -/
def quiet (s : State) (link : Bool) : Bool :=
  link && (s.rings.all fun p => p.2.state == .off || p.2.state == .asleep) && s.cues.isEmpty && s.follows.isEmpty &&
    !anyStream s && !anyOutput s && s.invs.isEmpty && rdN s R.SMGR_SC_PENDING == 0 &&
    ((upTo 3).all fun p => fget s (F.UL_P_STATE.STATE p) == 0 || !fbit s (F.UL_P_CFG.EN p))

/-- The greatest stabilisation delay of an OSC_DLY code in µs (R456), and the exit latency of a state (R437). -/
def oscMax (code : Nat) : Nat := [590, 1180, 2350, 4710, 9410, 18800, 37600, 75300].getD code 0
def exitUs (s : State) (target : Nat) : Nat :=
  if target = pGreen then 150 else oscMax (fget s F.CLK_SRC_STATUS.OSC_DLY) + 600

/-- Whether some context is LIVE or FAULTED. -/
def anyContext (s : State) : Bool := s.ctxs.any fun p => p.2.state == .live || p.2.state == .faulted

/-- The first refuser of a state entry, in table order (R442, R446). SHUTDOWN has no exit latency and no depth. -/
def entryRefuser (s : State) (target : Nat) (link : Bool) : Option Nat :=
  if !(armedPriv s).isEmpty then some 1
  else if !quiet s (link || target == pOff) || s.pwr.entry.isSome || s.pwr.move.isSome || decide (pIdle < pwrState s) then some 3
  else if target ≠ pOff ∧ (!fitsBudget s (exitUs s target) ∨ depth s < target) then some 4
  else if target = pDark ∧ !fbit s F.PWR_DARK_CFG.LOFT_RET ∧ anyContext s then some 5
  else none

/-- An entry begins with the move to OP0 (R439 steps 1 and 2). -/
def beginEntry (s : State) (target : Nat) : State :=
  startMove (modPwr s fun p => { p with entry := some ⟨target, false⟩, req := 8, goal := 0 }) 0

/-- A request for a state (R442). After OFF_READY nothing is taken. -/
def requestState (s : State) (target : Nat) (link : Bool) : State :=
  if pwrState s = pOff then s
  else match entryRefuser s target link with
    | some r => powerRefuse s r 0 target cStateRefused
    | none => beginEntry s target

/-- PWR_GREEN_ROOM_REQ (R438, R441, R442, R446). -/
def execPwrGreenRoomReq (link : Bool) (s : State) : Host.Outcome State Fault Refusal := .next (requestState s pGreen link)

/-- PWR_DARK_REQ (R438, R441 to R443, R446). -/
def execPwrDarkReq (link : Bool) (s : State) : Host.Outcome State Fault Refusal := .next (requestState s pDark link)

/-- PWR_SHUTDOWN_REQ (R438, R442, R446, R496, R502): when it is accepted, Rehearsal is on record as begun and suppressed
events are logged. -/
def execPwrShutdownReq (ms : Fin 1000) (s : State) : Host.Outcome State Fault Refusal :=
  let ok := (entryRefuser s pOff true).isNone && pwrState s != pOff
  let s' := requestState s pOff true
  .next (if ok then logSuppressed (saveHeader (modBoot s' fun b => { b with lastShutdown := 1 })) ms else s')

/-- PWR_WAKE_REQ (R440): WAKE written over SDIO F1 is a wake event. -/
def execPwrWakeReq (s : State) : Host.Outcome State Fault Refusal := .next (wakeEvent s)

/-- AUTO_STATE_ENTRY (R441, R443): a quiet device enters the deepest state that its depth, mask and budget permit. -/
def execAutoStateEntry (link : Bool) (s : State) : Host.Outcome State Fault Refusal :=
  let may := fun (t : Nat) => decide (t ≤ depth s) && bit (fget s F.PWR_AUTO.MASK) (t - 1) && fitsBudget s (exitUs s t)
  if !quiet s link || s.pwr.entry.isSome || s.pwr.move.isSome || decide (pIdle < pwrState s) then .next s
  else if may pDark then .next (requestState s pDark link)
  else if may pGreen then .next (requestState s pGreen link)
  else .next s

/-- Steps 3 to 6 of R439: the CACHE region is written back, the domains are gated, HOST last. -/
def gateAll (s : State) : State :=
  let s := cleanLines s 0 fun _ => true
  let s := modPwr (memcUp s dMemc false) fun p => { p with gated := p.gated ||| fget s F.PWR_DOMAIN_ON.ON }
  fset s F.PWR_DOMAIN_ON.ON 0

/-- The loops stop with their domains (R437). -/
def stopLoops (s : State) : State := (upTo 6).foldl loopUnlock s

/-- The crystals stop (R437: DARK). -/
def stopCrystals (s : State) : State :=
  let s := modPwr s fun p => { p with xa := Xtal.off, xb := Xtal.off }
  fset (fset (fset s F.CLK_SRC_STATUS.XA_OK 0) F.CLK_SRC_STATUS.XB_OK 0) F.CLK_SRC_STATUS.FIO_TRIMMED 0

/-- STATE_ENTRY_COMMIT (R436, R437, R439): at OP0 the device is gated and the state entered; for OFF, Rehearsal follows. -/
def execStateEntryCommit (s : State) : Host.Outcome State Fault Refusal :=
  match s.pwr.entry with
  | none => .next s
  | some e =>
    if e.committed || s.pwr.move.isSome || fget s F.PWR_STATE.CUR_OP != 0 then .next s
    else
      let s := gateAll s
      if e.target = pOff then .next (modPwr s fun p => { p with entry := some { e with committed := true } })
      else
        let s := fset { s with tc := [], wc := [], fio := false } F.PWR_STATE.STATE e.target
        let s := stopLoops (modPwr s fun p => { p with entry := none, hits := 0, sampling := false })
        let s := if e.target = pGreen then modBoot s fun b => { b with balls := b.balls.set 4 2 } else s
        .next (if e.target = pDark then stopCrystals s else s)

/-- The Loft's contents replaced by what it is found to hold: an exit without retention leaves them unspecified (R443). -/
def loftBecomes (s : State) (loft : List (Fin 0x4000000 × Byte)) : State :=
  { s with
    mem := loft.foldl (fun m p => mput 0 m p.1.val p.2) (s.mem.filter fun p => decide (64 * mib ≤ p.1)) }

/-- STATE_EXIT (R436, R440, R443): FIO runs, from DARK the crystals start, HOST and MEMC are ungated and the requested
point is sought. `loft` is what the Loft holds after DARK without retention. -/
def execStateExit (loft : List (Fin 0x4000000 × Byte)) (s : State) : Host.Outcome State Fault Refusal :=
  let st := pwrState s
  if !s.pwr.wake ∨ (st ≠ pGreen ∧ st ≠ pDark) then .next s
  else
    let s := modPwr { s with fio := true } fun p => { p with wake := false, sampling := false, req := 8 }
    let s :=
      if st = pDark then
        let s := modPwr s fun p => { p with xa := { Xtal.off with st := .delay }, xb := { Xtal.off with st := .delay } }
        if fbit s F.PWR_DARK_CFG.LOFT_RET then s
        else modCache (loftBecomes s loft) 0 fun c => { c with lines := [], side := [] }
      else s
    let s := fset s F.PWR_STATE.STATE pIdle
    .next (evalPoint (releaseDom (releaseDom s dHost) dMemc))

/-- PCIE_L12_EXIT (R440, R458): REFCLK is counted again. -/
def execPcieL12Exit (s : State) : Host.Outcome State Fault Refusal :=
  .next (wakeEvent (if s.pwr.refHold then modPwr s fun p => { p with refHold := false, refBad := 0 } else s))

/-! ## The Green Room (R444, R445) -/

/-- The configuration of the port that the Green Room listens on, and of the port it takes its clocks from. -/
def grPort (s : State) : Nat := sapCfg s (fget s F.PWR_GR_CFG.PORT)
def grClock (s : State) : Nat := sapCfg s (clockSrc (sapCfg s) (fget s F.PWR_GR_CFG.PORT))

/-- Whether the slot gives frames (R444, R445): the port is on and has the slot; a master's family loop is locked on its own
crystal, and a slave uses the clocks it receives. -/
def grHears (s : State) : Bool :=
  let n := 4 + cFamily (grClock s)
  cMode (grPort s) != 0 && decide (fget s F.PWR_GR_CFG.SLOT < slotsOf (grPort s)) &&
    (cRole (grClock s) != 0 || (locked s n && !onAlt s n))

/-- The PIT domain and FIO stop until the next sample. -/
def grSleep (s : State) : State := loopUnlock (loopUnlock { gateDom s dPit with fio := false } 4) 5

/-- GR_PERIOD_TICK (R445): FIO and the PIT domain wake for a sample; the loop of a master's family locks in its own row. -/
def execGrPeriodTick (s : State) : Host.Outcome State Fault Refusal :=
  if pwrState s ≠ pGreen ∨ s.pwr.sampling ∨ s.pwr.wake then .next s
  else .next (modPwr (setDom { s with fio := true } dPit true) fun p => { p with sampling := true })

/-- The magnitude of a sample, with that of -2^31 taken as 2^31 - 1. -/
def magnitude (v : BitVec 32) : Nat := min v.toInt.natAbs (2 ^ 31 - 1)

/-- GR_SAMPLE_DONE (R440, R444, R445): the peak of the slot's block is latched and compared; HITS hits in a row are a wake
event, and WAKE_N goes low or a PME is sent. A port that is not set up for it, or is without its word clock, gives no frame,
and a peak of 0. -/
def execGrSampleDone (block : List (BitVec 32)) (s : State) : Host.Outcome State Fault Refusal :=
  if !s.pwr.sampling then .next s
  else
    let heard := if grHears s then block.take (8 * 2 ^ fget s F.PWR_GR_CFG.BLOCK) else []
    let peak := (heard.map magnitude).foldl max 0
    let hits := if fget s F.PWR_GR_THRESH.THRESH ≤ peak then s.pwr.hits + 1 else 0
    let s := modPwr (fset s F.PWR_GR_PEAK.PEAK peak) fun p => { p with hits := hits, sampling := false }
    if hits = fget s F.PWR_GR_CFG.HITS + 1 then
      let s := raiseSys s E.PWR_STATUS.GR_HIT
      .next (wakeEvent (if fbit s F.PWR_GR_CFG.WAKE_SEL then send s .pme
        else send (modPwr s fun p => { p with wakeLow := true }) (.wake true)))
    else .next (grSleep s)

/-! ## Operating points (R447 to R452) -/

/-- PWR_OP_REQ_WRITE (R447). -/
def execPwrOpReqWrite (op : BitVec 3) (s : State) : Host.Outcome State Fault Refusal :=
  .next (evalPoint (fset s F.PWR_OP_REQ.OP op.toNat))

/-- PWR_VOTE_WRITE (R441, R447). -/
def execPwrVoteWrite (fn : Fin 32) (opMin : BitVec 3) (deepest : BitVec 3) (s : State) : Host.Outcome State Fault Refusal :=
  .next (evalPoint (fset (fset s (F.PWR_VOTE.OP_MIN fn) opMin.toNat) (F.PWR_VOTE.DEEPEST fn) deepest.toNat))

/-- The voltage steps outstanding: of the move, or of the held point. -/
def stepsOf (s : State) : List AvsStep := match s.pwr.move with | some m => m.steps | none => s.pwr.heldSteps
def modSteps (s : State) (f : List AvsStep → List AvsStep) : State :=
  modPwr s fun p => match p.move with
    | some m => { p with move := some { m with steps := f m.steps } }
    | none => { p with heldSteps := f p.heldSteps }

/-- A transition-rate frame is answered (R449): with a bad CRC it is resent, up to 3 times. -/
def slewAck (s : State) (rail resent : Nat) (good : Bool) : State :=
  let rest := s.pwr.slews.filter (·.1 != rail)
  if good || 3 ≤ resent then modPwr s fun p => { p with slews := rest }
  else send (modPwr s fun p => { p with slews := rest ++ [(rail, resent + 1)] }) (.avsSlew (railSel s rail) (fget s F.PWR_AVS_CFG.SLEW))

/-- AVS_FRAME_ACK (R449): a SlaveAck of good CRC, or a bad one, on which the frame is resent up to 3 times. A rail's frames
are answered in the order they are sent, its transition rate first. -/
def execAvsFrameAck (rail : Fin 2) (good : Bool) (s : State) : Host.Outcome State Fault Refusal :=
  let hit := fun (x : AvsStep) => x.rail == rail.val && !x.acked
  match s.pwr.slews.find? (·.1 == rail.val), (stepsOf s).find? hit with
  | some (_, n), _ => .next (slewAck s rail n good)
  | none, none => .next s
  | none, some x =>
    if good then .next (modSteps s (mapFirst hit fun x => { x with acked := true }))
    else if x.resent < 3 then .next (sendAvs (modSteps s (mapFirst hit fun x => { x with resent := x.resent + 1 })) [x])
    else .next s

/-- What follows once every voltage step is acknowledged: a move up sets its edge clocks; the held point is no longer held,
and what was asked for meanwhile, and a cap that fell meanwhile, is served (R448, R450, R452). -/
def stepsDone (s : State) : State :=
  match s.pwr.move with
  | some m =>
    if m.clocks ≠ .no then s
    else
      let sw := dramRate m.src != dramRate m.dst && fbit s F.MEMC_STATE.TRAINED
      modPwr s fun p => { p with move := some { m with clocks := if sw then .due else .set } }
  | none => if fbit s F.PWR_STATE.HELD then followGoal (evalPoint (fset s F.PWR_STATE.HELD 0)) else s

/-- AVS_STATUS_POLL (R448, R449): what the Status read says of each rail, and VDD_CORE as read back. -/
def execAvsStatusPoll (core loft : Bool) (mv : BitVec 16) (s : State) : Host.Outcome State Fault Refusal :=
  let done := fun (x : AvsStep) => x.acked && (if x.rail = 0 then core else loft)
  if !(stepsOf s).any done then .next s
  else
    let s := fset (modSteps s fun l => l.filter (!done ·)) F.PWR_AVS_STATUS.MV mv.toNat
    .next (if (stepsOf s).isEmpty then stepsDone s else s)

/-- AVS_STEP_TIMEOUT (R446, R449, R450): the device stays at the lower point, held. -/
def execAvsStepTimeout (s : State) : Host.Outcome State Fault Refusal :=
  if (stepsOf s).isEmpty then .next s
  else
    let s := fincSat s F.PWR_AVS_STATUS.TIMEOUTS
    match s.pwr.move with
    | none => .next (modPwr s fun p => { p with heldSteps := [] })
    | some m =>
      let s := modPwr s fun p => { p with move := none, goal := min m.src m.dst }
      let s := fset (fset s F.PWR_STATE.MOVING 0) F.PWR_STATE.HELD 1
      .next (powerRefuse (raiseSys s E.PWR_STATUS.HELD) 7 1 m.dst cNoAck)

/-- HELD_POLL (R450): at the first good answer the held point's voltages are written. -/
def execHeldPoll (good : Bool) (s : State) : Host.Outcome State Fault Refusal :=
  if !fbit s F.PWR_STATE.HELD ∨ !good ∨ !s.pwr.heldSteps.isEmpty ∨ s.pwr.move.isSome then .next s
  else
    let op := fget s F.PWR_STATE.CUR_OP
    let l : List AvsStep := [⟨0, vCore op, 0, false, false⟩, ⟨1, vLoft op, 0, false, false⟩]
    .next (sendAvs (modPwr s fun p => { p with heldSteps := l }) l)

/-- OP_MOVE_DONE (R447): CUR_OP takes the target, and what is pending is evaluated. -/
def execOpMoveDone (s : State) : Host.Outcome State Fault Refusal :=
  match s.pwr.move with
  | none => .next s
  | some m =>
    if m.clocks ≠ .set ∨ !m.written ∨ !m.steps.isEmpty then .next s
    else
      let s := fset (fset s F.PWR_STATE.CUR_OP m.dst) F.PWR_STATE.MOVING 0
      let s := modPwr s fun p => { p with move := none }
      .next (followGoal (evalPoint (if locked s 0 then loopLock s 0 else s)))

/-- Whether the switch may start (R451): the memory controller's queue is drained, and the lowest-numbered enabled output, if
one is, stands at its first line of vertical blanking. -/
def switchReady (s : State) : Bool :=
  !s.reqs.any (·.at_ == .dram) &&
    match (upTo 3).find? (outEn s) with
    | some o => fget s (F.PROSC_DO_SCAN.LINE o) == vActive s o
    | none => true

/-- DRAM_RATE_SWITCH (R451): DRAM enters self-refresh and ML0 locks anew. -/
def execDramRateSwitch (s : State) : Host.Outcome State Fault Refusal :=
  match s.pwr.move with
  | none => .next s
  | some m =>
    if m.clocks ≠ .due ∨ !switchReady s then .next s
    else
      let s := modPwr s fun p => { p with move := some { m with clocks := .switching } }
      .next (loopUnlock (fset (fset s F.MEMC_STATE.SELF_REFRESH 1) F.MEMC_STATE.SWITCHING 1) 0)

/-- DRAM_RATE_SWITCH_DONE (R448, R451): DRAM resumes; a move down then writes its voltages. -/
def execDramRateSwitchDone (s : State) : Host.Outcome State Fault Refusal :=
  match s.pwr.move with
  | none => .next s
  | some m =>
    if m.clocks ≠ .switching then .next s
    else
      let s := fset (fset s F.MEMC_STATE.SELF_REFRESH 0) F.MEMC_STATE.SWITCHING 0
      let s := fset (fset s F.MEMC_CFG.MTS (dramRate m.dst)) (F.CLK_ML_FREQ.KHZ 0) (dramRate m.dst * 500)
      let s := fset s (F.CLK_ML_FREQ.LOCKED 0) 1
      let l := if m.written then m.steps else avsSteps m.src m.dst
      let s := modPwr s fun p => { p with move := some { m with clocks := .set, written := true, steps := l } }
      .next (if m.written then s else sendAvs s l)

/-- THERMAL_CAP_STEP (R452): above CAP_TEMP the cap falls a point, though not below the highest armed FLOOR_OP, and the
device with it; below RELEASE it rises. -/
def execThermalCapStep (tj : BitVec 8) (s : State) : Host.Outcome State Fault Refusal :=
  let s := fset s F.PWR_THERM.TJ tj.toNat
  let cap := fget s F.PWR_STATE.CAP_OP
  if sx 8 (fget s F.PWR_THERM_CFG.CAP_TEMP) < tj.toInt then
    if cap ≤ floorPoint s then .next s
    else
      let s := raiseSys (fset s F.PWR_STATE.CAP_OP (cap - 1)) E.PWR_STATUS.THROTTLE
      .next (followGoal (powerEvent s cThrottle 0x03 2))
  else if tj.toInt < sx 8 (fget s F.PWR_THERM_CFG.RELEASE) ∧ cap < maxPoint s then
    .next (followGoal (fset s F.PWR_STATE.CAP_OP (cap + 1)))
  else .next s

/-! ## Crystals, FIO and REFCLK (R211, R212, R455 to R458, R462) -/

/-- A crystal's OK bit. -/
def xtalOk (x : Nat) : Fld := if x = 0 then F.CLK_SRC_STATUS.XA_OK else F.CLK_SRC_STATUS.XB_OK
def pitOk (x : Nat) : Fld := if x = 0 then F.PIT_CLK_STATUS.XA_OK else F.PIT_CLK_STATUS.XB_OK

/-- A crystal fails (R211, R455, R457, R462): recorded; its loops go to the other crystal, or, when that has failed too, a
double clock-source loss resets the device and holds its start. A retry that fails in a start so held resets nothing more. -/
def xtalFail (s : State) (x : Nat) : State :=
  let s := fset (modXtal s x fun c => { c with st := .failed, bad := 0, good := 0 }) (xtalOk x) 0
  let s := raiseSys s (if x = 0 then E.CLK_EVENT.XA_FAIL else E.CLK_EVENT.XB_FAIL)
  if (xtal s (1 - x)).st = .failed then
    let s := fset (powerEvent s cXtalFailed 0x02 1) F.CLK_SRC_STATUS.FIO_TRIMMED 0
    if s.pwr.lost then s else modPwr (assertSource s 8 0) fun p => { p with lost := true }
  else
    let ns := (upTo 6).filter fun n => loopXtal s n == x
    let s := ns.foldl (fun s n => setRef s n (1 - x != normalXtal n)) (raiseSys s E.CLK_EVENT.FAILOVER)
    powerEvent (if ns.contains 4 || ns.contains 5 then raise s E.PIT_CLK_STATUS.FAILOVER else s) cXtalFailed 0x02 1

/-- A crystal has given two good windows after its delay (R456): it is good, and a held start goes on (R462). -/
def xtalGood (s : State) (x : Nat) : State :=
  modPwr (fset (modXtal s x fun c => { c with st := .good }) (xtalOk x) 1) fun p => { p with lost := false }

/-- XTAL_WINDOW_END (R211, R455 to R457): a window of `edges` edges. -/
def execXtalWindowEnd (x : Fin 2) (edges : Nat) (s : State) : Host.Outcome State Fault Refusal :=
  let bad := edges < 16 ∨ 48 < edges
  let c := xtal s x
  let s := if c.st = .off then s else fset s (pitOk x) (if bad then 0 else 1)
  let s := modXtal s x fun c =>
    { c with bad := if bad then c.bad + 1 else 0, good := if bad then 0 else min 65536 (c.good + 1) }
  match c.st with
  | .judged => .next (if !decide bad && decide (2 ≤ c.good + 1) then xtalGood s x else s)
  | .good => .next (if decide bad && decide (2 ≤ c.bad + 1) then xtalFail s x else s)
  | .failed => .next s
  | .off => .next (modXtal s x fun _ => c)
  | .delay => .next (modXtal s x fun _ => c)

/-- LOOP_LOCKED (R211, R455): a loop locks on the crystal it runs from, which must be good. -/
def execLoopLocked (n : Fin 6) (s : State) : Host.Outcome State Fault Refusal :=
  if (xtal s (loopXtal s n)).st = .good then .next (loopLock s n) else .next s

/-- A loop goes back to its own crystal once that has given 65,536 good windows in a row (R212). -/
def restoreLoop (s : State) (n : Nat) : State :=
  let x := normalXtal n
  if onAlt s n && (xtal s x).good == 65536 then setRef (xtalGood s x) n false else s

/-- PIT_CLK_RESTORE (R212): the audio loops. -/
def execPitClkRestore (s : State) : Host.Outcome State Fault Refusal :=
  regCmd s dPit (.next (restoreLoop (restoreLoop s 4) 5))

/-- CLK_RESTORE (R455): ML0 to ML3. -/
def execClkRestore (s : State) : Host.Outcome State Fault Refusal := .next ((upTo 4).foldl restoreLoop s)

/-- FIO_TRIM (R455, R480): FIO is trimmed against a running crystal; the code stays in its field range. -/
def execFioTrim (trim : BitVec 10) (s : State) : Host.Outcome State Fault Refusal :=
  if s.pwr.xa.st = .good ∨ s.pwr.xb.st = .good then
    .next (fset (fset s F.CLK_FIO_TRIM.TRIM trim.toNat) F.CLK_SRC_STATUS.FIO_TRIMMED 1)
  else .next (fset s F.CLK_SRC_STATUS.FIO_TRIMMED 0)

/-- OSC_DELAY_EXPIRE (R456): the crystal's windows are judged from now on. -/
def execOscDelayExpire (x : Fin 2) (s : State) : Host.Outcome State Fault Refusal :=
  if (xtal s x).st = .delay then .next (modXtal s x fun _ => ⟨.judged, 0, 0⟩) else .next s

/-- XTAL_START_TIMEOUT (R457): a crystal not good within the delay plus 10 ms is failed. -/
def execXtalStartTimeout (x : Fin 2) (s : State) : Host.Outcome State Fault Refusal :=
  let st := (xtal s x).st
  if st = .delay ∨ st = .judged then .next (xtalFail s x) else .next s

/-- CRYSTAL_RESTART (R462): while a double clock-source loss holds the start, both crystals are started again. -/
def execCrystalRestart (s : State) : Host.Outcome State Fault Refusal :=
  if s.pwr.lost then
    .next (modPwr s fun p => { p with xa := { Xtal.off with st := .delay }, xb := { Xtal.off with st := .delay } })
  else .next s

/-- REFCLK_WINDOW_END (R458): two bad windows in a row are a loss of REFCLK, a reset source. -/
def execRefclkWindowEnd (edges : Nat) (s : State) : Host.Outcome State Fault Refusal :=
  if s.pwr.refHold then .next s
  else if edges < 64 ∨ 200 < edges then
    let n := s.pwr.refBad + 1
    let s := modPwr s fun p => { p with refBad := min n 2 }
    if n = 2 then
      .next (assertSource (raiseSys (fset s F.CLK_SRC_STATUS.REFCLK_OK 0) E.CLK_EVENT.REFCLK_LOST) 9 0)
    else .next s
  else .next (fset (modPwr s fun p => { p with refBad := 0 }) F.CLK_SRC_STATUS.REFCLK_OK 1)

/-- CLKREQ_ASSERT (R458): the count resumes. -/
def execClkreqAssert (s : State) : Host.Outcome State Fault Refusal :=
  .next (modPwr s fun p => { p with refHold := false, refBad := 0 })

/-- CLKREQ_RELEASE (R458): the count is suspended while the link is in L1.2, which `l12` tells. -/
def execClkreqRelease (l12 : Bool) (s : State) : Host.Outcome State Fault Refusal :=
  .next (if l12 then modPwr s fun p => { p with refHold := true } else s)

end Sys2Proof.Machine
end

