-- ==== Sys2Proof/Machine/Compression.lean ====
section
/-! DEFINITION. The block compression engines (spec/13_compression.md R419 to R432). -/

namespace Sys2Proof.Machine

open Sys2Proof

/-! ## The block format (R419 to R424) -/

/-- Code lengths used, as symbol and length. -/
def usedLens (lens : List Nat) : List (Nat × Nat) := ((upTo lens.length).zip lens).filter fun p => p.2 != 0

/-- The first code of each length, from length 1 on (R422). -/
def firstCodes (lens : List Nat) : List Nat :=
  ((upTo 14).foldl (fun (a : List Nat) i =>
    a ++ [2 * (a.getLastD 0 + countWhere (· == i + 1) lens)]) [0])

/-- The canonical codes: symbol, length, code (R422). -/
def canonCodes (lens : List Nat) : List (Nat × Nat × Nat) :=
  let first := firstCodes lens
  (usedLens lens).map fun p =>
    (p.1, p.2, first.getD (p.2 - 1) 0 + countWhere (· == p.2) (lens.take p.1))

/-- Whether lengths form a complete prefix code (R424). -/
def completeCode (lens : List Nat) : Bool := sumBy (fun p : Nat × Nat => 2 ^ (15 - p.2)) (usedLens lens) == 2 ^ 15

/-- Whether the lengths of the distance alphabet are ones R424 allows. -/
def distOk (lens : List Nat) : Bool :=
  (usedLens lens).isEmpty || completeCode lens || (usedLens lens).map (·.2) == [1]

/-- Read one Huffman code, most significant bit first (R423), `n` bits at most: the symbol and the position after it. -/
def readSym (codes : List (Nat × Nat × Nat)) (bs : Nat) : Nat → Nat → Nat → Nat → Option (Nat × Nat)
  | 0, _, _, _ => none
  | n + 1, len, code, pos =>
    let code := 2 * code + b2n (bit bs pos)
    match codes.find? fun c => c.2.1 == len + 1 && c.2.2 == code with
    | some c => some (c.1, pos + 1)
    | none => readSym codes bs n (len + 1) code (pos + 1)

/-- The value of a length or distance code, and the position after its extra bits (R423). -/
def codeValue (bs c pos : Nat) : Nat × Nat :=
  if c < 8 then (c, pos)
  else
    let n := (c - 8) / 4 + 3
    ((4 + (c - 8) % 4) * 2 ^ (n - 2) + bits bs (pos + n - 3) pos, pos + (n - 2))

/-- Copy `n` bytes from `d` back, byte by byte (R423); the output is held last byte first. -/
def copyBack (d : Nat) : Nat → List Byte → List Byte
  | 0, out => out
  | n + 1, out => copyBack d n (out.getD (d - 1) 0 :: out)

/-- Decode symbols until END (R423, R424): the output, last byte first, and the position after END; `none` when malformed.
Every symbol but END adds a byte, so `orig` + 1 steps are enough. -/
def decodeSyms (lits dists : List (Nat × Nat × Nat)) (bs orig : Nat) : Nat → Nat → List Byte → Option (List Byte × Nat)
  | 0, _, _ => none
  | f + 1, pos, out =>
    match readSym lits bs 15 0 0 pos with
    | none => none
    | some (sym, pos) =>
      if sym < 256 then
        if orig ≤ out.length then none else decodeSyms lits dists bs orig f pos (BitVec.ofNat 8 sym :: out)
      else if sym = 256 then (if out.length = orig then some (out, pos) else none)
      else
        let l := codeValue bs (sym - 257) pos
        match readSym dists bs 15 0 0 l.2 with
        | none => none
        | some (d, pos) =>
          let v := codeValue bs d pos
          if out.length < v.1 + 1 ∨ orig < out.length + (l.1 + 4) then none
          else decodeSyms lits dists bs orig f v.2 (copyBack (v.1 + 1) (l.1 + 4) out)

/-- The original bytes of a coded block's payload, header apart (R421 to R424); `none` when malformed. -/
def decodePayload (orig : Nat) (p : List Byte) : Option (List Byte) :=
  let nib := fun (i : Nat) => bits (p.getD (i / 2) 0).toNat (4 * (i % 2) + 3) (4 * (i % 2))
  let lit := (upTo 317).map nib
  let dist := (upTo 60).map fun i => nib (317 + i)
  let body := p.drop 189
  if p.length < 190 ∨ !completeCode lit ∨ lit.getD 256 0 = 0 ∨ !distOk dist ∨ nib 377 ≠ 0 then none
  else
    let bs := leNat body
    match decodeSyms (canonCodes lit) (canonCodes dist) bs orig (orig + 1) 0 [] with
    | none => none
    | some (out, pos) =>
      if ceilDiv pos 8 = body.length ∧ bs < 2 ^ pos then some out.reverse else none

/-- Header fields. -/
def bType (h : List Byte) : Nat := field h 1 1
def bOrig (h : List Byte) : Nat := field h 4 4
def bComp (h : List Byte) : Nat := field h 8 4
def bCrc (h : List Byte) : Nat := field h 12 4

/-- Whether a header is well formed with `avail` source bytes from it on (R424). -/
def compHeaderOk (h : List Byte) (avail : Nat) : Bool :=
  decide (16 ≤ avail) && field h 0 1 == 0xB7 && decide (bType h ≤ 1) && zeros h 2 2 && inRange (bOrig h) 1 65536 &&
    (if bType h = 0 then bComp h == 16 + bOrig h else decide (206 ≤ bComp h)) && decide (bComp h ≤ avail)

/-- The original bytes of a block with a good header. -/
def codedBlockBytes (b : List Byte) : Option (List Byte) :=
  if bType b = 0 then some ((b.drop 16).take (bOrig b)) else decodePayload (bOrig b) ((b.take (bComp b)).drop 16)

/-- The header of a block. -/
def mkHeader (ty orig comp : Nat) (data : List Byte) : List Byte :=
  leBytes 1 0xB7 ++ leBytes 1 ty ++ leBytes 2 0 ++ leBytes 4 orig ++ leBytes 4 comp ++ leBytes 4 (crc32c data)

/-- A block of original bytes (R425): coded when the coded form is shorter than the stored one. The part chooses the coded
payload; whatever it chooses decodes to the original (R425). -/
def mkBlock (level : Nat) (data : List Byte) : List Byte :=
  let p := Config.coded level data
  if p.length < data.length ∧ decodePayload data.length p = some data then
    mkHeader 1 data.length (16 + p.length) data ++ p
  else mkHeader 0 data.length (16 + data.length) data ++ data

/-! ## Cues (R426 to R428) -/

abbrev cCompFormat : Nat := 0x0901
abbrev cCompCheck : Nat := 0x0902
abbrev cCompSpace : Nat := 0x0903

/-- Fields of the compression record. -/
def zSrc (b : List Byte) : Nat := field b 0 8
def zDst (b : List Byte) : Nat := field b 8 8
def zIndex (b : List Byte) : Nat := field b 16 8
def zSrcLen (b : List Byte) : Nat := field b 24 4
def zCap (b : List Byte) : Nat := field b 28 4
def zBlocks (b : List Byte) : Nat := field b 32 2
def zLevel (b : List Byte) : Nat := field b 34 1
def zReport (b : List Byte) : Nat := field b 40 8

/-- Blocks of a cue. -/
def cueBlocks (decomp : Bool) (b : List Byte) : Nat := if decomp then zBlocks b else ceilDiv (zSrcLen b) 65536

/-- Beats per block, at most (R426). -/
def levelBeats (l : Nat) : Nat := [65536, 81920, 98304, 131072, 163840, 229376, 294912, 360448, 393216].getD (l - 1) 0
def cueBound (decomp : Bool) (b : List Byte) : Nat :=
  1024 + cueBlocks decomp b * (if decomp then 16384 else levelBeats (zLevel b))

/-- The check of a record (R427, R428): fields, extents apart, and a declared cost that covers the cue bound. -/
def recordOk (decomp : Bool) (b : List Byte) (maxBeats : Nat) : Bool :=
  let src := (zSrc b, zSrcLen b)
  let outs := [(zDst b, zCap b), (zReport b, 32)] ++
    (if decomp ∨ zIndex b = 0 then [] else [(zIndex b, 4 * cueBlocks decomp b)])
  let apart := fun (x y : Nat × Nat) => !overlaps x.1 x.2 y.1 y.2
  (if decomp then zIndex b == 0 && inRange (zBlocks b) 1 256 && zLevel b == 0
   else zDst b % 64 == 0 && zIndex b % 4 == 0 && inRange (zSrcLen b) 1 16777216 && zBlocks b == 0 && inRange (zLevel b) 1 9) &&
    zeros b 35 5 && zeros b 48 16 && outs.all (apart src) &&
    (upTo outs.length).all (fun i => (outs.drop (i + 1)).all (apart (outs.getD i (0, 0)))) &&
    decide (cueBound decomp b ≤ maxBeats)

/-- The report (R431). -/
def compReport (r : CompRun) (fail : Nat) : List Byte :=
  leBytes 4 r.out ++ leBytes 4 r.block ++ leBytes 4 r.stored ++ leBytes 4 r.used ++ leBytes 4 fail ++ leBytes 12 0

/-- The engine's registers show a cue in work, or none. -/
def showComp (s : State) (r : CompRun) (busy : Bool) : State :=
  let s := fset (fset s (F.XFER_E_STATUS.BUSY r.engine) (b2n busy)) (F.XFER_E_STATUS.OP r.engine) (b2n r.decomp)
  let s := fset s (F.XFER_E_STATUS.LEVEL r.engine) (if busy && !r.decomp then zLevel r.raw else 0)
  fset (fset s (F.XFER_E_STATUS.CID r.engine) r.cid) (F.XFER_E_BLOCK.BLOCK r.engine) r.block

/-- A compression engine as it makes a cue's accesses (R107, R432). -/
def compEng (r : CompRun) : EngAsk := ⟨compPort r.engine, r.cid, noTag, .cue r.uid, 0xFF, 0xFF, 0xFB, r.raddr, field r.raw 0 4⟩

/-- The report of a cue that ends (R431), whatever ends it once its record is read: it is written last, before its record. -/
def putCompReport (s : State) (r : CompRun) (fail : Nat) : State :=
  { s with reports := s.reports ++ [⟨r.uid, compEng r, zReport r.raw, compReport r fail⟩] }

/-- A cue leaves its engine. -/
def leaveComp (s : State) (r : CompRun) (fail : Nat) : State :=
  let s := unhold { s with comps := s.comps.filter (·.uid != r.uid) } (.comp r.engine)
  putCompReport (showComp s r false) r fail

/-- A cue ends (R431). -/
def endComp (s : State) (r : CompRun) (code : Nat) (fail : Nat := 0xFFFFFFFF) : State :=
  endCue (leaveComp s r fail) r.uid code

/-- The fault of a compression cue (R432). -/
def compFault (s : State) (cid uid raddr iword code addr : Nat) : State :=
  endCue (reportFault s cid (faultRec code 0xFF 0xFF cid 0xFB 0xFF raddr (some addr) iword false) (some uid)) uid code

/-- A cue starts on a free engine (R337, R427, R428, R434); one that its record fails ends with its report (R431). -/
def compStart (s : State) (src : CueSrc) (opc : Nat) (decomp : Bool) : State :=
  match (upTo 2).find? fun e => !s.comps.any (·.engine == e) with
  | none => s
  | some e => placeCue s src opc .comp fun s0 s' c =>
    let run := fun (b : List Byte) => (⟨c.uid, c.cid, e, decomp, b, c.ea, 0, 0, 0, 0⟩ : CompRun)
    whenUp s0 [dXfer] <| engineUnit s0 s' (compEng (run [])) [(c.ea, 64, false)]
      (fun code a => useFree (compFault s' c.cid c.uid c.ea (freeVal s' % 2 ^ 32) code a))
      fun s' pages =>
        let b := ctxRead s' pages c.ea 64
        if !recordOk decomp b c.maxBeats then endCue (putCompReport s' (run b) 0xFFFFFFFF) c.uid cCueInvalid
        else showComp (startSlice { s' with comps := s'.comps ++ [run b] } c.cid) (run b) true

/-- CUE_COMPRESS (R427, R428). -/
def execCueCompress (src : Src) (s : State) : Host.Outcome State Fault Refusal := .next (compStart s (srcOf src) 6 false)

/-- CUE_DECOMPRESS (R427, R428). -/
def execCueDecompress (src : Src) (s : State) : Host.Outcome State Fault Refusal := .next (compStart s (srcOf src) 7 true)

/-! ## Blocks (R425, R429, R430, R432) -/

/-- The cue in work on an engine. -/
def compOn (s : State) (e : Nat) (decomp : Bool) : Option CompRun := s.comps.find? fun r => r.engine == e && r.decomp == decomp

/-- A block is complete: the cue goes on, or ends when it was the last. -/
def blockDone (s : State) (r : CompRun) (used out stored cnt : Nat) : State :=
  let r' := { r with block := r.block + 1, used := r.used + used, out := r.out + out, stored := r.stored + stored }
  let s := incSat (incSat s cnt) (R.XFER_E_STORED r.engine) stored
  let s := showComp { s with comps := mapWhere (·.uid == r.uid) (fun _ => r') s.comps } r' true
  if r'.block = cueBlocks r.decomp r.raw then endComp s r' cOk else s

/-- A page of a block's unit failed (R432). -/
def blockFault (s : State) (r : CompRun) (code addr : Nat) : State :=
  compFault (leaveComp s r r.block) r.cid r.uid r.raddr (field r.raw 0 4) code addr

/-- The input of a block could not be read (R370, R371, R432): its unit is input and output together, and names the fault.
How far the output of a block reaches that cannot be read is not stated: as far as a block can, up to DST_CAP (DESIGN CHOICE,
log 54). -/
def inputFault (s0 s : State) (r : CompRun) (src : Nat × Nat × Bool) (more : List (Nat × Nat × Bool)) (code addr : Nat) : State :=
  let n := min (65536 + (if r.decomp then 0 else 64)) (zCap r.raw - r.out)
  match xlateUnit s r.cid (src :: (zDst r.raw + r.out, n, true) :: more) with
  | .waits f g => askAts s0 f g
  | .fault code a => blockFault s r code a
  | .ok _ => blockFault s r code addr

/-- A block ended its cue with a code and a flag (R429, R430). -/
def blockFail (s : State) (r : CompRun) (code : Nat) (f : Flag) : State := endComp (raise s f) r code r.block

/-- COMPRESS_BLOCK_DONE (R419, R425, R430): the next block is encoded and written with its padding and index entry when
all of it fits, or the cue ends with COMP_NO_SPACE. -/
def execCompressBlockDone (e : Fin 2) (s : State) : Host.Outcome State Fault Refusal :=
  match compOn s e false with
  | none => .next s
  | some r =>
    let b := r.raw
    let n := min 65536 (zSrcLen b - r.used)
    let src := (zSrc b + r.used, n, false)
    let ix := zIndex b + 4 * r.block
    let index := if zIndex b = 0 then [] else [(ix, 4, true)]
    .next (engineUnit s s (compEng r) [src] (inputFault s s r src index) fun t pages =>
      let blk := mkBlock (zLevel b) (ctxRead s pages src.1 n)
      let full := padTo (alignUp blk.length 64) blk
      if zCap b < r.out + full.length then blockFail t r cCompSpace (E.XFER_E_EVENT.NO_SPACE e)
      else
        let dst := zDst b + r.out
        engineUnit s s (compEng r) (src :: (dst, full.length, true) :: index) (blockFault s r) fun s pages =>
          let s := ctxWrite s (compEng r) pages dst full
          let s := if zIndex b = 0 then s else ctxWrite s (compEng r) pages ix (leBytes 4 r.out)
          blockDone s r n full.length (b2n (bType blk == 0)) (R.XFER_E_CBLOCKS e))

/-- DECOMPRESS_BLOCK_DONE (R424, R429): the next block is decoded, checked and written, or the cue ends with its code. -/
def execDecompressBlockDone (e : Fin 2) (s : State) : Host.Outcome State Fault Refusal :=
  match compOn s e true with
  | none => .next s
  | some r =>
    let b := r.raw
    let at_ := zSrc b + r.used
    let avail := zSrcLen b - r.used
    let bad := fun (s : State) => blockFail s r cCompFormat (E.XFER_E_EVENT.FORMAT_ERR e)
    if avail < 16 then .next (bad s)
    else .next (engineUnit s s (compEng r) [(at_, 16, false)] (inputFault s s r (at_, min avail 65552, false) []) fun t pages =>
      let h := ctxRead s pages at_ 16
      if !compHeaderOk h avail then bad t
      else
        let dst := zDst b + r.out
        let fits := decide (r.out + bOrig h ≤ zCap b)
        engineUnit s s (compEng r) ((at_, bComp h, false) :: if fits then [(dst, bOrig h, true)] else [])
          (blockFault s r) fun s pages =>
            match codedBlockBytes (ctxRead s pages at_ (bComp h)) with
            | none => bad s
            | some out =>
              if crc32c out ≠ bCrc h then blockFail s r cCompCheck (E.XFER_E_EVENT.CHECK_ERR e)
              else if !fits then blockFail s r cCompSpace (E.XFER_E_EVENT.NO_SPACE e)
              else
                blockDone (ctxWrite s (compEng r) pages dst out) r (min avail (alignUp (bComp h) 64)) (bOrig h)
                  (b2n (bType h == 0)) (R.XFER_E_DBLOCKS e))

/-- COMPRESS_ABORT (R431, R432): a cue asked to stop leaves its engine, and its report is written. -/
def execCompressAbort (src : Src) (s : State) : Host.Outcome State Fault Refusal :=
  match stopOf s (srcOf src) [6, 7] with
  | none => .next s
  | some (c, code) =>
    match s.comps.find? (·.uid == c.uid) with
    | none => .next (stopDone s c.uid code)
    | some r => .next (stopDone (leaveComp s r 0xFFFFFFFF) c.uid code)

end Sys2Proof.Machine
end

