-- ==== Sys2Proof/Machine/Raster.lean ====
section
/-! DEFINITION. The tiled raster pipeline (spec/06_raster.md R216 to R243). -/

namespace Sys2Proof.Machine

open Sys2Proof

/-! ## The pass descriptor and the target records (R217, R218, R220) -/

/-- Fields of a pass descriptor. -/
def pWidth (d : List Byte) : Nat := field d 0 2
def pHeight (d : List Byte) : Nat := field d 2 2
def pTargets (d : List Byte) : Nat := field d 4 1
def pDfmt (d : List Byte) : Nat := field d 5 1
def pDclear (d : List Byte) : Bool := bit (field d 6 1) 0
def pDstore (d : List Byte) : Bool := bit (field d 6 1) 1
def pDraws (d : List Byte) : Nat := field d 40 4

/-- Tiles of a pass, in a row and in all (R226). -/
def pTilesX (d : List Byte) : Nat := ceilDiv (pWidth d) 32
def pTiles (d : List Byte) : Nat := pTilesX d * ceilDiv (pHeight d) 32

/-- The record of target `i`, and its format. -/
def tgt (ts : List Byte) (i : Nat) : List Byte := (ts.drop (32 * i)).take 32
def tFmt (t : List Byte) : Nat := field t 12 1

/-- Bytes per pixel of a depth format. -/
def depthBytes (dfmt : Nat) : Nat := if dfmt = 1 then 2 else 4

/-- The rules of an image: non-zero, 64-byte aligned, a stride that is a multiple of 4 and holds a row (R218). -/
def imageOk (addr stride width bpp : Nat) : Bool :=
  addr != 0 && addr % 64 == 0 && stride % 4 == 0 && decide (width * bpp ≤ stride)

/-- The addresses an image spans, from its first byte to its last. -/
def imageSpan (d : List Byte) (addr stride bpp : Nat) : Nat × Nat := (addr, (pHeight d - 1) * stride + pWidth d * bpp)

/-- The spans of every attachment. -/
def attachSpans (d ts : List Byte) : List (Nat × Nat) :=
  ((upTo (pTargets d)).map fun i =>
    imageSpan d (field (tgt ts i) 0 8) (field (tgt ts i) 8 4) (pxBytes (tFmt (tgt ts i)))) ++
  if pDfmt d = 0 then [] else [imageSpan d (field d 16 8) (field d 24 4) (depthBytes (pDfmt d))]

/-- Whether no two spans of a list share an address. -/
def spansApart : List (Nat × Nat) → Bool
  | [] => true
  | a :: l => (l.all fun b => !overlaps a.1 a.2 b.1 b.2) && spansApart l

/-- The check of the descriptor itself (R217, R220); `npl` is the partition's non-pre-emptible limit. -/
def passDescOk (npl : Nat) (d : List Byte) : Bool :=
  inRange (pWidth d) 1 4096 && inRange (pHeight d) 1 4096 && decide (pTargets d ≤ 4) && decide (pDfmt d ≤ 2) &&
    decide (field d 6 1 < 4) && zeros d 7 1 &&
    (if pDfmt d = 0 then field d 16 8 == 0
     else imageOk (field d 16 8) (field d 24 4) (pWidth d) (depthBytes (pDfmt d))) &&
    (fv (field d 28 4)).nonneg && (fv (field d 28 4)).le (.ofNat 1) && inRange (pDraws d) 1 65536 && zeros d 56 8 &&
    decide (field d 44 4 ≤ npl)

/-- The check of a target record (R218). -/
def targetOk (width : Nat) (t : List Byte) : Bool :=
  inRange (tFmt t) 1 5 && imageOk (field t 0 8) (field t 8 4) width (pxBytes (tFmt t)) && decide (field t 13 1 ≤ 1) &&
    decide (field t 14 1 ≤ 1) && zeros t 15 1

/-- The check of a pass (R220). -/
def passOk (d ts : List Byte) : Bool :=
  (upTo (pTargets d)).all (fun i => targetOk (pWidth d) (tgt ts i)) && spansApart (attachSpans d ts)

/-! ## Draw records (R219, R220, R234) -/

def wCount (d : List Byte) : Nat := field d 8 4
def wStrip (d : List Byte) : Bool := field d 16 1 == 1
def wIdx (d : List Byte) : Nat := field d 17 1
def wV (d : List Byte) : Nat := field d 19 1
def wFlat (d : List Byte) (i : Nat) : Bool := bit (field d 20 4) i
def wScissor (d : List Byte) : Nat × Nat × Nat × Nat := (field d 56 2, field d 58 2, field d 60 2, field d 62 2)
def wBlend (d : List Byte) (i : Nat) : Nat := field d (80 + 4 * i) 4

/-- Whether a blend word holds no reserved code. -/
def blendOk (w : Nat) : Bool :=
  decide (bits w 4 1 ≤ 11) && decide (bits w 8 5 ≤ 11) && decide (bits w 11 9 ≤ 4) && decide (bits w 15 12 ≤ 11) &&
    decide (bits w 19 16 ≤ 11) && decide (bits w 22 20 ≤ 4) && bits w 31 27 == 0

/-- A register count legal under R68. -/
def regsOk (n : Nat) : Bool := decide (16 ≤ n) && decide (n ≤ 256) && n % 8 == 0

/-- Local store of a vertex and of a fragment workgroup in KiB (R221, R232). -/
def vertexKib (v : Nat) : Nat := ceilDiv (144 + 32 * (16 + 4 * v)) 1024
def fstride (v nt : Nat) : Nat := 16 + 4 * v + 16 * nt
def fragKib (v nt : Nat) : Nat := ceilDiv (16 + 32 * fstride v nt) 1024

/-- The check of a draw record (R220). -/
def drawOk (d w : List Byte) : Bool :=
  let (_, _, x1, y1) := wScissor w
  (wIdx w != 0 || field w 0 8 == 0) && decide (field w 16 1 ≤ 1) && decide (wIdx w ≤ 2) &&
    decide (bits (field w 18 1) 1 0 ≤ 2) && bits (field w 18 1) 7 3 == 0 && decide (wV w ≤ 32) &&
    regsOk (field w 40 1) && regsOk (field w 41 1) && bits (field w 42 1) 7 5 == 0 &&
    !(bit (field w 42 1) 3 && pDfmt d == 0) && decide (field w 43 1 ≤ 1) && zeros w 44 4 && decide (x1 ≤ pWidth d) &&
    decide (y1 ≤ pHeight d) && (upTo 4).all (fun i => blendOk (wBlend w i)) && zeros w 112 16 &&
    decide (1 ≤ residentMax 1 (field w 40 1) 0 (vertexKib (wV w))) &&
    decide (1 ≤ residentMax 1 (field w 41 1) 0 (fragKib (wV w) (pTargets d)))

/-! ## Bin memory (R226 to R228) -/

/-- Bytes of bin memory, and of the head table. -/
def binBytes (s : State) : Nat := fget s F.LOFT_BIN_SIZE.BIN_MIB * mib
def headBytes (d : List Byte) : Nat := alignUp (16 * pTiles d) 64

def binRead (s : State) (off n : Nat) : Nat := leNat (mgets 0 s.mem (binBase s + off) n)
def binWrite (s : State) (off n v : Nat) : State := memWrite s (binBase s + off) (leBytes n v)

abbrev nil32 : Nat := 0xFFFFFFFF

/-- A tile's COUNT and SPILLED. -/
def tileCountOf (s : State) (t : Nat) : Nat := binRead s (16 * t + 8) 4
def tileSpilled (s : State) (t : Nat) : Bool := bit (binRead s (16 * t + 12) 1) 0

/-- Empty every list and both allocators; `spill` gives each tile's SPILLED bit (R226, R236). -/
def emptyBins (s : State) (r : RasterRun) (spill : Nat → Bool) : State × RasterRun :=
  let s := (upTo (pTiles r.desc)).foldl (fun s t =>
    memWrite s (binBase s + 16 * t) (leBytes 8 (2 ^ 64 - 1) ++ leBytes 4 0 ++ leBytes 4 (b2n (spill t)))) s
  (s, { r with recTop := headBytes r.desc, chunkLow := binBytes s })

/-- Bin memory in use, in bytes. -/
def binUsed (s : State) (r : RasterRun) : Nat := r.recTop + (binBytes s - r.chunkLow)

/-- RAS_BIN_USED and RAS_BIN_PEAK show the bin memory in use. -/
def showBins (s : State) (r : RasterRun) : State × RasterRun :=
  let k := ceilDiv (binUsed s r) 1024
  let s := fset s F.RAS_BIN_USED.USED_KIB k
  (fset s F.RAS_BIN_PEAK.PEAK_KIB (max k (fget s F.RAS_BIN_PEAK.PEAK_KIB)), { r with peak := max r.peak (binUsed s r) })

/-- Append an entry to a tile's list, taking a chunk when the last one is full. -/
def binAppend (s : State) (r : RasterRun) (rec64 t : Nat) : State × RasterRun :=
  let n := tileCountOf s t
  let tail := binRead s (16 * t + 4) 4
  let p : State × RasterRun × Nat :=
    if n % 31 = 0 then
      let low := r.chunkLow - 128
      let c := low / 128
      let s := binWrite s low 4 nil32
      let s := if n = 0 then binWrite s (16 * t) 4 c else binWrite s (128 * tail) 4 c
      (binWrite s (16 * t + 4) 4 c, { r with chunkLow := low }, c)
    else (s, r, tail)
  let s := binWrite p.1 (128 * p.2.2 + 4 + 4 * (n % 31)) 4 rec64
  (binWrite s (16 * t + 8) 4 (n + 1), p.2.1)

/-- The record of a triangle (R226). -/
def triBytes (t : RasTri) : List Byte :=
  let v := (t.verts.head?.map (·.vars.length)).getD 0
  leBytes 4 t.draw ++ leBytes 4 t.prim ++ leBytes 1 (b2n t.front) ++ leBytes 1 v ++ leBytes 6 0 ++
    t.verts.flatMap fun p => leBytes 4 (ux 32 p.x) ++ leBytes 4 (ux 32 p.y) ++ leBytes 4 p.z ++ leBytes 4 p.q ++
      p.vars.flatMap (leBytes 4)

/-- The length of a record in bin memory. -/
def triSize (v : Nat) : Nat := alignUp (16 + 3 * (16 + 4 * v)) 64

/-- The triangle of a record. -/
def triAt (s : State) (off : Nat) : RasTri :=
  let v := binRead s (off + 9) 1
  ⟨binRead s off 4, binRead s (off + 4) 4, bit (binRead s (off + 8) 1) 0, (upTo 3).map fun i =>
    let o := off + 16 + i * (16 + 4 * v)
    ⟨sx 32 (binRead s o 4), sx 32 (binRead s (o + 4) 4), binRead s (o + 8) 4, binRead s (o + 12) 4,
      (upTo v).map fun k => binRead s (o + 16 + 4 * k) 4⟩⟩

/-- The record offsets of a tile's list, from a chunk on; `n` entries are left. -/
def listFrom (s : State) : Nat → Nat → Nat → List Nat
  | 0, _, _ => []
  | f + 1, c, n =>
    (upTo (min n 31)).map (fun i => 64 * bits (binRead s (128 * c + 4 + 4 * i) 4) 23 0) ++
      (if n ≤ 31 then [] else listFrom s f (binRead s (128 * c) 4) (n - 31))

/-- The record offsets of a tile's list in order. -/
def tileList (s : State) (t : Nat) : List Nat :=
  let n := tileCountOf s t
  listFrom s (ceilDiv n 31) (binRead s (16 * t) 4) n

/-! ## Faults and the start of a pass (R220, R239, R242) -/

/-- A pass as its start makes it. -/
def RasterRun.fresh (uid cid : Nat) (desc : List Byte) (daddr : Nat) (targets : List Byte) : RasterRun :=
  ⟨uid, cid, desc, daddr, targets, .geometry, [], ⟨0, [], 0, 0⟩, [], 0, none, 0, 0, 0, 0, 0, 0, 0, 0, 0, 0, false, [], false⟩

/-- A fault of the raster block (R239): the context faults and the pass ends with the code. -/
def rasFaultRec (s : State) (cid uid code pc iword addr : Nat) : State :=
  reportFault (raise s E.RAS_EVENT.FAULT) cid (faultRec code 0xFF 0xFF cid 0xFD 0xFF pc (some addr) iword false) (some uid)
def passFault (s : State) (r : RasterRun) (code pc addr : Nat) : State :=
  endPass (rasFaultRec s r.cid r.uid code pc (field r.desc 0 4) addr) r code

/-- The registers show a pass and its phase. -/
def showPass (s : State) (r : RasterRun) : State :=
  let ph := match r.phase with | .geometry => 1 | .final => 2 | .partialRender => 3
  let s := fset (fset (fset s F.RAS_STATUS.BUSY 1) F.RAS_STATUS.PHASE ph) F.RAS_STATUS.CID r.cid
  let s := fset (wrN s R.RAS_PASS_LO r.daddr) F.RAS_PASS_HI.ADDR (r.daddr / 2 ^ 32)
  let p := showBins (fset s F.RAS_TILE.TILE r.nextTile) r
  { p.1 with raster := some p.2 }

/-- The acquire at a pass's start, on the cores of its partition (R102, R242). -/
def acquirePart (s : State) (p : Nat) : State :=
  (upTo 17).foldl (fun s c => if partOfCore s c = some p then acquireL1 s c 3 else s) s

/-- A pass that never held the raster block has ended with a code. -/
def passEnds (s : State) (uid code : Nat) : State := endCue (incSat s R.RAS_PASS_COUNT) uid code

/-- RASTER_PASS_START (R217, R218, R220, R238, R239, R242, R337, R434): the descriptor and target records are read and
checked. Before the Loft is carved there is no bin memory: the empty head table cannot be written, which fails with
OWNER_MISMATCH as any such access does (R44; DESIGN CHOICE, log 54: the fault of R239 with the descriptor's address). -/
def execRasterPassStart (src : Src) (s : State) : Host.Outcome State Fault Refusal :=
  if s.raster.isSome then .next s
  else .next (placeCue s (srcOf src) 3 .raster fun s0 s' c =>
    let npl := partNpl s' (ctxOf s' c.cid).part
    let eng := fun (d : List Byte) => rasEng (RasterRun.fresh c.uid c.cid d c.ea []) c.ea (field d 0 4)
    whenUp s0 [dRaster] <| engineUnit s0 s' (eng []) [(c.ea, 64, false)]
      (fun code a => passEnds (useFree (rasFaultRec s' c.cid c.uid code c.ea (freeVal s' % 2 ^ 32) a)) c.uid code)
      fun t pages =>
        let d := ctxRead s' pages c.ea 64
        let r := fun (ts : List Byte) => RasterRun.fresh c.uid c.cid d c.ea ts
        let fails := fun (code a : Nat) =>
          passEnds (putReport (rasFaultRec t c.cid c.uid code c.ea (field d 0 4) a) (r []) nil32) c.uid code
        if !passDescOk npl d then passEnds t c.uid cCueInvalid
        else engineUnit s0 t (eng d) [(field d 8 8, 32 * pTargets d, false)] fails fun t pages =>
          let ts := ctxRead s' pages (field d 8 8) (32 * pTargets d)
          if !passOk d ts then passEnds t c.uid cCueInvalid
          else if !carved t then fails cOwner c.ea
          else
            let p := emptyBins (acquirePart (startSlice t c.cid) (ctxOf t c.cid).part) (r ts) fun _ => false
            showPass p.1 p.2)

/-! ## Draws, assembly and batches (R220 to R222) -/

/-- The draw in assembly: the last one read. -/
def curDraw (r : RasterRun) : List Byte := r.draws.getLastD []

/-- Whether every index of the last draw read has been taken. -/
def asmDone (r : RasterRun) : Bool := r.draws.isEmpty || decide (wCount (curDraw r) ≤ r.asm.pos)

/-- The address of the last draw record read. -/
def drawAddr (r : RasterRun) : Nat := field r.desc 32 8 + 128 * (r.draws.length - 1)

/-- DRAW_FETCH (R219, R220, R239): the next draw record is read once the one before it is binned. -/
def execDrawFetch (s : State) : Host.Outcome State Fault Refusal :=
  match s.raster with
  | none => .next s
  | some r =>
    let n := r.draws.length
    if r.phase ≠ .geometry ∨ !asmDone r ∨ !r.batches.isEmpty ∨ r.yielding ∨ pDraws r.desc ≤ n then .next s
    else
      let a := field r.desc 32 8 + 128 * n
      .next (engineUnit s s (rasEng r a (field r.desc 0 4)) [(a, 128, false)] (passFault s r · a ·) fun s pages =>
        let w := ctxRead s pages a 128
        if drawOk r.desc w then { s with raster := some { r with draws := r.draws ++ [w], asm := ⟨0, [], 0, 0⟩ } }
        else endPass (raise s E.RAS_EVENT.DRAW_INVALID) r cDrawInvalid n)

/-- The vertex ID at an index position: the ID, a restart (`none`), a failed fetch, or a wait. -/
inductive IdxRes where
  | id (v : Option Nat)
  | fault (code addr : Nat)
  | waits (fn page : Nat)
  deriving DecidableEq, Repr

/-- Read the index at a position (R222). -/
def readIndex (s : State) (cid : Nat) (w : List Byte) (pos : Nat) : IdxRes :=
  let base := field w 12 4
  if wIdx w = 0 then .id (some ((base + pos) % 2 ^ 32))
  else
    let n := 2 * wIdx w
    let a := field w 0 8 + n * pos
    match xlateUnit s cid [(a, n, false)] with
    | .waits f g => .waits f g
    | .fault code at_ => .fault code at_
    | .ok pages =>
      let v := leNat (ctxRead s pages a n)
      .id (if v = 2 ^ (8 * n) - 1 then none else some ((base + v) % 2 ^ 32))

/-- Assembly takes one vertex (R222): where it stands after it, and the primitive it completes. -/
def asmStep (strip : Bool) (m : RasAsm) (v : Nat) : RasAsm × Option RasPrim :=
  let h := m.hist ++ [v]
  let m' : RasAsm := { m with pos := m.pos + 1, hist := h, strip := m.strip + 1 }
  if h.length < 3 then (m', none)
  else
    let ids := if strip ∧ m.strip % 2 = 1 then [h.getD 0 0, h.getD 2 0, h.getD 1 0] else h
    ({ m' with hist := if strip then h.drop 1 else [], prim := m.prim + 1 }, some ⟨m.prim, ids, m⟩)

/-- A restart ends a strip or discards an incomplete triangle (R222). -/
def asmRestart (m : RasAsm) : RasAsm := { m with pos := m.pos + 1, hist := [], strip := 0 }

/-- What gathering a batch gives. -/
inductive Gathered where
  | ok (m : RasAsm) (ids : List Nat) (prims : List RasPrim)
  | fault (code addr : Nat)
  | waits (fn page : Nat)
  deriving DecidableEq, Repr

/-- Gather primitives while their distinct vertex IDs number at most 32 (R221); `f` indices are left. -/
def gather (s : State) (cid : Nat) (w : List Byte) : Nat → RasAsm → List Nat → List RasPrim → Gathered
  | 0, m, ids, ps => .ok m ids ps
  | f + 1, m, ids, ps =>
    match readIndex s cid w m.pos with
    | .fault code a => .fault code a
    | .waits fn p => .waits fn p
    | .id none => gather s cid w f (asmRestart m) ids ps
    | .id (some v) =>
      match asmStep (wStrip w) m v with
      | (m', none) => gather s cid w f m' ids ps
      | (m', some p) =>
        let ids' := (ids ++ p.ids).eraseDups
        if 32 < ids'.length then .ok m ids ps else gather s cid w f m' ids' (ps ++ [p])

/-- The local store of a vertex workgroup (R221). -/
def vertexStore (w : List Byte) (draw : Nat) (ids : List Nat) : List Byte :=
  (w.drop 48).take 8 ++ leBytes 4 draw ++ leBytes 4 ids.length ++
    (upTo 32).flatMap fun t => leBytes 4 (ids.getD t nil32)

/-- Whether a core can take a workgroup of the pass's now, in the split it has (R69, R70), in the order of R337. A pass that
is to yield goes on to its flush point with workgroups of its own (R338). -/
def rasCoreOk (s : State) (r : RasterRun) (c nregs kib : Nat) : Bool :=
  let src := ((cueOf s r.uid).map (·.src)).getD (.ring 0)
  let p := (ctxOf s r.cid).part
  coreTakes s c p && homeOk s src c && !ctxStopping s c r.cid && !passTaken s r.cid c &&
    mayPlace s p r.cid src .workgroup c && wgFits (coreOf s c) 1 nregs (coreOf s c).split kib

/-- A workgroup of one group for the pass. -/
def rasWg (s : State) (r : RasterRun) (c : Nat) (kind : WgKind) (w : List Byte) (nregs kib entry : Nat) (store : List Byte) : Wg :=
  ⟨0, r.uid, r.cid, kind, (coreOf s c).split, 1, nregs, kib, mputs 0 [] 0 store, List.replicate 16 Barrier.fresh, r.nextNum, 1, 1, 1,
    entry, field w 48 8⟩

/-- The raster block as it reads the draw in assembly (R107, R239). -/
def drawEng (r : RasterRun) : EngAsk := rasEng r (drawAddr r) (field r.desc 0 4)

/-- The raster block as it moves the pixels of a tile. -/
def tileEng (r : RasterRun) : EngAsk := rasEng r r.daddr (field r.desc 0 4)

/-- The traffic of the indices of a draw from one position to another (R352). -/
def indexUse (s : State) (r : RasterRun) (w : List Byte) (lo hi : Nat) : State :=
  let n := 2 * wIdx w
  let range := (field w 0 8 + n * lo, n * (hi - lo), false)
  match mapUnit s r.cid [range] with
  | .ok pages => portUse (usePages s r.cid pages) (drawEng r) pages [(range, noTag)]
  | _ => s

/-- The place of the next index of a draw. -/
def indexRange (r : RasterRun) (w : List Byte) : Nat × Nat × Bool := (field w 0 8 + 2 * wIdx w * r.asm.pos, 2 * wIdx w, false)

/-- Whether the next index of a draw is held back, by a regulator or a gated domain (R351, R434). -/
def indexHeld (s : State) (r : RasterRun) (w : List Byte) : Bool :=
  match mapUnit s r.cid [indexRange r w] with
  | .ok pages => engineWaits s (drawEng r) pages [indexRange r w]
  | _ => false

/-- The next index of a draw waits. -/
def indexWait (s : State) (r : RasterRun) (w : List Byte) : State :=
  match mapUnit s r.cid [indexRange r w] with
  | .ok pages => unitWait s s (drawEng r) pages [indexRange r w]
  | _ => s

/-- VERTEX_BATCH_LAUNCH (R221, R222, R239, R434): the next vertex IDs of the draw are gathered and launched. -/
def execVertexBatchLaunch (c : Fin 17) (s : State) : Host.Outcome State Fault Refusal :=
  match s.raster with
  | none => .next s
  | some r =>
    let w := curDraw r
    if r.phase ≠ .geometry ∨ asmDone r ∨ r.yielding ∨ !rasCoreOk s r c (field w 40 1) (vertexKib (wV w)) then .next s
    else if indexHeld s r w then .next (indexWait s r w)
    else match gather s r.cid w (wCount w - r.asm.pos) r.asm [] [] with
      | .waits f g => .next (askAts s f g)
      | .fault code a => .next (passFault s r code (drawAddr r) a)
      | .ok m ids prims =>
        let s0 := s
        let s := indexUse s r w r.asm.pos m.pos
        if prims.isEmpty then .next { s with raster := some { r with asm := m } }
        else
          let draw := r.draws.length - 1
          let wg := rasWg s r c .vertex w (field w 40 1) (vertexKib (wV w)) (field w 24 8) (vertexStore w draw ids)
          let b : RasBatch := ⟨r.nextNum, draw, ids, prims, none⟩
          .next (whenUp s0 [dCore + c.val] (placeWg { s with
            raster := some { r with asm := m, batches := r.batches ++ [b], nextNum := r.nextNum + 1 } } c wg))

/-! ## Clipping and triangle setup (R223, R224) -/

/-- A clip-space vertex: fp32 codes of x, y, z, w, then the varyings. -/
abbrev ClipVert := List Nat

def ClipVert.at_ (v : ClipVert) (i : Nat) : Num := fv (v.getD i 0)

/-- The guard-band bounds of an axis (R223): rne32((-8192 - off)/scale) and rne32((8191 - off)/scale), lesser first. -/
def guardBand (scale off : Num) : Num × Num :=
  let a := fv (divR ((Num.ofInt (-8192)).sub off) scale)
  let b := fv (divR ((Num.ofNat 8191).sub off) scale)
  (numPick false a b, numPick true a b)

/-- The distances of a vertex to the six planes in order, each rounded once (R223). -/
def planeDist (w : List Byte) (plane : Nat) (v : ClipVert) : Num :=
  let vp := fun i => fv (field w (64 + 4 * i) 4)
  let gx := guardBand (vp 0) (vp 1)
  let gy := guardBand (vp 2) (vp 3)
  let ww := v.at_ 3
  fv (r32 (match plane with
    | 0 => v.at_ 2
    | 1 => ww.sub (v.at_ 2)
    | 2 => (v.at_ 0).sub (gx.1.times ww)
    | 3 => (gx.2.times ww).sub (v.at_ 0)
    | 4 => (v.at_ 1).sub (gy.1.times ww)
    | _ => (gy.2.times ww).sub (v.at_ 1)))

/-- The new vertex between a and b (R223). -/
def clipNew (a b : ClipVert) (da db : Num) : ClipVert :=
  let t := fv (divR da (da.sub db))
  let u := (Num.ofNat 1).sub t
  a.zipWith (fun x y => r32 ((u.times (fv x)).add (t.times (fv y)))) b

/-- Clip a polygon against one plane by Sutherland–Hodgman, starting from its first vertex (R223). -/
def clipPlane (w : List Byte) (plane : Nat) (poly : List ClipVert) : List ClipVert :=
  let next := poly.drop 1 ++ poly.take 1
  (poly.zip next).flatMap fun p =>
    let da := planeDist w plane p.1
    let db := planeDist w plane p.2
    (if da.nonneg then [p.1] else []) ++ if da.nonneg = db.nonneg then [] else [clipNew p.1 p.2 da db]

/-- Clip a primitive against the six planes. -/
def clipPoly (w : List Byte) (poly : List ClipVert) : List ClipVert := (upTo 6).foldl (fun p k => clipPlane w k p) poly

/-- A vertex after the divide (R223), and whether its window coordinates are finite. -/
def windowVert (w : List Byte) (prov : ClipVert) (v : ClipVert) : RasVert × Bool :=
  let vp := fun i => fv (field w (64 + 4 * i) 4)
  let ww := v.at_ 3
  let axis := fun (c i : Nat) => fv (r32 (((vp i).times (fv (divR (v.at_ c) ww))).add (vp (i + 1))))
  let x := axis 0 0
  let y := axis 1 2
  let vars := (upTo (wV w)).map fun i => (if wFlat w i then prov else v).getD (4 + i) 0
  (⟨rneInt (x.times (.ofNat 256)), rneInt (y.times (.ofNat 256)), divR (v.at_ 2) ww, divR (.ofNat 1) ww, vars⟩,
    x.finite && y.finite)

/-- The fan of a polygon from its first vertex. -/
def fan {α : Type} : List α → List (List α)
  | a :: l => (l.zip (l.drop 1)).map fun p => [a, p.1, p.2]
  | [] => []

/-- Twice the area of a triangle (R224), and the edge function of the edge from `a` to `b` (R230). -/
def edgeFn (a b : Int × Int) (p : Int × Int) : Int := (b.1 - a.1) * (p.2 - a.2) - (b.2 - a.2) * (p.1 - a.1)
def RasVert.xy (v : RasVert) : Int × Int := (v.x, v.y)
def vert0 : RasVert := ⟨0, 0, 0, 0, []⟩
def RasTri.vert (t : RasTri) (i : Nat) : RasVert := t.verts.getD i vert0
def RasTri.area2 (t : RasTri) : Int :=
  let a := t.vert 0
  let b := t.vert 1
  let c := t.vert 2
  (b.x - a.x) * (c.y - a.y) - (c.x - a.x) * (b.y - a.y)

/-- The three vertices in the order that makes area2 positive (R230). -/
def RasTri.order (t : RasTri) : List RasVert :=
  if 0 < t.area2 then [t.vert 0, t.vert 1, t.vert 2] else [t.vert 0, t.vert 2, t.vert 1]

/-- The edges in that order, each opposite the vertex of the same position. -/
def RasTri.edges (t : RasTri) : List ((Int × Int) × (Int × Int)) :=
  match t.order with
  | [a, b, c] => [(b.xy, c.xy), (c.xy, a.xy), (a.xy, b.xy)]
  | _ => []

/-- Least and greatest of three. -/
def RasTri.box (t : RasTri) (f : RasVert → Int) : Int × Int :=
  (min (f (t.vert 0)) (min (f (t.vert 1)) (f (t.vert 2))), max (f (t.vert 0)) (max (f (t.vert 1)) (f (t.vert 2))))

/-- Whether a triangle lies wholly outside a rectangle of snapped positions: an axis or an edge parts them. -/
def RasTri.outside (t : RasTri) (x0 y0 x1 y1 : Int) : Bool :=
  let bx := t.box (·.x)
  let by_ := t.box (·.y)
  let corners := [(x0, y0), (x1, y0), (x0, y1), (x1, y1)]
  decide (x1 ≤ x0) || decide (y1 ≤ y0) || decide (bx.2 ≤ x0) || decide (x1 ≤ bx.1) || decide (by_.2 ≤ y0) ||
    decide (y1 ≤ by_.1) || t.edges.any fun e => corners.all fun p => decide (edgeFn e.1 e.2 p ≤ 0)

/-- The scissor rectangle in snapped units. -/
def scissorBox (w : List Byte) : Int × Int × Int × Int :=
  let (x0, y0, x1, y1) := wScissor w
  ((256 * x0 : Nat), (256 * y0 : Nat), (256 * x1 : Nat), (256 * y1 : Nat))

/-- Whether a triangle faces front (R224), and whether it is culled. -/
def isFront (w : List Byte) (t : RasTri) : Bool :=
  if bit (field w 18 1) 2 then decide (0 < t.area2) else decide (t.area2 < 0)
def isCulled (w : List Byte) (t : RasTri) (finite : Bool) : Bool :=
  let cull := bits (field w 18 1) 1 0
  let (x0, y0, x1, y1) := scissorBox w
  !finite || t.area2 == 0 || (cull == 1 && !t.front) || (cull == 2 && t.front) || t.outside x0 y0 x1 y1

/-- The triangles of a primitive (R223, R224): those kept, and how many were culled. -/
def setupPrim (w : List Byte) (draw num : Nat) (vs : List ClipVert) : List RasTri × Nat :=
  let prov := vs.getD 0 []
  let ts := (fan ((clipPoly w vs).map (windowVert w prov))).map fun l =>
    let t : RasTri := ⟨draw, num, false, l.map (·.1)⟩
    let t := { t with front := isFront w t }
    (t, isCulled w t (l.all (·.2)))
  ((ts.filter (!·.2)).map (·.1), countWhere (·.2) ts)

/-- The tiles whose bins a triangle enters (R225), ascending. -/
def tilesOf (d w : List Byte) (t : RasTri) : List Nat :=
  let (x0, y0, x1, y1) := scissorBox w
  let bx := t.box (·.x)
  let by_ := t.box (·.y)
  let lo := (max bx.1 x0, max by_.1 y0)
  let hi := (min bx.2 x1, min by_.2 y1)
  (upTo (pTiles d)).filter fun i =>
    let tx : Int := (i % pTilesX d : Nat)
    let ty : Int := (i / pTilesX d : Nat)
    let cs := [(8192 * tx + 128, 8192 * ty + 128), (8192 * tx + 8064, 8192 * ty + 128), (8192 * tx + 128, 8192 * ty + 8064),
      (8192 * tx + 8064, 8192 * ty + 8064)]
    decide (lo.1 < hi.1) && decide (lo.2 < hi.2) && decide (lo.1 < 8192 * (tx + 1)) && decide (8192 * tx < hi.1) &&
      decide (lo.2 < 8192 * (ty + 1)) && decide (8192 * ty < hi.2) &&
      t.edges.all fun e => cs.any fun p => decide (0 ≤ edgeFn e.1 e.2 p)

/-! ## Binning (R225 to R227, R236) -/

/-- The outputs of a batch as its group left them in its local store (R221): for each vertex, position and varyings. -/
def batchOuts (v n : Nat) (store : SMap Byte) : List (List Nat) :=
  (upTo n).map fun t => (upTo (4 + v)).map fun k => leNat (mgets 0 store (144 + t * (16 + 4 * v) + 4 * k) 4)

/-- Chunks that lists need for `add` entries more on a list of `n`. -/
def chunksFor (n add : Nat) : Nat := ceilDiv (n + add) 31 - ceilDiv n 31

/-- Bin one primitive whole (R225 to R227); `none` when bin memory would overflow. -/
def binPrim (s : State) (r : RasterRun) (b : RasBatch) (p : RasPrim) : Option (State × RasterRun) :=
  let w := r.draws.getD b.draw []
  let outs := b.outs.getD []
  let vs := p.ids.map fun id => outs.getD (b.ids.takeWhile (· != id)).length []
  let (tris, culled) := setupPrim w b.draw p.num vs
  let work := (tris.map fun t => (t, tilesOf r.desc w t)).filter (!·.2.isEmpty)
  let touched := (work.flatMap (·.2)).eraseDups
  let chunks := sumBy (fun t => chunksFor (tileCountOf s t) (countWhere (fun q : RasTri × List Nat => q.2.contains t) work)) touched
  let size := triSize (wV w)
  if r.chunkLow < r.recTop + size * work.length + 128 * chunks then none
  else
    let q := work.foldl (fun (q : State × RasterRun) t =>
      let s := memWrite q.1 (binBase q.1 + q.2.recTop) (padTo size (triBytes t.1))
      let rec64 := q.2.recTop / 64
      t.2.foldl (fun q i => binAppend q.1 q.2 rec64 i) (s, { q.2 with recTop := q.2.recTop + size })) (s, r)
    let s := add64 q.1 R.RAS_PRIM_COUNT_LO work.length
    let r :=
      { q.2 with
        primsIn := q.2.primsIn + 1
        binned := q.2.binned + work.length
        culled := q.2.culled + culled }
    some (showBins s r)

/-- A partial render starts (R236): the tile phase over every tile whose COUNT is not zero. -/
def startPartial (s : State) (r : RasterRun) : State := showPass s { r with phase := .partialRender, nextTile := 0, tile := none }

/-- Bin the primitives of the oldest batches that have their outputs, in order, until none is left, one does not fit, or a
yield is asked for (R225, R236, R238); `f` bounds the primitives and batches. -/
def binAll : Nat → State → RasterRun → State
  | 0, s, r => { s with raster := some r }
  | f + 1, s, r =>
    match r.batches with
    | [] => { s with raster := some r }
    | b :: bs =>
      if b.outs.isNone ∨ r.yielding then { s with raster := some r }
      else match b.prims with
        | [] => binAll f s { r with batches := bs }
        | p :: ps =>
          match binPrim s r b p with
          | none => startPartial s r
          | some (s, r) => binAll f s { r with flushed := false, batches := { b with prims := ps } :: bs }

/-- Enough steps for every primitive and batch. -/
def binFuel (r : RasterRun) : Nat := sumBy (fun b : RasBatch => b.prims.length + 1) r.batches

/-- VERTEX_BATCH_DONE (R221 to R227, R236): a vertex group of the pass has ended; its outputs are read, and primitives are
binned in submission order. -/
def execVertexBatchDone (s : State) : Host.Outcome State Fault Refusal :=
  match s.raster with
  | none => .next s
  | some r =>
    match s.endedWgs.find? fun w => w.kind == .vertex && w.uid == r.uid with
    | none => .next s
    | some w =>
      let s := { s with endedWgs := dropFirst (· == w) s.endedWgs }
      let give := fun (b : RasBatch) =>
        { b with outs := some (batchOuts (wV (r.draws.getD b.draw [])) b.ids.length w.store) }
      let r : RasterRun := { r with batches := mapWhere (·.num == w.index) give r.batches }
      if r.phase = .geometry then .next (binAll (binFuel r) s r) else .next { s with raster := some r }

/-! ## Tile phase (R229 to R235) -/

/-- The 32 × 32 region of a tile inside the render area: x, y, columns, rows. -/
def tileBox (d : List Byte) (t : Nat) : Nat × Nat × Nat × Nat :=
  let x := 32 * (t % pTilesX d)
  let y := 32 * (t / pTilesX d)
  (x, y, min 32 (pWidth d - x), min 32 (pHeight d - y))

/-- The rows of a tile in an image: address and bytes. -/
def imgRows (d : List Byte) (t addr stride bpp : Nat) : List (Nat × Nat) :=
  let (x, y, w, h) := tileBox d t
  (upTo h).map fun j => (addr + (y + j) * stride + x * bpp, w * bpp)

/-- An attachment: address, stride, bytes per pixel, whether it loads, whether it stores. -/
structure Attach where
  addr : Nat
  stride : Nat
  bpp : Nat
  load : Bool
  store : Bool
  deriving DecidableEq, Repr

/-- The colour targets, and the depth image when there is one. -/
def colorAt (r : RasterRun) (i : Nat) : Attach :=
  let t := tgt r.targets i
  ⟨field t 0 8, field t 8 4, pxBytes (tFmt t), field t 13 1 == 1, field t 14 1 == 1⟩
def depthAt (r : RasterRun) : Attach :=
  ⟨field r.desc 16 8, field r.desc 24 4, depthBytes (pDfmt r.desc), !pDclear r.desc, pDstore r.desc⟩
def attachments (r : RasterRun) : List Attach :=
  (upTo (pTargets r.desc)).map (colorAt r) ++ if pDfmt r.desc = 0 then [] else [depthAt r]

/-- Whether a tile of the final phase is empty (R229): an empty list and SPILLED clear. -/
def bareTile (s : State) (r : RasterRun) (t : Nat) : Bool :=
  r.phase == .final && tileCountOf s t == 0 && !tileSpilled s t

/-- Whether a tile's write-out stores an attachment (R229, R236). -/
def storesAt (s : State) (r : RasterRun) (t : Nat) (a : Attach) : Bool :=
  match r.phase with
  | .final => a.store && (!bareTile s r t || !a.load)
  | _ => true

/-- The page checks of a tile (R239): every attachment whole; nothing when no byte of the tile is to move. -/
def tileRanges (s : State) (r : RasterRun) (t : Nat) : List (Nat × Nat × Bool) :=
  if bareTile s r t ∧ !(attachments r).any (storesAt s r t) then []
  else (attachments r).flatMap fun a =>
    (imgRows r.desc t a.addr a.stride a.bpp).map fun p => (p.1, p.2, storesAt s r t a)

/-- Whether a tile's fill reads an attachment (R229). -/
def loadsAt (s : State) (r : RasterRun) (t : Nat) (a : Attach) : Bool := (a.load && !bareTile s r t) || tileSpilled s t

/-- What a tile's fill reads. -/
def tileLoads (s : State) (r : RasterRun) (t : Nat) : List (Nat × Nat × Bool) :=
  ((attachments r).filter (loadsAt s r t)).flatMap fun a =>
    (imgRows r.desc t a.addr a.stride a.bpp).map fun p => (p.1, p.2, false)

/-- What a tile's write-out writes. -/
def tileStores (s : State) (r : RasterRun) (t : Nat) : List (Nat × Nat × Bool) :=
  ((attachments r).filter (storesAt s r t)).flatMap fun a =>
    (imgRows r.desc t a.addr a.stride a.bpp).map fun p => (p.1, p.2, true)

/-- Read a tile of an image as 1,024 pixel codes. -/
def readTile (s : State) (pg : List HeldPage) (d : List Byte) (t : Nat) (a : Attach) : List Nat :=
  let (x, y, w, h) := tileBox d t
  (upTo 1024).map fun i =>
    if i % 32 < w ∧ i / 32 < h then leNat (ctxRead s pg (a.addr + (y + i / 32) * a.stride + (x + i % 32) * a.bpp) a.bpp) else 0

/-- Write a tile to its image. -/
def writeTile (s : State) (e : EngAsk) (pg : List HeldPage) (d : List Byte) (t : Nat) (a : Attach) (px : List Nat) : State :=
  let (x, y, w, h) := tileBox d t
  (upTo h).foldl (fun s j => ctxWrite s e pg (a.addr + (y + j) * a.stride + x * a.bpp)
    ((upTo w).flatMap fun i => leBytes a.bpp (px.getD (32 * j + i) 0))) s

/-- A depth as the depth format holds it (R231). -/
def depthCode (dfmt z : Nat) : Nat := if dfmt = 1 then unormEnc 16 (fv z) else z

/-- Whether pixel (x, y) is covered by a triangle (R230). -/
def covered (d w : List Byte) (t : RasTri) (x y : Nat) : Bool :=
  let (x0, y0, x1, y1) := wScissor w
  let p : Int × Int := ((256 * x + 128 : Nat), (256 * y + 128 : Nat))
  let topLeft := fun (e : (Int × Int) × (Int × Int)) =>
    (e.1.2 == e.2.2 && decide (e.1.1 < e.2.1)) || decide (e.2.2 < e.1.2)
  decide (x0 ≤ x) && decide (x < x1) && decide (y0 ≤ y) && decide (y < y1) && decide (x < pWidth d) &&
    decide (y < pHeight d) && t.edges.all fun e =>
      decide (0 < edgeFn e.1 e.2 p) || (edgeFn e.1 e.2 p == 0 && topLeft e)

/-- The members of the quad at (x, y), in lane order. -/
def quadAt (x y : Nat) : List (Nat × Nat) := [(x, y), (x + 1, y), (x, y + 1), (x + 1, y + 1)]

/-- The quads of a triangle in a tile that have a covered member (R232). -/
def quadsOf (d w : List Byte) (t : RasTri) (off tile : Nat) : List RasQuad :=
  let (x0, y0, _, _) := tileBox d tile
  ((upTo 256).map fun i =>
    let x := x0 + 2 * (i % 16)
    let y := y0 + 2 * (i / 16)
    let m := (quadAt x y).map fun p => covered d w t p.1 p.2
    (⟨off, t.draw, x, y, sumBy (fun k => b2n (m.getD k false) * 2 ^ k) (upTo 4)⟩ : RasQuad)).filter (·.cover != 0)

/-- The next tile a phase visits from `t` on: every tile in the final one, those with entries in a partial render. -/
def nextTileOf (s : State) (r : RasterRun) (t : Nat) : Option Nat :=
  ((upTo (pTiles r.desc)).drop t).find? fun i => r.phase == .final || tileCountOf s i != 0

/-- Whether geometry is over: every draw read, assembled and binned. -/
def geometryDone (r : RasterRun) : Bool := decide (r.draws.length = pDraws r.desc) && asmDone r && r.batches.isEmpty

/-- The tile buffer filled (R229), and the quads of the tile's list. -/
def fillTile (s : State) (pg : List HeldPage) (r : RasterRun) (t : Nat) : RasTile :=
  let fill := fun (a : Attach) (clear : Nat) =>
    if loadsAt s r t a then readTile s pg r.desc t a else List.replicate 1024 clear
  let color := (upTo (pTargets r.desc)).map fun i =>
    let g := tgt r.targets i
    fill (colorAt r i) (pxEnc (tFmt g) fun k => fv (field g (16 + 4 * k) 4))
  let depth := if pDfmt r.desc = 0 then [] else fill (depthAt r) (depthCode (pDfmt r.desc) (field r.desc 28 4))
  let quads := (tileList s t).flatMap fun off =>
    let tri := triAt s off
    quadsOf r.desc (r.draws.getD tri.draw []) tri off t
  ⟨t, color, depth, quads, []⟩

/-- TILE_PHASE_TILE (R229, R230, R232, R239): the next tile's pages are translated, its attachments loaded or cleared, and
its list rasterised. The first one after the last draw is binned begins the final tile phase. -/
def execTilePhaseTile (s : State) : Host.Outcome State Fault Refusal :=
  match s.raster with
  | none => .next s
  | some r =>
    let r := if r.phase = .geometry ∧ geometryDone r ∧ !r.yielding then { r with phase := .final, nextTile := 0 } else r
    if r.phase = .geometry ∨ r.tile.isSome then .next s
    else match nextTileOf s r r.nextTile with
      | none => .next s
      | some t =>
        match xlateUnit s r.cid (tileRanges s r t) with
        | .waits f g => .next (askAts s f g)
        | .fault code a => .next (passFault s r code r.daddr a)
        | .ok pg =>
          let loads := tileLoads s r t
          if engineWaits s (tileEng r) pg loads then .next (unitWait s s (tileEng r) pg loads)
          else
            let u := portUse (hold s .raster r.cid pg) (tileEng r) pg (loads.map fun x => (x, noTag))
            .next (showPass u { r with tile := some (fillTile s pg r t), nextTile := t + 1 })

/-! ## Fragments (R231 to R235) -/

/-- The exact weights of a pixel in a triangle (R230). -/
def weights (t : RasTri) (x y : Nat) : List Num :=
  let p : Int × Int := ((256 * x + 128 : Nat), (256 * y + 128 : Nat))
  t.edges.map fun e => Num.ofInt (edgeFn e.1 e.2 p)

/-- A fragment's depth (R231). -/
def fragDepth (t : RasTri) (x y : Nat) : Nat :=
  let l := weights t x y
  divR (Num.sum (l.zipWith (fun a v => a.times (fv v.z)) t.order)) (Num.sum l)

/-- A varying at a pixel (R232). -/
def varying (w : List Byte) (t : RasTri) (x y i : Nat) : Nat :=
  if wFlat w i then (t.vert 0).vars.getD i 0
  else
    let lq := (weights t x y).zipWith (fun a v => a.times (fv v.q)) t.order
    divR (Num.sum (lq.zipWith (fun a v => a.times (fv (v.vars.getD i 0))) t.order)) (Num.sum lq)

/-- The part of a fragment's slot that the raster block writes (R232). -/
def fragSlot (w : List Byte) (t : RasTri) (q : RasQuad) (m : Nat) : List Byte :=
  let p := (quadAt q.x q.y).getD m (0, 0)
  leBytes 2 p.1 ++ leBytes 2 p.2 ++ leBytes 4 t.prim ++ leBytes 4 (fragDepth t p.1 p.2) ++
    leBytes 4 (b2n (!bit q.cover m) + 2 * b2n t.front) ++ (upTo (wV w)).flatMap fun i => leBytes 4 (varying w t p.1 p.2 i)

/-- The local store of a fragment workgroup (R232). The slots of threads without a fragment hold a free value. -/
def fragStore (s : State) (w : List Byte) (draw nt : Nat) (qs : List RasQuad) : List Byte :=
  let fs := fstride (wV w) nt
  (w.drop 48).take 8 ++ leBytes 4 draw ++ leBytes 4 0 ++ (upTo 32).flatMap fun f =>
    match qs[f / 4]? with
    | some q => padTo fs (fragSlot w (triAt s q.tri) q (f % 4))
    | none => leBytes fs (freeVal s)

/-- The leading quads of one draw, up to 8 (R232). -/
def leadQuads (qs : List RasQuad) : List RasQuad := (qs.takeWhile (·.draw == (qs.head?.map (·.draw)).getD 0)).take 8

/-- FRAGMENT_GROUP_LAUNCH (R232, R243, R434): the next quads of the tile are launched; their covered members are counted. -/
def execFragmentGroupLaunch (c : Fin 17) (s : State) : Host.Outcome State Fault Refusal :=
  match s.raster with
  | none => .next s
  | some r =>
    match r.tile with
    | none => .next s
    | some t =>
      let qs := leadQuads t.quads
      match qs with
      | [] => .next s
      | q :: _ =>
        let w := r.draws.getD q.draw []
        let nt := pTargets r.desc
        if !rasCoreOk s r c (field w 41 1) (fragKib (wV w) nt) then .next s
        else
          let wg := rasWg s r c .fragment w (field w 41 1) (fragKib (wV w) nt) (field w 32 8) (fragStore s w q.draw nt qs)
          let t := { t with quads := t.quads.drop qs.length, groups := t.groups ++ [⟨r.nextNum, qs⟩] }
          let n := sumBy (fun q : RasQuad => countWhere (bit q.cover) (upTo 4)) qs
          .next (whenUp s [dCore + c.val] (placeWg (useFree { s with
            raster := some { r with tile := some t, nextNum := r.nextNum + 1, frags := r.frags + n } }) c wg))

/-- Whether FUNC holds between a fragment's depth and the stored one (R231). -/
def depthTest (func : Nat) (a b : Num) : Bool :=
  let lt := a.le b && !b.le a
  let gt := b.le a && !a.le b
  match func with
  | 0 => false
  | 1 => lt
  | 2 => a.eqv b
  | 3 => a.le b
  | 4 => gt
  | 5 => !a.eqv b
  | 6 => b.le a
  | _ => true

/-- A depth code as a number. -/
def depthNum (dfmt c : Nat) : Num := if dfmt = 1 then .ofNat c else fv c

/-- One fragment meets the tile buffer (R231 to R235): `slot` is its part of the group's local store. -/
def applyFrag (r : RasterRun) (w : List Byte) (t : RasTile) (tri : RasTri) (x y : Nat) (slot : List Byte) : RasTile :=
  let i := 32 * (y % 32) + x % 32
  let df := pDfmt r.desc
  let dw := field w 42 1
  let z := depthCode df (fragDepth tri x y)
  let pass := !bit dw 3 || depthTest (bits dw 2 0) (depthNum df z) (depthNum df (t.depth.getD i 0))
  let killed := bit (field w 43 1) 0 && bit (field slot 12 4) 8
  if !pass || killed then t
  else
    let depth := if bit dw 4 then t.depth.set i z else t.depth
    let k := fun c => fv (field w (96 + 4 * c) 4)
    let color := (upTo t.color.length).map fun j =>
      let out := fun c => fv (field slot (16 + 4 * wV w + 16 * j + 4 * c) 4)
      let px := t.color.getD j []
      px.set i (blendPx (tFmt (tgt r.targets j)) (wBlend w j) (px.getD i 0) out k)
    { t with color := color, depth := depth }

/-- The fragments of a group, in list order. -/
def applyGroup (s : State) (r : RasterRun) (t : RasTile) (g : RasGroup) (store : SMap Byte) : RasTile :=
  ((upTo g.quads.length).zip g.quads).foldl (fun t p =>
    let q := p.2
    let w := r.draws.getD q.draw []
    let tri := triAt s q.tri
    let fs := fstride (wV w) (pTargets r.desc)
    (upTo 4).foldl (fun t m =>
      if !bit q.cover m then t
      else
        let xy := (quadAt q.x q.y).getD m (0, 0)
        applyFrag r w t tri xy.1 xy.2 (mgets 0 store (16 + (4 * p.1 + m) * fs) fs)) t) t

/-- Blend every leading group whose workgroup has ended (R233). -/
def blendReady (s : State) (r : RasterRun) : List RasGroup → RasTile → State × RasTile
  | [], t => (s, { t with groups := [] })
  | g :: gs, t =>
    match s.endedWgs.find? fun w => w.kind == .fragment && w.uid == r.uid && w.index == g.num with
    | none => (s, { t with groups := g :: gs })
    | some w => blendReady { s with endedWgs := dropFirst (· == w) s.endedWgs } r gs (applyGroup s r t g w.store)

/-- FRAGMENT_GROUP_DONE (R231, R233 to R235): groups that have ended meet the tile buffer in list order. -/
def execFragmentGroupDone (s : State) : Host.Outcome State Fault Refusal :=
  match s.raster with
  | none => .next s
  | some r =>
    match r.tile with
    | none => .next s
    | some t =>
      let p := blendReady s r t.groups t
      .next { p.1 with raster := some { r with tile := some p.2 } }

/-- TILE_WRITE_OUT (R229, R236, R239, R243, R373): a tile whose fragments are all blended is written; in a partial render it
becomes SPILLED. What its stores meet under the pages held since the tile began is the pass's fault. -/
def execTileWriteOut (s : State) : Host.Outcome State Fault Refusal :=
  match s.raster with
  | none => .next s
  | some r =>
    match r.tile with
    | none => .next s
    | some t =>
      let pg := heldPages s .raster
      let stores := tileStores s r t.idx
      if !t.quads.isEmpty ∨ !t.groups.isEmpty then .next s
      else if engineWaits s (tileEng r) pg stores then .next (unitWait s s (tileEng r) pg stores)
      else match heldBad s r.cid pg stores with
      | some (v, code) => .next (passFault s r code r.daddr v)
      | none =>
        let px := t.color ++ if pDfmt r.desc = 0 then [] else [t.depth]
        let todo := ((attachments r).zip px).filter fun p => storesAt s r t.idx p.1
        let s := portUse s (tileEng r) pg (stores.map fun x => (x, noTag))
        let s := todo.foldl (fun s p => writeTile s (tileEng r) pg r.desc t.idx p.1 p.2) s
        let s := if r.phase = .partialRender then binWrite s (16 * t.idx + 12) 1 1 else s
        .next (showPass (unhold s .raster) { r with tile := none, stored := r.stored + b2n (!todo.isEmpty) })

/-- PARTIAL_RENDER_DONE (R236, R238): every tile with entries is written; bin memory is emptied, SPILLED bits stay, and
binning resumes unless a yield is asked for. `extra` is the cost beyond FLUSH_BEATS, `dup` the part of it after the end of
the context's slice (R345). -/
def execPartialRenderDone (extra dup : Nat) (s : State) : Host.Outcome State Fault Refusal :=
  match s.raster with
  | none => .next s
  | some r =>
    if r.phase ≠ .partialRender ∨ r.tile.isSome ∨ (nextTileOf s r r.nextTile).isSome then .next s
    else
      let p := emptyBins s r (tileSpilled s)
      let s := accrueDebt (raise p.1 E.RAS_EVENT.PARTIAL) r.cid (ownOverrun s r.cid extra dup)
      let r := { p.2 with phase := .geometry, partials := p.2.partials + 1, nextTile := 0, flushed := true }
      .next (binAll (binFuel r) (showPass s r) r)

/-- RASTER_PASS_END (R229, R238, R242, R243, R345): the final tile phase has visited every tile. -/
def execRasterPassEnd (extra dup : Nat) (s : State) : Host.Outcome State Fault Refusal :=
  match s.raster with
  | none => .next s
  | some r =>
    if r.phase ≠ .final ∨ r.tile.isSome ∨ r.nextTile < pTiles r.desc then .next s
    else .next (endPass (accrueDebt s r.cid (ownOverrun s r.cid extra dup)) r cOk)

/-! ## Yield, resume and abort (R238, R241, R342, R343) -/

/-- The pass as its save record holds it (R238): assembly stands before the first primitive not yet binned, whose vertices
are shaded again; the spilled tiles are in the bitmap. -/
def savedPass (s : State) (r : RasterRun) : RasterRun :=
  let left := r.batches.flatMap fun b => b.prims.map fun p => (b.draw, p.before)
  let spilled := (upTo (pTiles r.desc)).filter (tileSpilled s)
  let r := { r with batches := [], yielding := false, flushed := false, spilled := spilled, tile := none }
  match left with
  | [] => r
  | p :: _ => { r with draws := r.draws.take (p.1 + 1), asm := p.2 }

/-- The raster save record of a saved pass (R238, R340): 256 bytes with the descriptor as read, the draw index, the index
position, the primitive number and the report, then the bitmap of spilled tiles. DESIGN CHOICE (log 29): their places. -/
def passBytes (r : RasterRun) : List Byte :=
  padTo 256 (padTo 64 r.desc ++ leBytes 4 (r.draws.length - 1) ++ leBytes 4 r.asm.pos ++ leBytes 4 r.asm.prim ++
    padTo 32 (rasReport r nil32)) ++ (upTo 2048).map fun i =>
      BitVec.ofNat 8 (sumBy (fun k => b2n (r.spilled.contains (8 * i + k)) * 2 ^ k) (upTo 8))

/-- RASTER_YIELD (R238): a pass asked to yield in its geometry phase runs a partial render; at the flush point its progress
is saved and it leaves the raster block. -/
def execRasterYield (s : State) : Host.Outcome State Fault Refusal :=
  match s.raster with
  | none => .next s
  | some r =>
    if !r.yielding ∨ r.phase ≠ .geometry then .next s
    else if !r.flushed then .next (startPartial s r)
    else
      let saved := (s.nextImage, savedPass s r)
      let s := addImage (rasFree s r) .raster r.cid r.uid (passBytes saved.2)
      .next { s with savedPasses := s.savedPasses ++ [saved] }

/-- RASTER_RESUME (R238, R333, R337, R342, R343, R434): the first saved pass that is the next to be placed resumes. One whose
image reads back with an uncorrectable error does not: its context faults, the pass ends with its report, and its pages stay
held until the context is destroyed. -/
def execRasterResume (ecc : Ecc) (s : State) : Host.Outcome State Fault Refusal :=
  if s.raster.isSome then .next s
  else
    let ready := fun (p : Nat × RasterRun) =>
      ctxLive s p.2.cid && !beingTaken s p.2.cid .raster [] &&
        match cueOf s p.2.uid with
        | some q => mayPlace (noteAll s (ctxOf s p.2.cid).part) (ctxOf s p.2.cid).part p.2.cid q.src .raster 17
        | none => false
    match s.savedPasses.find? ready with
    | none => .next s
    | some (id, r) =>
      let s0 := noteAll s (ctxOf s r.cid).part
      let s := { s0 with savedPasses := s0.savedPasses.filter (·.1 != id) }
      if imageBad s id ecc then
        .next (incSat (putReport (imageFault s r.cid r.uid 0xFD r.daddr (field r.desc 0 4)) r nil32) R.RAS_PASS_COUNT)
      else
        let s := dropImage (charge s (ctxOf s r.cid).part 1 rasImage) id
        let p := emptyBins (acquirePart (startSlice s r.cid) (ctxOf s r.cid).part) r r.spilled.contains
        .next (whenUp s0 [dRaster] (showPass p.1 { p.2 with spilled := [] }))

/-- RASTER_ABORT (R241, R243, R345): a pass asked to stop leaves the raster block, its tile buffer and bin memory are
discarded, and its report is written; a saved pass ends where it is. `extra` are the beats of a tile phase cut short beyond
FLUSH_BEATS, `dup` the part of them after the end of the context's slice. -/
def execRasterAbort (src : Src) (extra dup : Nat) (s : State) : Host.Outcome State Fault Refusal :=
  match stopOf s (srcOf src) [3] with
  | none => .next s
  | some (c, code) =>
    match s.raster.filter (·.uid == c.uid), s.savedPasses.find? fun p => p.2.uid == c.uid with
    | some r, _ =>
      let late := if r.phase = .geometry then 0 else ownOverrun s r.cid extra dup
      .next (stopDone (endPass (accrueDebt s r.cid late) r code) c.uid code)
    | none, none => .next (stopDone s c.uid code)
    | none, some p =>
      let s := putReport { s with savedPasses := s.savedPasses.filter (·.1 != p.1) } p.2 nil32
      .next (stopDone (incSat s R.RAS_PASS_COUNT) c.uid code)

end Sys2Proof.Machine
end

