-- ==== Sys2Proof/Machine/SelfTest.lean ====
section
/-! DEFINITION. Stalls, replay, core takeover, Run-through and Rehearsal (spec/01_fabric_and_loft.md R34, R35,
spec/05_the_pit.md R206 to R209, spec/16_rehearsal_and_show_report.md R488 to R498), and the recorder's next record. -/

namespace Sys2Proof.Machine

open Sys2Proof

/-! ## Work leaves a core -/

/-- The report of a pass or a compression that ends without a completion is written at once, where its context can
(R243, R431). -/
def reportNow (s : State) (e : EngAsk) (addr : Nat) (bytes : List Byte) : State :=
  match xlateUnit s e.cid [(addr, bytes.length, true)] with
  | .ok pages => ctxWrite s e pages addr bytes
  | _ => s

/-- The reports of a cue that is abandoned. -/
def abandonReports (s : State) (uid : Nat) : State :=
  let pass := s.raster.toList ++ s.savedPasses.map (·.2)
  let s := (pass.filter (·.uid == uid)).foldl (fun s r =>
    reportNow s (rasEng r r.daddr (field r.desc 0 4)) (field r.desc 48 8) (rasReport r nil32)) s
  (s.comps.filter (·.uid == uid)).foldl (fun s r => reportNow s (compEng r) (zReport r.raw) (compReport r nil32)) s

/-- All engine work of a cue is gone, without a result: what reports it had to write, it writes. -/
def dropWork (s : State) (uid : Nat) : State :=
  let s := abandonReports s uid
  let s := (s.tensors.filter (·.uid == uid)).foldl idleTe (dropNext (stopCueEngines s uid) uid)
  let s :=
    { s with
      tensors := s.tensors.filter (·.uid != uid)
      copies := s.copies.filter (·.uid != uid)
      comps := s.comps.filter (·.uid != uid)
      savedPasses := s.savedPasses.filter (·.2.uid != uid)
      reports := s.reports.filter (·.uid != uid)
      stops := s.stops.filter (·.1 != uid) }
  match s.raster with
  | some r => if r.uid = uid then rasFree s r else s
  | none => s

/-- A cue's work ends at once with a code, an operation, a gang or a pass whole: with the counts reached (R177), and a pass
with its report (R243, R431). -/
def endWork (s : State) (uid code : Nat) : State :=
  let s := { s with stops := s.stops.filter (·.1 != uid) }
  match s.tensors.find? (·.uid == uid), s.raster.filter (·.uid == uid), s.savedPasses.find? (·.2.uid == uid),
      s.comps.find? (·.uid == uid) with
  | some o, _, _, _ => endOp s o code
  | _, some r, _, _ => endPass s r code
  | _, _, some p, _ =>
    let s := putReport { s with savedPasses := s.savedPasses.filter (·.1 != p.1) } p.2 nil32
    endCue (incSat s R.RAS_PASS_COUNT) uid code
  | _, _, _, some r => endComp s r code
  | _, _, _, _ => endCue (dropWork s uid) uid code

/-- The cues with work on a core. -/
def cuesOn (s : State) (c : Nat) : List Nat :=
  (((coreOf s c).wgs.map (·.uid)) ++ (s.tensors.filter (·.cores.contains c)).map (·.uid)).eraseDups

/-- A core's contents are lost: its domain is reset, or a test has used it. -/
def clearCore (s : State) (c : Nat) : State :=
  let s := modCore { s with reqs := s.reqs.filter (·.core != c) } c fun k => { k with wgs := [], groups := [] }
  showCore (modCache s (c + 1) fun _ => CacheSt.empty) c

/-! ## Replay (R206 to R209) -/

/-- Whether a block's chain has started: its head cue has left the queue (R207). -/
def chainBegun (s : State) (b : PitBlock) : Bool :=
  !b.head && match cueOf s b.headUid with | some c => c.stage != .waiting | none => true

/-- Whether a privileged stream's chain runs on a logical core: started and not complete. -/
def chainOn (s : State) (l n : Nat) : Bool :=
  streamArmed s n && streamPriv s n && stHome s n == l &&
    (match (streamOf s n).proc with | some b => !b.complete && chainBegun s b | none => false)

/-- A chain is to run again on the core that has taken its number, as the replay in place `turn` (R207): the cues of the
first run are abandoned without completion records, their passes with a report (R243), and the block information is rewritten
with REPLAY. -/
def replayChain (s : State) (n old new turn : Nat) : State :=
  let s := ((cuesOf s (.stream n)).map (·.uid)).foldl dropWork s
  let s := { s with cues := s.cues.filter (·.src != .stream n), follows := s.follows.filter (·.src != .stream n) }
  writeInfo (modProc s n fun b =>
    { b with replay := true, head := true, cores := leBytes 1 old ++ leBytes 1 new, turn := turn }) n

/-- With no core standing aside, the block of a chain that is to be replayed is dropped (R209). -/
def dropChain (s : State) (n : Nat) : State :=
  let s := ((cuesOf s (.stream n)).filter (·.stage == .running)).foldl (fun s c => endWork s c.uid cDeadline) s
  outputPoint s n

/-- A stream's place among others by output point, earliest first (R207). -/
def dueInsert (s : State) (n : Nat) : List Nat → List Nat
  | [] => [n]
  | m :: ms => if outputDue s n < outputDue s m then n :: m :: ms else m :: dueInsert s n ms
def byDue (s : State) (l : List Nat) : List Nat := l.foldl (fun acc n => dueInsert s n acc) []

/-! ## Core takeover (R488 to R490) -/

/-- A core's role and logical number; LOGICAL reads 0xF while ROLE is not 0. -/
def setRole (s : State) (c role l : Nat) : State :=
  let s := fset (fset s (F.CORE_ID.ROLE c) role) (F.CORE_ID.LOGICAL c) (if role = 0 then l else 15)
  fset s F.TEST_RT_STATE.UNDERSTUDY ((understudy s).getD 0x1F)

/-- The transient count of a core (TEST_TRANSIENT0 and 1). -/
def transient (s : State) (c : Nat) : Nat :=
  if c < 16 then bits (rdN s R.TEST_TRANSIENT0) (2 * c + 1) (2 * c) else fget s F.TEST_TRANSIENT1.COUNT
def setTransient (s : State) (c v : Nat) : State :=
  if c < 16 then wrN s R.TEST_TRANSIENT0 (putBits (rdN s R.TEST_TRANSIENT0) (2 * c + 1) (2 * c) v)
  else fset s F.TEST_TRANSIENT1.COUNT v

/-- DETAIL of CORE_TAKEOVER and RT_CORE_FAIL (R500). -/
def coreDetail (s : State) (c : Nat) (holder num : Option Nat) : List Byte :=
  leBytes 1 c ++ leBytes 1 (holder.getD 0xFF) ++ leBytes 1 (num.getD 0xFF) ++
    leBytes 1 (fget s (F.CORE_STALL_STATUS.UNIT c)) ++ leBytes 1 (transient s c)

def coreEv (s : State) (code unit sev c : Nat) (holder num : Option Nat) : ShowEv :=
  { plainEv code unit sev with pcore := c, detail := coreDetail s c holder num }

/-- A core becomes failed (R489). -/
def failCore (s : State) (c : Nat) (num : Option Nat) : State :=
  let s := setDom (setRole s c 3 15) (dCore + c) false
  let s := saveHeader (wrN s R.TEST_CORE_FAILED (putBits (rdN s R.TEST_CORE_FAILED) c c 1))
  showEvent (raise s E.TEST_EVENT.RT_CORE_FAIL) (coreEv s cRtCoreFail 0x27 2 c (num.bind (physOf s ·)) num)

/-- The core that takes a fenced core's number (R207 step 2): the one under Run-through for which the understudy stands in,
or the understudy. -/
def heirOf (s : State) : Option Nat :=
  match s.test.slice with
  | some (.core p _ true) => some p
  | _ => understudy s

/-- A core slice in progress ends without a result (R207, R492). -/
def endCoreSlice (s : State) : State :=
  match s.test.slice with
  | some (.core _ _ handed) =>
    let s := fset { s with test := { s.test with slice := none } } F.TEST_RT_STATE.PHASE 0
    if handed then raise s E.TEST_EVENT.RT_ABANDONED else s
  | _ => s

/-- Takeover of a core (R207, R488 steps 1 to 5): it is fenced, its number passes on, privileged chains on it are replayed in
order of output point, after those of the streams `also`, or dropped; its other cues end, and the takeover is recorded. -/
def takeover (s : State) (c : Nat) (also : List Nat) : State :=
  let num := if coreRole s c = 0 then some (lcoreOf s c) else none
  let heir := if num.isSome then heirOf s else none
  let chains := match num with
    | some l => also ++ byDue s ((upTo 32).filter fun n => chainOn s l n && !also.contains n)
    | none => []
  let s := setRole (endCoreSlice s) c 3 15
  let s := match heir, num with
    | some h, some l => setRole s h 0 l
    | _, _ => s
  let s := ((upTo chains.length).zip chains).foldl (fun s q =>
    match heir with | some h => replayChain s q.2 c h q.1 | none => dropChain s q.2) s
  let s := clearCore ((cuesOn s c).foldl (fun s u => endWork s u cStall) s) c
  let s := { s with test := { s.test with fenced := s.test.fenced ++ [⟨c, num, num.isSome && heir.isNone⟩] } }
  showEvent (raise s E.TEST_EVENT.TAKEOVER)
    (coreEv s cTakeover (0x10 + c) (if heir.isSome then 1 else 2) c heir num)

/-- STALL_DECLARED (R34, R35, R488, R536): a stall in a core is recorded, and the core fenced and taken over, whatever its
role, unless it is fenced already. A stalled Loft bank is recorded, and the reset that follows waits for its record. -/
def execStallDeclared (r : StallRegion) (s : State) : Host.Outcome State Fault Refusal :=
  match r with
  | .core c unit =>
    let s := raise (fset s (F.CORE_STALL_STATUS.UNIT c) unit) (E.CORE_STALL_STATUS.STALL c)
    let s := showEvent s { plainEv cStall (0x10 + c.val) 3 with pcore := c }
    .next (if coreRole s c = 3 then s else takeover s c [])
  | .bank b =>
    let s := raise (fset s F.LOFT_FAB_STALL_STATUS.BANK b) E.LOFT_FAB_STALL_STATUS.LOFT_STALL
    let full := decide (64 ≤ s.recorder.queue.length)
    let s := showEvent s (plainEv cStall 0x06 3)
    .next (if full then firmwareReset s 1 else s)

/-- SHOW_RECORD_WRITE (R500 to R502, R505): the recorder takes the next event, `ms` milliseconds within OPSEC. After the
record of a stalled Loft bank, firmware requests an L1 (R35). -/
def execShowRecordWrite (ms : Fin 1000) (s : State) : Host.Outcome State Fault Refusal :=
  match s.recorder.queue with
  | [] => .next s
  | e :: rest =>
    let s := takeEvent (modShow s fun w => { w with queue := rest }) e ms
    .next (if e.code = cStall ∧ e.unit = 0x06 then firmwareReset s 1 else s)

/-- BLOCK_DEADLINE (R190, R198, R206): N/2 frames after the boundary of a SAP stream, and in no other frame. An incomplete
privileged chain is replayed, its core taken over; a chain that is not privileged is late. A replay is not itself replayed.
-/
def execBlockDeadline (n : Fin 32) (s : State) : Host.Outcome State Fault Refusal :=
  match (streamOf s n).proc with
  | none => .next s
  | some b =>
    if b.complete ∨ stIsSap s n = false ∨ 2 * (streamOf s n).t ≠ stN s n then .next s
    else if !streamPriv s n then .next (modProc s n fun b => { b with late := true })
    else if b.replay then .next s
    else match physOf s (stHome s n) with
      | some c => .next (takeover s c [n.val])
      | none => .next (dropChain s n)

/-- TAKEOVER_TEST_DONE (R488 step 6): the fenced core returns, or becomes failed. -/
def execTakeoverTestDone (c : Fin 17) (pass : Bool) (s : State) : Host.Outcome State Fault Refusal :=
  match s.test.fenced.find? (·.core == c.val) with
  | none => .next s
  | some f =>
    let s := { s with test := { s.test with fenced := dropFirst (· == f) s.test.fenced } }
    if !pass then .next (failCore s c f.num)
    else
      let s := setTransient s c (satAdd 3 (transient s c) 1)
      if transient s c < max 1 (fget s F.TEST_RT_CFG.TRANSIENT_LIMIT) then
        .next (if f.kept then setRole s c 0 (f.num.getD 15) else setRole s c 1 15)
      else .next (failCore s c f.num)

/-! ## Run-through (R491 to R493) -/

/-- The active cores that Run-through covers, as their logical numbers. -/
def coveredCores (s : State) : List Nat :=
  (upTo 16).filter fun l => (physOf s l).isSome && (understudy s).isSome &&
    (fbit s F.TEST_RT_CFG.ALL || match partOfLcore s l with | some p => partPriv s p | none => false)

/-- The units covered, in the order of a cycle: 0 to 15 cores, 16 the Pit, 17 to 19 the Curtain paths. -/
def rtUnits (s : State) : List Nat :=
  coveredCores s ++ (if fbit s F.TEST_RT_CFG.PIT_EN then [16] else []) ++
    (if fbit s F.TEST_RT_CFG.CURTAIN_EN then ((upTo 3).filter (outEn s)).map (17 + ·) else [])

/-- Pre-empt what is not chain work on a core (R492 step 1): contexts none of whose work there is a privileged chain's. -/
def clearFor (s : State) (c : Nat) : State :=
  let chain := ((cuesOn s c).filter (isChainCue s)).map (cidOfCue s)
  let cids := ((cuesOn s c).map (cidOfCue s)).eraseDups.filter (!chain.contains ·)
  cids.foldl (fun s cid => preemptReq s cid c none false) s

/-- RT_SLICE_START (R491, R492): the next covered unit's slice begins. -/
def execRtSliceStart (s : State) : Host.Outcome State Fault Refusal :=
  if !fbit s F.TEST_RT_CFG.EN || s.test.slice.isSome then .next s
  else
    let us := rtUnits s
    match (us.find? (s.test.cursor ≤ ·)).or us.head? with
    | none => .next s
    | some u =>
      let put := fun (x : RtSlice) => { s with test := { s.test with slice := some x, cursor := u + 1 } }
      if u = 16 then .next (fset (put .pit) F.TEST_RT_STATE.PHASE 3)
      else if 17 ≤ u then .next (fset (put (.curtain (u - 17))) F.TEST_RT_STATE.PHASE 3)
      else match physOf s u with
        | none => .next s
        | some p =>
          let s := fset (fset (fset (put (.core p u false)) F.TEST_RT_STATE.PHASE 1) F.TEST_RT_STATE.PCORE p)
            F.TEST_RT_STATE.LOGICAL u
          .next (clearFor s p)

/-- RT_HANDOVER (R492 step 1): once nothing runs on the chosen core, its number passes to the understudy. -/
def execRtHandover (s : State) : Host.Outcome State Fault Refusal :=
  match s.test.slice with
  | some (.core p l false) =>
    if !(cuesOn s p).isEmpty then .next (clearFor s p)
    else if (upTo 32).any (chainOn s l) then .next s
    else match understudy s with
      | none => .next s
      | some u =>
        let s := fset (setRole (setRole s p 2 15) u 0 l) F.TEST_RT_STATE.PHASE 2
        .next { s with test := { s.test with slice := some (.core p l true) } }
  | _ => .next s

/-- A slice is complete. -/
def endSlice (s : State) : State :=
  incSat (fset { s with test := { s.test with slice := none } } F.TEST_RT_STATE.PHASE 0) R.TEST_RT_COUNT

/-- RT_CORE_TEST_DONE (R492 step 3). -/
def execRtCoreTestDone (pass : Bool) (s : State) : Host.Outcome State Fault Refusal :=
  match s.test.slice with
  | some (.core p l true) =>
    let s := clearCore (endSlice s) p
    .next (if pass then setRole s p 1 15 else failCore s p (some l))
  | _ => .next s

/-- RT_PIT_SLICE_DONE (R493). -/
def execRtPitSliceDone (match_ : Bool) (s : State) : Host.Outcome State Fault Refusal :=
  match s.test.slice with
  | some .pit =>
    let s := endSlice s
    .next (if match_ then s else showEvent (raise s E.TEST_EVENT.PIT_RT_FAIL) (plainEv cPitRt 0x27 2))
  | _ => .next s

/-- RT_CURTAIN_SLICE_DONE (R493): the Curtain's CRC has not moved without a flip, and equals the expected one. -/
def execRtCurtainSliceDone (o : Fin 3) (s : State) : Host.Outcome State Fault Refusal :=
  if s.test.slice ≠ some (.curtain o) then .next s
  else
    let bad := (outOf s o).moved ||
      (bit (fget s F.TEST_RT_CFG.EXP_VALID) o && rdN s (R.PROSC_DO_CURTAIN_CRC o) != rdN s (R.TEST_CURTAIN_EXP o))
    let s := modOut (endSlice s) o fun u => { u with moved := false }
    .next (if bad then showEvent (raise s E.TEST_EVENT.CURTAIN_RT_FAIL) (plainEv cCurtainRt 0x27 2) else s)

/-! ## Rehearsal (R494 to R498) -/

/-- A new or known repair entry (R498). -/
def foundRepair (s : State) (e : Nat) : State :=
  if s.test.found.contains e then s else
  let s := { s with test := { s.test with found := s.test.found ++ [e] } }
  if s.repairs.any (·.entry == e) then
    { s with repairs := mapFirst (·.entry == e) (fun r => { r with count := r.count + 1 }) s.repairs }
  else if 256 ≤ s.repairs.length then s
  else
    let s := fset { s with repairs := s.repairs ++ [⟨e, 1⟩] } F.TEST_REPAIR_STATE.SOFT (s.repairs.length + 1)
    showEvent s { plainEv cRepairSoft 0x27 0 with detail := leBytes 4 e }

/-- One finding of a wave (R495, R498). -/
def finding (s : State) (f : Finding) : State :=
  match f with
  | .repair e => foundRepair s e.toNat
  | .coreFail c => failCore s c none
  | .loftFail => showEvent (modBoot s fun b => { b with loftBad := true }) (plainEv cLoftUnrep 0x27 3)
  | .unitFail => showEvent s (plainEv cRehFail 0x27 2)

/-- REHEARSAL_WAVE_DONE (R494, R495, R498). -/
def execRehearsalWaveDone (found : List Finding) (s : State) : Host.Outcome State Fault Refusal :=
  .next (if rehearsing s then found.foldl finding s else s)

/-- REHEARSAL_DONE (R442, R496, R498): the results are written, and OFF_READY is set. A flash error leaves the previous
table in force. -/
def execRehearsalDone (flashOk : Bool) (s : State) : Host.Outcome State Fault Refusal :=
  if !rehearsing s then .next s
  else
    let found := s.test.found
    let s := { s with
      repairs := s.repairs.map fun r => if found.contains r.entry then r else { r with count := 0 }
      test := { s.test with found := [] } }
    let s :=
      if flashOk then saveHeader (modBoot s fun b => { b with lastShutdown := 2 })
      else raiseSys (fset s F.SHOW_STATE.FLASH_OK 0) E.SHOW_EVENT.FLASH_ERR
    .next (send (modPwr (fset s F.PWR_STATE.STATE pOff) fun p => { p with entry := none }) .offReady)

end Sys2Proof.Machine
end

