-- ==== Sys2Proof/Machine/Keccak.lean ====
section
/-! DEFINITION. SHAKE256 (FIPS 202), by which the security engine makes its digests, keys and signatures
(spec/15_reset_boot_security.md R465, R470, R481 to R486): Keccak-f[1600] on 25 lanes, and the sponge of rate 136 bytes. The spec
names the standard and does not write it out (PRESUMED, notes/assumptions/40.md). -/

namespace Sys2Proof.Machine

open Sys2Proof

/-- Lane (x, y) of a state, which stands at x + 5 * y; coordinates count modulo 5. -/
def lane (a : List W64) (x y : Nat) : W64 := a.getD (x % 5 + 5 * (y % 5)) 0

/-- A state from its lanes. -/
def lanesOf (f : Nat → Nat → W64) : List W64 := (upTo 25).map fun i => f (i % 5) (i / 5)

/-- The rotation of each lane, at x + 5 * y. -/
def rhoOffsets : List Nat :=
  [0, 1, 62, 28, 27, 36, 44, 6, 55, 20, 3, 10, 43, 25, 39, 41, 45, 15, 21, 8, 18, 2, 61, 56, 14]

/-- The round constants. -/
def roundConstants : List W64 :=
  [0x0000000000000001, 0x0000000000008082, 0x800000000000808A, 0x8000000080008000, 0x000000000000808B, 0x0000000080000001,
    0x8000000080008081, 0x8000000000008009, 0x000000000000008A, 0x0000000000000088, 0x0000000080008009, 0x000000008000000A,
    0x000000008000808B, 0x800000000000008B, 0x8000000000008089, 0x8000000000008003, 0x8000000000008002, 0x8000000000000080,
    0x000000000000800A, 0x800000008000000A, 0x8000000080008081, 0x8000000000008080, 0x0000000080000001, 0x8000000080008008]

/-- The parity of a column. -/
def column (a : List W64) (x : Nat) : W64 := lane a x 0 ^^^ lane a x 1 ^^^ lane a x 2 ^^^ lane a x 3 ^^^ lane a x 4

/-- The steps of a round. -/
def theta (a : List W64) : List W64 :=
  let c := (upTo 5).map (column a)
  lanesOf fun x y => lane a x y ^^^ c.getD ((x + 4) % 5) 0 ^^^ (c.getD ((x + 1) % 5) 0).rotateLeft 1
def rhoPi (a : List W64) : List W64 :=
  lanesOf fun x y => (lane a (x + 3 * y) x).rotateLeft (rhoOffsets.getD ((x + 3 * y) % 5 + 5 * x) 0)
def chi (a : List W64) : List W64 := lanesOf fun x y => lane a x y ^^^ (~~~(lane a (x + 1) y) &&& lane a (x + 2) y)
def keccakRound (a : List W64) (rc : W64) : List W64 :=
  match chi (rhoPi (theta a)) with
  | [] => []
  | l :: ls => (l ^^^ rc) :: ls

/-- Keccak-f[1600]. -/
def keccakF (a : List W64) : List W64 := roundConstants.foldl keccakRound a

/-- The rate of SHAKE256 in bytes. -/
abbrev shakeRate : Nat := 136

/-- A message padded to whole blocks: the suffix 1111 and 10*1. -/
def shakePad (m : List Byte) : List Byte :=
  let n := shakeRate - m.length % shakeRate
  if n = 1 then m ++ [0x9F] else m ++ [0x1F] ++ List.replicate (n - 2) 0 ++ [0x80]

/-- A block is taken into the state. -/
def absorb (a : List W64) (block : List Byte) : List W64 :=
  keccakF (lanesOf fun x y => lane a x y ^^^ BitVec.ofNat 64 (field block (8 * (x + 5 * y)) 8))

/-- `k` blocks are given out. -/
def squeeze : Nat → List W64 → List Byte
  | 0, _ => []
  | k + 1, a => ((a.flatMap fun l => leBytes 8 l.toNat).take shakeRate) ++ squeeze k (keccakF a)

/-- The digest of `n` bytes of a message. -/
def shake256 (n : Nat) (m : List Byte) : List Byte :=
  let p := shakePad m
  let a := (upTo (p.length / shakeRate)).foldl (fun a i => absorb a ((p.drop (shakeRate * i)).take shakeRate)) (List.replicate 25 0)
  (squeeze (ceilDiv n shakeRate) a).take n

end Sys2Proof.Machine
end

