-- ==== Sys2Proof/Machine/SlhDsa.lean ====
section
/-! DEFINITION. SLH-DSA with SHAKE (FIPS 205), in the two parameter sets the manual names (spec/15_reset_boot_security.md R470,
R482, R483): the internal key generation, the deterministic signature and the verification, in the pure form with an empty context
string. The spec names the standard and does not write it out (PRESUMED, notes/assumptions/40.md). -/

namespace Sys2Proof.Machine

open Sys2Proof

/-- A parameter set: bytes of a hash, layers, height of a tree, height and number of the FORS trees, bytes of a message
digest. -/
structure SlhSet where
  n : Nat
  d : Nat
  hp : Nat
  a : Nat
  k : Nat
  m : Nat

/-- SLH-DSA-SHAKE-192f and SLH-DSA-SHAKE-256s. -/
def slh192f : SlhSet := ⟨24, 22, 3, 8, 33, 42⟩
def slh256s : SlhSet := ⟨32, 8, 8, 14, 22, 47⟩

/-- Big-endian numbers of bytes. -/
def beNat (b : List Byte) : Nat := leNat b.reverse
def beBytes (n v : Nat) : List Byte := (leBytes n v).reverse

/-- The first `count` digits of `b` bits of a byte string. -/
def digits (x : List Byte) (b count : Nat) : List Nat :=
  let v := beNat x
  (upTo count).map fun i => v / 2 ^ (8 * x.length - b * (i + 1)) % 2 ^ b

/-- An address: layer, tree, type and its three words. Types: 0 WOTS_HASH, 1 WOTS_PK, 2 TREE, 3 FORS_TREE, 4 FORS_ROOTS, 5
WOTS_PRF, 6 FORS_PRF. -/
structure Adrs where
  layer : Nat
  tree : Nat
  type : Nat
  w1 : Nat
  w2 : Nat
  w3 : Nat

def Adrs.bytes (x : Adrs) : List Byte :=
  beBytes 4 x.layer ++ beBytes 12 x.tree ++ beBytes 4 x.type ++ beBytes 4 x.w1 ++ beBytes 4 x.w2 ++ beBytes 4 x.w3

/-- The tweakable hashes F, H and T, and PRF, all of n bytes. -/
def tweak (p : SlhSet) (seed : List Byte) (x : Adrs) (m : List Byte) : List Byte := shake256 p.n (seed ++ x.bytes ++ m)

/-- Part `i` of `n` bytes of a byte string. -/
def chunk (b : List Byte) (n i : Nat) : List Byte := (b.drop (n * i)).take n

/-! ## WOTS+ -/

/-- Digits of a WOTS+ message. -/
def wotsLen (p : SlhSet) : Nat := 2 * p.n + 3

/-- `steps` steps of a chain from step `i`. -/
def wotsChain (p : SlhSet) (seed : List Byte) (x : Adrs) (i : Nat) : Nat → List Byte → List Byte
  | 0, v => v
  | k + 1, v => wotsChain p seed x (i + 1) k (tweak p seed { x with w3 := i } v)

/-- The digits of a message with its checksum. -/
def wotsDigits (p : SlhSet) (m : List Byte) : List Nat :=
  let l := digits m 4 (2 * p.n)
  l ++ digits (beBytes 2 (16 * sumBy (15 - ·) l)) 4 3

/-- The secret value of a chain. -/
def wotsSecret (p : SlhSet) (sk seed : List Byte) (x : Adrs) (i : Nat) : List Byte :=
  tweak p seed { x with type := 5, w2 := i, w3 := 0 } sk

/-- The public key that the chains' ends make. -/
def wotsRoot (p : SlhSet) (seed : List Byte) (x : Adrs) (ends : List Byte) : List Byte :=
  tweak p seed { x with type := 1, w2 := 0, w3 := 0 } ends

/-- The address of a chain, its key pair being that of `x`. -/
def chainAdrs (x : Adrs) (i : Nat) : Adrs := { x with type := 0, w2 := i, w3 := 0 }

def wotsPublic (p : SlhSet) (sk seed : List Byte) (x : Adrs) : List Byte :=
  wotsRoot p seed x ((upTo (wotsLen p)).flatMap fun i =>
    wotsChain p seed (chainAdrs x i) 0 15 (wotsSecret p sk seed x i))

def wotsSign (p : SlhSet) (sk seed : List Byte) (x : Adrs) (m : List Byte) : List Byte :=
  let l := wotsDigits p m
  (upTo (wotsLen p)).flatMap fun i =>
    wotsChain p seed (chainAdrs x i) 0 (l.getD i 0) (wotsSecret p sk seed x i)

def wotsFrom (p : SlhSet) (seed : List Byte) (x : Adrs) (sig m : List Byte) : List Byte :=
  let l := wotsDigits p m
  wotsRoot p seed x ((upTo (wotsLen p)).flatMap fun i =>
    wotsChain p seed (chainAdrs x i) (l.getD i 0) (15 - l.getD i 0) (chunk sig p.n i))

/-! ## Trees -/

/-- A node of an XMSS tree at a height. -/
def xmssNode (p : SlhSet) (sk seed : List Byte) (x : Adrs) : (height : Nat) → (i : Nat) → List Byte
  | 0, i => wotsPublic p sk seed { x with type := 0, w1 := i }
  | z + 1, i =>
    tweak p seed { x with type := 2, w1 := 0, w2 := z + 1, w3 := i }
      (xmssNode p sk seed x z (2 * i) ++ xmssNode p sk seed x z (2 * i + 1))

/-- A FORS secret value and a node of a FORS tree; the key pair is that of `x`. -/
def forsSecret (p : SlhSet) (sk seed : List Byte) (x : Adrs) (i : Nat) : List Byte :=
  tweak p seed { x with type := 6, w2 := 0, w3 := i } sk
def forsNode (p : SlhSet) (sk seed : List Byte) (x : Adrs) : (height : Nat) → (i : Nat) → List Byte
  | 0, i => tweak p seed { x with type := 3, w2 := 0, w3 := i } (forsSecret p sk seed x i)
  | z + 1, i =>
    tweak p seed { x with type := 3, w2 := z + 1, w3 := i }
      (forsNode p sk seed x z (2 * i) ++ forsNode p sk seed x z (2 * i + 1))

/-- The root above a leaf along its authentication path: `i` is the leaf's place in the tree, `x` the address of its nodes. -/
def climb (p : SlhSet) (seed : List Byte) (x : Adrs) (path : List Byte) (height i : Nat) (leaf : List Byte) : List Byte :=
  (upTo height).foldl (fun v j =>
    let sib := chunk path p.n j
    tweak p seed { x with w2 := j + 1, w3 := i / 2 ^ (j + 1) } (if bit i j then sib ++ v else v ++ sib)) leaf

/-- The sibling of the node above leaf `i` at a height. -/
def sibling (i j : Nat) : Nat := if bit i j then i / 2 ^ j - 1 else i / 2 ^ j + 1

def xmssSign (p : SlhSet) (sk seed : List Byte) (x : Adrs) (i : Nat) (m : List Byte) : List Byte :=
  wotsSign p sk seed { x with w1 := i } m ++ (upTo p.hp).flatMap fun j => xmssNode p sk seed x j (sibling i j)

/-- Bytes of an XMSS signature. -/
def xmssLen (p : SlhSet) : Nat := (wotsLen p + p.hp) * p.n

def xmssFrom (p : SlhSet) (seed : List Byte) (x : Adrs) (i : Nat) (sig m : List Byte) : List Byte :=
  climb p seed { x with type := 2, w1 := 0 } (sig.drop (wotsLen p * p.n)) p.hp i (wotsFrom p seed { x with w1 := i } sig m)

/-! ## The hypertree -/

/-- The address of the tree of a layer, and the leaf in it, above a leaf of layer 0. -/
def layerAt (p : SlhSet) (tree leaf j : Nat) : Adrs × Nat :=
  let w := tree * 2 ^ p.hp + leaf
  (⟨j, w / 2 ^ (p.hp * (j + 1)), 0, 0, 0, 0⟩, w / 2 ^ (p.hp * j) % 2 ^ p.hp)

def htSign (p : SlhSet) (sk seed : List Byte) (tree leaf : Nat) (m : List Byte) : List Byte :=
  ((upTo p.d).foldl (fun (r : List Byte × List Byte) j =>
    let at' := layerAt p tree leaf j
    let sig := xmssSign p sk seed at'.1 at'.2 r.2
    (r.1 ++ sig, if j + 1 < p.d then xmssFrom p seed at'.1 at'.2 sig r.2 else r.2)) ([], m)).1

def htRoot (p : SlhSet) (seed : List Byte) (tree leaf : Nat) (sig m : List Byte) : List Byte :=
  (upTo p.d).foldl (fun m j =>
    let at' := layerAt p tree leaf j
    xmssFrom p seed at'.1 at'.2 (chunk sig (xmssLen p) j) m) m

/-! ## FORS -/

/-- The leaf chosen in each FORS tree. -/
def forsLeaves (p : SlhSet) (md : List Byte) : List Nat := digits md p.a p.k

def forsSign (p : SlhSet) (sk seed : List Byte) (x : Adrs) (md : List Byte) : List Byte :=
  let l := forsLeaves p md
  (upTo p.k).flatMap fun i =>
    let leaf := i * 2 ^ p.a + l.getD i 0
    forsSecret p sk seed x leaf ++ (upTo p.a).flatMap fun j => forsNode p sk seed x j (sibling leaf j)

def forsFrom (p : SlhSet) (seed : List Byte) (x : Adrs) (sig md : List Byte) : List Byte :=
  let l := forsLeaves p md
  let roots := (upTo p.k).flatMap fun i =>
    let leaf := i * 2 ^ p.a + l.getD i 0
    let b := chunk sig ((p.a + 1) * p.n) i
    climb p seed { x with type := 3 } (b.drop p.n) p.a leaf (tweak p seed { x with type := 3, w2 := 0, w3 := leaf } (b.take p.n))
  tweak p seed { x with type := 4, w2 := 0, w3 := 0 } roots

/-! ## SLH-DSA -/

/-- A message in the pure form with an empty context string. -/
def pureMsg (m : List Byte) : List Byte := [0, 0] ++ m

/-- What a digest selects: the FORS message, the tree and the leaf. -/
def slhSplit (p : SlhSet) (digest : List Byte) : List Byte × Nat × Nat :=
  let h := p.hp * (p.d - 1)
  let a := ceilDiv (p.k * p.a) 8
  let b := ceilDiv h 8
  (digest.take a, beNat ((digest.drop a).take b) % 2 ^ h, beNat ((digest.drop (a + b)).take (ceilDiv p.hp 8)) % 2 ^ p.hp)

/-- The address of the FORS key of a leaf. -/
def forsAdrs (tree leaf : Nat) : Adrs := ⟨0, tree, 3, leaf, 0, 0⟩

/-- The public key of the seeds SK.seed, SK.prf and PK.seed, in that order. -/
def slhPublic (p : SlhSet) (seeds : List Byte) : List Byte :=
  chunk seeds p.n 2 ++ xmssNode p (chunk seeds p.n 0) (chunk seeds p.n 2) ⟨p.d - 1, 0, 0, 0, 0, 0⟩ p.hp 0

/-- The deterministic signature of a message, with opt_rand equal to PK.seed. -/
def slhSign (p : SlhSet) (seeds msg : List Byte) : List Byte :=
  let sk := chunk seeds p.n 0
  let seed := chunk seeds p.n 2
  let m := pureMsg msg
  let r := shake256 p.n (chunk seeds p.n 1 ++ seed ++ m)
  let at' := slhSplit p (shake256 p.m (r ++ slhPublic p seeds ++ m))
  let x := forsAdrs at'.2.1 at'.2.2
  let fors := forsSign p sk seed x at'.1
  r ++ fors ++ htSign p sk seed at'.2.1 at'.2.2 (forsFrom p seed x fors at'.1)

/-- Bytes of a signature. -/
def slhLen (p : SlhSet) : Nat := p.n * (1 + p.k * (p.a + 1)) + p.d * xmssLen p

/-- Whether a signature of a message verifies under a public key. -/
def slhVerify (p : SlhSet) (pk msg sig : List Byte) : Bool :=
  let seed := chunk pk p.n 0
  let at' := slhSplit p (shake256 p.m (sig.take p.n ++ pk ++ pureMsg msg))
  let x := forsAdrs at'.2.1 at'.2.2
  let fors := (sig.drop p.n).take (p.n * p.k * (p.a + 1))
  decide (sig.length = slhLen p) &&
    htRoot p seed at'.2.1 at'.2.2 (sig.drop (p.n * (1 + p.k * (p.a + 1)))) (forsFrom p seed x fors at'.1) == chunk pk p.n 1

end Sys2Proof.Machine
end

