-- ==== Sys2Proof/Machine/Boot.lean ====
section
/-! DEFINITION. Reset sources, releases and the start sequence up to the image (spec/15_reset_boot_security.md R460 to R473,
R476, spec/17_pins_and_electrical.md R512, R513, R516, R521). -/

namespace Sys2Proof.Machine

open Sys2Proof

/-! ## Supplies and reset sources -/

/-- The supplies are gone: what remains is what the board and the host hold, the fuses, and the Loft's own defects. -/
def powerOff (s : State) : State :=
  { State.reset with
    pending := s.pending
    bus := s.bus
    free := s.free
    mem := s.mem.filter fun p => decide (hostBase ≤ p.1)
    out := s.out
    flash := s.flash
    boot := { BootSt.off with fuses := s.boot.fuses, loftBad := s.boot.loftBad } }

/-- SUPPLY_REMOVAL (R437, R512). -/
def execSupplyRemoval (s : State) : Host.Outcome State Fault Refusal := .next (powerOff s)

/-- POWER_ON (R460, R468): VDD_AON rises, source 0. -/
def execPowerOn (s : State) : Host.Outcome State Fault Refusal :=
  .next (modBoot (assertSource (powerOff s) 0 0) fun b => { b with cold := some true })

/-- RESET_N_ASSERT (R462, R521): source 1, which holds its reset. -/
def execResetNAssert (same : Bool) (s : State) : Host.Outcome State Fault Refusal :=
  .next (assertWith (modBoot s fun b => { b with resetN := true }) 1 0 same)

/-- PERST_ASSERT (R460, R462): source 2, which holds its reset. -/
def execPerstAssert (same : Bool) (s : State) : Host.Outcome State Fault Refusal :=
  .next (assertWith (modBoot s fun b => { b with perst := true }) 2 0 same)

/-- PERST_DEASSERT (R440, R464): a wake event, and a prerequisite of HOST. -/
def execPerstDeassert (s : State) : Host.Outcome State Fault Refusal :=
  .next (wakeEvent (modBoot s fun b => { b with perst := false }))

/-- PCIE_HOT_RESET (R460): source 3. -/
def execPcieHotReset (same : Bool) (s : State) : Host.Outcome State Fault Refusal := .next (assertWith s 3 0 same)

/-- FLR_PF (R460): source 4. -/
def execFlrPf (same : Bool) (s : State) : Host.Outcome State Fault Refusal := .next (assertWith s 4 0 same)

/-- FLR_VF (R460): source 5, an L3 of the function. -/
def execFlrVf (fn : Fin 32) (same : Bool) (s : State) : Host.Outcome State Fault Refusal := .next (assertWith s 5 fn same)

/-- SDIO_CCCR_RES (R440, R461, R475): the SDIO function state is reset whatever the entry of source 6 selects. -/
def execSdioCccrRes (same : Bool) (s : State) : Host.Outcome State Fault Refusal :=
  .next (assertWith { wakeEvent s with sdio := { SdioSt.fresh with irq := s.sdio.irq } } 6 0 same)

/-- SDIO_FULL_RESET (R440, R460): the key written over F1 raises source 7; other values are ignored. -/
def execSdioFullReset (key : BitVec 32) (same : Bool) (s : State) : Host.Outcome State Fault Refusal :=
  let s := wakeEvent s
  .next (if key = 0xA5 then assertWith s 7 0 same else s)

/-- THERMAL_TRIP (R462, R516): source 10; THERMTRIP_N is driven, and the reset held. -/
def execThermalTrip (same : Bool) (s : State) : Host.Outcome State Fault Refusal :=
  .next (assertWith (modBoot (send s (.thermtrip true)) fun b => { b with trip := true }) 10 0 same)

/-- Whether the hottest sensor, as last converted, reads below PWR_THERM_CFG.RELEASE (R452, R462). -/
def cooled (s : State) : Bool := decide (sx 8 (fget s F.PWR_THERM.TJ) < sx 8 (fget s F.PWR_THERM_CFG.RELEASE))

/-- THERMAL_TRIP_RELEASE (R462, R516): once the hottest sensor reads below RELEASE, THERMTRIP_N is released with the hold. -/
def execThermalTripRelease (s : State) : Host.Outcome State Fault Refusal :=
  .next (if s.boot.trip && cooled s then modBoot (send s (.thermtrip false)) fun b => { b with trip := false } else s)

/-- WATCHDOG_EXPIRE (R460, R469): the start timer, from step 8 to step 13, or the supervisor watchdog of running firmware,
expires: source 12. -/
def execWatchdogExpire (same : Bool) (s : State) : Host.Outcome State Fault Refusal :=
  .next (if s.boot.counted || bootState s == bRunning then assertWith s 12 0 same else s)

/-- Whether a path is that of the Stagehand controllers. -/
def fromStagehand (path : Path) : Bool := path == .stagehand

/-- WDOG_KICK (R460): from the Stagehand controllers only; 0x4B1C restarts the period, any other value expires it. -/
def execWdogKick (path : Path) (v : BitVec 32) (s : State) : Host.Outcome State Fault Refusal :=
  .next (if !fromStagehand path || v == 0x4B1C || bootState s != bRunning then s else assertSource s 12 0)

/-- RST_FW_REQ (R461): from the Stagehand controllers only; GO raises source 13 at the level named, no wider than its entry. -/
def execRstFwReq (path : Path) (v : BitVec 32) (s : State) : Host.Outcome State Fault Refusal :=
  .next (if fromStagehand path && bit v.toNat 4 then firmwareReset s (min 1 (bits v.toNat 1 0)) else s)

/-! ## Releases (R463 to R465, R468) -/

/-- Whether a source still holds the reset in progress (R462). -/
def resetHeld (s : State) : Bool :=
  s.boot.resetN || s.boot.trip || (s.boot.perst && fget s F.RST_CAUSE.SOURCE == 2)

/-- Whether the work of a function that its reset stops is gone: its rings are OFF, the contexts destroyed and the streams
disarmed. -/
def fnQuiet (s : State) (fn : Nat) : Bool :=
  !(s.rings.any fun p => p.1 / 1024 == fn && p.2.state != .off) &&
    !(s.ctxs.any fun p => p.2.state == .dying && fnOfCid s p.1 == some fn) &&
    !(upTo 32).any fun n => (streamOf s n).forced && fnOfCid s (streamCid s n) == some fn

/-- Whether a context is one that the reset of a function has destroyed. -/
def goneCtx (s : State) (fn cid : Nat) : Bool :=
  fnOfCid s cid == some fn && (ctxOf s cid).byReset && (ctxOf s cid).state == .free

/-- The end of a function's reset (R298, R324): its rings are as reset leaves them, and the fences and semaphores in ERROR
that its destroyed contexts owned or held are freed. -/
def fnRelease (s : State) (fn : Nat) : State :=
  let xs := (s.fences.filter fun p => p.2.state == .error && goneCtx s fn p.2.owner).map (·.1)
  let s := xs.foldl freeFence s
  let ms := (s.sems.filter fun p => p.2.state == .error &&
    p.2.holders.any fun h => h.units != 0 && goneCtx s fn h.cid).map (·.1)
  let s := ms.foldl freeSem s
  let own := fun (k : Nat) => fnOfCid s k == some fn
  showPark
    { s with
      rings := s.rings.filter fun p => p.1 / 1024 != fn
      ctxs := mmap Ctx.none (fun k c => if own k then { c with byReset := false } else c) s.ctxs }

/-- An L1 is released (R461, R468): a start, in which a bad reach table is shown, begins at step 3, which it skips while
either crystal is good. -/
def releaseWarm (s : State) : State :=
  let s := modBoot s fun b => { b with level := none }
  let s := if reachBad s.boot.shadow.reach then raiseRst s E.RST_EVENT.REACH_BAD else s
  if s.pwr.xa.st = .good ∨ s.pwr.xb.st = .good then setBoot s bRom
  else if s.pwr.lost then setBoot s bClocks
  else
    setBoot (modPwr s fun p => { p with xa := { Xtal.off with st := .delay }, xb := { Xtal.off with st := .delay } }) bClocks

/-- RESET_RELEASE (R463 to R465, R468): the L3 of a function, or the reset of the device, ends; `resetN` is the level of
RESET_N. An L0 ends with the release of AON. -/
def execResetRelease (fn : Option (Fin 32)) (resetN : Bool) (s : State) : Host.Outcome State Fault Refusal :=
  match fn with
  | some f =>
    if s.boot.l3.contains f.val && fnQuiet s f then
      .next (fnRelease (modBoot s fun b => { b with l3 := b.l3.filter (· != f.val) }) f)
    else .next s
  | none =>
    let s := modBoot s fun b => { b with resetN := b.resetN && !resetN }
    if resetHeld s then .next s
    else match s.boot.level with
      | some 2 =>
        if (upTo 32).all (fnQuiet s) then
          .next (releaseDom ((upTo 32).foldl fnRelease (modBoot s fun b => { b with level := none })) dHost)
        else .next s
      | some 1 => .next (releaseWarm s)
      | _ => .next s

/-- DRAM is trained (R468 step 12): `gib` GiB on the channels found. -/
def trained (s : State) (gib channels : Nat) : State :=
  let s := fset (fset s F.MEMC_CFG.GIB gib) F.MEMC_CFG.CH_MASK channels
  fset (fset s F.MEMC_CFG.MTS (dramRate (fget s F.PWR_STATE.CUR_OP))) F.MEMC_STATE.TRAINED 1

/-- The training of step 12: at once while MEMC is up, else when its held release comes (R465). -/
def trainDram (s : State) (gib channels : Nat) : State :=
  if domOn s dMemc then trained s gib channels else modBoot s fun b => { b with train := some (gib, channels) }
def trainHeld (s : State) : State :=
  match s.boot.train, domOn s dMemc with
  | some (gib, channels), true => trained (modBoot s fun b => { b with train := none }) gib channels
  | _, _ => s

/-- HELD_RELEASE (R465, R468): the prerequisite of a held release holds; DRAM that waits for MEMC is trained. -/
def execHeldRelease (d : Fin 28) (s : State) : Host.Outcome State Fault Refusal :=
  .next (if bit (fget s F.RST_PENDING.PENDING) d && relReady s d then trainHeld (releaseDom s d) else s)

/-- AON_RELEASE (R468 step 1, R513): the straps are sampled, the trip logic drives its ball, and the fuses are to be read. -/
def execAonRelease (osc : Fin 8) (head : Bool) (s : State) : Host.Outcome State Fault Refusal :=
  if s.boot.level ≠ some 0 ∨ resetHeld s then .next s
  else
    let s := fset (setBoot s bFuses) F.CLK_SRC_STATUS.OSC_DLY osc
    .next (modBoot s fun b => { b with level := none, head := head, balls := (b.balls.set 4 1).set 5 2 })

/-! ## House Lights (R472) -/

/-- The factory value of an item (R480). -/
def calOf (l : List CalVal) (item index : Nat) : Int :=
  ((l.find? fun c => c.item == item && c.index == index).map (·.value)).getD 0

/-- The factory values are in force, and no overlay (R481). -/
def factoryCal (s : State) : State :=
  let s := fset s F.CLK_FIO_TRIM.TRIM (calOf s.boot.shadow.cal 1 0).toNat
  modBoot s fun b => { b with cal := b.shadow.cal, calDigest := List.replicate 64 0 }

/-- The regulator is told the transition rate of each rail (R449, R468 step 5). -/
def slewRails (s : State) : State :=
  let slew := fget s F.PWR_AVS_CFG.SLEW
  let s := modPwr s fun p => { p with slews := [(0, 0), (1, 0)] }
  send (send s (.avsSlew (railSel s 0) slew)) (.avsSlew (railSel s 1) slew)

/-- The move to OP0 (R468 step 5, R472): after an L0 the rails are written whatever they were. -/
def toOp0 (s : State) : State :=
  if s.boot.cold.isSome then
    let l : List AvsStep := [⟨1, vLoft 0, 0, false, false⟩, ⟨0, vCore 0, 0, false, false⟩]
    sendAvs (modPwr (fset s F.PWR_STATE.MOVING 1) fun p => { p with move := some ⟨0, 0, .set, true, l⟩ }) l
  else followGoal (modPwr s fun p => { p with goal := 0 })

/-- The device enters House Lights: at OP0, with LOFT0 alone of the switched domains powered, in write-through, and the
factory calibration (R472, R481). -/
def houseLights (s : State) : State :=
  let s := raiseRst (setBoot s bLights) E.RST_EVENT.HOUSE_LIGHTS
  let s := fset (fset s F.PWR_DOMAIN_ON.ON 0) F.RST_PENDING.PENDING 0
  let s := modPwr { s with link := { s.link with pcie := false } } fun p => { p with waking := 0, gated := 0 }
  setDom (toOp0 (factoryCal (fset s F.UL_SELF.HEAD 0))) dLoft true

/-- The limit of failed starts, and whether the count has reached it. -/
def atLimit (s : State) : Bool := decide (fget s F.RST_START_FAILS.LIMIT ≤ fget s F.RST_START_FAILS.COUNT)

/-! ## Step 2: fuses (R461, R466, R468, R498) -/

/-- Whether an error in a row is a fuse fault (R466). -/
def FuseRow.secure : FuseRow → Bool
  | .uds => true
  | .serial => true
  | .keyHash _ => true
  | .svn => true
  | .keyRevoke => true
  | _ => false

/-- The shadow with a row at its defaults. -/
def Fuses.without (f : Fuses) : FuseRow → Fuses
  | .uds => { f with uds := 0 }
  | .serial => { f with serial := 0 }
  | .ident => { f with variant := 0, maxOp := Fuses.blank.maxOp, vendor := 0, cards := 0 }
  | .keyHash k => { f with keyHash := f.keyHash.set k 0 }
  | .keyRevoke => { f with revoke := [0, 0, 0] }
  | .svn => { f with svn := [0, 0, 0] }
  | .reach => { f with reach := 0 }
  | .startLimit => { f with startLimit := 0 }
  | .factoryCal => { f with cal := [] }
  | .repair => { f with repair := [] }
  | .ballMap => { f with ballMap := 0 }

/-- The registers that show the fuses (R498, R533). -/
def showFuses (s : State) : State :=
  let f := s.boot.shadow
  let s := fset (fset (fset s F.CHIP_VARIANT.VARIANT f.variant) F.CHIP_VARIANT.MAX_OP f.maxOp) F.CHIP_VARIANT.PCI_VENDOR f.vendor
  let s := fset (fset s F.PWR_STATE.CAP_OP f.maxOp) F.RST_START_FAILS.LIMIT (if f.startLimit = 0 then 3 else f.startLimit)
  let s := (upTo 4).foldl (fun s k => wrN s (R.SEC_SERIAL k) (f.serial / 2 ^ (32 * k))) s
  let s := fset s F.CLK_FIO_TRIM.TRIM (calOf f.cal 1 0).toNat
  fset (fset s F.TEST_REPAIR_STATE.FUSED f.repair.length) F.TEST_REPAIR_STATE.FUSE_FULL (b2n (decide (64 ≤ f.repair.length)))

/-- FUSE_READ_DONE (R461, R466, R468 step 2): the rows are in the shadow; those with an uncorrectable error take their
defaults, or are a fuse fault, which enters House Lights. Else the crystals start. -/
def execFuseReadDone (bad : List FuseRow) (s : State) : Host.Outcome State Fault Refusal :=
  if bootState s ≠ bFuses ∨ s.boot.level = some 0 then .next s
  else
    let s := modBoot s fun b => { b with shadow := bad.foldl Fuses.without b.fuses, fault := bad.any FuseRow.secure }
    let s := bad.foldl (fun s _ => raise s E.SEC_EVENT.FUSE_BAD) (showFuses s)
    let s := if reachBad s.boot.shadow.reach then raiseRst s E.RST_EVENT.REACH_BAD else s
    if s.boot.fault then .next (houseLights (raise s E.SEC_EVENT.FUSE_FAULT))
    else
      .next (modPwr (setBoot s bClocks) fun p =>
        { p with xa := { Xtal.off with st := .delay }, xb := { Xtal.off with st := .delay } })

/-! ## Steps 4 and 5: the boot ROM (R496, R499, R504) -/

/-- The repair entries of a log header (R503). -/
def headerRepairs (b : List Byte) : List Repair :=
  (upTo (min 256 (field b 20 2))).map fun i => ⟨field b (32 + 8 * i) 4, field b (36 + 8 * i) 1⟩

/-- The records of the flash ring whose CRC checks, as slot and SEQ. -/
def goodSlots (s : State) : List (Nat × Nat) :=
  (upTo (logSlots s)).filterMap fun i =>
    let b := flashRead s (slotOff s i) 64
    if field b 60 4 = crc32c (b.take 60) then some (i, field b 0 4) else none

/-- The slot after the record of highest SEQ, and the next SEQ (R504). -/
def ringPlace (s : State) : Nat × Nat :=
  match (goodSlots s).foldl (fun m p => match m with
      | none => some p
      | some q => if q.2 < p.2 then some p else some q) (none : Option (Nat × Nat)) with
  | none => (0, 0)
  | some p => ((p.1 + 1) % logSlots s, p.2 + 1)

/-- The log is taken into use (R499, R503, R504): counts, the repair table and the failed cores come from the winning
header after an L0; a log area without one gets a fresh header; without a log area recording stays in AON. -/
def romLog (s : State) : State :=
  let cold := s.boot.cold.isSome
  match logArea s, logHeader s with
  | none, _ => fset s F.SHOW_STATE.FLASH_OK 0
  | some _, some (_, b) =>
    let place := ringPlace s
    let s := modShow (modBoot s fun t => { t with lastShutdown := field b 2 1 }) fun w => { w with pos := place.1 }
    let s := fset s F.SHOW_STATE.FLASH_OK 1
    if !cold then s
    else
      let s := wrN (wrN (wrN s R.SHOW_POWER_CYCLES (field b 8 4)) R.SHOW_OPSEC (field b 12 4)) R.SHOW_SEQ place.2
      { wrN s R.TEST_CORE_FAILED (field b 16 4 % 2 ^ 17) with repairs := headerRepairs b }
  | some _, none =>
    let s := { modBoot s fun t => { t with lastShutdown := 2 } with repairs := [] }
    let s := fset (wrN (modShow s fun w => { w with pos := 0 }) R.SHOW_SEQ 0) F.SHOW_STATE.FLASH_OK 1
    putHeader s

/-- POWER_CYCLES at a start after a power-on, with its record, and a Rehearsal that was missed (R496, R499). -/
def romEvents (s : State) : State :=
  let s := if s.boot.cold = some true then
      showEvent (incWrap s R.SHOW_POWER_CYCLES) (plainEv cPowerCycle 0x01 0)
    else s
  if fbit s F.SHOW_STATE.FLASH_OK && s.boot.lastShutdown != 2 then showEvent s (plainEv cRehMissed 0x27 0) else s

/-- Step 5 (R449, R468): the transition rates and OP0 are written to the regulator, the Loft's domains are released, and
HOST is asked for. -/
def romRails (s : State) : State :=
  let s := toOp0 (slewRails s)
  let s := [dLoft, dLoft + 1, dLoft + 2, dLoft + 3, dHost].foldl releaseDom s
  setBoot (modBoot s fun b => { b with cold := none }) bWait

/-- BOOT_ROM_START (R468 steps 3 to 6): once a crystal is good. After too many failed starts, House Lights. -/
def execBootRomStart (s : State) : Host.Outcome State Fault Refusal :=
  let ready := s.pwr.xa.st == .good || s.pwr.xb.st == .good
  if (bootState s ≠ bClocks ∧ bootState s ≠ bRom) ∨ s.boot.level.isSome ∨ s.pwr.lost ∨ !ready then .next s
  else
    let s := romEvents (romLog (setBoot s bRom))
    let s := fset s F.RST_START_FAILS.COUNT (min 15 (max (fget s F.RST_START_FAILS.COUNT) (dirFails s)))
    .next (if atLimit s then modBoot (houseLights s) fun b => { b with cold := none } else romRails s)

/-! ## Steps 6 to 9: the image (R468 to R473, R476) -/

abbrev cImgFormat : Nat := 0x07C0
abbrev cKeyUnknown : Nat := 0x07C1
abbrev cRollback : Nat := 0x07C2
abbrev cImgFetch : Nat := 0x07C3
abbrev cImgRefused : Nat := 0x07C4
abbrev cFuseFault : Nat := 0x07C6
abbrev cAttArgs : Nat := 0x07C7
abbrev cCertAbsent : Nat := 0x07C8

/-- States of SEC_IMG_STATUS, and its code. -/
def imgState (s : State) (v : Nat) : State := fset s F.SEC_IMG_STATUS.STATE v
def imgCode (s : State) (c : Nat) : State := fset s F.SEC_IMG_STATUS.CODE c

/-- An image is rejected with a code. -/
def imgReject (s : State) (code : Nat) : State :=
  raise (imgCode (imgState (modBoot s fun b => { b with take := none, image := none }) 4) code) E.SEC_EVENT.IMG_REJECTED

/-- Whether an image may be taken over F2: waiting for one, or in House Lights. -/
def mayF2 (s : State) : Bool := (bootState s == bWait || bootState s == bLights) && s.boot.take.isNone && s.boot.image.isNone

/-- FETCH_HOST (R468 step 7, R469, R472): accepted while the device waits for an image. -/
def execFetchHost (s : State) : Host.Outcome State Fault Refusal :=
  if bootState s = bWait ∧ s.boot.take.isNone ∧ s.boot.image.isNone then
    .next (imgState (modBoot s fun b =>
      { b with take := some (fget s F.SEC_IMG_LEN.LEN), viaF2 := false, f2 := false }) 1)
  else .next (imgCode s cImgRefused)

/-- START_F2 (R468 step 7, R476): bytes are accepted over F2 from now on. -/
def execStartF2 (s : State) : Host.Outcome State Fault Refusal :=
  if mayF2 s then .next (fset (modBoot s fun b => { b with f2 := true }) F.SEC_F2_COUNT.COUNT 0)
  else .next (imgCode s cImgRefused)

/-- Step 8 (R468, R473): the start is counted, in AON and then in the directory, and the image is verified. -/
def countStart (s : State) (image : List Byte) : State :=
  let n := min 15 (fget s F.RST_START_FAILS.COUNT + 1)
  let s := putFails (fset s F.RST_START_FAILS.COUNT n) n
  let s := imgState (modBoot s fun b => { b with take := none, image := some image, counted := true }) 2
  if bootState s = bLights then s else setBoot s bVerify

/-- VERIFY_F2 (R468, R473, R476): the bytes received are the image; refused without a START_F2, or after a fuse fault. -/
def execVerifyF2 (s : State) : Host.Outcome State Fault Refusal :=
  if s.boot.fault && bootState s == bLights then .next (imgCode s cFuseFault)
  else if !mayF2 s || !s.boot.f2 then .next (imgCode s cImgRefused)
  else .next (countStart (modBoot s fun b => { b with f2 := false, viaF2 := true }) (devRead s 0 (fget s F.SEC_F2_COUNT.COUNT)))

/-- The host I/O address of an address pair (R359). -/
def hostPair (s : State) (lo : Nat) : Nat := rd64 s lo % 2 ^ 47

/-- IMAGE_TAKEN (R468 steps 7 and 8): the image is in the Loft from device address 0, and counted; a failed fetch returns to
step 6 without counting. -/
def execImageTaken (fail : Option HostErr) (s : State) : Host.Outcome State Fault Refusal :=
  match s.boot.take, fail with
  | none, _ => .next s
  | some _, some _ => .next (imgReject s cImgFetch)
  | some n, none =>
    let b := mgets 0 s.mem (hostBase + hostPair s R.SEC_IMG_ADDR_LO) n
    .next (countStart (devWrite s 0 b) b)

/-- A fuse row held in three copies (R466): a bit burned in at least two. -/
def majority (l : List Nat) : Nat :=
  let a := l.getD 0 0
  let b := l.getD 1 0
  let c := l.getD 2 0
  (a &&& b) ||| (a &&& c) ||| (b &&& c)

/-- The fuse SVN, and whether a slot is programmed and not revoked. -/
def fuseSvn (f : Fuses) : Nat := (onesOf 64 (majority f.svn)).length
def slotLive (f : Fuses) (k : Nat) : Bool := f.keyHash.getD k 0 != 0 && !bit (majority f.revoke) k

/-- Fields of the image header (R470). -/
def iBody (b : List Byte) : Nat := field b 4 4
def iSvn (b : List Byte) : Nat := field b 8 4
def iFloor (b : List Byte) : Nat := field b 12 4
def iSlot (b : List Byte) : Nat := field b 16 1
def iRevoke (b : List Byte) : Nat := field b 17 1
def iPk (b : List Byte) : List Byte := (b.drop 32).take 64
def iSigned (b : List Byte) : List Byte := b.take (128 + iBody b)

/-- R470 check 1: the length and every header field. An entry offset lies within the body. -/
def imgFormatOk (b : List Byte) : Bool :=
  decide (128 ≤ b.length) && decide (b.length = 29920 + iBody b) && field b 0 2 == 1 && field b 2 2 == 128 &&
    decide (iBody b % 64 = 0) && decide (64 ≤ iBody b) && decide (iBody b ≤ 2097152) && decide (iSvn b ≤ 64) &&
    decide (iFloor b ≤ iSvn b) && decide (iSlot b ≤ 3) && decide (iRevoke b < 16) && !bit (iRevoke b) (iSlot b) &&
    zeros b 18 2 && decide (field b 20 4 < iBody b) && decide (field b 24 4 < iBody b) && zeros b 28 4 && zeros b 96 32

/-- The checks of R470 in order: the code of the first that fails. -/
def imgCheck (f : Fuses) (b : List Byte) : Option Nat :=
  if !imgFormatOk b then some cImgFormat
  else if !slotLive f (iSlot b) || leNat (shake256 64 (iPk b)) != f.keyHash.getD (iSlot b) 0 then some cKeyUnknown
  else if iSvn b < fuseSvn f then some cRollback
  else if !slhVerify slh256s (iPk b) (iSigned b) (b.drop (128 + iBody b)) then some cSigFail
  else none

/-- SEC_SVN's fuse half. -/
def showSvn (s : State) : State :=
  let f := s.boot.shadow
  fset (fset s F.SEC_SVN.FUSE_SVN (fuseSvn f)) F.SEC_SVN.SLOTS_LIVE (sumBy (fun k => if slotLive f k then 2 ^ k else 0) (upTo 4))

/-- IMAGE_VERIFY_DONE (R468 step 9, R469, R470, R472, R473): an image that passes is accepted, and House Lights left; one
that fails is discarded, which is a failed start. -/
def execImageVerifyDone (s : State) : Host.Outcome State Fault Refusal :=
  match s.boot.image with
  | none => .next s
  | some b =>
    if !s.boot.counted || s.boot.fw != [] then .next s
    else match imgCheck s.boot.shadow b with
      | some code =>
        let s := raiseRst (imgReject (modBoot s fun t => { t with counted := false }) code) E.RST_EVENT.START_FAIL
        if bootState s = bLights then .next s
        else .next (if atLimit s then houseLights s else setBoot s bWait)
      | none =>
        let s := showSvn (fset (fset (imgState s 3) F.SEC_SVN.FW_SVN (iSvn b)) F.SEC_SVN.KEY_SLOT (iSlot b))
        let s := modBoot s fun t =>
          { t with
            fw := (b.drop 128).take (iBody b)
            entryA := field b 20 4
            entryB := field b 24 4
            floor := iFloor b
            revoke := iRevoke b }
        .next (if bootState s = bLights then
            setBoot ([dLoft, dLoft + 1, dLoft + 2, dLoft + 3, dHost].foldl releaseDom (toOp0 (slewRails s))) bVerify
          else s)

end Sys2Proof.Machine
end

