-- ==== Sys2Proof/Machine/Trust.lean ====
section
/-! DEFINITION. Bring-up, keys, attestation, measurement, fuse burns and the mailbox (spec/15_reset_boot_security.md R467,
R468 steps 10 to 13, R471, R477, R480 to R486, spec/16_rehearsal_and_show_report.md R490, R495, R498). -/

namespace Sys2Proof.Machine

open Sys2Proof

/-! ## Keys (R470, R482, R483) -/

/-- The bytes of a label. -/
def ascii (l : List Nat) : List Byte := l.map (BitVec.ofNat 8)
def labelIk : List Byte := ascii [0x4E, 0x5A, 0x47, 0x2D, 0x49, 0x4B]
def labelCdi : List Byte := ascii [0x4E, 0x5A, 0x47, 0x2D, 0x43, 0x44, 0x49]
def labelAk : List Byte := ascii [0x4E, 0x5A, 0x47, 0x2D, 0x41, 0x4B]

/-- The keys of a start (R482), from the device secret, FW_DIGEST and the image's SVN. -/
def keysOf (uds : Nat) (digest : List Byte) (svn : Nat) : Keys :=
  let u := leBytes 32 uds
  let ik := shake256 72 (labelIk ++ u)
  let cdi := shake256 64 (labelCdi ++ u ++ digest ++ leBytes 4 svn)
  let ak := shake256 72 (labelAk ++ cdi)
  ⟨cdi, ik, ak, padTo 48 (slhPublic slh192f ik), padTo 48 (slhPublic slh192f ak)⟩

/-- SERIAL as it stands in certificates and reports. -/
def serialBytes (s : State) : List Byte := leBytes 16 s.boot.shadow.serial

/-- The alias certificate (R483), signed with IK. -/
def aliasBody (s : State) (k : Keys) (digest : List Byte) : List Byte :=
  leBytes 4 0x0102 ++ leBytes 4 (fget s F.SEC_SVN.FW_SVN) ++ leBytes 4 (fuseSvn s.boot.shadow) ++ leBytes 4 0 ++
    serialBytes s ++ padTo 64 digest ++ k.akPk ++ padTo 32 (shake256 32 k.ikPk)
def aliasCertOf (s : State) (k : Keys) (digest : List Byte) : List Byte :=
  let b := aliasBody s k digest
  padTo 35840 (b ++ slhSign slh192f k.ikSeed b)

/-- Step 10 (R468, R482): FW_DIGEST, the keys and the alias certificate. -/
def deriveKeys (s : State) (image : List Byte) : State :=
  let d := padTo 64 (shake256 64 (iSigned image))
  let k := keysOf s.boot.shadow.uds d (iSvn image)
  let s := (upTo 16).foldl (fun s i => wrN s (R.SEC_FW_DIGEST i) (field d (4 * i) 4)) s
  let s := (upTo 12).foldl (fun s i => wrN s (R.SEC_IK_PK i) (field k.ikPk (4 * i) 4)) s
  let cert := aliasCertOf s k d
  modBoot s fun b => { b with keys := some k, digest := d, aliasCert := cert }

/-! ## Calibration (R480, R481) -/

/-- A calibration item: its number, its indices, the bound of a delta, and the range of its field. -/
structure CalItem where
  item : Nat
  count : Nat
  bound : Int
  lo : Int
  hi : Int

def calItems : List CalItem :=
  [⟨0x0001, 1, 32, 0, 1023⟩, ⟨0x0002, 1, 16, 0, 255⟩, ⟨0x0010, 16, 64, -512, 511⟩, ⟨0x0020, 3, 20, 922, 1126⟩,
    ⟨0x0030, 12, 2, 0, 10⟩, ⟨0x0031, 12, 4, 0, 15⟩, ⟨0x0040, 8, 1, 0, 3⟩]

def clampInt (lo hi v : Int) : Int := max lo (min hi v)

/-- What applying an overlay has done so far: values, entries applied, clamped and ignored. -/
structure CalRun where
  values : List CalVal
  applied : Nat
  clamped : Nat
  ignored : Nat

/-- Put a value in force, in place of an earlier one for the same item and index. -/
def putCal (l : List CalVal) (v : CalVal) : List CalVal := l.filter (fun c => c.item != v.item || c.index != v.index) ++ [v]

/-- Apply one entry of an overlay. -/
def calEntry (factory : List CalVal) (r : CalRun) (e : List Byte) : CalRun :=
  let item := field e 0 2
  let index := field e 2 2
  match calItems.find? fun i => i.item == item && decide (index < i.count) with
  | none => { r with ignored := r.ignored + 1 }
  | some i =>
    if field e 6 2 ≠ 0 then { r with ignored := r.ignored + 1 }
    else
      let d := sx 16 (field e 4 2)
      let d' := clampInt (-i.bound) i.bound d
      let v := calOf factory item index + d'
      let v' := clampInt i.lo i.hi v
      { r with
        values := putCal r.values ⟨item, index, v'⟩
        applied := r.applied + 1
        clamped := if d' = d ∧ v' = v then r.clamped else r.clamped + 1 }

/-- Whether an overlay's header and CRC are good. -/
def overlayOk (b : List Byte) : Bool :=
  let n := field b 2 2
  field b 0 1 == 0xCA && field b 1 1 == 1 && decide (n ≤ 512) && decide (16 + 8 * n ≤ b.length) && zeros b 8 8 &&
    field b 4 4 == crc32c ((b.drop 16).take (8 * n))

/-- The source of the overlay (0 none, 1 flash, 2 host) and its bytes; `none` when the host's read fails. -/
def overlayOf (s : State) (fail : Bool) : Nat × Option (List Byte) :=
  let n := fget s F.SEC_CAL_LEN.LEN
  if n ≠ 0 then (2, if fail then none else some (mgets 0 s.mem (hostBase + hostPair s R.SEC_CAL_ADDR_LO) n))
  else match directory s with
    | some (_, d) =>
      if field d 28 4 = 0 then (0, some []) else (1, some (flashRead s (field d 24 4) (field d 28 4)))
    | none => (0, some [])

/-- Step 12's calibration (R481): an overlay that cannot be read or is bad is discarded whole. -/
def calibrate (s : State) (fail : Bool) : State :=
  let factory := s.boot.shadow.cal
  match overlayOf s fail with
  | (0, _) => factoryCal s
  | (_, none) => raise (factoryCal s) E.SEC_EVENT.CAL_BAD
  | (src, some b) =>
    if !overlayOk b then raise (factoryCal s) E.SEC_EVENT.CAL_BAD
    else
      let r := (upTo (field b 2 2)).foldl (fun r i => calEntry factory r ((b.drop (16 + 8 * i)).take 8)) ⟨factory, 0, 0, 0⟩
      let s := fset (fset s F.SEC_CAL_STATUS.SOURCE src) F.SEC_CAL_STATUS.APPLIED r.applied
      let s := fset (fset s F.SEC_CAL_COUNT.CLAMPED r.clamped) F.SEC_CAL_COUNT.IGNORED r.ignored
      let s := (upTo r.clamped).foldl (fun s _ => raise s E.SEC_EVENT.CAL_CLAMPED) s
      let s := fset s F.CLK_FIO_TRIM.TRIM (calOf r.values 1 0).toNat
      modBoot s fun t => { t with cal := r.values, calDigest := padTo 64 (shake256 64 b) }

/-! ## Core roles and the rest of step 12 (R468, R490, R495, R498) -/

/-- The cores that have failed. -/
def failedCores (s : State) : List Nat := onesOf 17 (rdN s R.TEST_CORE_FAILED)

/-- The core roles with at most one failed core: the first 16 good ones are active in order, another stands aside. -/
def setRoles (s : State) : State :=
  let bad := failedCores s
  let good := (upTo 17).filter (!bad.contains ·)
  let s := bad.foldl (fun s c => setRole s c 3 15) s
  let s := (upTo 16).foldl (fun s l => setRole s (good.getD l 0) 0 l) s
  match good[16]? with
  | some u => setRole s u 1 15
  | none => s

/-- Step 12 as firmware carries it out by itself. With fewer than 16 good cores, or a Loft beyond its spares, it asks for an
L1 instead (R490, R495). -/
def bringUp (s : State) (calFail : Bool) (gib channels : Nat) : State :=
  let s := calibrate s calFail
  let s := fset s F.TEST_REPAIR_STATE.SOFT s.repairs.length
  let bad := failedCores s
  if 2 ≤ bad.length then firmwareReset (showEvent s (plainEv cCoresShort 0x27 3)) 1
  else if s.boot.loftBad then firmwareReset s 1
  else
    let up := ((upTo 17).filter (!bad.contains ·)) ++ [dRaster, dProsc, dPit, dLink, dXfer, dMemc]
    trainDram (up.foldl releaseDom (setRoles s)) gib channels

/-- KEYS_DERIVED (R468 steps 10 to 12, R481, R482, R490): the keys stand, the image runs, and firmware brings the device up
as far as no later command does. `calFail` tells that the host's read of the overlay failed; `gib` and `channels` what
DRAM training finds. -/
def execKeysDerived (calFail : Bool) (gib : Fin 33) (channels : Fin 16) (s : State) : Host.Outcome State Fault Refusal :=
  match s.boot.image with
  | none => .next s
  | some b =>
    if s.boot.fw = [] then .next s
    else
      let s := modBoot (setBoot (deriveKeys s b) bFirmware) fun t => { t with image := none }
      .next (bringUp s calFail gib channels)

/-! ## Step 13 (R468, R471, R496, R498) -/

/-- Change the fuses, and the shadow with them (R471). -/
def modFuses (s : State) (f : Fuses → Fuses) : State :=
  modBoot s fun b => { b with fuses := f b.fuses, shadow := f b.shadow }

/-- A burn of one bit in one copy of SVN, or of KEY_REVOKE. -/
structure Burn where
  revoke : Bool
  bit : Nat
  copy : Nat

/-- The burns of R471 in order: the lowest unburned bits of SVN up to the image's floor, then the slots it revokes; one bit
at a time, its three copies in ascending order. -/
def burnList (f : Fuses) (floor revoke : Nat) : List Burn :=
  let ups := ((upTo 64).filter fun i => !bit (majority f.svn) i).take (floor - fuseSvn f)
  let three := fun (r : Bool) (i : Nat) => (upTo 3).map fun c => Burn.mk r i c
  ups.flatMap (three false) ++ ((onesOf 4 revoke).filter fun k => !bit (majority f.revoke) k).flatMap (three true)

/-- One burn: bits are never cleared. -/
def burnOne (f : Fuses) (b : Burn) : Fuses :=
  let l := if b.revoke then f.revoke else f.svn
  let l := l.set b.copy (l.getD b.copy 0 ||| 2 ^ b.bit)
  if b.revoke then { f with revoke := l } else { f with svn := l }

/-- The first `n` of the burns of the running image, or all of them. -/
def burnImage (s : State) (n : Option Nat) : State :=
  let l := burnList s.boot.fuses s.boot.floor s.boot.revoke
  showSvn (modFuses s fun f => ((match n with | some n => l.take n | none => l)).foldl burnOne f)

/-- A repair entry found by three consecutive Rehearsals is burned while the row has room (R498). -/
def burnRepair (s : State) (r : Repair) : State :=
  if r.count < 3 ∨ s.boot.fuses.repair.contains r.entry then s
  else if 64 ≤ s.boot.fuses.repair.length then fset s F.TEST_REPAIR_STATE.FUSE_FULL 1
  else
    let s := modFuses s fun f => { f with repair := f.repair ++ [r.entry] }
    let s := fset s F.TEST_REPAIR_STATE.FUSED s.boot.fuses.repair.length
    let s := fset s F.TEST_REPAIR_STATE.FUSE_FULL (b2n (decide (64 ≤ s.boot.fuses.repair.length)))
    showEvent s { plainEv cRepairBurned 0x27 0 with detail := leBytes 4 r.entry }

/-- START_OK (R468 step 13, R469, R471, R496, R498): written by firmware, the start is complete once the burns are done.
`cut` is the number of single burns after which a reset, whose row comes next, cuts them short. -/
def execStartOk (path : Path) (cut : Option Nat) (s : State) : Host.Outcome State Fault Refusal :=
  if !fromStagehand path || bootState s != bFirmware || !s.boot.counted then .next s
  else
    let s := fset (fset s F.RST_START_OK.START_OK 1) F.RST_START_FAILS.COUNT 0
    let s := putFails (modBoot s fun b => { b with counted := false }) 0
    let s := burnImage s cut
    if cut.isSome then .next s
    else
      let s := s.repairs.foldl burnRepair s
      let s := saveHeader (modBoot s fun b => { b with lastShutdown := 0 })
      .next (raiseSystem (setBoot s bRunning))

/-! ## Fuse commands (R467) -/

/-- The row SEC_FUSE_ROW selects: REACH of 48 bits, or START_LIMIT of 3. -/
def fuseSel (s : State) : Bool := fbit s F.SEC_FUSE_ROW.ROW
def fuseRowOf (s : State) : Nat := if fuseSel s then s.boot.fuses.startLimit else s.boot.fuses.reach
def fuseMask (s : State) : Nat := if fuseSel s then 7 else 2 ^ 48 - 1

/-- FUSE_BURN (R467): the DATA bits that are 1 are burned and read back; `stuck` are bits that do not burn. -/
def execFuseBurn (stuck : BitVec 64) (s : State) : Host.Outcome State Fault Refusal :=
  if bootState s ≠ bRunning ∨ fbit s F.SEC_FUSE_LOCK.LOCK then .next s
  else
    let want := rd64 s R.SEC_FUSE_DATA_LO &&& fuseMask s
    let lost := want &&& stuck.toNat &&& (fuseRowOf s ^^^ (2 ^ 64 - 1))
    let row := fuseRowOf s ||| (want ^^^ lost)
    let s := modBoot s fun b =>
      { b with fuses := if fuseSel s then { b.fuses with startLimit := row } else { b.fuses with reach := row } }
    .next (if lost = 0 then s else raise s E.SEC_EVENT.FUSE_BAD)

/-- FUSE_READ (R467). -/
def execFuseRead (s : State) : Host.Outcome State Fault Refusal :=
  .next (if bootState s = bRunning then wr64 s R.SEC_FUSE_DATA_LO (fuseRowOf s) else s)

/-- FUSE_LOCK (R467). -/
def execFuseLock (s : State) : Host.Outcome State Fault Refusal := .next (fset s F.SEC_FUSE_LOCK.LOCK 1)

/-! ## The mailbox (R475, R477) -/

/-- MBOX_IN_POST (R477). -/
def execMboxInPost (s : State) : Host.Outcome State Fault Refusal := .next (fset s F.RST_MBOX_CTRL.IN_FULL 1)

/-- MBOX_IN_CLEAR (R477). -/
def execMboxInClear (s : State) : Host.Outcome State Fault Refusal := .next (fset s F.RST_MBOX_CTRL.IN_FULL 0)

/-- MBOX_OUT_POST (R475, R477): firmware's message, counted, with the F1 interrupt. -/
def execMboxOutPost (msg : BitVec 512) (s : State) : Host.Outcome State Fault Refusal :=
  let s := (upTo 16).foldl (fun s k => wrN s (R.RST_MBOX_OUT k) (msg.toNat / 2 ^ (32 * k))) s
  .next (showIrq (raise s E.RST_MBOX_CTRL.OUT_FULL))

/-- MBOX_OUT_CLEAR (R475, R477). -/
def execMboxOutClear (s : State) : Host.Outcome State Fault Refusal := .next (showIrq (fset s F.RST_MBOX_CTRL.OUT_FULL 0))

/-! ## Attestation (R483 to R485) -/

/-- The bytes an operation writes. -/
def attSize (op : Nat) : Nat := if op = 1 then 36432 else 35840

/-- A request completes with a code; the physical function's SYSTEM vector is raised for its own (R484). -/
def attEnd (s : State) (fn code : Nat) : State :=
  let s := fset (fset s (F.ATT_STATUS.BUSY fn) 0) (F.ATT_STATUS.CODE fn) code
  let s := raise s (E.ATT_STATUS.DONE fn)
  if fn = 0 then raiseSystem s else s

/-- ATT_CMD (R484): ignored while BUSY; refused with ATT_ARGS when ATT_LEN is too small; else queued. -/
def attRequest (s : State) (fn op : Nat) : State :=
  if fbit s (F.ATT_STATUS.BUSY fn) then s
  else if rdN s (R.ATT_LEN fn) < attSize op then attEnd s fn cAttArgs
  else modBoot (fset s (F.ATT_STATUS.BUSY fn) 1) fun b => { b with attQ := b.attQ ++ [⟨fn, op⟩] }

/-- ATT_REPORT (R484). -/
def execAttReport (fn : Fin 32) (s : State) : Host.Outcome State Fault Refusal := .next (attRequest s fn 1)

/-- ATT_ALIAS_CERT (R484). -/
def execAttAliasCert (fn : Fin 32) (s : State) : Host.Outcome State Fault Refusal := .next (attRequest s fn 2)

/-- ATT_IDENTITY_CERT (R484). -/
def execAttIdentityCert (fn : Fin 32) (s : State) : Host.Outcome State Fault Refusal := .next (attRequest s fn 3)

/-- A measurement register of a function, as a number whose byte 0 is lowest. -/
def mrOf (s : State) (fn r : Nat) : Nat := mget 0 s.boot.mrs (fn * 8 + r)

/-- Bytes 0 to 767 of a report (R485). -/
def reportBody (s : State) (fn : Nat) (k : Keys) : List Byte :=
  let flags := b2n (isG5 s fn) + 2 * b2n (fget s F.SEC_CAL_STATUS.SOURCE == 2)
  leBytes 2 1 ++ leBytes 2 768 ++ leBytes 1 fn ++ leBytes 1 flags ++ leBytes 2 0 ++ leBytes 3 (fget s F.UL_SELF.UNIT) ++
    leBytes 1 (fget s F.UL_SELF.DEPTH) ++ leBytes 4 (fget s F.SEC_SVN.FW_SVN) ++ leBytes 4 (fuseSvn s.boot.shadow) ++
    leBytes 4 0 ++ serialBytes s ++ ((upTo 8).flatMap fun i => leBytes 4 (rdN s (R.ATT_NONCE fn i))) ++
    padTo 64 s.boot.digest ++ padTo 64 s.boot.calDigest ++ ((upTo 8).flatMap fun r => leBytes 64 (mrOf s fn r)) ++ k.akPk ++
    leBytes 8 0

/-- The identity certificate of the flash, when it is this device's (R483). -/
def identityCert (s : State) (k : Keys) : Option (List Byte) :=
  match directory s with
  | none => none
  | some (_, d) =>
    let b := flashRead s (field d 16 4) 35840
    if field d 20 4 = 35840 ∧ field b 0 1 = 1 ∧ (b.drop 96).take 48 = k.ikPk then some b else none

/-- ATT_SIGNING_START (R483 to R485): the request at the head of the queue is taken, and its output made; an empty output
stands for a certificate that is absent. Before step 10 there are no keys, and it waits. -/
def execAttSigningStart (s : State) : Host.Outcome State Fault Refusal :=
  match s.boot.attQ, s.boot.keys, s.boot.signing with
  | r :: rest, some k, none =>
    let out :=
      if r.op = 1 then
        let b := reportBody s r.fn k
        padTo 36432 (b ++ slhSign slh192f k.akSeed b)
      else if r.op = 2 then s.boot.aliasCert
      else (identityCert s k).getD []
    .next (modBoot s fun b => { b with attQ := rest, signing := some (r, out) })
  | _, _, _ => .next s

/-- ATT_DONE (R365 to R367, R484): the output is written to host memory and the request completes; while the host has still
to translate its address, it waits. -/
def execAttDone (fail : Option HostErr) (s : State) : Host.Outcome State Fault Refusal :=
  match s.boot.signing with
  | none => .next s
  | some (r, out) =>
    let h := hostPair s (R.ATT_ADDR_LO r.fn)
    let ends := fun (s : State) (code : Nat) => attEnd (modBoot s fun b => { b with signing := none }) r.fn code
    if out = [] then .next (ends s cCertAbsent)
    else match fail with
      | some e => .next (ends s (hostCode e))
      | none => .next (viaHost s r.fn h out.length true ends fun s => ends (hostPut s r.fn h out) cOk)

/-! ## Measurement registers (R486) -/

/-- MR_EXTEND (R486): the selected register and MR_DATA are hashed; ignored while BUSY. -/
def execMrExtend (fn : Fin 32) (s : State) : Host.Outcome State Fault Refusal :=
  if fbit s (F.MR_STATUS.BUSY fn) then .next s
  else
    let r := fget s (F.MR_SEL.MR_SEL fn)
    let data := (upTo 16).flatMap fun k => leBytes 4 (rdN s (R.MR_DATA fn k))
    let v := leNat (padTo 64 (shake256 64 (leBytes 64 (mrOf s fn r) ++ data)))
    .next (modBoot (fset s (F.MR_STATUS.BUSY fn) 1) fun b => { b with exts := b.exts ++ [(fn.val, r, v)] })

/-- MR_EXTEND_DONE (R485, R486): the register takes the hash. -/
def execMrExtendDone (fn : Fin 32) (s : State) : Host.Outcome State Fault Refusal :=
  match s.boot.exts.find? (·.1 == fn.val) with
  | none => .next s
  | some (f, r, v) =>
    .next (modBoot (fset s (F.MR_STATUS.BUSY fn) 0) fun b =>
      { b with exts := b.exts.filter (·.1 != f), mrs := mput 0 b.mrs (f * 8 + r) v })

end Sys2Proof.Machine
end

