-- ==== Sys2Proof/Machine/StageManager.lean ====
section
/-! DEFINITION. The Stage Manager's order, slices, placement and regulators (spec/10_stage_manager.md R334 to R337, R345 to
R352). -/

namespace Sys2Proof.Machine

open Sys2Proof

/-! ## Slices (R336, R337) -/

/-- SLICE_END (R336, R337, R339): the holder is pre-empted in its whole partition when an earlier ready context lacks what
it occupies; else a new slice begins. -/
def execSliceEnd (cid : Fin 1024) (s : State) : Host.Outcome State Fault Refusal :=
  let p := (ctxOf s cid).part
  if !holdsWork s cid then .next s
  else
    let s := noteAll s p
    if (readyIn s p).any fun c => c != cid.val && earlier s c cid && blockedBy s p c cid then
      .next (preemptReq s cid 17 none true)
    else .next (newSlice s cid)

/-! ## Placement (R334 to R337, R350) -/

/-- WORK_PLACE (R335 to R337, R350): the Stage Manager looks at a partition before it places work there. Contexts that hold
no work have no slice, those that have become ready take their virtual time, and a chain cue of a privileged stream that
waits pre-empts what holds its resources. The placing itself is each unit's own command, which takes a context's work only
when it is the next in order. -/
def execWorkPlace (p : Fin 8) (s : State) : Host.Outcome State Fault Refusal :=
  let s := noteAll s p
  .next ((chainCues s p).foldl chainPreempt s)

/-- GANG_PLACE (R117, R137, R141, R337, R434): a checked gang that is the next to be placed takes the engines listed, all
free together, the one that checked it at gang position (0, 0). -/
def execGangPlace (src : Src) (cores : List (Fin 17)) (s : State) : Host.Outcome State Fault Refusal :=
  let cs := cores.map (·.val)
  let mine := (cuesOf s (srcOf src)).map (·.uid)
  match s.tensors.find? fun o => o.stage == .gang && mine.contains o.uid with
  | none => .next s
  | some o =>
    let p := (ctxOf s o.cid).part
    let s := noteAll s p
    let free := fun (c : Nat) => coreTakes s c p && homeOk s (srcOf src) c && mayPlace s p o.cid (srcOf src) .tensor c &&
      match opOn s c with | some x => x.uid == o.uid | none => true
    if cs.length ≠ dGang o.desc ∨ cs.eraseDups ≠ cs ∨ cs.head? ≠ o.cores.head? ∨ !cs.all free ∨
        beingTaken s o.cid .tensor cs = true then .next s
    else .next (placeGang s s o cs .boundary)

/-! ## MAX_BEATS and the regulators (R346, R351, R352) -/

/-- Whether a cue's work stands on an engine: placed, and not saved (R346). -/
def onEngine (s : State) (uid : Nat) : Bool :=
  ((upTo 17).any fun c => (coreOf s c).wgs.any (·.uid == uid)) || s.tensors.any (fun o => o.uid == uid && o.holds) ||
    (match s.raster with | some r => r.uid == uid | none => false) || s.copies.any (fun k => k.uid == uid && !k.stopped) ||
    s.comps.any (·.uid == uid)

/-- MAX_BEATS_ABORT (R346): the beats that a cue has held an engine, counted by the hardware, reach its MAX_BEATS; it stops
under its engine's abort rule with PREEMPT_OVERRUN. -/
def execMaxBeatsAbort (uid held : Nat) (s : State) : Host.Outcome State Fault Refusal :=
  match cueOf s uid with
  | none => .next s
  | some c =>
    if c.stage = .running ∧ (kindOf c.opc).isSome ∧ c.maxBeats ≠ 0 ∧ c.maxBeats ≤ held ∧ onEngine s uid ∧
        s.stops.any (·.1 == uid) = false then
      .next (stopRunning (raise s E.SMGR_EVENT.OVERRUN) c cOverrun)
    else .next s

/-- REGULATOR_RELEASE (R351, R352): `cycles` of the interface's clock pass for a partition's regulator (0 DRAM, 1 Loft,
2 host), and its oldest waiting request goes on when the tokens are not negative. -/
def execRegulatorRelease (p : Fin 8) (kind : Fin 3) (cycles : Nat) (s : State) : Host.Outcome State Fault Refusal :=
  let k := p.val * 3 + kind.val
  let t : Int := min (mget 0 s.buckets k + (regRate s p kind * cycles : Nat)) (regBurst s p kind * 16384 : Nat)
  let waits := fun (r : Req) => r.part == p.val && match r.at_ with | .port q _ => q == kind.val | _ => false
  let put := fun (s : State) (t : Int) => { s with buckets := mput 0 s.buckets k t }
  match s.reqs.find? waits with
  | none => .next (put s t)
  | some r =>
    if t < 0 ∧ regRate s p kind ≠ 0 then .next (put s t)
    else
      let place := match r.at_ with | .port _ true => ReqAt.cache 0 | _ => routeOf s 0 r
      let s := modReq s r.id fun q => { q with at_ := place }
      .next (put s (if regRate s p kind = 0 then t else t - (reqBytes r * 256 : Nat)))

end Sys2Proof.Machine
end

