-- ==== Sys2Proof/Machine/Xlat.lean ====
section
/-! DEFINITION. Address spaces and translation (spec/11_translation.md): walks, ATS, invalidation, and the ownership
tags. -/

namespace Sys2Proof.Machine

open Sys2Proof

/-- PAGE_WALK (R358, R360 to R363, R368, R369, R385): a translation found in the cache is a hit; else the tables are walked,
and a valid leaf and the entries above it are cached. A walk whose tables lie behind an ATS translation not yet known asks
the host for it and is made again. -/
def execPageWalk (cid : Fin 1024) (va : BitVec 64) (kind : XKind) (s : State) : Host.Outcome State Fault Refusal :=
  let a := va.toNat
  let ask := fun (s : State) => match xlate s cid a kind with | .waits f g => askAts s f g | _ => s
  if usesTables s cid a then .next (ask (useTc s cid a)) else .next s

/-! ## ATS (R365, R366) -/

/-- Whether an invalidation covers a host page of a function. -/
def invCovers (v : Inv) (fn page : Nat) : Bool :=
  match v.kind with
  | .ats f _ => f == fn && overlaps v.lo (v.hi - v.lo) (hostBase + page * 4096) 4096
  | _ => false

/-- A translation request leaves the list of those outstanding. -/
def dropAts (s : State) (fn page : Nat) : State :=
  { s with atsReqs := s.atsReqs.filter fun r => !(r.fn == fn && r.page == page) }

/-- Translation requests whose responses were discarded are issued again once no invalidation covers them (R366). -/
def reissueAts (s : State) : State :=
  let due := s.atsReqs.filter fun r => r.answered && !s.invs.any fun v => invCovers v r.fn r.page
  due.foldl (fun s r => askAts (dropAts s r.fn r.page) r.fn r.page) s

/-- The answer to a translation request that an invalidation has covered is discarded (R366). -/
def staleAnswered (s : State) (fn page : Nat) : State :=
  let hit := fun (q : AtsReq) => q.fn == fn && q.page == page
  reissueAts { s with atsReqs := mapWhere hit (fun q => { q with answered := true }) s.atsReqs }

/-- Checks of areas and buffers that wait for a host translation are made again: arms, Curtains and entry rings. -/
def retryWaiting (s : State) : State := erWaiting (curtainWaiting (armWaiting s))

/-- A host page fails for those that wait for it (R366); a failure of the host itself sets HOST_ERR. -/
def failPage (s : State) (fn page code : Nat) : State :=
  let s := if code = cHostError then raise s E.XLAT_EVENT.HOST_ERR else s
  retryWaiting
    { s with hostFails := (s.hostFails.filter fun e => !(e.fn == fn && e.page == page)) ++ [⟨fn, page, code, false⟩] }

/-- ATS_TRANSLATION_RESPONSE (R365, R366, R368): the response to an outstanding request is cached with its size, at most
1 GiB of the range that holds the page, or fails the access; that of a request an invalidation has covered is discarded. -/
def execAtsTranslationResponse (fn : Fin 32) (page : BitVec 47) (res : AtsRes) (s : State) :
    Host.Outcome State Fault Refusal :=
  let p := page.toNat / 4096
  match s.atsReqs.find? fun r => r.fn == fn.val && r.page == p && !r.answered with
  | none => .next s
  | some r =>
    if r.stale then
      .next (staleAnswered s fn p)
    else
      let s := dropAts s fn p
      match res with
      | .fail => .next (failPage s fn p cHostError)
      | .ok place k r w =>
        let size := 2 ^ min 30 (max 12 k)
        if !r && !w then .next (failPage s fn p cUnmapped)
        else
          let s := { s with hostFails := s.hostFails.filter fun e => !(e.fn == fn.val && e.page == p) }
          let off := page.toNat / size * size - page.toNat / 2 ^ k * 2 ^ k
          .next (retryWaiting (tcPut s ⟨true, fn, page.toNat / size * size, size, place.toNat + off, r, w, false, true⟩))

/-- The streams whose areas lie in a host page of a function. -/
def streamsIn (s : State) (fn page : Nat) : List Nat :=
  (upTo 32).filter fun n => streamArmed s n && fnOfCid s (streamCid s n) == some fn &&
    (stPages s n).any fun p => overlaps p.da p.size (hostBase + 4096 * page) 4096

/-- HOST_COMPLETION_TIMEOUT (R187, R366): a translation request, or host-window accesses of the page, get no completion and
fail with HOST_ERROR. With no request of a core waiting there, the accesses are those of the Pit, whose streams become
FAULTED, or else those of an engine that runs a cue of the function, or of its walks: its next unit that reaches the page
meets the failure. -/
def execHostCompletionTimeout (fn : Fin 32) (page : BitVec 47) (s : State) : Host.Outcome State Fault Refusal :=
  let p := page.toNat / 4096
  if s.atsReqs.any fun r => r.fn == fn.val && r.page == p && !r.answered then
    if s.atsReqs.any fun r => r.fn == fn.val && r.page == p && r.stale then .next (staleAnswered s fn p)
    else .next (failPage (dropAts s fn p) fn p cHostError)
  else
    let lost := fun (r : Req) => r.at_ == .host && r.fills.isEmpty && fnOfCid s r.cid == some fn.val &&
      (r.addr - hostBase) / 4096 == p
    let rs := s.reqs.filter lost
    let ns := if rs.isEmpty then streamsIn s fn p else []
    let works := s.cues.any fun c => c.stage == .running && fnOfCid s c.cid == some fn.val
    if !rs.isEmpty || !ns.isEmpty then
      let s := rs.foldl (fun s r => answer s r.id cHostError []) (raise s E.XLAT_EVENT.HOST_ERR)
      .next (ns.foldl (fun s n => streamFault s n cHostError) s)
    else if works then
      .next { raise s E.XLAT_EVENT.HOST_ERR with hostFails := s.hostFails ++ [⟨fn, p, cHostError, true⟩] }
    else .next s

/-! ## Invalidation: drain or abort (R378 to R381) -/

/-- Whether an invalidation removes the translation of a held page. -/
def invHits (s : State) (v : Inv) (cid : Nat) (p : HeldPage) : Bool :=
  if v.cid = 1024 then
    let fn := match v.kind with | .ats f _ => some f | .window f => some f | _ => none
    fn.isSome && fnOfCid s cid == fn && overlaps v.lo (v.hi - v.lo) p.da p.size
  else v.cid == cid && overlaps v.lo (v.hi - v.lo) p.va p.size

/-- Whether an invalidation covers what the instruction of a request reaches (R370): its unit is the whole instruction, which
stands until every lane has its answer. -/
def invReq (s : State) (v : Inv) (r : Req) : Bool := decide (r.id < v.upto) && !r.isDone && r.unit.any (invHits s v r.cid)

/-- Cached translations that an invalidation covers go (R378 step 1). -/
def invCached (s : State) (v : Inv) : State :=
  let tcHit := fun (e : TcEntry) =>
    match v.kind with
    | .ats f _ => e.ats && e.owner == f && overlaps v.lo (v.hi - v.lo) (hostBase + e.page) e.size
    | _ => !e.ats && invHits s v e.owner ⟨e.page, e.size, e.da, e.nc⟩
  { s with
    tc := s.tc.filter (!tcHit ·)
    wc := s.wc.filter fun e => !(v.cid == e.cid && overlaps v.lo (v.hi - v.lo) e.page e.size)
    atsReqs := mapWhere (fun r => invCovers v r.fn r.page) (fun r => { r with stale := true }) s.atsReqs }

/-- Proscenium's layers (R264): a queued flip on a removed translation ends with XLAT_REVOKED; a layer latched on one shows
nothing from the next line, by whose start its reads have drained; one that no running output scans has none. -/
def invLayer (v : Inv) (s : State) (l : Nat) : State :=
  let hit := fun (f : Flip) => f.pages.any (invHits s v f.cid)
  let mine := (layerOf s l).latched.any hit
  let s := dropFlips s l cRevoked hit
  let scanned := match layerOut s l with | some o => outEn s o | none => false
  if !mine then s
  else modLayer s l fun y =>
    let y := { y with losing := y.losing ++ [v.id] }
    if scanned then y else y.gone

/-- REVOKED of the layers whose buffers an invalidation took, once it is acknowledged (R264). -/
def layersRevoked (s : State) (v : Inv) : State :=
  ((upTo 24).filter fun l => (layerOf s l).lost.contains v.id).foldl (fun s l =>
    raiseDisp (modLayer s l fun y => { y with lost := y.lost.filter (· != v.id) }) (E.PROSC_L_STATUS.REVOKED l)) s

/-- A stream of the Pit on a removed translation is FAULTED at once, and its translations go (R187, R379). -/
def invStream (v : Inv) (s : State) (n : Nat) : State :=
  if s.helds.any fun h => h.agent == .pit n && h.pages.any (invHits s v h.cid) then
    unhold (streamFault s n cRevoked) (.pit n)
  else s

/-- Held translations that an invalidation covers are marked stale, or discarded page by page where their unit has not begun
(R142, R378 step 2). -/
def invHelds (s : State) (v : Inv) : State :=
  let hit := fun (h : Held) => h.pages.any (invHits s v h.cid)
  let take := fun (h : Held) =>
    if h.began then { h with stale := h.stale ++ [v.id] } else { h with pages := h.pages.filter (!invHits s v h.cid ·) }
  { s with helds := mapWhere hit take s.helds }

/-- An invalidation arrives (R378 steps 1 and 2). -/
def startInv (s : State) (kind : InvKind) (cid lo hi : Nat) : State :=
  let v : Inv := ⟨s.nextInv, kind, cid, lo, hi, s.nextReq⟩
  let s := invCached (incSat s R.XLAT_INV_COUNT) v
  let s := (upTo 32).foldl (invStream v) ((upTo 24).foldl (invLayer v) s)
  showInvs { invHelds s v with invs := s.invs ++ [v], nextInv := v.id + 1 }

/-- A function's transfers in a device range begin to drain, with no translation removed (R384): those of a stream or a layer
are no transfer that ends. -/
def startDrain (s : State) (fn lo hi : Nat) : State :=
  let v : Inv := ⟨s.nextInv, .window fn, 1024, lo, hi, s.nextReq⟩
  let hit := fun (h : Held) =>
    h.began && (match h.agent with | .pit _ => false | _ => true) && h.pages.any (invHits s v h.cid)
  showInvs
    { s with
      helds := mapWhere hit (fun h => { h with stale := h.stale ++ [v.id] }) s.helds
      invs := s.invs ++ [v]
      nextInv := v.id + 1 }

/-- Whether transfers on a removed translation are still to drain. -/
def undrained (s : State) (v : Inv) : Bool :=
  s.helds.any (·.stale.contains v.id) || s.reqs.any (invReq s v) ||
    (upTo 24).any fun l => (layerOf s l).losing.contains v.id

/-- An invalidation is acknowledged (R378 step 4): the host gets its completion, or BUSY clears and DONE is set; translation
requests that waited are issued again. -/
def ackInv (s : State) (v : Inv) : State :=
  let s := showInvs { s with invs := s.invs.filter (·.id != v.id) }
  let s := match v.kind with
    | .ats fn itag => send s (.atsInvDone fn itag)
    | .cmd fn => raise (fset s (F.XLAT_INV_STATUS.BUSY fn) 0) (E.XLAT_INV_STATUS.DONE fn)
    | _ => s
  reissueAts (layersRevoked s v)

/-- ATS_INVALIDATION_REQUEST (R365, R378, R385): a function's host range. -/
def execAtsInvalidationRequest (fn : Fin 32) (itag : BitVec 5) (lo size : BitVec 47) (s : State) :
    Host.Outcome State Fault Refusal :=
  if isG5 s fn then .next (send (incSat s R.XLAT_INV_COUNT) (.atsInvDone fn itag.toNat))
  else .next (startInv s (.ats fn itag.toNat) 1024 (hostBase + lo.toNat) (hostBase + lo.toNat + size.toNat))

/-- XLAT_INV_CMD (R378, R381, R385): LEN 64 KiB units from ADDR of the context that PDESK_CTX_SEL names, 0 for all of it;
refused while BUSY, for a CID outside the function, and in G5 mode. -/
def execXlatInvCmd (fn : Fin 32) (s : State) : Host.Outcome State Fault Refusal :=
  let cid := selCtx s fn
  let lo := rd64 s (R.XLAT_INV_ADDR_LO fn) % 2 ^ 48 / 65536 * 65536
  let n := rdN s (R.XLAT_INV_LEN fn)
  if fbit s (F.XLAT_INV_STATUS.BUSY fn) ∨ fnOfCid s cid ≠ some fn.val ∨ isG5 s fn then
    .next (raise s (E.XLAT_INV_STATUS.REFUSED fn))
  else
    let s := fset s (F.XLAT_INV_STATUS.BUSY fn) 1
    .next (if n = 0 then startInv s (.cmd fn) cid 0 (2 ^ 48) else startInv s (.cmd fn) cid lo (lo + n * 65536))

/-- The number of a _LO half that waits for its _HI: the path it came by (BAR2, the page of a function in BAR0, ...) and the
register (R16). -/
def loKey (path addr : Nat) : Nat := path * 2 ^ 26 + addr

/-- The _LO half in effect for a write of _HI: the one written last and held, else `cur` (R16); and the state without it. -/
def takeLo (s : State) (path addr : Nat) (cur : W32) : W32 × State :=
  ((s.loHeld.lookup (loKey path addr)).getD cur,
    { s with loHeld := s.loHeld.filter fun p => p.1 != loKey path addr })

/-- XLAT_CTX_ROOT_LO in the page of a function: a view of the context it has selected. -/
def ctxRootLo (fn : Nat) : Nat := 0x1000000 + fn * 0x10000 + 0x1340

/-- CTX_ROOT_WRITE (R16, R378, R385): a write of XLAT_CTX_ROOT_HI by a function sets the root of the context it has selected,
which is invalidated whole; ignored with CFG_REFUSED unless the context is LIVE, the function's own and not in G5 mode. -/
def execCtxRootWrite (fn : Fin 32) (hi : BitVec 32) (s : State) : Host.Outcome State Fault Refusal :=
  let cid := selCtx s fn
  let p := takeLo s (1 + fn.val) (ctxRootLo fn) (BitVec.ofNat 32 (ctxOf s cid).root)
  if !ctxUsable s fn cid ∨ isG5 s fn then .next (ctxRefuse p.2 fn)
  else
    let root := p.1.toNat / 4096 * 4096 + 2 ^ 32 * bits hi.toNat 15 0
    .next (startInv (modCtx p.2 cid fun c => { c with root := root }) .root cid 0 (2 ^ 48))

/-- INVALIDATION_DRAINED (R378, R380): once every transfer on a removed translation has drained. -/
def execInvalidationDrained (id : Nat) (s : State) : Host.Outcome State Fault Refusal :=
  match s.invs.find? (·.id == id) with
  | none => .next s
  | some v => .next (if undrained s v then s else ackInv s v)

/-- The lowest address of a footprint that lies in a removed page (R379), or the lowest removed page's. -/
def lowHit (s : State) (v : Inv) (h : Held) (ranges : List (Nat × Nat × Bool)) : Nat :=
  let gone := h.pages.filter (invHits s v h.cid)
  let pts := gone.flatMap fun p => ranges.filterMap fun r =>
    if overlaps r.1 r.2.1 p.va p.size then some (max r.1 p.va) else none
  (minBy id (if pts.isEmpty then gone.map (·.va) else pts)).getD 0

/-- The fault of a context whose Curtain or entry ring is aborted (R379): SLOT names Proscenium or no unit of its own, and PC
is 0, since no record of a cue is in execution. -/
def plainFault (s : State) (cid slot addr : Nat) : State :=
  reportFault s cid (faultRec cRevoked 0xFF 0xFF cid slot 0xFF 0 (some addr) 0 false) none

/-- One transfer on removed translations is aborted under its agent's rule (R379): its context faults with XLAT_REVOKED. -/
def abortHeld (v : Inv) (s : State) (h : Held) : State :=
  match h.agent with
  | .tensor c => match headOn s c with
    | some o => tensorFault s o cRevoked (lowHit s v h ((footprint o.desc o.next).map (·.plain)))
    | none => unhold s h.agent
  | .raster => match s.raster with
    | some r => passFault s r cRevoked r.daddr (lowHit s v h (tileRanges s r (r.nextTile - 1)))
    | none => unhold s h.agent
  | .curtain o =>
    plainFault (raiseDisp (unhold s h.agent) (E.PROSC_DO_STATUS.CURTAIN_FAULT o)) h.cid 0xFC
      (lowHit s v h (curtainRanges s o (outOf s o).curtain))
  | .entryRing n => plainFault (unhold (fset s (F.UL_ER_CFG.EN n) 0) h.agent) h.cid 0xFA (lowHit s v h (erRanges s n))
  | _ => unhold s h.agent

/-- The lowest address of a request's unit that an invalidation took (R379). -/
def revokedVa (s : State) (v : Inv) (r : Req) : Nat :=
  (minBy (fun a : Nat => a) ((r.unit.filter (invHits s v r.cid)).map (·.va))).getD r.va

/-- An instruction's requests on removed translations are aborted (R379): one fault, of its lowest lane still outstanding. An
engine's request fails with the code. -/
def revokeReq (v : Inv) (s : State) (r : Req) : State :=
  match r.eng with
  | some e => engAnswered s { r with va := revokedVa s v r } e cRevoked []
  | none =>
    deliver { s with reqs := s.reqs.filter (!sameInstr r ·) } { r with va := revokedVa s v r } cRevoked []

/-- REVOKE_TIMEOUT (R379, R380): 64 µs after an invalidation arrived, the transfers it still waits for are aborted and it is
acknowledged. -/
def execRevokeTimeout (id : Nat) (s : State) : Host.Outcome State Fault Refusal :=
  match s.invs.find? (·.id == id) with
  | none => .next s
  | some v =>
    if !undrained s v then .next (ackInv s v)
    else
      let rs := s.reqs.filter (invReq s v)
      let s := (s.helds.filter (·.stale.contains id)).foldl (abortHeld v) s
      let s := (rs.filter fun r => !rs.any fun q => sameInstr r q && decide (q.id < r.id)).foldl (revokeReq v) s
      let s := ((upTo 24).filter fun l => (layerOf s l).losing.contains id).foldl (fun s l => modLayer s l LayerSt.gone) s
      let s := raise s E.XLAT_EVENT.REVOKE_ABORT
      let s := match v.kind with | .cmd fn => raise s (E.XLAT_INV_STATUS.ABORTED fn) | _ => s
      .next (ackInv s v)

/-! ## Ownership tags (R372 to R376) -/

/-- The first granule a TAG command names, as its key in the tag store, and the granules of its space. -/
def tagSel (s : State) : Nat :=
  fget s F.XLAT_TAG_SEL.GRANULE + if fbit s F.XLAT_TAG_SEL.SPACE then 0 else 0x10000

/-- Whether a tag keeps to R372. -/
def tagOk (t : Nat) : Bool :=
  bits t 7 4 == 0 && bits t 31 23 == 0 && (bits t 1 0 != 0 || bits t 17 8 == 0)

/-- Whether the granules of a TAG command lie in Loft SCRATCH or installed DRAM, and not past the last granule (R374). -/
def tagRange (s : State) (g n : Nat) : Bool :=
  if g < 0x10000 then carved s && decide ((g + n) * 16384 ≤ cacheBase s)
  else decide (g - 0x10000 + n ≤ fget s F.MEMC_CFG.GIB * 4096)

/-- The Loft granules a partition would have tagged after a TAG write. -/
def taggedAfter (s : State) (g n p : Nat) : Nat :=
  let kept := s.tags.filter fun t => !inRange t.1 g n
  loftTagged { s with tags := kept } p + n

/-- A TAG write is refused with a code (R374). -/
def tagRefuse (s : State) (code : Nat) : State := raise (fset s F.XLAT_STATUS.CODE code) E.XLAT_EVENT.TAG_REFUSED

/-- TAG_WRITE (R332, R372, R374): checked as a whole, and then applied granule by granule. -/
def execTagWrite (s : State) : Host.Outcome State Fault Refusal :=
  let g := tagSel s
  let raw := fget s F.XLAT_TAG_SEL.GRANULE
  let loft := fbit s F.XLAT_TAG_SEL.SPACE
  let n := fget s F.XLAT_TAG_COUNT.COUNT
  let t := rdN s R.XLAT_TAG_VALUE
  let owner := bits t 17 8
  let part := (ctxOf s owner).part
  if n = 0 ∨ fbit s F.XLAT_STATUS.TAG_BUSY ∨ !tagOk t ∨ (bits t 1 0 ≠ 0 ∧ !ctxLive s owner) ∨
      (loft ∧ 4096 < raw + n) ∨ (!loft ∧ 131072 < raw + n) ∨ !tagRange s g n then .next (tagRefuse s cTagInvalid)
  else if loft ∧ bits t 1 0 ≠ 0 ∧ aget s (F.SMGR_P_LOFT_QUOTA.QUOTA part) < taggedAfter s g n part then
    .next (tagRefuse s cTagQuota)
  else .next { fset s F.XLAT_STATUS.TAG_BUSY 1 with tagJob := some ⟨g, n, t⟩ }

/-- TAG_READ (R372). -/
def execTagRead (s : State) : Host.Outcome State Fault Refusal :=
  .next (wrN s R.XLAT_TAG_READ (mget 0 s.tags (tagSel s)))

/-- Whether a line lies in a granule. -/
def lineInGranule (g : Nat) (l : Line) : Bool :=
  if g < 0x10000 then l.line / 256 == g
  else decide (dramBase ≤ l.line * 64) && (l.line * 64 - dramBase) / 262144 == g - 0x10000

/-- TAG_GRANULE_APPLY (R375, R376): the lines of the next granule are cleaned and invalidated in every L1 and in the CACHE
region, and its tag changes. -/
def execTagGranuleApply (s : State) : Host.Outcome State Fault Refusal :=
  match s.tagJob with
  | none => .next s
  | some j =>
    let wipe := fun (s : State) (k : Nat) => dropLines (cleanLines s k (lineInGranule j.next)) k (lineInGranule j.next)
    let s := (upTo 17).foldl (fun s n => wipe s (n + 1)) s
    let s := wipe s 0
    let s :=
      { s with
        tags := mput 0 s.tags j.next j.value
        badTags := s.badTags.filter (· != j.next)
        tagJob := if j.left ≤ 1 then none else some { j with next := j.next + 1, left := j.left - 1 } }
    .next (showTagged (if j.left ≤ 1 then fset s F.XLAT_STATUS.TAG_BUSY 0 else s))

end Sys2Proof.Machine
end

