-- ==== Sys2Proof/Machine/SceneChange.lean ====
section
/-! DEFINITION. Scene Change (spec/10_stage_manager.md R353 to R357): the check and the snapshot of a commit, and each unit's
part at its boundary. -/

namespace Sys2Proof.Machine

open Sys2Proof

/-! ## The shadowed registers of each unit (R353, R355) -/

/-- Whether a register holds shadowed fields of the scheduler (R329), the expert directory or the credit pools of the link
(R406, R409), or a function's windows (R384). -/
def inSmgr (a : Nat) : Bool := inRange a 0x141000 0x200
def inDir (a : Nat) : Bool := inRange a (R.UL_DIR_LO 0) 0x8000
def inPools (a : Nat) : Bool := inRange a (R.UL_P_CREDITS 0) 0x20
def inFnCfg (a : Nat) : Bool := inRange a (R.XLAT_FN_CFG 0) 0x80

/-- Whether a register is shadowed. -/
def shadowed (a : Nat) : Bool :=
  inSmgr a || a == R.PDESK_G5_MODE || inFnCfg a || inLayer a || inProscSets a || (upTo 3).any (inOutMatrix · a) ||
    inDir a || inPools a || a == R.MEMC_SCRUB_INTERVAL

/-- The values that an output applies, under their plain addresses. -/
def outCopy (s : State) (o : Nat) : SMap W32 :=
  (s.applied.filter fun e => inRange e.1 (o * 2 ^ 28) (2 ^ 28)).map fun e => (e.1 - o * 2 ^ 28, e.2)

/-- Whether a logical core's place in the committed masks differs from that in the applied ones. -/
def coreMoves (s : State) (l : Nat) : Bool :=
  (upTo 8).any fun p => bit (cget s (F.SMGR_P_CFG.CORE_MASK p)) l != bit (partMask s p) l

/-- Whether every port has applied the committed size of every credit pool (R408). -/
def poolsFit (s : State) : Bool :=
  (upTo 3).all fun p => (upTo 8).all fun c =>
    mget 0 s.applied (oKey p (R.UL_P_CREDITS c)) == mget 0 s.committed (R.UL_P_CREDITS c)

/-- Whether the committed values of unit `u` differ from those it applies (R353). -/
def unitDiffers (s : State) (u : Nat) : Bool :=
  let differ := fun (p : Nat → Bool) => part p s.committed != part p s.applied
  if u = 0 then differ inSmgr
  else if u = 1 then differ (· == R.PDESK_G5_MODE)
  else if u = 2 then differ inFnCfg
  else if inRange u 5 3 then
    let o := u - 5
    let sets := fun (a : Nat) => inProscSets a || inOutMatrix o a
    part sets s.committed != part sets (outCopy s o) ||
      (upTo 24).any fun l => layerConcerns s o l &&
        mget 0 s.committed (R.PROSC_L_CTRL l) != mget 0 s.applied (oKey o (R.PROSC_L_CTRL l))
  else if u = 8 then differ inDir || !poolsFit s
  else if u = 9 then differ (· == R.MEMC_SCRUB_INTERVAL)
  else if inRange u 10 16 then coreMoves s (u - 10)
  else false

/-! ## The check (R354) -/

/-- The partitions whose shadow enables them. -/
def enParts (s : State) : List Nat := (upTo 8).filter fun p => fbit s (F.SMGR_P_CFG.EN p)

/-- Whether two different enabled partitions meet `clash`. -/
def anyClash (s : State) (clash : Nat → Nat → Bool) : Bool :=
  (enParts s).any fun p => (enParts s).any fun q => decide (p < q) && clash p q

/-- Check 2 of R354: what makes a set inconsistent. The check of another block is that of the credit pools (R406). -/
def scConfigBad (s : State) : Bool :=
  let es := enParts s
  let mask := fun (p : Nat) => fget s (F.SMGR_P_CFG.CORE_MASK p)
  let base := fun (p : Nat) => fget s (F.SMGR_P_SAVE.SAVE_BASE p)
  let mib := fun (p : Nat) => fget s (F.SMGR_P_SAVE.SAVE_MIB p)
  let slice := fun (p : Nat) => fget s (F.SMGR_P_SLICE.SLICE p)
  let npl := fun (p : Nat) => fget s (F.SMGR_P_NPL.NPL p)
  !carved s || es.any (fun p => mask p == 0) || anyClash s (fun p q => mask p &&& mask q != 0) ||
    (upTo 8).any (fun p => !fbit s (F.SMGR_P_CFG.EN p) && mask p != 0) ||
    anyClash s (fun p q => overlaps (base p) (mib p) (base q) (mib q)) ||
    es.any (fun p => mib p == 0 || decide (fget s F.LOFT_SAVE_SIZE.SAVE_MIB < base p + mib p)) ||
    decide (fget s F.LOFT_SCRATCH_SIZE.SCRATCH_MIB * 64 < sumBy (fun p => fget s (F.SMGR_P_LOFT_QUOTA.QUOTA p)) es) ||
    es.any (fun p => decide (slice p < 100000) || decide (npl p < 1000) || decide (slice p < npl p)) ||
    decide (576 < sumBy (fun p => fget s (F.UL_P_CREDITS.CREDITS p)) es)

/-- Check 3 of R354: what the change would touch. -/
def scInUse (s : State) : Bool :=
  (upTo 8).any fun p =>
    let lost := fun (l : Nat) => bit (partMask s p) l && !bit (fget s (F.SMGR_P_CFG.CORE_MASK p)) l
    let gone := partEn s p && !fbit s (F.SMGR_P_CFG.EN p) || partPriv s p != fbit s (F.SMGR_P_CFG.PRIV p)
    let moved := fget s (F.SMGR_P_SAVE.SAVE_BASE p) != aget s (F.SMGR_P_SAVE.SAVE_BASE p) ||
      decide (fget s (F.SMGR_P_SAVE.SAVE_MIB p) < aget s (F.SMGR_P_SAVE.SAVE_MIB p))
    (gone && !(ctxsIn s p fun _ _ => true).isEmpty) ||
      (upTo 32).any (fun n => streamArmed s n && (ctxOf s (streamCid s n)).part == p && lost (fget s (F.PIT_S_OWNER.HOME_CORE n))) ||
      (moved && s.images.any (·.part == p)) || decide (fget s (F.SMGR_P_LOFT_QUOTA.QUOTA p) < loftTagged s p)

/-! ## The commit (R353, R356) -/

/-- The changes of layers that concern no output are in force at once; so are, for each output, those of layers it neither
had nor gets. -/
def applyQuiet (s : State) : State :=
  let s := (upTo 24).foldl (fun s l =>
    if (upTo 3).any fun o => layerConcerns s o l then s
    else ownerChange s l (oget s 0 (F.PROSC_L_CTRL.OWNER l)) (cget s (F.PROSC_L_CTRL.OWNER l))) s
  (upTo 3).foldl (fun s o => ((upTo 24).filter fun l => !layerConcerns s o l).foldl (applyLayer o) s) s

/-- Whether a commit changes a function's windows (R384). -/
def windowMoves (s : State) (f : Nat) : Bool :=
  aget s (F.XLAT_FN_CFG.HOSTWIN_EN f) != cget s (F.XLAT_FN_CFG.HOSTWIN_EN f) ||
    aget s (F.XLAT_FN_CFG.PEER_EN f) != cget s (F.XLAT_FN_CFG.PEER_EN f)

/-- The host-window and peer transfers of a function whose windows change drain before the change applies (R384). A window
that closes takes its translations with it (R378); under the other one, the transfers begun before only end. -/
def closeWindow (s : State) (f : Nat) : State :=
  let host := aget s (F.XLAT_FN_CFG.HOSTWIN_EN f) == 1 && cget s (F.XLAT_FN_CFG.HOSTWIN_EN f) == 0
  let peer := aget s (F.XLAT_FN_CFG.PEER_EN f) == 1 && cget s (F.XLAT_FN_CFG.PEER_EN f) == 0
  let range := fun (s : State) (closes : Bool) (lo hi : Nat) =>
    if closes then startInv s (.window f) 1024 lo hi else startDrain s f lo hi
  if windowMoves s f then range (range s peer 0x200000000000 0x300000000000) host hostBase (2 ^ 48) else s

/-- The work on a logical core that is to change partition is pre-empted (R355). -/
def vacate (s : State) (l : Nat) : State :=
  match physOf s l with
  | none => s
  | some c =>
    let cids := ((coreOf s c).wgs.map (·.cid) ++ ((s.tensors.filter fun o => o.cores.contains c && o.holds).map (·.cid))).eraseDups
    cids.foldl (fun s cid => preemptReq s cid c none false) s

/-- A commit is refused with a code (R354). -/
def scRefuse (s : State) (code : Nat) : State := raise (fset s F.SMGR_SC_STATUS.CODE code) E.SMGR_SC_STATUS.SC_REFUSED

/-- SC_COMMIT (R353 to R356): checked as a whole; the shadows become the committed set, GEN counts, and every unit that
differs is pending. -/
def execScCommit (s : State) : Host.Outcome State Fault Refusal :=
  if rdN s R.SMGR_SC_PENDING ≠ 0 then .next (scRefuse s cScBusy)
  else if scConfigBad s then .next (scRefuse s cScConfig)
  else if scInUse s then .next (scRefuse s cScInUse)
  else
    let s := incWrap { s with committed := part shadowed s.regs, scLocked := true } R.SMGR_SC_GEN
    let due := (upTo 26).filter (unitDiffers s)
    let s := wrN s R.SMGR_SC_PENDING (sumBy (fun u => 2 ^ u) due)
    let s := ((upTo 26).filter fun u => !due.contains u).foldl (fun s u => wr s (R.SMGR_SC_APPLIED u) (rd s R.SMGR_SC_GEN)) s
    let s := applyQuiet s
    let s := (upTo 32).foldl closeWindow s
    let s := (due.filter (10 ≤ ·)).foldl (fun s u => vacate s (u - 10)) s
    .next (scDone s)

/-! ## Each unit's part (R355) -/

/-- Write an applied register of a partition and its readable copy. -/
def applySmgr (s : State) (a : Nat) (v : W32) : State := wr { s with applied := mput 0 s.applied a v } (a + 0x1000) v

/-- The tokens of a bucket do not exceed its size (R351). -/
def clampBuckets (s : State) : State :=
  (upTo 24).foldl (fun s k =>
    let t := mget 0 s.buckets k
    { s with buckets := mput 0 s.buckets k (min t (regBurst s (k / 3) (k % 3) * 16384 : Nat)) }) s

/-- SMGR's part: every partition register, but for the mask bits of the cores still pending. -/
def applyParts (s : State) : State :=
  let held := rdN s R.SMGR_SC_PENDING / 2 ^ 10 * 2 ^ 16
  let all := 0xFFFF0000
  let s := (upTo 8).foldl (fun s p =>
    (upTo 8).foldl (fun s i =>
      let a := R.SMGR_P_CFG p + 4 * i
      let new := (mget 0 s.committed a).toNat
      let old := (mget 0 s.applied a).toNat
      let v := if i = 0 then new % 65536 + ((old &&& held) ||| (new &&& (all - held % 2 ^ 32))) / 65536 * 65536 else new
      applySmgr s a (BitVec.ofNat 32 v)) s) s
  clampBuckets s

/-- A logical core's part: its bit in every mask. -/
def applyCore (s : State) (l : Nat) : State :=
  (upTo 8).foldl (fun s p =>
    let a := R.SMGR_P_CFG p
    let b := b2n (bit (cget s (F.SMGR_P_CFG.CORE_MASK p)) l)
    applySmgr s a (BitVec.ofNat 32 (putBits (mget 0 s.applied a).toNat (16 + l) (16 + l) b))) s

/-- Whether a core holds no work of the partition it is to leave (R355). -/
def coreVacant (s : State) (l : Nat) : Bool :=
  match physOf s l with
  | none => true
  | some c => (coreOf s c).wgs.isEmpty && !s.tensors.any fun o => o.cores.contains c && o.holds

/-- The link's part: the directory at once, and every pool of a port in which the credits in use fit the new size (R408,
R409). -/
def applyLink (s : State) : State :=
  let due := (upTo 3).flatMap fun p => ((upTo 8).filter fun c =>
    decide ((portOf s p).used.getD c 0 ≤ cget s (F.UL_P_CREDITS.CREDITS c))).map fun c => (p, R.UL_P_CREDITS c)
  let s := applyRegs s inDir
  { s with applied := due.foldl (fun m q => mput 0 m (oKey q.1 q.2) (mget 0 s.committed q.2)) s.applied }

/-- Whether a function's transfers begun before the commit have drained, and whether every function has its windows (R384). -/
def fnDrained (s : State) (f : Nat) : Bool := !s.invs.any (·.kind == .window f)
def windowsApplied (s : State) : Bool := part inFnCfg s.committed == part inFnCfg s.applied

/-- Whether a unit stands at its boundary (R266, R355, R384, R535): an output while its EN is 0 (its latch instant applies
its part itself), MEMC while its scrubber stands still (its scrub step applies its part itself), a core once its work has
gone. -/
def atBoundary (s : State) (u : Nat) : Bool :=
  if inRange u 5 3 then !outEn s (u - 5)
  else if u = 9 then scrubHeld s
  else if 10 ≤ u then coreVacant s (u - 10)
  else true

/-- What a unit applies. -/
def applyUnit (s : State) (u : Nat) : State :=
  match u with
  | 0 => applyParts s
  | 1 => applyRegs s (· == R.PDESK_G5_MODE)
  | 2 => applyRegs s fun a => inFnCfg a && fnDrained s ((a - R.XLAT_FN_CFG 0) / 4)
  | 5 => applyOut s 0
  | 6 => applyOut s 1
  | 7 => applyOut s 2
  | 8 => applyLink s
  | 9 => applyRegs s (· == R.MEMC_SCRUB_INTERVAL)
  | u => if 10 ≤ u then applyCore s (u - 10) else s

/-- SC_UNIT_APPLY (R355, R356): a pending unit at its boundary applies its part, writes GEN into its APPLIED register and
clears its PENDING bit. The link stays pending while a pool of a port has still to shrink (R408), and XLAT while a function's
transfers have still to drain (R384). -/
def execScUnitApply (u : Fin 26) (s : State) : Host.Outcome State Fault Refusal :=
  if !scPending s u ∨ !atBoundary s u then .next s
  else
    let s := applyUnit s u
    let rest := (u.val = 8 ∧ poolsFit s = false) ∨ (u.val = 2 ∧ windowsApplied s = false)
    .next (if rest then s else scApplied s u)

end Sys2Proof.Machine
end

