-- ==== Sys2Proof/Machine/RegAccess.lean ====
section
/-! DEFINITION. Register accesses (spec/00_scope.md R15 to R20, spec/18_register_map.md R524 to R532): the paths, the pairs,
the access codes, the views of the BAR0 page, what a gated or held domain does to an access, and the writes that are
commands. -/

namespace Sys2Proof.Machine

open Sys2Proof

/-! ## Places -/

/-- The register a path and an offset reach: an offset of the global window, or one in a function's BAR0 page, which stands
at 0x1000000 + fn * 0x10000 (R524, R529). -/
def regAddr : Path → Nat → Nat
  | .bar0 f, off => 0x1000000 + f.val * 0x10000 + off
  | _, off => off

/-- The number of a path, each of which has its own latches (R529). -/
def pathNum : Path → Nat
  | .bar2 => 0
  | .bar0 f => 1 + f.val
  | .f1 => 33
  | .racc => 34
  | .stagehand => 35

/-- The function and offset of an address in a BAR0 page. -/
def pageFn (a : Nat) : Nat := (a - 0x1000000) / 0x10000
def pageOff (a : Nat) : Nat := if 0x1000000 ≤ a then a % 0x10000 else 0
def isPage (a : Nat) : Bool := decide (0x1000000 ≤ a)

/-- The instance of a register that stands at `base`, `base + stride`, … -/
def instOf (a base stride n : Nat) : Option Nat :=
  if base ≤ a ∧ (a - base) % stride = 0 ∧ (a - base) / stride < n then some ((a - base) / stride) else none

/-- Offsets of the _LO halves among the views of a BAR0 page: the selected ring's, fence's and context's pairs. -/
def viewPairs : List Nat := [0x1008, 0x1010, 0x1018, 0x1248, 0x1308, 0x1310, 0x1340]

/-- Whether a register is the _LO half, or the _HI half, of a pair (R16). -/
def isLo (a : Nat) : Bool := if isPage a ∧ viewPairs.contains (pageOff a) then true else pairTable.any (rowHas · a)
def isHi (a : Nat) : Bool := decide (4 ≤ a) && isLo (a - 4)

/-- The row of the register table for an address. -/
def regRow (a : Nat) : Option RegRow := regTable.find? (rowHas · a)

/-! ## Reads -/

/-- The scaling coefficient words are stored as their difference from the linear kernel, their value after reset (R257). -/
def coefMask (a : Nat) : Nat :=
  if inRange a 0x484000 0x2000 then coefWord (a % 0x400 / 0x10) (a % 0x10 / 4 * 2) else 0

/-- The bits of a register that reads return: WO and reserved bits return 0 (R18). -/
def readMask (r : RegRow) : Nat :=
  r.fields.foldl (fun m f => if f.acc = .wo then m else m ||| ((2 ^ (f.hi + 1 - f.lo) - 1) * 2 ^ f.lo)) 0

/-- PDESK_RING_STATE as a number: WAITING is shown while a cue waits for a completion slot. -/
def ringCode (r : Ring) : Nat :=
  match r.state with
  | .off => 0
  | .asleep => if r.waitSlot then 3 else 1
  | .active => if r.waitSlot then 3 else 2
  | .stalled => 4
  | .aborting => 5
  | .disabling => 6

/-- The words of the selected ring (R268, R294): CFG, the address pairs, STATE, IDX, STATUS and EVT. -/
def ringView (s : State) (fn off : Nat) : Option Nat :=
  let r := ringOf s (selRing s fn)
  match off with
  | 0x1004 => some (r.sizeLog2 + 16 * r.csizeLog2 + 2 ^ 8 * r.vector + 2 ^ 16 * r.cid)
  | 0x1008 => some (r.base % 2 ^ 32)
  | 0x100C => some (r.base / 2 ^ 32)
  | 0x1010 => some (r.cbase % 2 ^ 32)
  | 0x1014 => some (r.cbase / 2 ^ 32)
  | 0x1018 => some (r.cons % 2 ^ 32)
  | 0x101C => some (r.cons / 2 ^ 32)
  | 0x1024 => some (ringCode r + 16 * r.parked.length + 2 ^ 16 * r.code)
  | 0x1028 => some (r.ci + 2 ^ 16 * r.cwr)
  | 0x102C => some (b2n r.stall + 2 * b2n r.refused)
  | 0x1030 => some (r.stallEvt + 2 ^ 16 * r.refusedEvt)
  | _ => none

/-- Context states as numbers. -/
def ctxCode : CtxState → Nat
  | .free => 0
  | .live => 1
  | .faulted => 2
  | .dying => 3

/-- The words of the selected context (R301, R304, R334, R347, R378). -/
def ctxView (s : State) (fn off : Nat) : Option Nat :=
  let cid := selCtx s fn
  let c := ctxOf s cid
  if inRange off 0x1220 0x20 then some (field c.slot (off - 0x1220) 4)
  else match off with
    | 0x120C => some (ctxCode c.state + 2 ^ 16 * c.code)
    | 0x1300 => some c.share
    | 0x1304 =>
      some (c.effShare + 2 ^ 12 * b2n (decide (c.share < c.effShare)) + 2 ^ 13 * b2n (c.boost != 0) +
        2 ^ 14 * b2n (c.state == .live && ctxReady s cid) + 2 ^ 15 * b2n (s.images.any (·.cid == cid)))
    | 0x1308 => some (c.coreBeats.toNat % 2 ^ 32)
    | 0x130C => some (c.coreBeats.toNat / 2 ^ 32)
    | 0x1310 => some (c.tensorBeats.toNat % 2 ^ 32)
    | 0x1314 => some (c.tensorBeats.toNat / 2 ^ 32)
    | 0x1318 => some (min 0xFFFFFFFF c.debt)
    | 0x131C => some (min 0xFFFFFFFF c.preempts)
    | 0x1320 => some (4 * sumBy (·.pages.length) (s.images.filter (·.cid == cid)))
    | 0x1340 => some (c.root % 2 ^ 32)
    | 0x1344 => some (c.root / 2 ^ 32)
    | _ => none

/-- The words of the selected fence (R308, R310). -/
def fenceView (s : State) (fn off : Nat) : Option Nat :=
  let f := fenceOf s (selFence s fn)
  match off with
  | 0x1248 => some (f.value.toNat % 2 ^ 32)
  | 0x124C => some (f.value.toNat / 2 ^ 32)
  | 0x125C => some (fenceCode f.state + 2 ^ 16 * f.code)
  | 0x1260 => some f.regress
  | _ => none

/-- The words of the selected semaphore (R318). -/
def semView (s : State) (fn off : Nat) : Option Nat :=
  let m := semOf s (selSem s fn)
  if inRange off 0x12A0 0x20 then
    let h := m.holders.getD ((off - 0x12A0) / 4) ⟨0, 0⟩
    some (h.cid + 2 ^ 16 * h.units)
  else match off with
    | 0x128C => some (fenceCode m.state + 2 ^ 16 * m.code)
    | 0x1290 => some (m.count + 2 ^ 16 * min 0xFFFF m.fifo.length)
    | _ => none

/-- The copies of the identity area, the stall map, the measurement register, the function's power state (R295, R437,
R486, R527). -/
def copyView (s : State) (fn off : Nat) : Option Nat :=
  if inRange off 0x04 0x14 then some (rdN s off)
  else if inRange off 0x4C0 0x40 then some (mrOf s fn (fget s (F.MR_SEL.MR_SEL fn)) / 2 ^ (8 * (off - 0x4C0)) % 2 ^ 32)
  else if inRange off 0x1080 0x80 then
    let w := (off - 0x1080) / 4
    some (sumBy (fun i => b2n ((ringOf s (fn * 1024 + w * 32 + i)).state == .stalled) * 2 ^ i) (upTo 32))
  else match off with
    | 0x20 => some (rdN s (R.PDESK_FN_CTX_RANGE fn))
    | 0x24 => some (rdN s (R.PDESK_FN_FENCE_BASE fn))
    | 0x28 => some (rdN s (R.PDESK_FN_FENCE_COUNT fn))
    | 0x2C => some (rdN s (R.PDESK_FN_SEM_RANGE fn))
    | 0x30 => some (rdN s (R.PDESK_FN_PART_MASK fn))
    | 0x40 =>
      some (bootState s + 2 ^ 4 * b2n (isG5 s fn) + 2 ^ 5 * aget s (F.XLAT_FN_CFG.HOSTWIN_EN fn) +
        2 ^ 6 * aget s (F.XLAT_FN_CFG.PEER_EN fn))
    | 0x44 => some (rdN s R.UL_SELF % 2 ^ 27)
    | 0x48 => some (rdN s R.CHIP_FW_VERSION)
    | 0x3008 => some (min 3 (pwrState s) + 2 ^ 4 * fget s F.PWR_STATE.CUR_OP)
    | _ => none

/-- The MSI-X table and pending bits of a function as 32-bit words (R526). -/
def msixView (s : State) (fn off : Nat) : Option Nat :=
  let e := fun (v : Nat) => mget Msix.reset s.msix (fn * 64 + v)
  if inRange off 0x2800 0x400 then
    let x := e ((off - 0x2800) / 16)
    match off % 16 / 4 with
    | 0 => some (x.addr % 2 ^ 32)
    | 1 => some (x.addr / 2 ^ 32)
    | 2 => some x.data
    | _ => some (b2n x.mask)
  else if inRange off 0x2C00 8 then
    some (sumBy (fun i => b2n (e ((off - 0x2C00) * 8 + i)).pending * 2 ^ i) (upTo 32))
  else none

/-- Whether an object selected by a SEL register lies outside the function's ranges: what its words then read is not
stated. -/
def outsideFn (s : State) (fn off : Nat) : Bool :=
  ((ctxView s fn off).isSome && fnOfCid s (selCtx s fn) != some fn) ||
    ((fenceView s fn off).isSome && fnOfFence s (selFence s fn) != some fn) ||
    ((semView s fn off).isSome && fnOfSem s (selSem s fn) != some fn)

/-- A view of a BAR0 page. -/
def pageView (s : State) (fn off : Nat) : Option Nat :=
  [ringView s fn off, ctxView s fn off, fenceView s fn off, semView s fn off, copyView s fn off, msixView s fn off].findSome? id

/-- Whether a register is of the head's access to other units, on a unit that is not the head: its functions do not serve the
group's host, and the registers read 0 and take no write there (R394, R416; the form is log 57's choice). -/
def raccHidden (s : State) (a : Nat) : Bool := inRange a R.UL_RACC_UNIT 0x14 && !fbit s F.UL_SELF.HEAD

/-- The key of the cache whose control register an address is. -/
def cacheCtrlKey (a : Nat) : Option Nat :=
  if a = R.LOFT_CACHE_CTRL then some 0 else (instOf a (R.CORE_L1_CTRL 0) 0x10000 17).map (· + 1)

/-- A register of the global window that hardware computes: SMGR_Pp_STATE, the frame counter that a port shows for its
group, and the MODE of a cache that is forced to write-through (R50, R188, R336). -/
def globalView (s : State) (a : Nat) : Option Nat :=
  match instOf a (R.SMGR_P_STATE 0) 0x20 8 with
  | some p =>
    let lead := (onesOf 16 (partMask s p)).headD 0
    let hs := (ctxsIn s p fun c _ => holdsWork s c).length
    some (lead + 2 ^ 8 * min 255 hs + 2 ^ 16 * min 0xFFFF (readyIn s p).length)
  | none =>
    match instOf a (R.PIT_SAP_FRAME 0) 0x10 4 with
    | some p => some (rdN s (R.PIT_SAP_FRAME (clockSrc (sapForce s) p)))
    | none =>
      match cacheCtrlKey a with
      | some k => if cacheForced s k then some (putBits (rdN s a) 1 1 1) else none
      | none => if raccHidden s a then some 0 else none

/-- The word a register reads as now: 0 where none is defined (R17), none where the spec leaves the value open. -/
def readWord (s : State) (a : Nat) : Option Nat :=
  let own := (rdN s a ^^^ coefMask a) &&& ((regRow a).map readMask).getD 0
  if isPage a then
    if outsideFn s (pageFn a) (pageOff a) then none else some ((pageView s (pageFn a) (pageOff a)).getD own)
  else some ((globalView s a).getD own)

/-- A word as read; an open one is a free value. -/
def readNow (s : State) (a : Nat) : State × Nat :=
  match readWord s a with
  | some v => (s, v)
  | none => (useFree s, freeVal s % 2 ^ 32)

/-- A read over a path (R16): a read of _LO latches _HI, and the next read of _HI over that path returns the latch. -/
def readReg (s : State) (p : Path) (a : Nat) : State × Nat :=
  let key := loKey (pathNum p)
  if isLo a then
    let lo := readNow s a
    let hi := readNow lo.1 (a + 4)
    ({ hi.1 with hiLatch := (key a, BitVec.ofNat 32 hi.2) :: hi.1.hiLatch.filter (·.1 != key a) }, lo.2)
  else if isHi a then
    match s.hiLatch.lookup (key (a - 4)) with
    | some v => ({ s with hiLatch := s.hiLatch.filter (·.1 != key (a - 4)) }, v.toNat)
    | none => readNow s a
  else readNow s a

/-! ## Writes -/

/-- Whether the RWL fields of a register are locked (R18, R46, R262, R356). -/
def rwlLocked (s : State) (a : Nat) : Bool :=
  if a = R.PDESK_G5_MODE then s.scLocked
  else if inRange a 0x480000 0x300 then fbit s (F.PROSC_DO_CURTAIN_CTRL.LOCK ((a - 0x480000) / 0x100))
  else carved s

/-- What a write leaves in one field (R18): W1S, WO and command fields are left to their commands. -/
def fieldWrite (locked : Bool) (d old : Nat) (f : FldRow) : Nat :=
  let x := bits d f.hi f.lo
  match f.acc with
  | .rw => putBits old f.hi f.lo x
  | .rwl => if locked then old else putBits old f.hi f.lo x
  | .w1c => putBits old f.hi f.lo (bits old f.hi f.lo &&& (2 ^ (f.hi + 1 - f.lo) - 1 - x))
  | .ro => old
  | .wo => old
  | .w1s => old
  | .cmd => old

/-- Whether any ring of a function is not OFF. -/
def ringsOn (s : State) (fn : Nat) : Bool := s.rings.any fun p => ringFn p.1 == fn && p.2.state != .off

/-- The mask of bits of a register that a write may change beside its access codes: G5 bits of functions whose rings are all
OFF (R299), the FAULT and PIT vectors alone in a virtual function's IRQ_MAP (R293), and nothing of the CFG of an entry ring
whose EN is 1 (R411: clearing EN is its own command). -/
def mayChange (s : State) (a : Nat) : Nat :=
  if inRange a (R.UL_ER_CFG 0) 0x2000 ∧ a % 0x20 = 0 ∧ bit (rdN s a) 0 then 0
  else if a = R.PDESK_G5_MODE then sumBy (fun f => b2n (!ringsOn s f) * 2 ^ f) (upTo 32)
  else if isPage a ∧ pageOff a = 0x2000 ∧ pageFn a ≠ 0 then 0xBFBF
  else 0xFFFFFFFF

/-- Store the written fields of a register (R18). -/
def storeReg (s : State) (a d : Nat) : State :=
  match regRow a with
  | none => s
  | some r =>
    let old := rdN s a ^^^ coefMask a
    let new := r.fields.foldl (fun v f => fieldWrite (rwlLocked s a) d v f) old
    let m := mayChange s a
    wrN s a (((new &&& m) ||| (old &&& (0xFFFFFFFF - m))) ^^^ coefMask a)

/-- The flags of a selected ring that hardware sets in the same cycle win, and are counted (R19, R20, R538). -/
def setRingFlags (s : State) (k hw : Nat) : State :=
  let s := if bit hw 0 then
      modRing s k fun r => { r with stall := true, stallEvt := (r.stallEvt + 1) % 65536 }
    else s
  if bit hw 1 then ringRefuse s k else s

/-- The flags that hardware sets in the same cycle win, and are counted (R19, R20); those of a stream raise the PIT vector
(R215). -/
def setFlags (s : State) (a : Nat) (hw : Nat) : State :=
  if isPage a && pageOff a == 0x102C then setRingFlags s (selRing s (pageFn a)) hw
  else
    let up := match instOf a (R.PIT_S_STATUS 0) 0x100 32 with | some n => fun s f => pitRaise s n f | none => raise
    let s := (flagTable.filter fun r => rowHas ⟨r.addr, r.n1, r.s1, r.n2, r.s2, 4, []⟩ a && bit hw r.bit).foldl
      (fun s r => up s ⟨⟨a, r.bit, r.bit⟩, ⟨r.evtAddr + (a - r.addr), r.evtLo + 15, r.evtLo⟩⟩) s
    if a = R.RST_EVENT ∨ a = R.RST_MBOX_CTRL then showIrq s else s

/-- The words of a selected ring as written (R268). -/
def ringWrite (s : State) (fn off d : Nat) : State :=
  let hi := fun (old : Nat) => old % 2 ^ 32 + 2 ^ 32 * bits d 14 0
  let page := fun (old : Nat) => old / 2 ^ 32 * 2 ^ 32 + d / 4096 * 4096
  modRing s (selRing s fn) fun r =>
    match off with
    | 0x1004 =>
      { r with sizeLog2 := bits d 3 0, csizeLog2 := bits d 7 4, vector := bits d 13 8, cid := bits d 25 16 }
    | 0x1008 => { r with base := page r.base }
    | 0x100C => { r with base := hi r.base }
    | 0x1010 => { r with cbase := page r.cbase }
    | 0x1014 => { r with cbase := hi r.cbase }
    | 0x1018 => { r with cons := r.cons / 2 ^ 32 * 2 ^ 32 + d / 4 * 4 }
    | 0x101C => { r with cons := hi r.cons }
    | 0x102C => { r with stall := r.stall && !bit d 0, refused := r.refused && !bit d 1 }
    | _ => r

/-- A 32-bit word of the MSI-X table as written; an entry unmasked with its message due sends it (R526). -/
def msixWrite (s : State) (fn off d : Nat) : State :=
  let v := (off - 0x2800) / 16
  let k := fn * 64 + v
  let e := mget Msix.reset s.msix k
  let put := fun (s : State) (e : Msix) => { s with msix := mput Msix.reset s.msix k e }
  match off % 16 / 4 with
  | 0 => put s { e with addr := e.addr / 2 ^ 32 * 2 ^ 32 + d / 4 * 4 }
  | 1 => put s { e with addr := e.addr % 2 ^ 32 + 2 ^ 32 * d }
  | 2 => put s { e with data := d }
  | _ =>
    if bit d 0 then put s { e with mask := true }
    else
      let s' := put s { e with mask := false, pending := false }
      if e.mask && e.pending then send s' (.msix fn v) else s'

/-- Whether a register belongs to a port or stream of the Pit (R205) or to a Curtain (R259), which only the physical function
writes, through BAR2 or SDIO F1. -/
def byFunctionOnly (a : Nat) : Bool :=
  inRange a (R.PIT_SAP_CFG 0) 0x200 || inRange a (R.PIT_S_CFG 0) 0x2000 ||
    (inRange a 0x480000 0x300 && inRange (a % 0x100) 0x40 0x20)

/-- Whether a write of a cache's control register would change MODE while EN reads 1 (R50). -/
def modeBarred (s : State) (k d : Nat) : Bool := fbit s (cacheEn k) && !cacheForced s k && fbit s (cacheModeF k) != bit d 1

/-- Whether a write of `d` is ignored for its path, or for the state of what it would set up: the state after it (R50, R181,
R205, R259, R268, R394, R411, R484, and the PIT, PDESK and ATT register tables). -/
def writeBarred (s : State) (p : Path) (a d : Nat) : Option State :=
  if (cacheCtrlKey a).any fun k => modeBarred s k d then (cacheCtrlKey a).map fun k => raise s (cacheCmdRefused k)
  else if isPage a then
    let fn := pageFn a
    let off := pageOff a
    if inRange off 0x1004 0x1C then
      if (ringOf s (selRing s fn)).state ≠ .off then some (ringRefuse s (selRing s fn)) else none
    else if off = 0x1040 ∨ off = 0x1044 then (if ringsOn s fn then some s else none)
    else if inRange off 0x400 0x28 ∧ fbit s (F.ATT_STATUS.BUSY fn) then some s
    else none
  else if byFunctionOnly a && (p == .racc || p == .stagehand) then some s
  else match (upTo 32).find? fun n => inRange a (R.PIT_S_CFG n) 0x70 with
    | some n =>
      if a = R.PIT_S_CMD n ∨ a = R.PIT_S_STATE n ∨ streamState s n = sIdle then none
      else some (pitRaise s n (E.PIT_S_STATUS.CFG_REFUSED n))
    | none =>
      if inRange a (R.UL_ER_CFG 0) 0x2000 ∧ inRange (a % 0x20) 0x04 0x14 ∧
          fbit s (F.UL_ER_CFG.EN ((a - R.UL_ER_CFG 0) / 0x20)) then some s
      else if raccHidden s a then some s
      else if a = R.CHIP_FW_VERSION ∧ !fromStagehand p then some s
      else none

/-- The state after a command; a command of this model always has one. -/
def after (s : State) (o : Host.Outcome State Fault Refusal) : State :=
  match o with
  | .next t => t
  | _ => s

/-- The commands of a cache's registers (R50 to R53): MODE and EN of its control register, and the operations. -/
def cacheWrite (s : State) (c : CacheId) (ctrl : Bool) (d : Nat) : State :=
  let k := cacheKey c
  if ctrl then
    let s' := after s (execCacheModeSet c (bit d 1) s)
    if bit d 0 then (if fbit s (cacheEn k) then s' else after s' (execCacheEnable c s'))
    else after s' (execCacheDisable c s')
  else match bits d 3 0 with
    | 1 => after s (execInvalidateAll c s)
    | 2 => after s (execCleanAll c s)
    | 3 => after s (execCleanAndInvalidateAll c s)
    | 4 => after s (execCleanRange c s)
    | 5 => after s (execInvalidateRange c s)
    | 6 => after s (execCleanAndInvalidateRange c s)
    | _ => raise s (cacheCmdRefused k)

/-- The Curtain's control (R259, R262): EN set enables it and EN clear takes it away, unless locked; LOCK locks it. -/
def curtainWrite (s : State) (o : Fin 3) (d : Nat) : State :=
  let s :=
    if curtainLocked s o then s
    else if bit d 0 then after s (execCurtainEnable o s)
    else curtainOff s o
  if bit d 4 then after s (execCurtainLock o s) else s

/-- A side transaction named by a write of SIDE_CMD (R244). -/
def sideWrite (s : State) (o : Fin 3) (d : Nat) : State :=
  let len := Fin.ofNat 32 (bits d 8 4)
  let addr := BitVec.ofNat 20 (bits d 31 12)
  match bits d 3 0 with
  | 0 => after s (execAuxNativeWrite o len addr s)
  | 1 => after s (execAuxNativeRead o len addr s)
  | 2 => after s (execI2cOverAuxWrite o len addr s)
  | 3 => after s (execI2cOverAuxRead o len addr s)
  | 4 => after s (execDsiDcsShortWrite o len addr s)
  | 5 => after s (execDsiDcsLongWrite o len addr s)
  | 6 => after s (execDsiGenericWrite o len addr s)
  | 7 => after s (execDsiDcsRead o len addr s)
  | _ => s

/-- The commands of single registers of the global window, by address. -/
def globalCmds (p : Path) (d : Nat) : List (Nat × (State → State)) :=
  let w := BitVec.ofNat 32 d
  let one := fun (f : State → Host.Outcome State Fault Refusal) (s : State) => if bit d 0 then after s (f s) else s
  let op := fun (l : List (Nat × (State → Host.Outcome State Fault Refusal))) (hi : Nat) (s : State) =>
    match l.lookup (bits d hi 0) with
    | some f => after s (f s)
    | none => s
  [(R.RST_WDOG_KICK, fun s => after s (execWdogKick p w s)),
    (R.RST_FW_REQ, fun s => after s (execRstFwReq p w s)),
    (R.RST_START_OK, one (execStartOk p none)),
    (R.RST_SDIO_FULL_RESET, fun s => if p = .f1 then after s (execSdioFullReset w false s) else s),
    (R.CLK_RESTORE, one execClkRestore),
    (R.PWR_OP_REQ, fun s => after s (execPwrOpReqWrite (BitVec.ofNat 3 d) s)),
    (R.PWR_STATE_REQ, fun s => if p = .f1 then op [(4, execPwrWakeReq)] 2 s else s),
    (R.PWR_VOTE_MASK, evalPoint),
    (R.SEC_IMG_CMD, op [(1, execFetchHost), (2, execStartF2), (3, execVerifyF2)] 1),
    (R.SEC_FUSE_CMD, op [(2, execFuseRead)] 1),
    (R.SEC_FUSE_LOCK, one execFuseLock),
    (R.SHOW_CTRL, fun s =>
      if bit d 0 then (if fbit s F.SHOW_CTRL.FREEZE then s else after s (execShowFreeze s))
      else if fbit s F.SHOW_CTRL.FREEZE then after s (execShowThaw s) else s),
    (R.SHOW_CMD, op [(1, execShowLoad), (2, execShowErase)] 1),
    (R.LOFT_CTRL, one execCarveLock),
    (R.LOFT_CACHE_CTRL, fun s => cacheWrite s .loft true d),
    (R.LOFT_CACHE_CMD, fun s => cacheWrite s .loft false d),
    (R.LOFT_FAB_STALL_LIMIT, fun s => after s (execStallLimitWrite (BitVec.ofNat 16 d) s)),
    (R.XLAT_TAG_CMD, op [(1, execTagWrite), (2, execTagRead)] 1),
    (R.SMGR_SC_COMMIT, one execScCommit),
    (R.PIT_CLK_CMD, one execPitClkRestore),
    (R.UL_CMD, fun s => (onesOf 3 d).foldl (fun s n => after s (execRetrain (Fin.ofNat 3 n) s)) s),
    (R.UL_RACC_CMD, op [(1, execRaccRead), (2, execRaccWrite), (3, execRaccReset)] 1)]

/-- The commands of registers that the global window holds several of. -/
def indexedCmd (s : State) (a d : Nat) : State :=
  let fn := fun (base : Nat) => instOf a base 16 32
  let w := BitVec.ofNat 32 d
  let range := fun (r : RangeReg) (n : Nat) => after s (execFnRangeWrite r (Fin.ofNat 32 n) w s)
  if inRange a 0x200000 0x110000 then
    let c := CacheId.l1 (Fin.ofNat 17 ((a - 0x200000) / 0x10000))
    if a % 0x10000 = 0x40 then cacheWrite s c true d else if a % 0x10000 = 0x44 then cacheWrite s c false d else s
  else if inRange a 0x480000 0x300 then
    let o := Fin.ofNat 3 ((a - 0x480000) / 0x100)
    if a = R.PROSC_DO_CFG o then after s (execOutputEnable o (bit d 0) s)
    else if a = R.PROSC_DO_CURTAIN_CTRL o then curtainWrite s o d
    else if a = R.PROSC_DO_CURTAIN_FLIP o then (if bit d 0 then after s (execCurtainFlip o s) else s)
    else if a = R.PROSC_DO_SIDE_CMD o then sideWrite s o d
    else s
  else if inRange a 0x500000 0x8000 then
    match instOf a (R.PIT_SAP_CFG 0) 0x10 4, instOf a (R.PIT_S_CMD 0) 0x100 32 with
    | some p, _ => after s (execSapCfgWrite (Fin.ofNat 4 p) w s)
    | none, some n =>
      let n := Fin.ofNat 32 n
      let s := if bit d 0 then after s (execStreamArm n s) else s
      if bit d 1 then after s (execStreamDisarm n s) else s
    | none, none => s
  else match instOf a (R.UL_ER_CFG 0) 0x20 256, instOf a (R.PDESK_FN_PART_MASK 0) 4 32 with
    | some n, _ =>
      let n := Fin.ofNat 256 n
      after s (if bit d 0 then execEntryRingEnable n s else execEntryRingDisable n s)
    | none, some f => range .partMask f
    | none, none =>
      match fn (R.PDESK_FN_CTX_RANGE 0), fn (R.PDESK_FN_FENCE_BASE 0), fn (R.PDESK_FN_FENCE_COUNT 0),
          fn (R.PDESK_FN_SEM_RANGE 0) with
      | some f, _, _, _ => range .ctxRange f
      | _, some f, _, _ => range .fenceBase f
      | _, _, some f, _ => range .fenceCount f
      | _, _, _, some f => range .semRange f
      | none, none, none, none => s

/-- The commands of a BAR0 page that need nothing from outside the device. ENABLE, RING_RESUME and ABORT of a ring read host
memory, and are made by the commands of their own rows. -/
def pageCmd (s : State) (fn : Fin 32) (off d : Nat) : State :=
  let w := BitVec.ofNat 32 d
  let op := fun (l : List (Nat × (State → Host.Outcome State Fault Refusal))) (hi : Nat) (other : State) =>
    match l.lookup (bits d hi 0) with
    | some f => after s (f s)
    | none => other
  match off with
  | 0x42C => op [(1, execAttReport fn), (2, execAttAliasCert fn), (3, execAttIdentityCert fn)] 1 s
  | 0x484 => if bit d 0 then after s (execMrExtend fn s) else s
  | 0x1020 =>
    if bits d 2 0 = 2 then after s (execRingDisable fn s)
    else if [1, 3, 4].contains (bits d 2 0) then s else ringRefuse s (selRing s fn)
  | 0x1208 => op [(1, execCtxCreate fn), (2, execCtxDestroy fn)] 1 (ctxRefuse s fn)
  | 0x1258 =>
    op [(1, execFenceAlloc fn), (2, execFenceSignal fn), (3, execFenceError fn), (4, execFenceFree fn)] 2 (fenceRefuse s fn)
  | 0x1288 => op [(1, execSemAlloc fn), (2, execSemFree fn)] 1 (semRefuse s fn)
  | 0x1300 => after s (execCtxShareWrite fn w s)
  | 0x1354 => if bit d 0 then after s (execXlatInvCmd fn s) else s
  | 0x3000 => after s (execPwrVoteWrite fn (BitVec.ofNat 3 d) (BitVec.ofNat 3 (d / 16)) s)
  | 0xF000 => after s (execRingBell fn w none s)
  | _ => s

/-- WAKE_N is low until GR_HIT is cleared (R445). -/
def wakeHigh (s : State) : State :=
  if s.pwr.wakeLow && !fbit s F.PWR_STATUS.GR_HIT then send (modPwr s fun p => { p with wakeLow := false }) (.wake false) else s

/-- What a write brings about beside the fields it stores: the F1 interrupt (R475) and WAKE_N (R445) that follow their flags,
a command of the register's own, the down of a link port that is disabled (R392) or the training of one that is enabled
(R389); firmware's version (R533). -/
def writeEffect (s : State) (p : Path) (a d : Nat) (was : Nat) : State :=
  if isPage a then
    let fn := Fin.ofNat 32 (pageFn a)
    let off := pageOff a
    if inRange off 0x1004 0x1C ∨ off = 0x102C then ringWrite s fn off d
    else if inRange off 0x2800 0x400 then msixWrite s fn off d
    else pageCmd s fn off d
  else if a = R.CHIP_FW_VERSION then wrN s a d
  else if a = R.RST_EVENT ∨ a = R.RST_SDIO_IRQ_EN then showIrq s
  else if a = R.RST_MBOX_CTRL then showIrq (if bit d 0 && !fromStagehand p then after s (execMboxInPost s) else s)
  else if a = R.PWR_STATUS then wakeHigh s
  else match (upTo 3).find? fun n => a == R.UL_P_CFG n with
    | some n => if bit was 0 && !bit d 0 then portGone s n else trainPorts s
    | none =>
      match (globalCmds p d).find? fun c => c.1 == a with
      | some c => c.2 s
      | none => indexedCmd s a d

/-- Write one register word. SIDE_CMD is written by its own command. -/
def writeWord (s : State) (p : Path) (a d : Nat) : State :=
  let was := rdN s a
  let side := (upTo 3).any fun o => a == R.PROSC_DO_SIDE_CMD o
  writeEffect (if side then s else storeReg s a d) p a d was

/-- A write over a path (R16): a _LO half is held until its _HI half is written, when both take effect. -/
def writeReg (s : State) (p : Path) (a d : Nat) : State :=
  match writeBarred s p a d with
  | some t => t
  | none =>
    if isPage a ∧ pageOff a = 0x1344 then after s (execCtxRootWrite (Fin.ofNat 32 (pageFn a)) (BitVec.ofNat 32 d) s)
    else if isLo a then
      let k := loKey (pathNum p) a
      { s with loHeld := (k, BitVec.ofNat 32 d) :: s.loHeld.filter (·.1 != k) }
    else if isHi a then
      match s.loHeld.lookup (loKey (pathNum p) (a - 4)) with
      | none => writeWord s p a d
      | some lo => writeWord (writeWord (takeLo s (pathNum p) (a - 4) 0).2 p (a - 4) lo.toNat) p a d
    else writeWord s p a d

/-! ## What an access meets (R531) -/

/-- The switched domain of a register, by its block (R528); AON and the control region have none. -/
def domainOf (a : Nat) : Option Nat :=
  if isPage a then none
  else if inRange a 0x80000 0x40000 then some 17
  else if inRange a 0x200000 0x110000 then some ((a - 0x200000) / 0x10000)
  else if inRange a 0x400000 0x80000 then some 21
  else if inRange a 0x480000 0x80000 then some 22
  else if inRange a 0x500000 0x80000 then some dPit
  else if inRange a 0x580000 0x80000 then some dLink
  else if inRange a 0x600000 0x80000 then some dXfer
  else if inRange a 0x680000 0x80000 then some dMemc
  else none

/-- Whether House Lights keeps a register's block powered (R472): AON with the security engine, and the Loft. -/
def litInHouse (a : Nat) : Bool := decide (a < 0xC0000)

/-- What an access meets (R531): it reads 0 and is ignored, it waits for a wake, or it is performed. -/
def meets (s : State) (a : Nat) : Meets :=
  if bootState s = bLights ∧ !litInHouse a then .nothing s
  else match domainOf a with
    | none => .register
    | some d => meetsDom s d

/-! ## One access -/

/-- The request that the head sent over the link, when it has arrived: its sender, operation, offset and data (R416). -/
def raccArrived (s : State) : Option (List Nat × Nat × Nat × Nat) :=
  s.link.arrived.findSome? fun p => match p with
    | .raccReq _ src op off v => some (src, op, off, v)
    | _ => none

/-- The head's request leaves the arrived packets, and its answer is queued. -/
def raccAnswer (s : State) (v : Nat) : State :=
  match takeArrived s fun p => match p with | .raccReq _ src .. => some src | _ => none with
  | none => s
  | some (s, src) => queuePkt s 8 (.raccResp src (me s) v)

/-- The address an access reaches, and its data, whether it writes and its size: for a request over the link, those of the
packet. -/
def accWhat (s : State) (x : RegAccess) : Option (Nat × Nat × Bool × Nat) :=
  match x.path with
  | .racc => (raccArrived s).map fun q => (q.2.2.1 % 2 ^ 24, q.2.2.2 % 2 ^ 32, q.2.1 == 2, 4)
  | .bar0 f =>
    let off := x.off.toNat
    some (if off < 0x10000 then regAddr (.bar0 f) off else 0xFFFFFF, x.data.toNat, x.write, x.size)
  | p => some (regAddr p x.off.toNat, x.data.toNat, x.write, x.size)

/-- The answer to a read over SDIO (R475): a CMD52 read of byte 0 latches the word and answers that byte; any other answers
the word. -/
def sdioAnswer (s : State) (g v : Nat) : State :=
  if s.sdio.latchFor = some g then
    send { s with sdio := { s.sdio with latch := some (g, v), latchFor := none } } (.sdioResp (v % 256))
  else send s (.sdioResp v)

/-- The result of a read is on the bus, in the answer to the head, or in the response to the board controller. -/
def giveBack (s : State) (x : RegAccess) (v : Nat) : State :=
  match x.path with
  | .racc => raccAnswer s v
  | .f1 => if x.write then s else sdioAnswer { s with bus := BitVec.ofNat 64 v } x.off.toNat v
  | _ => if x.write then s else { s with bus := BitVec.ofNat 64 v }

/-- Whether an access is of a size and alignment that registers take (R15): 32 bits, or 64 in the MSI-X table and its pending
bits (R526). -/
def wordSized (a size : Nat) : Bool := size == 4 && a % 4 == 0
def msixWide (a size : Nat) : Bool :=
  size == 8 && a % 8 == 0 && isPage a && (inRange (pageOff a) 0x2800 0x400 || inRange (pageOff a) 0x2C00 8)

/-- Perform an access on its register. -/
def performAcc (s : State) (x : RegAccess) : State :=
  match accWhat s x with
  | none => s
  | some (a, d, write, size) =>
    if wordSized a size then
      if write then giveBack (setFlags (writeReg s x.path a (d % 2 ^ 32)) a x.hwSet.toNat) x 0
      else let r := readReg s x.path a; giveBack r.1 x r.2
    else if msixWide a size then
      if write then writeReg (writeReg s x.path a (d % 2 ^ 32)) x.path (a + 4) (d / 2 ^ 32)
      else
        let lo := readNow s a
        let hi := readNow lo.1 (a + 4)
        giveBack hi.1 x (lo.2 + 2 ^ 32 * hi.2)
    else giveBack s x 0

/-- An access arrives (R531). -/
def access (s : State) (x : RegAccess) : State :=
  match accWhat s x with
  | none => s
  | some (a, _, _, _) =>
    match meets s a with
    | .nothing s => giveBack s x 0
    | .wake s => { s with waitAcc := s.waitAcc ++ [x] }
    | .register => performAcc s x

/-- REGISTER_WRITE (R15 to R20, R268, R434, R465, R527 to R531): a register access over one of the five paths.
An access over F1 is a command on the SDIO bus, a wake event (R440). -/
def execRegisterWrite (a : RegAccess) (s : State) : Host.Outcome State Fault Refusal :=
  .next (access (if a.path = .f1 then wakeEvent s else s) a)

/-- Whether a waiting access waits for a domain. -/
def waitsFor (s : State) (d : Nat) (x : RegAccess) : Bool :=
  match accWhat s x with
  | some (a, _, _, _) => domainOf a == some d
  | none => false

/-- DOMAIN_WAKE_DONE (R434): the domain is up, and the accesses that waited for it are performed in order. -/
def execDomainWakeDone (d : Fin 28) (s : State) : Host.Outcome State Fault Refusal :=
  if !bit s.pwr.waking d then .next s
  else
    let s := modPwr s fun p => { p with waking := putBits p.waking d d 0 }
    let s := memcUp (setDom s d true) d true
    let due := s.waitAcc.filter (waitsFor s d)
    .next (due.foldl performAcc { s with waitAcc := s.waitAcc.filter (!waitsFor s d ·) })

end Sys2Proof.Machine
end

