-- ==== Sys2Proof/Machine/Sdio.lean ====
section
/-! DEFINITION. The SDIO management port (spec/15_reset_boot_security.md R474 to R476, spec/18_register_map.md R532): the
card's states, accesses over functions 0 to 2 by CMD52 and CMD53, and the image bytes of F2. -/

namespace Sys2Proof.Machine

open Sys2Proof

def modSdio (s : State) (f : SdioSt → SdioSt) : State := { s with sdio := f s.sdio }

/-- A response goes out. -/
def respond (s : State) (v : Nat) : State := send s (.sdioResp v)

/-- A response whose contents SDIO 3.0 defines, and the spec does not state. -/
def respondFree (s : State) : State := respond (useFree s) (freeVal s)

/-! ## Card states (R474) -/

/-- SDIO_CMD0 (R440, R474): the card is idle. -/
def execSdioCmd0 (s : State) : Host.Outcome State Fault Refusal :=
  .next (modSdio (wakeEvent s) fun c => if c.card = .inactive then c else { c with card := .idle, rca := 0 })

/-- SDIO_CMD5 (R440, R474): the operating conditions: two I/O functions, no memory, and S18A with VDD_SDIO at 1.8 V. The
places of the bits are those of SDIO 3.0. -/
def execSdioCmd5 (v18 : Bool) (s : State) : Host.Outcome State Fault Refusal :=
  let s := wakeEvent s
  if s.sdio.card = .inactive then .next s
  else
    .next (respond (modSdio s fun c => { c with card := .ready })
      (2 ^ 31 + 2 * 2 ^ 28 + 2 ^ 24 * b2n v18 + Config.sdioOcr v18 % 2 ^ 24))

/-- SDIO_CMD3 (R440, R474): the card takes a relative address, which the spec leaves to it, and answers it. -/
def execSdioCmd3 (s : State) : Host.Outcome State Fault Refusal :=
  let s := wakeEvent s
  match s.sdio.card with
  | .ready | .standby =>
    let rca := freeVal s % 2 ^ 16
    .next (respond (modSdio (useFree s) fun c => { c with card := .standby, rca := rca }) (2 ^ 16 * rca))
  | .idle | .selected | .inactive => .next s

/-- SDIO_CMD7 (R440, R474): the card is selected by its relative address, and deselected by any other. -/
def execSdioCmd7 (rca : BitVec 16) (s : State) : Host.Outcome State Fault Refusal :=
  let s := wakeEvent s
  match s.sdio.card, decide (s.sdio.rca = rca.toNat) with
  | .standby, true => .next (respondFree (modSdio s fun c => { c with card := .selected }))
  | .selected, false => .next (modSdio s fun c => { c with card := .standby })
  | _, _ => .next s

/-- SDIO_CMD11 (R440, R474): with VDD_SDIO at 1.8 V the voltage switch completes, and no level changes. -/
def execSdioCmd11 (v18 : Bool) (s : State) : Host.Outcome State Fault Refusal :=
  let s := wakeEvent s
  if v18 ∧ s.sdio.card = .ready then .next (respondFree (modSdio s fun c => { c with volt := true })) else .next s

/-- SDIO_CMD15 (R440, R474): the addressed card becomes inactive. -/
def execSdioCmd15 (rca : BitVec 16) (s : State) : Host.Outcome State Fault Refusal :=
  let s := wakeEvent s
  if (s.sdio.card = .standby ∨ s.sdio.card = .selected) ∧ s.sdio.rca = rca.toNat then
    .next (modSdio s fun c => { c with card := .inactive })
  else .next s

/-- SDIO_CMD19 (R440, R474): the port is tuned for SDR50 and SDR104, which run at 1.8 V only. -/
def execSdioCmd19 (s : State) : Host.Outcome State Fault Refusal :=
  let s := wakeEvent s
  if s.sdio.card = .selected then .next (respondFree (modSdio s fun c => { c with tuned := true })) else .next s

/-! ## Functions 0 and 1 (R475, R532) -/

/-- CCCR bytes: F1_PAGE and the byte that holds RES. The place of RES is that of SDIO 3.0. -/
abbrev ccPage : Nat := 0xF0
abbrev ccRes : Nat := 6

/-- The global offset that an F1 address reaches. -/
def f1Offset (s : State) (addr : Nat) : Nat := s.sdio.page * 0x20000 + addr

/-- Read or write the word at a global offset over F1. -/
def f1Read (s : State) (g : Nat) : State := access s ⟨.f1, BitVec.ofNat 24 g, 4, false, 0, 0⟩
def f1Write (s : State) (g v : Nat) : State := access s ⟨.f1, BitVec.ofNat 24 g, 4, true, BitVec.ofNat 64 v, 0⟩

/-- The address of a function's card information structure, in the area that SDIO 3.0 keeps for them. -/
def cisBase (func : Nat) : Nat := 0x1000 + Config.sdioCis func % 0x16000

/-- Byte `k` of a function's card information structure at `addr` (R474): the common one gives the manufacturer and card
codes of IDENT, those of functions 1 and 2 a block size of up to 512 bytes. The tuples are those of SDIO 3.0 (PRESUMED, log
42). -/
def cisByte (s : State) (func k addr : Nat) : Option Nat :=
  if func = 0 then ([0x20, 4] ++ (leBytes 4 s.boot.shadow.cards).map (·.toNat) ++ [0xFF])[k]?
  else if k ≤ 44 then
    some (([(0, 0x22), (1, 0x2A), (2, 1), (14, 0), (15, 2), (44, 0xFF)].lookup k).getD (Config.sdioCccr addr % 256))
  else none

/-- The byte of a card information structure at an address, if one lies there. -/
def cisAt (s : State) (addr : Nat) : Option Nat :=
  (upTo 3).findSome? fun f => if cisBase f ≤ addr then cisByte s f (addr - cisBase f) addr else none

/-- A byte of function 0 as read (R474, R475): F1_PAGE, the card information structures and their pointers, function
interface codes 0x00, and bytes the spec leaves to SDIO 3.0. -/
def f0Byte (s : State) (addr : Nat) : Nat :=
  if addr = ccPage then s.sdio.page
  else match cisAt s addr with
    | some v => v
    | none =>
      let f := addr / 0x100
      let k := addr % 0x100
      if f < 3 ∧ inRange k 9 3 then cisBase f / 2 ^ (8 * (k - 9)) % 256
      else if (f = 1 ∨ f = 2) ∧ k = 0 then Config.sdioCccr addr % 256 / 16 * 16
      else if (f = 1 ∨ f = 2) ∧ k = 1 then 0
      else Config.sdioCccr addr % 256

/-- SDIO_CMD52_READ (R474, R475): byte 0 of a word is read with its word, which is latched; another byte is of the latch, if
that holds its word. -/
def execSdioCmd52Read (func : Fin 3) (addr : BitVec 17) (s : State) : Host.Outcome State Fault Refusal :=
  let s := wakeEvent s
  if s.sdio.card ≠ .selected then .next s
  else match func with
    | 0 => .next (respond s (f0Byte s addr.toNat))
    | 1 =>
      let a := f1Offset s addr.toNat
      let g := a / 4 * 4
      if a % 4 = 0 then .next (f1Read (modSdio s fun c => { c with latchFor := some g }) g)
      else match s.sdio.latch with
        | some (h, v) => .next (respond s (if h = g then v / 2 ^ (8 * (a % 4)) % 256 else 0))
        | none => .next (respond s 0)
    | 2 => .next (respond s 0)

/-- The bytes held with a word once byte `k` is `v`. -/
def holdByte (held : Option (Nat × List (Nat × Nat))) (g k v : Nat) : Nat × List (Nat × Nat) :=
  match held with
  | some (h, bs) => (g, (k, v) :: (if h = g then bs.filter (·.1 != k) else []))
  | none => (g, [(k, v)])

/-- The low three bytes of a word, if all are held for it. -/
def heldLow (held : Option (Nat × List (Nat × Nat))) (g : Nat) : Option Nat :=
  match held with
  | some (h, bs) =>
    if h ≠ g then none
    else match bs.lookup 0, bs.lookup 1, bs.lookup 2 with
      | some x, some y, some z => some (x + 2 ^ 8 * y + 2 ^ 16 * z)
      | _, _, _ => none
  | none => none

/-- SDIO_CMD52_WRITE (R461, R474, R475): bytes 0 to 2 of a word are held, byte 3 commits them or discards them; function 0
holds F1_PAGE and RES. -/
def execSdioCmd52Write (func : Fin 3) (addr : BitVec 17) (data : Byte) (s : State) : Host.Outcome State Fault Refusal :=
  if func = 0 ∧ addr.toNat = ccRes ∧ bit data.toNat 3 then execSdioCccrRes false s
  else
    let s := wakeEvent s
    if s.sdio.card ≠ .selected then .next s
    else match func with
      | 0 => .next (if addr.toNat = ccPage then modSdio s fun c => { c with page := data.toNat % 128 } else s)
      | 1 =>
        let a := f1Offset s addr.toNat
        let g := a / 4 * 4
        if a % 4 < 3 then .next (modSdio s fun c => { c with held := some (holdByte c.held g (a % 4) data.toNat) })
        else
          let t := modSdio s fun c => { c with held := none }
          match heldLow s.sdio.held g with
          | some low => .next (f1Write t g (low + 2 ^ 24 * data.toNat))
          | none => .next t
      | 2 => .next s

/-- Whether a CMD53 accesses whole words of F1 (R475). -/
def wholeWords (addr n : Nat) (incr : Bool) : Bool := incr && addr % 4 == 0 && n % 4 == 0

/-- SDIO_CMD53_READ (R474 to R476): whole words of F1 in order; anything else of F1, and F2, reads 0. -/
def execSdioCmd53Read (func : Fin 3) (addr : BitVec 17) (incr : Bool) (count : BitVec 18) (s : State) :
    Host.Outcome State Fault Refusal :=
  let s := wakeEvent s
  let n := count.toNat
  let a := addr.toNat
  if s.sdio.card ≠ .selected then .next s
  else match func with
    | 0 => .next ((upTo n).foldl (fun t k => respond t (f0Byte s (if incr then a + k else a))) s)
    | 1 =>
      if wholeWords a n incr then
        .next ((upTo (n / 4)).foldl (fun t k => f1Read t (f1Offset s ((a + 4 * k) % 0x20000))) s)
      else .next ((upTo n).foldl (fun t _ => respond t 0) s)
    | 2 => .next ((upTo n).foldl (fun t _ => respond t 0) s)

/-- SDIO_CMD53_WRITE (R474, R475): whole words of F1 in order; any other write is ignored. -/
def execSdioCmd53Write (addr : BitVec 17) (incr : Bool) (data : List Byte) (s : State) : Host.Outcome State Fault Refusal :=
  let s := wakeEvent s
  let a := addr.toNat
  if s.sdio.card ≠ .selected ∨ !wholeWords a data.length incr then .next s
  else
    .next ((upTo (data.length / 4)).foldl (fun t k => f1Write t (f1Offset s ((a + 4 * k) % 0x20000)) (field data (4 * k) 4)) s)

/-! ## F2 (R476) -/

/-- The most bytes of an image that F2 takes. -/
abbrev f2Max : Nat := 2127072

/-- SDIO_F2_WRITE (R474, R476): after START_F2, bytes written to address 0 in fixed-address mode are appended to the staging
area; other bytes are discarded and set F2_OVERFLOW. -/
def execSdioF2Write (addr : BitVec 17) (incr : Bool) (data : List Byte) (s : State) : Host.Outcome State Fault Refusal :=
  let s := wakeEvent s
  if s.sdio.card ≠ .selected ∨ addr ≠ 0 ∨ incr then .next s
  else
    let n := fget s F.SEC_F2_COUNT.COUNT
    let took := if s.boot.f2 then data.take (f2Max - n) else []
    let t := if s.boot.f2 then fset (memWrite s n took) F.SEC_F2_COUNT.COUNT (n + took.length) else s
    .next (if took.length < data.length then raise t E.SEC_EVENT.F2_OVERFLOW else t)

end Sys2Proof.Machine
end

