-- ==== Sys2Proof/Machine/Dispatch.lean ====
section
/-! DEFINITION. The one dispatch of commands to their meanings: one arm for each constructor of `Instr`. -/

namespace Sys2Proof.Machine

open Sys2Proof

def exec (i : Instr) (s : State) : Host.Outcome State Fault Refusal :=
  match i with
  | .registerWrite a => Sys2Proof.Machine.execRegisterWrite a s
  | .stallDeclared r => Sys2Proof.Machine.execStallDeclared r s
  | .stallLimitWrite limit => Sys2Proof.Machine.execStallLimitWrite limit s
  | .rateWindowEnd r beats => Sys2Proof.Machine.execRateWindowEnd r beats s
  | .carveLock => Sys2Proof.Machine.execCarveLock s
  | .loftBankGrant b acc ecc tagBad => Sys2Proof.Machine.execLoftBankGrant b acc ecc tagBad s
  | .loftReqPromote b => Sys2Proof.Machine.execLoftReqPromote b s
  | .scrubStep found => Sys2Proof.Machine.execScrubStep found s
  | .cacheEnable c => Sys2Proof.Machine.execCacheEnable c s
  | .cacheDisable c => Sys2Proof.Machine.execCacheDisable c s
  | .cacheDisableDone c => Sys2Proof.Machine.execCacheDisableDone c s
  | .cacheModeSet c mode => Sys2Proof.Machine.execCacheModeSet c mode s
  | .invalidateAll c => Sys2Proof.Machine.execInvalidateAll c s
  | .cleanAll c => Sys2Proof.Machine.execCleanAll c s
  | .cleanAndInvalidateAll c => Sys2Proof.Machine.execCleanAndInvalidateAll c s
  | .cleanRange c => Sys2Proof.Machine.execCleanRange c s
  | .invalidateRange c => Sys2Proof.Machine.execInvalidateRange c s
  | .cleanAndInvalidateRange c => Sys2Proof.Machine.execCleanAndInvalidateRange c s
  | .cacheCmdDone c => Sys2Proof.Machine.execCacheCmdDone c s
  | .cacheAccess c tagBad => Sys2Proof.Machine.execCacheAccess c tagBad s
  | .cacheFill c => Sys2Proof.Machine.execCacheFill c s
  | .prefetchFill c => Sys2Proof.Machine.execPrefetchFill c s
  | .workgroupPlace c src => Sys2Proof.Machine.execWorkgroupPlace c src s
  | .ctrlBranch ins => Sys2Proof.Machine.execCtrlBranch ins s
  | .parkTimeout c slot lane => Sys2Proof.Machine.execParkTimeout c slot lane s
  | .ctrlCall ins => Sys2Proof.Machine.execCtrlCall ins s
  | .ctrlReturn ins => Sys2Proof.Machine.execCtrlReturn ins s
  | .ctrlNop ins => Sys2Proof.Machine.execCtrlNop ins s
  | .exit ins => Sys2Proof.Machine.execExit ins s
  | .ialu ins => Sys2Proof.Machine.execIalu ins s
  | .falu ins => Sys2Proof.Machine.execFalu ins s
  | .cvt ins => Sys2Proof.Machine.execCvt ins s
  | .xfn ins => Sys2Proof.Machine.execXfn ins s
  | .cmp ins => Sys2Proof.Machine.execCmp ins s
  | .sys ins => Sys2Proof.Machine.execSys ins s
  | .movi ins => Sys2Proof.Machine.execMovi ins s
  | .loadL ins => Sys2Proof.Machine.execLoadL ins s
  | .storeL ins => Sys2Proof.Machine.execStoreL ins s
  | .loadC ins => Sys2Proof.Machine.execLoadC ins s
  | .storeC ins => Sys2Proof.Machine.execStoreC ins s
  | .loadCu ins => Sys2Proof.Machine.execLoadCu ins s
  | .lineZero ins => Sys2Proof.Machine.execLineZero ins s
  | .lineHint ins => Sys2Proof.Machine.execLineHint ins s
  | .rmwAdd ins => Sys2Proof.Machine.execRmwAdd ins s
  | .rmwSmin ins => Sys2Proof.Machine.execRmwSmin ins s
  | .rmwSmax ins => Sys2Proof.Machine.execRmwSmax ins s
  | .rmwUmin ins => Sys2Proof.Machine.execRmwUmin ins s
  | .rmwUmax ins => Sys2Proof.Machine.execRmwUmax ins s
  | .rmwAnd ins => Sys2Proof.Machine.execRmwAnd ins s
  | .rmwOr ins => Sys2Proof.Machine.execRmwOr ins s
  | .rmwXor ins => Sys2Proof.Machine.execRmwXor ins s
  | .rmwSwap ins => Sys2Proof.Machine.execRmwSwap ins s
  | .rmwCmpswap ins => Sys2Proof.Machine.execRmwCmpswap ins s
  | .rmwFadd ins => Sys2Proof.Machine.execRmwFadd ins s
  | .memoryResponse c slot host => Sys2Proof.Machine.execMemoryResponse c slot host s
  | .barWait ins => Sys2Proof.Machine.execBarWait ins s
  | .barPass ins => Sys2Proof.Machine.execBarPass ins s
  | .fence ins => Sys2Proof.Machine.execFence ins s
  | .mregionBegin ins => Sys2Proof.Machine.execMregionBegin ins s
  | .mregionEnd ins => Sys2Proof.Machine.execMregionEnd ins s
  | .gmac ins => Sys2Proof.Machine.execGmac ins s
  | .gmacZ ins => Sys2Proof.Machine.execGmacZ ins s
  | .laneGet ins => Sys2Proof.Machine.execLaneGet ins s
  | .laneRot ins => Sys2Proof.Machine.execLaneRot ins s
  | .lanePair ins => Sys2Proof.Machine.execLanePair ins s
  | .laneLead ins => Sys2Proof.Machine.execLaneLead ins s
  | .pollEvery ins => Sys2Proof.Machine.execPollEvery ins s
  | .pollSome ins => Sys2Proof.Machine.execPollSome ins s
  | .pollMask ins => Sys2Proof.Machine.execPollMask ins s
  | .pollCount ins => Sys2Proof.Machine.execPollCount ins s
  | .foldAdd ins => Sys2Proof.Machine.execFoldAdd ins s
  | .foldMin ins => Sys2Proof.Machine.execFoldMin ins s
  | .foldMax ins => Sys2Proof.Machine.execFoldMax ins s
  | .foldRun ins => Sys2Proof.Machine.execFoldRun ins s
  | .barrierDeadlock c slot => Sys2Proof.Machine.execBarrierDeadlock c slot s
  | .coreFaultStopped c => Sys2Proof.Machine.execCoreFaultStopped c s
  | .tensorGemm c src => Sys2Proof.Machine.execTensorGemm c src s
  | .tensorConv1dCausal c src => Sys2Proof.Machine.execTensorConv1dCausal c src s
  | .tensorRecur c src => Sys2Proof.Machine.execTensorRecur c src s
  | .tensorScan c src => Sys2Proof.Machine.execTensorScan c src s
  | .tensorRoute c src => Sys2Proof.Machine.execTensorRoute c src s
  | .tileStart c => Sys2Proof.Machine.execTileStart c s
  | .prompterFetch c => Sys2Proof.Machine.execPrompterFetch c s
  | .prompterPrefetchNext c => Sys2Proof.Machine.execPrompterPrefetchNext c s
  | .tileFinish c beats wait extra dup => Sys2Proof.Machine.execTileFinish c beats wait extra dup s
  | .routePairHandover c beats => Sys2Proof.Machine.execRoutePairHandover c beats s
  | .routeComplete c => Sys2Proof.Machine.execRouteComplete c s
  | .tensorOpComplete c => Sys2Proof.Machine.execTensorOpComplete c s
  | .tensorAbort src beats extra dup => Sys2Proof.Machine.execTensorAbort src beats extra dup s
  | .tensorResume cores ecc => Sys2Proof.Machine.execTensorResume cores ecc s
  | .frameStart p ins => Sys2Proof.Machine.execFrameStart p ins s
  | .sapCfgWrite p v => Sys2Proof.Machine.execSapCfgWrite p v s
  | .csiPacket c pkt => Sys2Proof.Machine.execCsiPacket c pkt s
  | .chainHeadIssue n => Sys2Proof.Machine.execChainHeadIssue n s
  | .blockDeadline n => Sys2Proof.Machine.execBlockDeadline n s
  | .chainComplete n beats => Sys2Proof.Machine.execChainComplete n beats s
  | .outputPoint n => Sys2Proof.Machine.execOutputPoint n s
  | .streamArm n => Sys2Proof.Machine.execStreamArm n s
  | .streamDisarm n => Sys2Proof.Machine.execStreamDisarm n s
  | .forcedDisarmDone n => Sys2Proof.Machine.execForcedDisarmDone n s
  | .xtalWindowEnd x edges => Sys2Proof.Machine.execXtalWindowEnd x edges s
  | .loopLocked n => Sys2Proof.Machine.execLoopLocked n s
  | .pitClkRestore => Sys2Proof.Machine.execPitClkRestore s
  | .wordClockLost p => Sys2Proof.Machine.execWordClockLost p s
  | .rasterPassStart src => Sys2Proof.Machine.execRasterPassStart src s
  | .drawFetch => Sys2Proof.Machine.execDrawFetch s
  | .vertexBatchLaunch c => Sys2Proof.Machine.execVertexBatchLaunch c s
  | .vertexBatchDone => Sys2Proof.Machine.execVertexBatchDone s
  | .partialRenderDone extra dup => Sys2Proof.Machine.execPartialRenderDone extra dup s
  | .tilePhaseTile => Sys2Proof.Machine.execTilePhaseTile s
  | .fragmentGroupLaunch c => Sys2Proof.Machine.execFragmentGroupLaunch c s
  | .fragmentGroupDone => Sys2Proof.Machine.execFragmentGroupDone s
  | .tileWriteOut => Sys2Proof.Machine.execTileWriteOut s
  | .rasterPassEnd extra dup => Sys2Proof.Machine.execRasterPassEnd extra dup s
  | .rasterYield => Sys2Proof.Machine.execRasterYield s
  | .rasterResume ecc => Sys2Proof.Machine.execRasterResume ecc s
  | .rasterAbort src extra dup => Sys2Proof.Machine.execRasterAbort src extra dup s
  | .flipIssue src => Sys2Proof.Machine.execFlipIssue src s
  | .latchInstant o => Sys2Proof.Machine.execLatchInstant o s
  | .deadlineNear o => Sys2Proof.Machine.execDeadlineNear o s
  | .scanLine o under bad => Sys2Proof.Machine.execScanLine o under bad s
  | .outputEnable o en => Sys2Proof.Machine.execOutputEnable o en s
  | .curtainEnable o => Sys2Proof.Machine.execCurtainEnable o s
  | .curtainFlip o => Sys2Proof.Machine.execCurtainFlip o s
  | .curtainLock o => Sys2Proof.Machine.execCurtainLock o s
  | .auxNativeWrite o len addr => Sys2Proof.Machine.execAuxNativeWrite o len addr s
  | .auxNativeRead o len addr => Sys2Proof.Machine.execAuxNativeRead o len addr s
  | .i2cOverAuxWrite o len addr => Sys2Proof.Machine.execI2cOverAuxWrite o len addr s
  | .i2cOverAuxRead o len addr => Sys2Proof.Machine.execI2cOverAuxRead o len addr s
  | .dsiDcsShortWrite o len addr => Sys2Proof.Machine.execDsiDcsShortWrite o len addr s
  | .dsiDcsLongWrite o len addr => Sys2Proof.Machine.execDsiDcsLongWrite o len addr s
  | .dsiGenericWrite o len addr => Sys2Proof.Machine.execDsiGenericWrite o len addr s
  | .dsiDcsRead o len addr => Sys2Proof.Machine.execDsiDcsRead o len addr s
  | .sideTransactionDone o result data => Sys2Proof.Machine.execSideTransactionDone o result data s
  | .hpdIrq o level => Sys2Proof.Machine.execHpdIrq o level s
  | .ringEnable fn door wake => Sys2Proof.Machine.execRingEnable fn door wake s
  | .ringDisable fn => Sys2Proof.Machine.execRingDisable fn s
  | .ringResume fn failAt wake => Sys2Proof.Machine.execRingResume fn failAt wake s
  | .ringAbort fn fetched => Sys2Proof.Machine.execRingAbort fn fetched s
  | .ringAbortDone fn r wake => Sys2Proof.Machine.execRingAbortDone fn r wake s
  | .ringDisableDone fn r => Sys2Proof.Machine.execRingDisableDone fn r s
  | .ringBell fn v wake => Sys2Proof.Machine.execRingBell fn v wake s
  | .doorbellPiReadDone fn r door wake => Sys2Proof.Machine.execDoorbellPiReadDone fn r door wake s
  | .cueFetch fn r c => Sys2Proof.Machine.execCueFetch fn r c s
  | .cueNop src => Sys2Proof.Machine.execCueNop src s
  | .cueLaunch src => Sys2Proof.Machine.execCueLaunch src s
  | .cueCopy src => Sys2Proof.Machine.execCueCopy src s
  | .copyChunk src => Sys2Proof.Machine.execCopyChunk src s
  | .copyAbort src => Sys2Proof.Machine.execCopyAbort src s
  | .cueCache src => Sys2Proof.Machine.execCueCache src s
  | .cueWrite src => Sys2Proof.Machine.execCueWrite src s
  | .semAcquire src => Sys2Proof.Machine.execSemAcquire src s
  | .semRelease src => Sys2Proof.Machine.execSemRelease src s
  | .cueComplete src fail => Sys2Proof.Machine.execCueComplete src fail s
  | .followOnRead src => Sys2Proof.Machine.execFollowOnRead src s
  | .consPoll fn r cons failAt wake => Sys2Proof.Machine.execConsPoll fn r cons failAt wake s
  | .fnRangeWrite reg fn v => Sys2Proof.Machine.execFnRangeWrite reg fn v s
  | .ctxCreate fn => Sys2Proof.Machine.execCtxCreate fn s
  | .ctxDestroy fn => Sys2Proof.Machine.execCtxDestroy fn s
  | .ctxDestroyDone cid => Sys2Proof.Machine.execCtxDestroyDone cid s
  | .contextFaultReport => Sys2Proof.Machine.execContextFaultReport s
  | .contextStopDone cid => Sys2Proof.Machine.execContextStopDone cid s
  | .fenceAlloc fn => Sys2Proof.Machine.execFenceAlloc fn s
  | .fenceSignal fn => Sys2Proof.Machine.execFenceSignal fn s
  | .fenceError fn => Sys2Proof.Machine.execFenceError fn s
  | .fenceFree fn => Sys2Proof.Machine.execFenceFree fn s
  | .semAlloc fn => Sys2Proof.Machine.execSemAlloc fn s
  | .semFree fn => Sys2Proof.Machine.execSemFree fn s
  | .ctxShareWrite fn v => Sys2Proof.Machine.execCtxShareWrite fn v s
  | .sliceEnd cid => Sys2Proof.Machine.execSliceEnd cid s
  | .workPlace p => Sys2Proof.Machine.execWorkPlace p s
  | .gangPlace src cores => Sys2Proof.Machine.execGangPlace src cores s
  | .preemptPointReached cid late => Sys2Proof.Machine.execPreemptPointReached cid late s
  | .savePagesReleased p => Sys2Proof.Machine.execSavePagesReleased p s
  | .workResume c ecc => Sys2Proof.Machine.execWorkResume c ecc s
  | .maxBeatsAbort uid held => Sys2Proof.Machine.execMaxBeatsAbort uid held s
  | .regulatorRelease p kind cycles => Sys2Proof.Machine.execRegulatorRelease p kind cycles s
  | .scCommit => Sys2Proof.Machine.execScCommit s
  | .scUnitApply u => Sys2Proof.Machine.execScUnitApply u s
  | .pageWalk cid va kind => Sys2Proof.Machine.execPageWalk cid va kind s
  | .atsTranslationResponse fn page res => Sys2Proof.Machine.execAtsTranslationResponse fn page res s
  | .atsInvalidationRequest fn itag lo size => Sys2Proof.Machine.execAtsInvalidationRequest fn itag lo size s
  | .xlatInvCmd fn => Sys2Proof.Machine.execXlatInvCmd fn s
  | .ctxRootWrite fn hi => Sys2Proof.Machine.execCtxRootWrite fn hi s
  | .invalidationDrained id => Sys2Proof.Machine.execInvalidationDrained id s
  | .revokeTimeout id => Sys2Proof.Machine.execRevokeTimeout id s
  | .tagWrite => Sys2Proof.Machine.execTagWrite s
  | .tagRead => Sys2Proof.Machine.execTagRead s
  | .tagGranuleApply => Sys2Proof.Machine.execTagGranuleApply s
  | .portTrained p kind lanes reversed => Sys2Proof.Machine.execPortTrained p kind lanes reversed s
  | .trainFail p => Sys2Proof.Machine.execTrainFail p s
  | .flitReceive p flit => Sys2Proof.Machine.execFlitReceive p flit s
  | .negativeAck p ack => Sys2Proof.Machine.execNegativeAck p ack s
  | .laneFail p l => Sys2Proof.Machine.execLaneFail p l s
  | .laneErrWindowEnd p errs => Sys2Proof.Machine.execLaneErrWindowEnd p errs s
  | .retrain p => Sys2Proof.Machine.execRetrain p s
  | .addressToken p t own => Sys2Proof.Machine.execAddressToken p t own s
  | .tokenTimeout => Sys2Proof.Machine.execTokenTimeout s
  | .roster q r gap => Sys2Proof.Machine.execRoster q r gap s
  | .topologyUpdate q u p up => Sys2Proof.Machine.execTopologyUpdate q u p up s
  | .linkPacketForward p n cls pkt => Sys2Proof.Machine.execLinkPacketForward p n cls pkt s
  | .peerRequest ecc tagBad => Sys2Proof.Machine.execPeerRequest ecc tagBad s
  | .peerResponse => Sys2Proof.Machine.execPeerResponse s
  | .tokenDeliver => Sys2Proof.Machine.execTokenDeliver s
  | .tokenAck => Sys2Proof.Machine.execTokenAck s
  | .entryRingEnable n => Sys2Proof.Machine.execEntryRingEnable n s
  | .entryRingDisable n => Sys2Proof.Machine.execEntryRingDisable n s
  | .raccRead => Sys2Proof.Machine.execRaccRead s
  | .raccWrite => Sys2Proof.Machine.execRaccWrite s
  | .raccReset => Sys2Proof.Machine.execRaccReset s
  | .raccResponse => Sys2Proof.Machine.execRaccResponse s
  | .raccTimeout => Sys2Proof.Machine.execRaccTimeout s
  | .cueCompress src => Sys2Proof.Machine.execCueCompress src s
  | .cueDecompress src => Sys2Proof.Machine.execCueDecompress src s
  | .compressBlockDone e => Sys2Proof.Machine.execCompressBlockDone e s
  | .decompressBlockDone e => Sys2Proof.Machine.execDecompressBlockDone e s
  | .compressAbort src => Sys2Proof.Machine.execCompressAbort src s
  | .domainWakeDone d => Sys2Proof.Machine.execDomainWakeDone d s
  | .domainGate d => Sys2Proof.Machine.execDomainGate d s
  | .pwrGreenRoomReq link => Sys2Proof.Machine.execPwrGreenRoomReq link s
  | .pwrDarkReq link => Sys2Proof.Machine.execPwrDarkReq link s
  | .pwrShutdownReq ms => Sys2Proof.Machine.execPwrShutdownReq ms s
  | .pwrWakeReq => Sys2Proof.Machine.execPwrWakeReq s
  | .autoStateEntry link => Sys2Proof.Machine.execAutoStateEntry link s
  | .stateEntryCommit => Sys2Proof.Machine.execStateEntryCommit s
  | .stateExit loft => Sys2Proof.Machine.execStateExit loft s
  | .pcieL12Exit => Sys2Proof.Machine.execPcieL12Exit s
  | .grPeriodTick => Sys2Proof.Machine.execGrPeriodTick s
  | .grSampleDone block => Sys2Proof.Machine.execGrSampleDone block s
  | .pwrOpReqWrite op => Sys2Proof.Machine.execPwrOpReqWrite op s
  | .pwrVoteWrite fn opMin deepest => Sys2Proof.Machine.execPwrVoteWrite fn opMin deepest s
  | .avsFrameAck rail good => Sys2Proof.Machine.execAvsFrameAck rail good s
  | .avsStatusPoll core loft mv => Sys2Proof.Machine.execAvsStatusPoll core loft mv s
  | .avsStepTimeout => Sys2Proof.Machine.execAvsStepTimeout s
  | .heldPoll good => Sys2Proof.Machine.execHeldPoll good s
  | .opMoveDone => Sys2Proof.Machine.execOpMoveDone s
  | .dramRateSwitch => Sys2Proof.Machine.execDramRateSwitch s
  | .dramRateSwitchDone => Sys2Proof.Machine.execDramRateSwitchDone s
  | .thermalCapStep tj => Sys2Proof.Machine.execThermalCapStep tj s
  | .fioTrim trim => Sys2Proof.Machine.execFioTrim trim s
  | .clkRestore => Sys2Proof.Machine.execClkRestore s
  | .oscDelayExpire x => Sys2Proof.Machine.execOscDelayExpire x s
  | .xtalStartTimeout x => Sys2Proof.Machine.execXtalStartTimeout x s
  | .refclkWindowEnd edges => Sys2Proof.Machine.execRefclkWindowEnd edges s
  | .clkreqAssert => Sys2Proof.Machine.execClkreqAssert s
  | .powerOn => Sys2Proof.Machine.execPowerOn s
  | .resetNAssert same => Sys2Proof.Machine.execResetNAssert same s
  | .perstAssert same => Sys2Proof.Machine.execPerstAssert same s
  | .perstDeassert => Sys2Proof.Machine.execPerstDeassert s
  | .pcieHotReset same => Sys2Proof.Machine.execPcieHotReset same s
  | .flrPf same => Sys2Proof.Machine.execFlrPf same s
  | .flrVf fn same => Sys2Proof.Machine.execFlrVf fn same s
  | .sdioCccrRes same => Sys2Proof.Machine.execSdioCccrRes same s
  | .sdioFullReset key same => Sys2Proof.Machine.execSdioFullReset key same s
  | .thermalTrip same => Sys2Proof.Machine.execThermalTrip same s
  | .thermalTripRelease => Sys2Proof.Machine.execThermalTripRelease s
  | .watchdogExpire same => Sys2Proof.Machine.execWatchdogExpire same s
  | .wdogKick path v => Sys2Proof.Machine.execWdogKick path v s
  | .rstFwReq path v => Sys2Proof.Machine.execRstFwReq path v s
  | .resetRelease fn resetN => Sys2Proof.Machine.execResetRelease fn resetN s
  | .heldRelease d => Sys2Proof.Machine.execHeldRelease d s
  | .aonRelease osc head => Sys2Proof.Machine.execAonRelease osc head s
  | .fuseReadDone bad => Sys2Proof.Machine.execFuseReadDone bad s
  | .bootRomStart => Sys2Proof.Machine.execBootRomStart s
  | .fetchHost => Sys2Proof.Machine.execFetchHost s
  | .startF2 => Sys2Proof.Machine.execStartF2 s
  | .verifyF2 => Sys2Proof.Machine.execVerifyF2 s
  | .imageTaken fail => Sys2Proof.Machine.execImageTaken fail s
  | .imageVerifyDone => Sys2Proof.Machine.execImageVerifyDone s
  | .keysDerived calFail gib channels => Sys2Proof.Machine.execKeysDerived calFail gib channels s
  | .startOk path cut => Sys2Proof.Machine.execStartOk path cut s
  | .fuseBurn stuck => Sys2Proof.Machine.execFuseBurn stuck s
  | .fuseRead => Sys2Proof.Machine.execFuseRead s
  | .fuseLock => Sys2Proof.Machine.execFuseLock s
  | .sdioCmd0 => Sys2Proof.Machine.execSdioCmd0 s
  | .sdioCmd3 => Sys2Proof.Machine.execSdioCmd3 s
  | .sdioCmd5 v18 => Sys2Proof.Machine.execSdioCmd5 v18 s
  | .sdioCmd7 rca => Sys2Proof.Machine.execSdioCmd7 rca s
  | .sdioCmd11 v18 => Sys2Proof.Machine.execSdioCmd11 v18 s
  | .sdioCmd15 rca => Sys2Proof.Machine.execSdioCmd15 rca s
  | .sdioCmd19 => Sys2Proof.Machine.execSdioCmd19 s
  | .sdioCmd52Read func addr => Sys2Proof.Machine.execSdioCmd52Read func addr s
  | .sdioCmd52Write func addr data => Sys2Proof.Machine.execSdioCmd52Write func addr data s
  | .sdioCmd53Read func addr incr count => Sys2Proof.Machine.execSdioCmd53Read func addr incr count s
  | .sdioCmd53Write addr incr data => Sys2Proof.Machine.execSdioCmd53Write addr incr data s
  | .sdioF2Write addr incr data => Sys2Proof.Machine.execSdioF2Write addr incr data s
  | .mboxInPost => Sys2Proof.Machine.execMboxInPost s
  | .mboxInClear => Sys2Proof.Machine.execMboxInClear s
  | .mboxOutPost msg => Sys2Proof.Machine.execMboxOutPost msg s
  | .mboxOutClear => Sys2Proof.Machine.execMboxOutClear s
  | .attReport fn => Sys2Proof.Machine.execAttReport fn s
  | .attAliasCert fn => Sys2Proof.Machine.execAttAliasCert fn s
  | .attIdentityCert fn => Sys2Proof.Machine.execAttIdentityCert fn s
  | .attSigningStart => Sys2Proof.Machine.execAttSigningStart s
  | .attDone fail => Sys2Proof.Machine.execAttDone fail s
  | .mrExtend fn => Sys2Proof.Machine.execMrExtend fn s
  | .mrExtendDone fn => Sys2Proof.Machine.execMrExtendDone fn s
  | .takeoverTestDone c pass => Sys2Proof.Machine.execTakeoverTestDone c pass s
  | .rtSliceStart => Sys2Proof.Machine.execRtSliceStart s
  | .rtHandover => Sys2Proof.Machine.execRtHandover s
  | .rtCoreTestDone pass => Sys2Proof.Machine.execRtCoreTestDone pass s
  | .rtPitSliceDone match_ => Sys2Proof.Machine.execRtPitSliceDone match_ s
  | .rtCurtainSliceDone o => Sys2Proof.Machine.execRtCurtainSliceDone o s
  | .rehearsalWaveDone found => Sys2Proof.Machine.execRehearsalWaveDone found s
  | .rehearsalDone flashOk => Sys2Proof.Machine.execRehearsalDone flashOk s
  | .showRecordWrite ms => Sys2Proof.Machine.execShowRecordWrite ms s
  | .flashRecordDone ok => Sys2Proof.Machine.execFlashRecordDone ok s
  | .opsecTick => Sys2Proof.Machine.execOpsecTick s
  | .showFreeze => Sys2Proof.Machine.execShowFreeze s
  | .showThaw => Sys2Proof.Machine.execShowThaw s
  | .showFreezeExpire => Sys2Proof.Machine.execShowFreezeExpire s
  | .showLoad => Sys2Proof.Machine.execShowLoad s
  | .showLoadDone => Sys2Proof.Machine.execShowLoadDone s
  | .showErase => Sys2Proof.Machine.execShowErase s
  | .msixUnmask fn v => Sys2Proof.Machine.execMsixUnmask fn v s
  | .dramAccess acc ecc tagBad => Sys2Proof.Machine.execDramAccess acc ecc tagBad s
  | .memcScrubStep found => Sys2Proof.Machine.execMemcScrubStep found s
  | .hostCompletionTimeout fn page => Sys2Proof.Machine.execHostCompletionTimeout fn page s
  | .clkreqRelease l12 => Sys2Proof.Machine.execClkreqRelease l12 s
  | .pcieLinkUp ats => Sys2Proof.Machine.execPcieLinkUp ats s
  | .supplyRemoval => Sys2Proof.Machine.execSupplyRemoval s
  | .crystalRestart => Sys2Proof.Machine.execCrystalRestart s
  | .trainingRetry p => Sys2Proof.Machine.execTrainingRetry p s
  | .fsyncEdgeWhileLost p good => Sys2Proof.Machine.execFsyncEdgeWhileLost p good s

end Sys2Proof.Machine
end

