-- ==== Sys2Proof/Safety.lean ====
section
/-! DEFINITION. The terms that statements about this machine use: which registers a step may change, which fields of the
state it may change, and the canonical form of the stores. -/

namespace Sys2Proof.Machine

open Sys2Proof

/-- Every register outside the list reads as before. -/
def OnlyRegs (l : List Nat) (s t : State) : Prop := ∀ a, a ∉ l → rd t a = rd s a

/-- Nothing but registers differs. -/
def RegsAlone (s t : State) : Prop := t = { s with regs := t.regs }

/-- Registers of the list may differ, and nothing else of the state does. -/
def Alters (l : List Nat) (s t : State) : Prop := RegsAlone s t ∧ OnlyRegs l s t

/-- A flag reads 1 and its event counter has gone up by one, modulo 2^16 (R20). -/
def Raised (f : Flag) (s t : State) : Prop := fget t f.bit = 1 ∧ fget t f.evt = (fget s f.evt + 1) % 2 ^ 16

/-- Every byte of memory outside `[a, a + n)` reads as before. -/
def MemOutside (a n : Nat) (s t : State) : Prop := ∀ x, x < a ∨ a + n ≤ x → memByte t x = memByte s x

/-! ## Shader instructions -/

/-- An instruction issues as `x` (spec/02_thread_groups.md R66, R67, R71, R78): its group is in the slot and runs, the lanes
are those at its thread's program counter and return-stack depth and may go now (R80), the address may be fetched from, the
word is valid, and where it is the second of a pair the pair may issue. -/
def Issues (s : State) (i : Issue) (x : Iss) : Prop :=
  x.core = i.core ∧ groupAt s i.core i.slot = some x.g ∧ wgOf s i.core x.g = some x.w ∧ x.g.halted = false ∧
    (x.g.th i.lane).stat = .run ∧ coreRole s i.core ≠ 3 ∧ x.lanes = subsetOf x.g i.lane ∧ fair x.g x.lanes = true ∧ x.pc = (x.g.th i.lane).pc ∧
    x.word = i.word.toNat ∧ x.act = (x.lanes.filter fun l => (x.g.th l).guard x.word) ∧
    (∃ da nc p n b, xcheck s x.w.cid x.pc .fetch = .ok da nc p n b) ∧ badWord x.word x.w.nregs = false ∧
    x.paired = i.paired ∧ (i.paired = true → x.joins (coreOf s i.core).beat = true)

/-- The rows of shader instructions. -/
def shaderRows : List (Issue → Instr) :=
  [.ctrlBranch, .ctrlCall, .ctrlReturn, .ctrlNop, .exit, .ialu, .falu, .cvt, .xfn, .cmp, .sys, .movi, .loadL, .storeL, .loadC,
    .storeC, .loadCu, .lineZero, .lineHint, .rmwAdd, .rmwSmin, .rmwSmax, .rmwUmin, .rmwUmax, .rmwAnd, .rmwOr, .rmwXor, .rmwSwap,
    .rmwCmpswap, .rmwFadd, .barWait, .barPass, .fence, .mregionBegin, .mregionEnd, .gmac, .gmacZ, .laneGet, .laneRot, .lanePair,
    .laneLead, .pollEvery, .pollSome, .pollMask, .pollCount, .foldAdd, .foldMin, .foldMax, .foldRun]

/-- What the core has issued in the beat before the instruction, if it is the second of a pair. -/
def Iss.first (x : Iss) (s : State) : List Issued := if x.paired then (coreOf s x.core).beat else []

/-- The contexts after an issuing instruction's context is charged its issue beat, which the second of a pair of one context
shares with the first (R334). -/
def beats (s : State) (x : Iss) : SMap Ctx :=
  (chargeBeats s x.w.cid (if (x.first s).any (·.cid == x.w.cid) then 0 else 1) 0).ctxs

/-- A thread after its instruction: at the next word if its lane issued it. -/
def Iss.next (x : Iss) (l : Nat) (t : Thread) : Thread :=
  if l ∈ x.lanes then { t with pc := (x.pc + 8) % 2 ^ 48 } else t

/-- A thread after an instruction that writes `f` of its lane to register `r` where the guard holds. -/
def Iss.writes (x : Iss) (r : Nat) (f : Nat → Nat) (l : Nat) (t : Thread) : Thread :=
  x.next l (if l ∈ x.act then t.set r (f l) else t)

/-- A thread after an instruction that writes `f` of its lane to predicate `p` where the guard holds. -/
def Iss.writesPred (x : Iss) (p : Nat) (f : Nat → Bool) (l : Nat) (t : Thread) : Thread :=
  x.next l (if l ∈ x.act then t.setPred p (f l) else t)

/-- The threads of an issuing group have become what `f` says of each lane, parking aside (R79), and the group has issued one
more instruction, which the core's record of the beat holds; the core's other groups and its workgroups, and every other
core, are as before. -/
def LanesBecome (s t : State) (x : Iss) (f : Nat → Thread → Thread) : Prop :=
  (∃ g, groupAt t x.core x.g.slot = some g ∧ g.issued = x.g.issued + 1 ∧ g.wg = x.g.wg ∧ g.region = x.g.region ∧
      g.halted = false ∧ ∀ l < 32, (g.th l).pc = (f l (x.g.th l)).pc ∧ (g.th l).rets = (f l (x.g.th l)).rets ∧
        (g.th l).regs = (f l (x.g.th l)).regs ∧ (g.th l).preds = (f l (x.g.th l)).preds) ∧
    (coreOf t x.core).wgs = (coreOf s x.core).wgs ∧ (coreOf t x.core).beat = x.first s ++ [x.issued] ∧
    (∀ g ∈ (coreOf s x.core).groups, g.slot ≠ x.g.slot → g ∈ (coreOf t x.core).groups) ∧
    ∀ c, c ≠ x.core → coreOf t c = coreOf s c

/-- An issuing group has stopped with a fault of a code at a lane and address (R105 to R107): the core holds its record, and
no thread of it has moved. -/
def LaneFaults (s t : State) (x : Iss) (code lane : Nat) (addr : Option Nat) : Prop :=
  t = { s with cores := t.cores } ∧ groupAt t x.core x.g.slot = some { x.g with halted := true } ∧
    (coreOf t x.core).faults = (coreOf s x.core).faults ++
      [⟨x.w.cid, faultRec code (lcoreOf s x.core) x.core x.w.cid x.g.slot lane x.pc addr (x.word / 2 ^ 32) false, some x.w.uid⟩]

/-! ## Cues -/

/-- A cue may start as opcode `opc` (spec/08_prompt_desk.md R283 to R285, R292): it is the first waiting cue of its source,
the conditions of issue hold, its ADDR is not indirect, and a completion slot is reserved or free. -/
def Starts (s : State) (src : CueSrc) (opc : Nat) (c : CueRun) : Prop :=
  nextWaiting s src = some c ∧ c.opc = opc ∧ cueReady s c = true ∧ c.indirect = false ∧ (reserveSlot s c).2 = true

/-- The state in which a cue that starts runs: its completion slot reserved, its stage running. -/
def started (s : State) (c : CueRun) : State := runCue (reserveSlot s c).1 c.uid

/-- The cue with a number, if it has not ended, ends with a code (one that a stall of its ring gave it stands, R295) and a
numeric block; every other cue is as before. -/
def CueEnds (uid code : Nat) (num : List Byte) (s t : State) : Prop :=
  t.cues = mapWhere (·.uid == uid)
    (fun c => if c.stage = .ended then c
      else { c with stage := .ended, code := if c.code = cOk then code else c.code, num := num }) s.cues

/-! ## Engines -/

/-- The state in which the Stage Manager places work on a core: it has noted which contexts of the core's partition hold none
and which have become ready (spec/10_stage_manager.md R335). -/
def noted (s : State) (c : Nat) : State := noteAll s ((partOfCore s c).getD 8)

/-- An engine may make the accesses of a unit now: all of it translates, no word of it is known bad, the Loft and DRAM
domains that it reaches are up, and no regulator holds its partition back (spec/10_stage_manager.md R351,
spec/11_translation.md R370, spec/14_power_and_clocks.md R434). -/
def UnitGoes (s : State) (e : EngAsk) (ranges : List (Nat × Nat × Bool)) (pages : List HeldPage) : Prop :=
  xlateUnit s e.cid ranges = .ok pages ∧ engineWaits s e pages ranges = false

/-- What a unit's accesses leave in the CACHE region and in the regulators (spec/01_fabric_and_loft.md R40, R49;
spec/10_stage_manager.md R352). -/
def used (s : State) (e : EngAsk) (pages : List HeldPage) (ranges : List (Nat × Nat × Bool)) : State :=
  portUse s e pages (ranges.map fun r => (r, noTag))

/-- The state in which a unit that goes does its work: its translations used (R368), its traffic accounted for. -/
def unitUsed (s : State) (e : EngAsk) (pages : List HeldPage) (ranges : List (Nat × Nat × Bool)) : State :=
  used (usePages s e.cid pages) e pages ranges

/-- The registers that count what translations have met in the caches (R368). -/
def xlatRegs : List Nat := [R.XLAT_TC_HIT, R.XLAT_WALKS]

/-- A compression cue has ended with a code (spec/13_compression.md R431): it has left its engine, which is no longer busy,
and its report, with the block that failed, waits to be written. -/
def CompEnds (r : CompRun) (code fail : Nat) (s t : State) : Prop :=
  CueEnds r.uid code zeroNum s t ∧ t.comps = s.comps.filter (·.uid != r.uid) ∧
    t.reports = s.reports ++ [⟨r.uid, compEng r, zReport r.raw, compReport r fail⟩] ∧
    t.helds = s.helds.filter (·.agent != .comp r.engine) ∧ fget t (F.XFER_E_STATUS.BUSY r.engine) = 0

/-- A compression cue has failed in its next block with a code and a flag (R429, R430). -/
def CompFails (r : CompRun) (code : Nat) (f : Flag) (s t : State) : Prop :=
  CompEnds r code r.block s t ∧ Raised f s t ∧
    OnlyRegs ([f.bit.reg, f.evt.reg, R.XFER_E_STATUS r.engine, R.XFER_E_BLOCK r.engine] ++ xlatRegs) s t

/-- A block of a compression cue is complete (R419, R431): `r'` is the cue after it, which goes on, or ends when it was the
last; the engine's counters and registers show it. -/
def CompGoes (r r' : CompRun) (cnt stored : Nat) (s t : State) : Prop :=
  (r'.block ≠ cueBlocks r.decomp r.raw → t.comps = mapWhere (·.uid == r.uid) (fun _ => r') s.comps ∧ t.cues = s.cues ∧
      t.reports = s.reports ∧ fget t (F.XFER_E_STATUS.BUSY r.engine) = 1) ∧
    (r'.block = cueBlocks r.decomp r.raw → CompEnds r' cOk 0xFFFFFFFF s t) ∧
    rdN t cnt = min 0xFFFFFFFF (rdN s cnt + 1) ∧
    rdN t (R.XFER_E_STORED r.engine) = min 0xFFFFFFFF (rdN s (R.XFER_E_STORED r.engine) + stored) ∧
    fget t (F.XFER_E_BLOCK.BLOCK r.engine) = r'.block % 512 ∧
    OnlyRegs ([cnt, R.XFER_E_STORED r.engine, R.XFER_E_STATUS r.engine, R.XFER_E_BLOCK r.engine] ++ xlatRegs) s t

/-- A page of a compression cue's accesses has failed at an address (R432): its context's fault is reported, and the cue ends
with the code. -/
def CompFaults (r : CompRun) (code a : Nat) (s t : State) : Prop :=
  CompEnds r code r.block s t ∧ t.mem = s.mem ∧ t.faultReps = s.faultReps ++
    [⟨r.cid, faultRec code 0xFF 0xFF r.cid 0xFB 0xFF r.raddr (some a) (field r.raw 0 4) false, some r.uid⟩]

/-! ## Rings and entries -/

/-- Ring `k` has become `r`; every other ring is as before. -/
def RingBecomes (k : Nat) (r : Ring) (s t : State) : Prop := ringOf t k = r ∧ ∀ j, j ≠ k → ringOf t j = ringOf s j

/-- A ring that has stalled with a code (spec/08_prompt_desk.md R293, R295). -/
def Ring.stalledBy (r : Ring) (code : Nat) : Ring :=
  { r with
    state := .stalled
    code := code
    stall := true
    stallEvt := (r.stallEvt + 1) % 2 ^ 16 }

/-- A ring whose command has been refused (CFG_REFUSED, R269, R538). -/
def Ring.refusedOnce (r : Ring) : Ring := { r with refused := true, refusedEvt := (r.refusedEvt + 1) % 2 ^ 16 }

/-- A ring that an ENABLE has started at a producer index (R269). -/
def Ring.enabledAt (r : Ring) (p : Nat) : Ring :=
  { r with
    ci := p
    pi := p
    cwr := 0
    reserved := 0
    consVal := 0
    code := 0
    parked := []
    waitSlot := false
    noSlot := false
    resuming := false
    disableNext := false
    abortFail := none
    consFail := none
    reread := false
    last := none
    state := .asleep }

/-- A ring whose reading and waiting for slots has ended (R297, R298). -/
def Ring.halted (r : Ring) (st : RingState) : Ring :=
  { r with
    state := st
    waitSlot := false
    noSlot := false
    resuming := false }

/-- A ring that a RING_RESUME has made ACTIVE (R296). -/
def Ring.resumed (r : Ring) : Ring :=
  { r with
    state := .active
    reread := true
    resuming := false
    waitSlot := false }

/-- A ring that has read CONS as a value (R292). -/
def Ring.consAt (r : Ring) (v : Nat) : Ring :=
  { r with
    consVal := v
    waitSlot := !slotFree { r with consVal := v }
    noSlot := !slotFree { r with consVal := v } }

/-- Exactly one more host write has gone out for a function, of bytes at a host address, and memory holds them (R271, R359,
R365, R367). -/
def PutsHost (fn h : Nat) (bs : List Byte) (s t : State) : Prop :=
  t.out = s.out ++ [.hostWrite fn (onBus s fn h).1 (onBus s fn h).2 bs.length] ∧ t.mem = (memWrite s (hostBase + h) bs).mem

/-- The host's translations, where they are asked for, admit an access to a function's own structures (R366, R367). -/
def HostAdmits (s : State) (fn h n : Nat) (write : Bool) : Prop := hostRange s fn h n write = none

/-- The state in which such an access is made: the translations it uses are the most recently used ones (R368). -/
def atHost (s : State) (fn h n : Nat) : State := (hostPages h n).foldl (fun s p => atsTouch s fn p) s

/-- The state in which the doorbell word of ring `k` is read. -/
def atDoor (s : State) (k : Nat) : State := atHost s (ringFn k) (doorAddr s k) 4

/-- Where the WAKE half of ring `k`'s doorbell word lies (R271). -/
def wakeAddr (s : State) (k : Nat) : Nat := doorAddr s k + 2

/-- The doorbell word of ring `k` may be read and its WAKE half then written. -/
def DoorOpen (s : State) (k : Nat) : Prop :=
  HostAdmits s (ringFn k) (doorAddr s k) 4 false ∧ HostAdmits (atDoor s k) (ringFn k) (wakeAddr s k) 2 true

/-- Context, fence or semaphore `x` has become the given entry; every other one is as before. -/
def CtxBecomes (x : Nat) (c : Ctx) (s t : State) : Prop := ctxOf t x = c ∧ ∀ y, y ≠ x → ctxOf t y = ctxOf s y
def FenceBecomes (x : Nat) (f : Fence) (s t : State) : Prop := fenceOf t x = f ∧ ∀ y, y ≠ x → fenceOf t y = fenceOf s y
def SemBecomes (x : Nat) (m : Sem) (s t : State) : Prop := semOf t x = m ∧ ∀ y, y ≠ x → semOf t y = semOf s y

/-- A command has only been refused: its refusal flag is set and counted, and nothing else has changed. -/
def RefusedBy (f : Flag) (s t : State) : Prop := Alters [f.bit.reg, f.evt.reg] s t ∧ Raised f s t

/-- The fence table holds fence `x` as its directory does (R308), nothing else of memory having changed; before the Loft is
carved it takes no write (R44). -/
def FenceStored (x : Nat) (s t : State) : Prop :=
  (carved s = true → mgets 0 t.mem (fenceTable s + 16 * x) 16 = (fenceOf t x).bytes ∧ MemOutside (fenceTable s + 16 * x) 16 s t) ∧
    (carved s = false → t.mem = s.mem)

/-- Contexts differ in their effective shares alone, and those are their own shares when nothing waits in a FIFO (R347). -/
def OnlyShares (s t : State) : Prop :=
  (∀ y, ctxOf t y = { ctxOf s y with effShare := (ctxOf t y).effShare }) ∧
    ((∀ p ∈ t.sems, p.2.fifo = []) → ∀ y, (ctxOf t y).effShare = (ctxOf t y).share)

/-- Whether an invalidation takes a cached translation (R378 step 1): one of the host that an ATS invalidation covers, or one
of a context that a page it hits yields. -/
def Inv.takes (v : Inv) (s : State) (e : TcEntry) : Bool :=
  match v.kind with
  | .ats f _ => e.ats && e.owner == f && overlaps v.lo (v.hi - v.lo) (hostBase + e.page) e.size
  | _ => !e.ats && invHits s v e.owner ⟨e.page, e.size, e.da, e.nc⟩

/-- An invalidation has arrived (R378 steps 1 and 2): it is counted and in progress; no cached translation that it takes is
left; translation requests that it covers are stale; no queued flip rests on a removed page; what is held and has begun
there is stale, what has not is gone; an armed stream of the Pit there is FAULTED and holds nothing. Where no flip, latched
buffer or stream rests on a removed page, nothing else has changed. -/
def InvStarts (v : Inv) (s t : State) : Prop :=
  t.invs = s.invs ++ [v] ∧ t.nextInv = v.id + 1 ∧
    rdN t R.XLAT_INV_COUNT = min 0xFFFFFFFF (rdN s R.XLAT_INV_COUNT + 1) ∧
    fget t F.XLAT_STATUS.INV_ACTIVE = (s.invs.length + 1) % 64 ∧ t.tc = s.tc.filter (!v.takes s ·) ∧
    t.wc = s.wc.filter (fun e => !(v.cid == e.cid && overlaps v.lo (v.hi - v.lo) e.page e.size)) ∧
    t.atsReqs = mapWhere (fun r => invCovers v r.fn r.page) (fun r => { r with stale := true }) s.atsReqs ∧
    (∀ l < 24, ∀ f ∈ (layerOf t l).queue, f.pages.any (invHits s v f.cid) = false) ∧
    (∀ h ∈ t.helds, h.pages.any (invHits s v h.cid) = true → h.began = true ∧ v.id ∈ h.stale) ∧
    (∀ n < 32, ∀ h ∈ s.helds, h.agent = .pit n → h.pages.any (invHits s v h.cid) = true →
      (streamState s n ≠ sIdle → streamState t n = sFaulted) ∧ ∀ g ∈ t.helds, g.agent ≠ .pit n) ∧
    ((∀ n < 32, ∀ h ∈ s.helds, h.agent = .pit n → h.pages.any (invHits s v h.cid) = false) →
      (∀ l < 24, ∀ f, f ∈ (layerOf s l).queue ∨ (layerOf s l).latched = some f → f.pages.any (invHits s v f.cid) = false) →
      t = { s with
        regs := t.regs
        tc := t.tc
        wc := t.wc
        atsReqs := t.atsReqs
        helds := t.helds
        invs := t.invs
        nextInv := t.nextInv
        layers := t.layers } ∧ ∀ l, layerOf t l = layerOf s l)

/-- A state or point (`kind` 0 or 1) has been refused by the refuser of a number (spec/14_power_and_clocks.md R446): REFUSED
is set and counted, PWR_REFUSE_LAST holds refuser, kind, target and code, and the refuser's counter is one up. -/
def PowerRefused (refuser kind target code : Nat) (s t : State) : Prop :=
  Raised E.PWR_STATUS.REFUSED s t ∧ rdN t R.PWR_REFUSE_LAST = (refuser + 2 ^ 4 * kind + 2 ^ 8 * target + 2 ^ 16 * code) % 2 ^ 32 ∧
    let c := if refuser % 2 = 1 then F.PWR_REFUSE_CNT.ODD ((refuser - 1) / 2) else F.PWR_REFUSE_CNT.EVEN ((refuser - 1) / 2)
    fget t c = min 0xFFFF (fget s c + 1)

/-- The sequencer with the voltage steps outstanding replaced: those of the move, or of the held point (R449, R450). -/
def PwrSt.withSteps (p : PwrSt) (l : List AvsStep) : PwrSt :=
  match p.move with
  | some m => { p with move := some { m with steps := l } }
  | none => { p with heldSteps := l }

/-- The device has begun to move to a point, or stands at it already (R447, R448): on the way up the new voltages have been
sent, on the way down the edge clocks come first, with a change of DRAM's rate when it is trained. -/
def MovesTo (b : Nat) (s t : State) : Prop :=
  let a := fget s F.PWR_STATE.CUR_OP
  (a = b → t.pwr.move = none ∧ fget t F.PWR_STATE.CUR_OP = b) ∧
    (a ≠ b → fget t F.PWR_STATE.TARGET_OP = b ∧ fget t F.PWR_STATE.MOVING = 1 ∧ fget t F.PWR_STATE.CUR_OP = min a b ∧
      (a < b → t.pwr.move = some ⟨a, b, .no, true, avsSteps a b⟩) ∧
      (b < a → t.pwr.move = if dramRate a ≠ dramRate b ∧ fbit s F.MEMC_STATE.TRAINED = true then some ⟨a, b, .due, false, []⟩
        else some ⟨a, b, .set, true, avsSteps a b⟩))

/-- The reset of one function has been carried out (spec/15_reset_boot_security.md R204, R298, R324, R459): the registers of
its BAR0 page that an L3 restores are, its rings are aborted and then disabled, its streams that are not privileged are
disarmed at once, and its contexts outside privileged partitions that no Curtain names are DYING. -/
def FnReset (fn : Nat) (s t : State) : Prop :=
  (∀ a, inPage fn a = true → levelOf a = 3 → rd t a = rd State.reset a) ∧
    (∀ k, k / 1024 = fn → (ringOf s k).state ≠ .off →
      (ringOf t k).wiped = true ∧ ((ringOf t k).state = .aborting ∨ (ringOf t k).state = .disabling)) ∧
    (mwf PitStream.idle s.streams = true → ∀ n < 32, streamArmed s n = true → streamPriv s n = false →
      fnOfCid s (streamCid s n) = some fn → (streamOf t n).forced = true) ∧
    (mwf Ctx.none s.ctxs = true → ∀ c, (ctxOf s c).state ≠ .free → fnOfCid s c = some fn → partPriv s (ctxOf s c).part = false →
      curtainNames s c = false → (ctxOf t c).state = .dying ∧ (ctxOf t c).byReset = true)

/-- An event has reached the Show Report's queue, or, with 64 events there, has been dropped and counted
(spec/16_rehearsal_and_show_report.md R501). -/
def Recorded (e : ShowEv) (s t : State) : Prop :=
  (s.recorder.queue.length < 64 → t.recorder = { s.recorder with queue := s.recorder.queue ++ [e] }) ∧
    (64 ≤ s.recorder.queue.length → t.recorder = s.recorder ∧ Raised E.SHOW_EVENT.DROPPED s t ∧
      rdN t R.SHOW_DROPPED_COUNT = min 0xFFFFFFFF (rdN s R.SHOW_DROPPED_COUNT + 1))

/-- Physical core `c` has become failed (spec/16_rehearsal_and_show_report.md R489), its logical number having been `num`:
ROLE 3, its domain gated, its bit set, and the failure recorded. -/
def CoreFails (c : Nat) (num : Option Nat) (s t : State) : Prop :=
  coreRole t c = 3 ∧ bit (rdN t R.TEST_CORE_FAILED) c = true ∧ domOn t (dCore + c) = false ∧ t.mem = s.mem ∧
    Raised E.TEST_EVENT.RT_CORE_FAIL s t ∧ Recorded (coreEv t cRtCoreFail 0x27 2 c (num.bind (physOf t ·)) num) s t

/-- A Run-through slice is complete (spec/16_rehearsal_and_show_report.md R491): none is in progress, and TEST_RT_COUNT
counts it. -/
def SliceDone (s t : State) : Prop :=
  t.test = { s.test with slice := none } ∧ fget t F.TEST_RT_STATE.PHASE = 0 ∧
    rdN t R.TEST_RT_COUNT = min 0xFFFFFFFF (rdN s R.TEST_RT_COUNT + 1)

/-- The field of RST_SRC_CNT that counts a source (R463). -/
def srcCount (i : Nat) : Fld := if i % 2 = 0 then F.RST_SRC_CNT.EVEN (i / 2) else F.RST_SRC_CNT.ODD (i / 2)

/-- Nothing waits for a host translation to check an area or a buffer again: no arm, Curtain or entry ring. -/
def NoneWaits (s : State) : Prop :=
  (∀ n < 32, (streamOf s n).arming = false) ∧ (∀ o < 3, (outOf s o).asking = false) ∧ ∀ p ∈ s.link.erings, p.2.asking = false

/-! ## The link -/

/-- A flit not acknowledged as port `p` sends it again (spec/12_umram_link.md R390): its number, kind, credit return and
payload, with the port's present acknowledgement. -/
def SentFlit.again (q : LinkPort) (p : Nat) (f : SentFlit) : Msg :=
  .flit p (mkFlit f.seq (q.rxNext + 1023) f.kind f.ret.1 f.ret.2 f.payload)

/-- A port owes the far end a credit or an acknowledgement (spec/12_umram_link.md R390, R406). -/
def LinkPort.Owes (q : LinkPort) : Prop := q.give ≠ [] ∨ q.acked ≠ q.rxNext

/-- No port that is up owes the far end anything. -/
def LinkQuiet (s : State) : Prop := ∀ p < 3, portUp s p = true → ¬(portOf s p).Owes

/-- An address token, roster or topology update has gone to a port (spec/12_umram_link.md R406): one that is down carries
none; with an MGMT credit it is sent and takes one; without, it waits. -/
def MgmtSent (s : State) (p : Nat) (m : Msg) (t : State) : Prop :=
  (portUp s p = false → t = s) ∧
    (portUp s p = true → (portOf s p).used.getD 8 0 < 64 → t = { s with
        link := { s.link with ports := t.link.ports }
        out := s.out ++ [m] } ∧
      portOf t p = { portOf s p with used := (portOf s p).used.set 8 ((portOf s p).used.getD 8 0 + 1) } ∧
      ∀ q, q ≠ p → portOf t q = portOf s q) ∧
    (portUp s p = true → 64 ≤ (portOf s p).used.getD 8 0 → t = { s with link := { s.link with mgmt := s.link.mgmt ++ [(p, m)] } })

/-- A port is up with an MGMT credit left. -/
def mgmtFree (s : State) (p : Nat) : Bool := portUp s p && decide ((portOf s p).used.getD 8 0 < 64)

/-- A token has gone on round its ring (R396, R397), from the other port of the ring than it came by; one that came by the
uplink goes no further. -/
def TokenGoesOn (s : State) (p : Nat) (k : AddrTok) (upper : List UpTok) (t : State) : Prop :=
  (p = 2 → t = s) ∧ (p ≠ 2 → MgmtSent s (if p = 1 then 0 else 1)
    (.addrToken (if p = 1 then 0 else 1) { k with counter := nextCount k, upper := upper }) t)

/-- A unit has lost its address to two heads (R398). -/
def AddressLost (s t : State) : Prop :=
  t.link = { s.link with conflict := true, pos := [], tokOut := false } ∧ fget t F.UL_SELF.UNIT = 0 ∧
    fget t F.UL_SELF.DEPTH = 0 ∧ fget t F.UL_SELF.ADDR_DONE = 0

/-- Every byte of memory outside the pages held reads as before. -/
def MemOnly (pages : List HeldPage) (s t : State) : Prop :=
  ∀ x, (∀ p ∈ pages, ¬(p.da ≤ x ∧ x < p.da + p.size)) → memByte t x = memByte s x

/-- The registers, memory and board flash are in canonical form: addresses strictly rising, and no entry equal to what an
unlisted address reads as. -/
def Canonical (s : State) : Prop := mwf 0 s.regs = true ∧ mwf 0 s.mem = true ∧ mwf 0xFF s.flash = true

end Sys2Proof.Machine
end

