-- ==== Sys2Proof/Certificates/Slice0/Obligations.lean ====
section
/-! DEFINITION. The statements of this row: what the commands of the Glanik do, as its spec's rules say. Each statement names
the rules or sections it formalises. A clause about a command concludes that `exec` answers a next state. -/

open Sys2Proof Sys2Proof.Machine

/-- For every command c and state s whose queue is c followed by rest, step at s is exec of c on s with the queue replaced
by rest. That the block has a queue and takes its front is the model's frame (notes/assumptions/1.md). (spec/INDEX.md;
spec/95_what_each_step_holds.md) -/
def Obligations.StepRunsFrontCommand : Prop :=
  ∀ (c : Instr) (rest : List Instr) (s : State), s.pending = c :: rest → step s = exec c { s with pending := rest }

/-- With no command waiting the block idles: step answers the state it was given. This is the model's choice
(notes/assumptions/1.md): time has no command of its own. (spec/INDEX.md) -/
def Obligations.IdleStepKeepsState : Prop :=
  ∀ s : State, s.pending = [] → step s = .next s

/-- For every command and every state, exec answers a next state: an error the device meets is a code, a flag or a record
in its state, and stops nothing. What the next state is, the statements of each family say, each as a conclusion that
exec answers a next state: CacheMaintenanceCommands for INVALIDATE_ALL, CLEAN_ALL, CLEAN_AND_INVALIDATE_ALL,
CLEAN_RANGE, INVALIDATE_RANGE, CLEAN_AND_INVALIDATE_RANGE and CACHE_CMD_DONE; and, where one clause takes a list of
rows, ArithmeticInstructions for IALU, FALU, CVT and XFN, ContextMemoryInstructions and LocalAtomics for the stores,
loads, LINE_ZERO and the eleven RMW rows, BarriersAndMatrix for GMAC and GMAC_Z, GroupWideInstructions for the lane,
poll and fold rows, TensorOperationsStart for its five rows, SideChannels for the AUX, I2C and DSI rows, LinkTraffic
for RACC_READ, RACC_WRITE and RACC_RESET, Compression for its two cues, OperatingPoints for PWR_OP_REQ_WRITE and
PWR_VOTE_WRITE, SdioAndTrust for ATT_REPORT, ATT_ALIAS_CERT and ATT_IDENTITY_CERT, PitStreams for FORCED_DISARM_DONE.
(spec/98_reader.md; spec/INDEX.md) -/
def Obligations.EveryCommandCompletes : Prop :=
  ∀ (c : Instr) (s : State), ∃ t, exec c s = .next t

/-- For every command and state, the queue after exec is the queue before it, resets and the removal of the supplies
included: the commands waiting belong to their sender (the model's frame, notes/assumptions/1.md). (spec/INDEX.md) -/
def Obligations.CommandsLeaveTheQueue : Prop :=
  ∀ (c : Instr) (s t : State), exec c s = .next t → t.pending = s.pending

/-- From every state whose register file, memory and board flash are in canonical form (addresses strictly rising, no
entry equal to what an unlisted address reads as), every step answers a state in which they are so: no command, no
reset, no removal of the supplies and no state exit leaves a register or a byte listed twice, out of order, or at what
an unlisted one reads as. Equal contents are therefore equal data after any run. (spec/00_scope.md;
spec/11_translation.md; spec/18_register_map.md) -/
def Obligations.EveryStepKeepsCanonicalStores : Prop :=
  ∀ s t : State, Canonical s → step s = .next t → Canonical t

/-- The register file, memory and flash of State.reset are in canonical form, so the invariant that every step keeps holds
at reset. (spec/00_scope.md; spec/18_register_map.md) -/
def Obligations.ResetStoresCanonical : Prop :=
  Canonical State.reset

/-- After a cold reset the chip identity reads as R22's tables state it, the stall limit is 4,096 (R34), the scrub
interval 192 (R64), each carving register its default (R42), every cache is disabled in write-through mode with
INV_VALID 0 (R50, R51), every status register of the Loft reads 0, every fence, context, semaphore and ring is free or
off, and no request, cue, launch or reservation is held. (spec/00_scope.md; spec/01_fabric_and_loft.md;
spec/14_power_and_clocks.md; spec/15_reset_boot_security.md) -/
def Obligations.ResetValues : Prop :=
  rd State.reset 0 = 0x4E011617 ∧ fget State.reset F.LOFT_FAB_STALL_LIMIT.LIMIT = 4096 ∧
    fget State.reset F.LOFT_SCRUB_INTERVAL.INTERVAL = 192 ∧ fget State.reset F.LOFT_BIN_SIZE.BIN_MIB = 8 ∧
    fget State.reset F.LOFT_PIT_SIZE.PIT_MIB = 2 ∧ fget State.reset F.LOFT_SAVE_SIZE.SAVE_MIB = 8 ∧
    fget State.reset F.LOFT_CTRL.CARVE_LOCK = 0 ∧ rd State.reset R.LOFT_ECC_STATUS = 0 ∧ rd State.reset R.LOFT_CARVE_STATUS = 0 ∧
    (∀ c : CacheId, fbit State.reset (cacheEn (cacheKey c)) = false ∧ fbit State.reset (cacheModeF (cacheKey c)) = true ∧
      fbit State.reset (cacheInvValid (cacheKey c)) = false) ∧
    (∀ n : Nat, (ctxOf State.reset n).state = .free ∧ (fenceOf State.reset n).state = .free ∧
      (semOf State.reset n).state = .free ∧ (ringOf State.reset n).state = .off) ∧
    State.reset.reqs = [] ∧ State.reset.cues = [] ∧ State.reset.launches = [] ∧ State.reset.helds = [] ∧
    State.reset.pending = []

/-- For every flag of the register map (a row of the flag table, at every instance of its register), a hardware set leaves
the flag reading 1 and its own event counter one higher modulo 2^16, whether or not the flag was already 1; every
other register, and everything else in the state, stays. Every bit of the two registers outside the flag and its
counter stays too. (R20) -/
def Obligations.FlagsAndEventCounters : Prop :=
  ∀ (r : FlagRow) (a : Nat) (s : State), r ∈ flagTable → rowHas ⟨r.addr, r.n1, r.s1, r.n2, r.s2, 4, []⟩ a = true →
    let f : Flag := ⟨⟨a, r.bit, r.bit⟩, ⟨r.evtAddr + (a - r.addr), r.evtLo + 15, r.evtLo⟩⟩
    Raised f s (raise s f) ∧ Alters [f.bit.reg, f.evt.reg] s (raise s f) ∧
      ∀ g : Fld, g.lo ≤ g.hi → g.hi < 32 → (g.reg = f.bit.reg → g.hi < f.bit.lo ∨ f.bit.hi < g.lo) →
        (g.reg = f.evt.reg → g.hi < f.evt.lo ∨ f.evt.hi < g.lo) → fget (raise s f) g = fget s g

/-- For every Loft device address a below 64 MiB: the bank that a request waits at is quadrant a[25:24] times 16 plus bank
a[9:6] xor a[13:10], and the line address of that bank and row a[23:10] is a with its byte within the line, a[5:0],
cleared. So no two lines share a bank and row. (R36) -/
def Obligations.LoftAddressSelectsBank : Prop :=
  ∀ a : Nat, a < 2 ^ 26 →
    bankOf a / 16 = bits a 25 24 ∧ bankOf a % 16 = bits a 9 6 ^^^ bits a 13 10 ∧ bankOf a < 64 ∧
      lineAddr (bankOf a) (bits a 23 10) + bits a 5 0 = a

/-- For all 64-bit values: a is at or beyond b exactly when (a - b) mod 2^64 is below 2^63, strictly beyond exactly when
that difference lies in 1 to 2^63 - 1; strictly beyond is at or beyond and different; and of two different values
whose difference is not 2^63 exactly one is strictly beyond the other. (spec/09_objects_and_fences.md) -/
def Obligations.FenceSerialComparison : Prop :=
  ∀ a b : W64,
    (atOrBeyond a b = true ↔ (a.toNat + 2 ^ 64 - b.toNat) % 2 ^ 64 < 2 ^ 63) ∧
    (strictlyBeyond a b = true ↔ 1 ≤ (a.toNat + 2 ^ 64 - b.toNat) % 2 ^ 64 ∧ (a.toNat + 2 ^ 64 - b.toNat) % 2 ^ 64 ≤ 2 ^ 63 - 1) ∧
    (strictlyBeyond a b = true ↔ atOrBeyond a b = true ∧ a ≠ b) ∧
    ((a - b).toNat ≠ 2 ^ 63 → a ≠ b → (strictlyBeyond a b = true ↔ strictlyBeyond b a = false))

/-- REGISTER_WRITE over BAR2 where the register's block is up: a 4-byte write of the scrub interval stores its field and
changes no other register; a 4-byte write of ones to the carving status clears CARVE_ERR and leaves its event counter
(R18), but with a hardware set in the same cycle the flag reads 1 afterwards and the set is counted (R19, R20); a
4-byte read of an offset with no register puts 0 on the bus and a write there is ignored (R17). An access that is not
4 bytes wide and aligned changes no register, and reads 0 (R15). (spec/00_scope.md; spec/18_register_map.md) -/
def Obligations.RegisterAccessEffects : Prop :=
  (∀ (s : State) (d : BitVec 64), meets s R.LOFT_SCRUB_INTERVAL = .register →
    ∃ t, exec (.registerWrite ⟨.bar2, 0x80094, 4, true, d, 0⟩) s = .next t ∧
      fget t F.LOFT_SCRUB_INTERVAL.INTERVAL = d.toNat % 2 ^ 16 ∧ Alters [R.LOFT_SCRUB_INTERVAL] s t) ∧
  (∀ s : State, meets s R.LOFT_CARVE_STATUS = .register →
    ∃ t, exec (.registerWrite ⟨.bar2, 0x80024, 4, true, 1, 0⟩) s = .next t ∧ fget t F.LOFT_CARVE_STATUS.CARVE_ERR = 0 ∧
      fget t F.LOFT_CARVE_STATUS.CARVE_ERR_EVT = fget s F.LOFT_CARVE_STATUS.CARVE_ERR_EVT ∧ Alters [R.LOFT_CARVE_STATUS] s t) ∧
  (∀ s : State, meets s R.LOFT_CARVE_STATUS = .register →
    ∃ t, exec (.registerWrite ⟨.bar2, 0x80024, 4, true, 1, 1⟩) s = .next t ∧ Raised E.LOFT_CARVE_STATUS.CARVE_ERR s t ∧
      Alters [R.LOFT_CARVE_STATUS] s t) ∧
  (∀ (s : State) (d : BitVec 64), meets s 0x80FF0 = .register →
    exec (.registerWrite ⟨.bar2, 0x80FF0, 4, false, d, 0⟩) s = .next { s with bus := 0 } ∧
      exec (.registerWrite ⟨.bar2, 0x80FF0, 4, true, d, 0⟩) s = .next s) ∧
  (∀ (s : State) (off : BitVec 24) (d : BitVec 64) (n : Nat), meets s off.toNat = .register → n ≠ 4 ∨ off.toNat % 4 ≠ 0 →
    exec (.registerWrite ⟨.bar2, off, n, true, d, 0⟩) s = .next s ∧
      exec (.registerWrite ⟨.bar2, off, n, false, d, 0⟩) s = .next { s with bus := 0 })

/-- STALL_LIMIT_WRITE to a Loft that is up stores the limit, which takes effect at once: the limit every monitor counts to
is the written value, and 256 for values below 256 (R34). RATE_WINDOW_END latches the window's beats and adds them to
the region's 64-bit beat counter modulo 2^64 (R32); a gated core makes none (R435). STALL_DECLARED for a Loft bank
latches the bank, sets and counts LOFT_STALL, and puts an event of code HANDSHAKE_STALL on the recorder's queue while
the queue has room (R34, R35); for a core already fenced it latches the unit, sets and counts STALL, and puts such an
event of the core there. Nothing else changes. (spec/01_fabric_and_loft.md; spec/16_rehearsal_and_show_report.md) -/
def Obligations.StallLimitAndRates : Prop :=
  (∀ (l : BitVec 16) (s : State), domOn s dLoft = true → ∃ t, exec (.stallLimitWrite l) s = .next t ∧
    fget t F.LOFT_FAB_STALL_LIMIT.LIMIT = l.toNat ∧ stallLimit t = max 256 l.toNat ∧ Alters [R.LOFT_FAB_STALL_LIMIT] s t) ∧
  (∀ (c : Fin 17) (n : BitVec 16) (s : State), ∃ t, exec (.rateWindowEnd (.core c) n) s = .next t ∧
    fget t (F.CORE_RATE.PER_US c) = (if domOn s (dCore + c) then n.toNat else 0) ∧
    rd64 t (R.CORE_BEAT_COUNT_LO c) =
      (rd64 s (R.CORE_BEAT_COUNT_LO c) + if domOn s (dCore + c) then n.toNat else 0) % 2 ^ 64 ∧
    Alters [R.CORE_BEAT_COUNT_LO c, R.CORE_BEAT_COUNT_LO c + 4, R.CORE_RATE c] s t) ∧
  (∀ (n : BitVec 16) (s : State), ∃ t, exec (.rateWindowEnd .loft n) s = .next t ∧
    fget t F.LOFT_RATE.PER_US = n.toNat ∧ rd64 t R.LOFT_BEAT_COUNT_LO = (rd64 s R.LOFT_BEAT_COUNT_LO + n.toNat) % 2 ^ 64 ∧
    Alters [R.LOFT_BEAT_COUNT_LO, R.LOFT_BEAT_COUNT_LO + 4, R.LOFT_RATE] s t) ∧
  (∀ (b : Fin 64) (s : State), s.recorder.queue.length < 64 → ∃ t, exec (.stallDeclared (.bank b)) s = .next t ∧
    fget t F.LOFT_FAB_STALL_STATUS.BANK = b ∧ Raised E.LOFT_FAB_STALL_STATUS.LOFT_STALL s t ∧
    t = { s with
      regs := t.regs
      recorder := { s.recorder with queue := s.recorder.queue ++ [plainEv cStall 0x06 3] } } ∧
    OnlyRegs [R.LOFT_FAB_STALL_STATUS] s t) ∧
  (∀ (c : Fin 17) (u : Fin 8) (s : State), coreRole s c = 3 → s.recorder.queue.length < 64 →
    ∃ t, exec (.stallDeclared (.core c u)) s = .next t ∧ fget t (F.CORE_STALL_STATUS.UNIT c) = u ∧
      Raised (E.CORE_STALL_STATUS.STALL c) s t ∧
      t = { s with
        regs := t.regs
        recorder := { s.recorder with queue := s.recorder.queue ++ [{ plainEv cStall (0x10 + c.val) 3 with pcore := c }] } } ∧
      OnlyRegs [R.CORE_STALL_STATUS c] s t)

/-- CARVE_LOCK (R42 to R46) of a Loft that is up. Not yet locked, with sizes in range (CACHE 0 to 48, bins 8 to 32, Pit 1
to 8, saves 1 to 32 MiB, each table 2 and 1 MiB) that leave SCRATCH at least 4 MiB: the lock reads 1 and
LOFT_SCRATCH_SIZE reports 64 MiB less CACHE less RESERVED, no other register changes, and the fence table in memory
holds the entry of every fence (R308, R324), nothing outside it having changed. With any size out of range, or SCRATCH
below 4 MiB: CARVE_ERR is set and counted, the carving stays unlocked and no size changes. Already locked, nothing
changes. (spec/01_fabric_and_loft.md) -/
def Obligations.CarveLockTakesOrRefuses : Prop :=
  (∀ s : State, domOn s dLoft = true → (∀ p ∈ s.fences, p.1 < 65536) → carved s = false → fget s F.LOFT_CACHE_SIZE.CACHE_MIB ≤ 48 → 8 ≤ fget s F.LOFT_BIN_SIZE.BIN_MIB →
    fget s F.LOFT_BIN_SIZE.BIN_MIB ≤ 32 → 1 ≤ fget s F.LOFT_PIT_SIZE.PIT_MIB → fget s F.LOFT_PIT_SIZE.PIT_MIB ≤ 8 →
    1 ≤ fget s F.LOFT_SAVE_SIZE.SAVE_MIB → fget s F.LOFT_SAVE_SIZE.SAVE_MIB ≤ 32 →
    4 + fget s F.LOFT_CACHE_SIZE.CACHE_MIB + (2 + 1 + fget s F.LOFT_BIN_SIZE.BIN_MIB + fget s F.LOFT_PIT_SIZE.PIT_MIB +
      fget s F.LOFT_SAVE_SIZE.SAVE_MIB) ≤ 64 →
    ∃ t, exec .carveLock s = .next t ∧ carved t = true ∧
      fget t F.LOFT_SCRATCH_SIZE.SCRATCH_MIB + fget s F.LOFT_CACHE_SIZE.CACHE_MIB + (3 + fget s F.LOFT_BIN_SIZE.BIN_MIB +
        fget s F.LOFT_PIT_SIZE.PIT_MIB + fget s F.LOFT_SAVE_SIZE.SAVE_MIB) = 64 ∧
      OnlyRegs [R.LOFT_SCRATCH_SIZE, R.LOFT_CTRL] s t ∧ MemOutside (fenceTable s) mib s t ∧
      (∀ x < 65536, mgets 0 t.mem (fenceTable s + 16 * x) 16 = (fenceOf s x).bytes) ∧ (∀ x, fenceOf t x = fenceOf s x) ∧
      t = { s with
        regs := t.regs
        mem := t.mem
        ueWords := t.ueWords
        fences := t.fences }) ∧
  (∀ s : State, domOn s dLoft = true → carved s = false → (48 < fget s F.LOFT_CACHE_SIZE.CACHE_MIB ∨ fget s F.LOFT_BIN_SIZE.BIN_MIB < 8 ∨
      32 < fget s F.LOFT_BIN_SIZE.BIN_MIB ∨ fget s F.LOFT_PIT_SIZE.PIT_MIB < 1 ∨ 8 < fget s F.LOFT_PIT_SIZE.PIT_MIB ∨
      fget s F.LOFT_SAVE_SIZE.SAVE_MIB < 1 ∨ 32 < fget s F.LOFT_SAVE_SIZE.SAVE_MIB ∨
      60 < fget s F.LOFT_CACHE_SIZE.CACHE_MIB + (3 + fget s F.LOFT_BIN_SIZE.BIN_MIB + fget s F.LOFT_PIT_SIZE.PIT_MIB +
        fget s F.LOFT_SAVE_SIZE.SAVE_MIB)) →
    ∃ t, exec .carveLock s = .next t ∧ Raised E.LOFT_CARVE_STATUS.CARVE_ERR s t ∧ carved t = false ∧
      Alters [R.LOFT_CARVE_STATUS] s t) ∧
  (∀ s : State, domOn s dLoft = true → carved s = true → exec .carveLock s = .next s)

/-- LOFT_BANK_GRANT (R38 to R41, R60, R373, R434): a bank with requests waiting, its quadrant up, grants one whose class
no other waiting there precedes in the order RT, PRIV, NORMAL, BULK. Granted with no fill to make, the ownership check
passed, its line not marked bad and no word it reads known bad, a load is answered with the bytes read and a store
writes exactly its bytes; a failed check answers its code with memory unchanged. A block's access is granted unless a
core's request of a higher class waits, which is then granted instead (R40, R41); granted, with a single-bit error it
counts it and sets CE (R60), with none it changes nothing. An empty bank grants nothing. An access to a line marked
bad is answered MEM_UNCORRECTABLE (R62). A gated quadrant grants nothing: its wake starts unless it runs, and the
access is counted, each time that it waits (R434). LOFT_REQ_PROMOTE makes the oldest NORMAL or BULK request of the
bank PRIV (R41). Nothing else changes. (spec/01_fabric_and_loft.md; spec/11_translation.md) -/
def Obligations.LoftBankGrants : Prop :=
  (∀ (b : Fin 64) (s : State) (r : Req), bankPick s b = some r → r ∈ s.reqs ∧ r.at_ = .bank b ∧
    ∀ q ∈ s.reqs, q.at_ = .bank b → clsRank r.cls ≤ clsRank q.cls) ∧
  (∀ (b : Fin 64) (s : State) (r : Req) (n : Nat), bankPick s b = some r → domOn s (dLoft + b.val / 16) = true → r.fills = [] → r.kind = .load n → reqCheck s r = cOk →
    badLine s r.addr = false → eccOf s r .clean = .clean → exec (.loftBankGrant b none .clean false) s =
      .next { s with reqs := mapWhere (·.id == r.id) (fun q => { q with at_ := .done cOk (devRead s r.addr n) }) s.reqs }) ∧
  (∀ (b : Fin 64) (s : State) (r : Req) (bs : List Byte), bankPick s b = some r → domOn s (dLoft + b.val / 16) = true → r.fills = [] → r.kind = .store bs →
    reqCheck s r = cOk → badLine s r.addr = false → eccOf s r .clean = .clean → ∃ t, exec (.loftBankGrant b none .clean false) s = .next t ∧
      t = { s with
        reqs := mapWhere (·.id == r.id) (fun q => { q with at_ := .done cOk [] }) s.reqs
        mem := t.mem
        ueWords := t.ueWords
        caches := t.caches } ∧
      mgets 0 t.mem r.addr bs.length = bs ∧ MemOutside r.addr bs.length s t) ∧
  (∀ (b : Fin 64) (s : State) (r : Req), bankPick s b = some r → domOn s (dLoft + b.val / 16) = true → reqCheck s r ≠ cOk →
    exec (.loftBankGrant b none .clean false) s =
      .next { s with reqs := mapWhere (·.id == r.id) (fun q => { q with at_ := .done (reqCheck s r) [] }) s.reqs }) ∧
  (∀ (b : Fin 64) (s : State) (r : Req) (e : Ecc), bankPick s b = some r → domOn s (dLoft + b.val / 16) = true →
    reqCheck s r = cOk → badLine s r.addr = true → exec (.loftBankGrant b none e false) s =
      .next { s with reqs := mapWhere (·.id == r.id) (fun q => { q with at_ := .done cMemUe [] }) s.reqs }) ∧
  (∀ (b : Fin 64) (s : State), bankPick s b = none → exec (.loftBankGrant b none .clean false) s = .next s) ∧
  (∀ (b : Fin 64) (acc : Option BankAcc) (e : Ecc) (tb : Bool) (s : State), domOn s (dLoft + b.val / 16) = false →
    acc ≠ none ∨ bankPick s b ≠ none → exec (.loftBankGrant b acc e tb) s = .next (wakeFor s [dLoft + b.val / 16])) ∧
  (∀ (d : Fin 28) (s : State), domOn s d = false → bit s.pwr.waking d = true ∨ (bit (fget s F.RST_PENDING.PENDING) d = false ∧
      relReady s d = true ∧ fget s F.RST_BOOT_STATE.STATE ≠ 8) →
    ∃ t, t = wakeFor s [d.val] ∧ rdN t R.PWR_WAKE_STALL = min 0xFFFFFFFF (rdN s R.PWR_WAKE_STALL + 1) ∧
      OnlyRegs [R.PWR_WAKE_STALL] s t ∧ t = { s with
        regs := t.regs
        pwr := { s.pwr with waking := if bit s.pwr.waking d then s.pwr.waking else putBits s.pwr.waking d d 1 } }) ∧
  (∀ (b : Fin 64) (x : BankAcc) (s : State) (r : Req) (e : Ecc) (tb : Bool), bankPick s b = some r →
    clsRank r.cls < clsRank (accCls s x) → exec (.loftBankGrant b (some x) e tb) s = exec (.loftBankGrant b none e tb) s) ∧
  (∀ (b : Fin 64) (x : BankAcc) (s : State), (∀ r, bankPick s b = some r → clsRank (accCls s x) ≤ clsRank r.cls) →
    domOn s (dLoft + b.val / 16) = true → exec (.loftBankGrant b (some x) .clean false) s = .next s ∧
    ∃ t, exec (.loftBankGrant b (some x) .single false) s = .next t ∧ Raised E.LOFT_ECC_STATUS.CE s t ∧
      rdN t R.LOFT_ECC_CE_COUNT = min 0xFFFFFFFF (rdN s R.LOFT_ECC_CE_COUNT + 1) ∧
      Alters [R.LOFT_ECC_CE_COUNT, E.LOFT_ECC_STATUS.CE.bit.reg, E.LOFT_ECC_STATUS.CE.evt.reg] s t) ∧
  (∀ (b : Fin 64) (s : State) (l m : List Req) (r : Req), s.reqs = l ++ r :: m → r.at_ = .bank b →
    r.cls = .normal ∨ r.cls = .bulk → (∀ q ∈ l, q.at_ = .bank b → q.cls ≠ .normal ∧ q.cls ≠ .bulk) →
    exec (.loftReqPromote b) s = .next { s with reqs := l ++ { r with cls := .priv } :: m })

/-- SCRUB_STEP (R64) with a non-zero INTERVAL that finds nothing moves to the next row, after row 16,383 to row 0, and
changes nothing else; an INTERVAL of 0 stops it. One single-bit error found is counted and sets CE first.
MEMC_SCRUB_STEP (R535) does so for the DRAM's lines while INTERVAL is not 0 and DRAM is not in self-refresh, and
stands still otherwise; with a commit pending at the controller that step applies the committed INTERVAL. DRAM_ACCESS
(R534) serves the oldest request that waits for the memory controller: a load that passes its check is answered with
the bytes there; a single-bit error on the way is counted and sets CE, and the requester sees no error. It makes a
block's own access with the same outcomes. While the controller's domain is gated both wait for its wake (R434), and
while DRAM changes its rate both wait and nothing changes (R451). (spec/01_fabric_and_loft.md;
spec/18_register_map.md) -/
def Obligations.ScrubbersAndDram : Prop :=
  (∀ s : State, fget s F.LOFT_SCRUB_INTERVAL.INTERVAL ≠ 0 →
    exec (.scrubStep []) s = .next { s with scrubRow := (s.scrubRow + 1) % 16384 }) ∧
  (∀ (b : Fin 64) (s : State), fget s F.LOFT_SCRUB_INTERVAL.INTERVAL ≠ 0 → ∃ t, exec (.scrubStep [(b, .single)]) s = .next t ∧
    Raised E.LOFT_ECC_STATUS.CE s t ∧ rdN t R.LOFT_ECC_CE_COUNT = min 0xFFFFFFFF (rdN s R.LOFT_ECC_CE_COUNT + 1) ∧
    t = { s with regs := t.regs, scrubRow := (s.scrubRow + 1) % 16384 }) ∧
  (∀ (l : List (Fin 64 × Ecc)) (s : State), fget s F.LOFT_SCRUB_INTERVAL.INTERVAL = 0 → exec (.scrubStep l) s = .next s) ∧
  (∀ s : State, aget s F.MEMC_SCRUB_INTERVAL.INTERVAL ≠ 0 → fbit s F.MEMC_STATE.SELF_REFRESH = false →
    scPending s 9 = false → exec (.memcScrubStep []) s = .next { s with memcLine := (s.memcLine + 1) % 2 ^ 27 }) ∧
  (∀ s : State, aget s F.MEMC_SCRUB_INTERVAL.INTERVAL ≠ 0 → fbit s F.MEMC_STATE.SELF_REFRESH = false → scPending s 9 = true →
    ∃ t, exec (.memcScrubStep []) s = .next t ∧ t.applied = (applyRegs s (· == R.MEMC_SCRUB_INTERVAL)).applied ∧
      scPending t 9 = false ∧ rd t (R.SMGR_SC_APPLIED 9) = rd s R.SMGR_SC_GEN ∧ t.memcLine = (s.memcLine + 1) % 2 ^ 27) ∧
  (∀ (l : List (Fin 4 × Ecc)) (s : State), aget s F.MEMC_SCRUB_INTERVAL.INTERVAL = 0 ∨ fbit s F.MEMC_STATE.SELF_REFRESH = true →
    exec (.memcScrubStep l) s = .next s) ∧
  (∀ (s : State) (r : Req) (n : Nat), s.reqs.find? (·.at_ == .dram) = some r → r.fills = [] → r.kind = .load n →
    serves s dMemc = true → reqCheck s r = cOk → badLine s r.addr = false → eccOf s r .clean = .clean → exec (.dramAccess none .clean false) s =
      .next { s with reqs := mapWhere (·.id == r.id) (fun q => { q with at_ := .done cOk (devRead s r.addr n) }) s.reqs }) ∧
  (∀ (s : State) (r : Req) (n : Nat), s.reqs.find? (·.at_ == .dram) = some r → r.fills = [] → r.kind = .load n →
    serves s dMemc = true → reqCheck s r = cOk → badLine s r.addr = false → eccOf s r .single = .single → ∃ t, exec (.dramAccess none .single false) s = .next t ∧ Raised E.MEMC_ECC_STATUS.CE s t ∧
      t = { s with
        regs := t.regs
        reqs := mapWhere (·.id == r.id) (fun q => { q with at_ := .done cOk (devRead s r.addr n) }) s.reqs }) ∧
  (∀ (s : State) (x : DramAcc), reach s x.addr.toNat = .dram → serves s dMemc = true →
    exec (.dramAccess (some x) .clean false) s = .next s ∧
    ∃ t, exec (.dramAccess (some x) .single false) s = .next t ∧ Raised E.MEMC_ECC_STATUS.CE s t ∧ RegsAlone s t) ∧
  (∀ (acc : Option DramAcc) (e : Ecc) (tb : Bool) (s : State), domOn s dMemc = false →
    ((∃ x, acc = some x ∧ reach s x.addr.toNat = .dram) ∨ (acc = none ∧ ∃ r, s.reqs.find? (·.at_ == .dram) = some r)) →
    exec (.dramAccess acc e tb) s = .next (wakeFor s [dMemc])) ∧
  (∀ (acc : Option DramAcc) (e : Ecc) (tb : Bool) (s : State), domOn s dMemc = true → fbit s F.MEMC_STATE.SWITCHING = true →
    exec (.dramAccess acc e tb) s = .next s)

/-- For the CACHE region and every core's L1, whose domain is up. CACHE_ENABLE with INV_VALID 1 enables the cache; with
INV_VALID 0 and EN 0, EN stays 0 and ENABLE_REFUSED is set and counted (R51). CACHE_DISABLE of an enabled write-
through cache disables it at once and clears INV_VALID; of an enabled write-back cache it sets BUSY, EN still reading
1, every line then being clean; of a disabled cache, or of one whose write-back runs, it changes nothing (R52).
CACHE_DISABLE_DONE completes the disable: EN reads 0 and INV_VALID clears, and BUSY stays while a command runs (R51 to
R53). CACHE_MODE_SET on a cache that is not forced to write-through changes MODE while EN reads 0, and while EN reads
1 a write that would change it sets and counts CMD_REFUSED and leaves MODE; in a forced mode the write is ignored
(R50). (spec/01_fabric_and_loft.md) -/
def Obligations.CacheEnableDisableMode : Prop :=
  (∀ (c : CacheId) (s : State), domOn s (cacheDom c) = true → fbit s (cacheInvValid (cacheKey c)) = true → ∃ t, exec (.cacheEnable c) s = .next t ∧
    fbit t (cacheEn (cacheKey c)) = true ∧ Alters [cacheReg (cacheKey c) 0, cacheReg (cacheKey c) 0x14] s t) ∧
  (∀ (c : CacheId) (s : State), domOn s (cacheDom c) = true → fbit s (cacheInvValid (cacheKey c)) = false → fbit s (cacheEn (cacheKey c)) = false →
    ∃ t, exec (.cacheEnable c) s = .next t ∧ fbit t (cacheEn (cacheKey c)) = false ∧ Raised (cacheEnRefused (cacheKey c)) s t ∧
      Alters [cacheReg (cacheKey c) 0x14, cacheReg (cacheKey c) 0x18] s t) ∧
  (∀ (c : CacheId) (s : State), domOn s (cacheDom c) = true → fbit s (cacheEn (cacheKey c)) = true → writeThrough s (cacheKey c) = true →
    (cacheOf s (cacheKey c)).disabling = false → ∃ t, exec (.cacheDisable c) s = .next t ∧ fbit t (cacheEn (cacheKey c)) = false ∧
      fbit t (cacheInvValid (cacheKey c)) = false ∧ t.mem = s.mem) ∧
  (∀ (c : CacheId) (s : State), domOn s (cacheDom c) = true → fbit s (cacheEn (cacheKey c)) = true → writeThrough s (cacheKey c) = false →
    ∃ t, exec (.cacheDisable c) s = .next t ∧ fbit t (cacheEn (cacheKey c)) = true ∧ fbit t (cacheBusy (cacheKey c)) = true ∧
      ∀ l ∈ (cacheOf t (cacheKey c)).lines, l.dirty = 0 ∨ l.bad = true) ∧
  (∀ (c : CacheId) (s : State), domOn s (cacheDom c) = true → fbit s (cacheEn (cacheKey c)) = false ∨ (cacheOf s (cacheKey c)).disabling = true →
    exec (.cacheDisable c) s = .next s) ∧
  (∀ (c : CacheId) (s : State), (cacheOf s (cacheKey c)).disabling = true → ∃ t, exec (.cacheDisableDone c) s = .next t ∧
    fbit t (cacheEn (cacheKey c)) = false ∧ fbit t (cacheInvValid (cacheKey c)) = false ∧
    fbit t (cacheBusy (cacheKey c)) = (cacheOf s (cacheKey c)).cmo.isSome ∧
    (cacheOf t (cacheKey c)).disabling = false ∧ t.mem = s.mem) ∧
  (∀ (c : CacheId) (m : Bool) (s : State), domOn s (cacheDom c) = true → cacheForced s (cacheKey c) = false → fbit s (cacheEn (cacheKey c)) = false →
    ∃ t, exec (.cacheModeSet c m) s = .next t ∧ fbit t (cacheModeF (cacheKey c)) = m ∧ Alters [cacheReg (cacheKey c) 0] s t) ∧
  (∀ (c : CacheId) (m : Bool) (s : State), domOn s (cacheDom c) = true → cacheForced s (cacheKey c) = false → fbit s (cacheEn (cacheKey c)) = true →
    fbit s (cacheModeF (cacheKey c)) ≠ m → ∃ t, exec (.cacheModeSet c m) s = .next t ∧
      fbit t (cacheModeF (cacheKey c)) = fbit s (cacheModeF (cacheKey c)) ∧ Raised (cacheCmdRefused (cacheKey c)) s t) ∧
  (∀ (c : CacheId) (m : Bool) (s : State), domOn s (cacheDom c) = true → cacheForced s (cacheKey c) = true → exec (.cacheModeSet c m) s = .next s)

/-- Of a cache whose domain is up. With BUSY 0 (R53): INVALIDATE_ALL of a disabled cache drops every line with no byte
written; CLEAN_ALL leaves no dirty byte but in lines marked bad (the L1 of a fenced core writes nothing back, R207),
and CLEAN_AND_INVALIDATE_ALL leaves no line; the range forms do so for the lines of the range alone: INVALIDATE_RANGE
drops them and keeps the others as they were, with no byte written, CLEAN_RANGE leaves them clean,
CLEAN_AND_INVALIDATE_RANGE leaves none of them. What the four cleaning commands write is the dirty bytes of those
lines that are not marked bad, each at its address, and every other byte of memory stays (of the CACHE region, and of
an L1 while the CACHE region holds no line on the way). Each sets BUSY. With BUSY 1 each is refused: CMD_REFUSED is
set and counted and nothing else changes, as INVALIDATE_ALL is while EN reads 1. CACHE_CMD_DONE clears BUSY unless a
disable's write-back runs, and the completion of an invalidate-all sets INV_VALID (R51). (spec/01_fabric_and_loft.md) -/
def Obligations.CacheMaintenanceCommands : Prop :=
  (∀ (c : CacheId) (s : State), domOn s (cacheDom c) = true → fbit s (cacheBusy (cacheKey c)) = false → fbit s (cacheEn (cacheKey c)) = false →
    ∃ t, exec (.invalidateAll c) s = .next t ∧ (cacheOf t (cacheKey c)).lines = [] ∧ t.mem = s.mem ∧
      fbit t (cacheBusy (cacheKey c)) = true ∧ OnlyRegs [cacheReg (cacheKey c) 0x14] s t) ∧
  (∀ (c : CacheId) (s : State), domOn s (cacheDom c) = true → fbit s (cacheBusy (cacheKey c)) = false →
    portFenced s (cacheKey c) = false → ∃ t, exec (.cleanAll c) s = .next t ∧
    (∀ l ∈ (cacheOf t (cacheKey c)).lines, l.dirty = 0 ∨ l.bad = true) ∧ fbit t (cacheBusy (cacheKey c)) = true ∧
      OnlyRegs [cacheReg (cacheKey c) 0x14] s t) ∧
  (∀ (c : CacheId) (s : State), domOn s (cacheDom c) = true → fbit s (cacheBusy (cacheKey c)) = false →
    ∃ t, exec (.cleanAndInvalidateAll c) s = .next t ∧
    (cacheOf t (cacheKey c)).lines = [] ∧ fbit t (cacheBusy (cacheKey c)) = true ∧ OnlyRegs [cacheReg (cacheKey c) 0x14] s t) ∧
  (∀ (c : CacheId) (s : State), domOn s (cacheDom c) = true → fbit s (cacheBusy (cacheKey c)) = false →
    portFenced s (cacheKey c) = false → ∃ t, exec (.cleanRange c) s = .next t ∧
    (∀ l ∈ (cacheOf t (cacheKey c)).lines, inLines (cmoRange s (cacheKey c)) l = true → l.dirty = 0 ∨ l.bad = true) ∧
      fbit t (cacheBusy (cacheKey c)) = true ∧ OnlyRegs [cacheReg (cacheKey c) 0x14] s t) ∧
  (∀ (c : CacheId) (s : State), domOn s (cacheDom c) = true → fbit s (cacheBusy (cacheKey c)) = false →
    ∃ t, exec (.invalidateRange c) s = .next t ∧
    (cacheOf t (cacheKey c)).lines = (cacheOf s (cacheKey c)).lines.filter (!inLines (cmoRange s (cacheKey c)) ·) ∧
      t.mem = s.mem ∧ fbit t (cacheBusy (cacheKey c)) = true ∧ OnlyRegs [cacheReg (cacheKey c) 0x14] s t) ∧
  (∀ (c : CacheId) (s : State), domOn s (cacheDom c) = true → fbit s (cacheBusy (cacheKey c)) = false →
    ∃ t, exec (.cleanAndInvalidateRange c) s = .next t ∧
    (∀ l ∈ (cacheOf t (cacheKey c)).lines, inLines (cmoRange s (cacheKey c)) l = false) ∧
      fbit t (cacheBusy (cacheKey c)) = true ∧ OnlyRegs [cacheReg (cacheKey c) 0x14] s t) ∧
  (∀ (c : CacheId) (i : Instr) (p : Line → Bool) (s : State) (x : Nat), domOn s (cacheDom c) = true →
    fbit s (cacheBusy (cacheKey c)) = false → portFenced s (cacheKey c) = false → c = .loft ∨ cacheOn s 0 = false →
    ((cacheOf s (cacheKey c)).lines.map (·.line)).Nodup →
    (i = .cleanAll c ∧ p = fun _ => true) ∨ (i = .cleanAndInvalidateAll c ∧ p = fun _ => true) ∨
      (i = .cleanRange c ∧ p = inLines (cmoRange s (cacheKey c))) ∨
      (i = .cleanAndInvalidateRange c ∧ p = inLines (cmoRange s (cacheKey c))) →
    ∃ t, exec i s = .next t ∧ memByte t x =
      match (cacheOf s (cacheKey c)).lines.find? fun l => p l && l.line == x / 64 && !l.bad && bit l.dirty (x % 64) with
      | some l => l.data.getD (x % 64) 0
      | none => memByte s x) ∧
  (∀ (c : CacheId) (i : Instr) (s : State), domOn s (cacheDom c) = true → fbit s (cacheBusy (cacheKey c)) = true →
    i ∈ [.invalidateAll c, .cleanAll c, .cleanAndInvalidateAll c, .cleanRange c, .invalidateRange c, .cleanAndInvalidateRange c] →
    ∃ t, exec i s = .next t ∧ Raised (cacheCmdRefused (cacheKey c)) s t ∧
      Alters [cacheReg (cacheKey c) 0x14, cacheReg (cacheKey c) 0x18] s t) ∧
  (∀ (c : CacheId) (s : State), domOn s (cacheDom c) = true → fbit s (cacheEn (cacheKey c)) = true → ∃ t, exec (.invalidateAll c) s = .next t ∧
    Raised (cacheCmdRefused (cacheKey c)) s t ∧ Alters [cacheReg (cacheKey c) 0x14, cacheReg (cacheKey c) 0x18] s t) ∧
  (∀ (c : CacheId) (m : Cmo) (s : State), (cacheOf s (cacheKey c)).cmo = some m → ∃ t, exec (.cacheCmdDone c) s = .next t ∧
    fbit t (cacheBusy (cacheKey c)) = (cacheOf s (cacheKey c)).disabling ∧ (cacheOf t (cacheKey c)).cmo = none ∧ t.mem = s.mem ∧
    fbit t (cacheInvValid (cacheKey c)) = (m.op == 1 || fbit s (cacheInvValid (cacheKey c))))

/-- CACHE_ACCESS takes the oldest request that waits at the cache with no older one of its port to its line on the way
(R38). At a disabled L1 it goes on to where its address lies, unchanged; at an enabled L1, not under test and with no
store to make, a load that hits a good line of its own context, with no fill owed, is answered with the line's bytes
(R47 to R49). At the CACHE region a request that fails the ownership check is answered with that code (R373), one
whose granule's tag is found bad with MEM_UNCORRECTABLE (R376), and one to a line marked bad so too (R62). CACHE_FILL
takes the oldest request whose line is back for the cache: with no further cache to fill, a load is answered with its
bytes of the line, or with MEM_UNCORRECTABLE when the line is marked bad (R62). An enabled write-back cache that does
not hold the line, with a way free, then holds it (R48); a cache disabled meanwhile or in write-through mode, and one
past which a write of the line is on its way or whose tag no longer admits the request, holds what it held (R49, R52,
R97, R375). PREFETCH_FILL takes the oldest line asked for: it is dropped when the cache is off, in write-through mode,
holds the line or has a write to it on the way, or when translation or the ownership check fails (R49, R56, R57, R97);
else it enters the side buffer last, and no other line of the cache moves (R56). (spec/01_fabric_and_loft.md;
spec/11_translation.md) -/
def Obligations.CacheAccessAndFill : Prop :=
  (∀ (c : CacheId) (tb : Bool) (s : State), lookupNext s (cacheKey c) = none → exec (.cacheAccess c tb) s = .next s) ∧
  (∀ (c : Fin 17) (tb : Bool) (s : State) (r : Req), lookupNext s (c + 1) = some r → fbit s (cacheEn (c + 1)) = false →
    exec (.cacheAccess (.l1 c) tb) s =
      .next { s with reqs := mapWhere (·.id == r.id) (fun q => { q with at_ := regulated s r (routeOf s (c + 1) r) }) s.reqs }) ∧
  (∀ (c : Fin 17) (tb : Bool) (s : State) (r : Req) (l : Line) (n : Nat), lookupNext s (c + 1) = some r →
    fbit s (cacheEn (c + 1)) = true → fbit s (cachePfEn (c + 1)) = false → r.kind = .load n → r.fills = [] →
    (cacheOf s (c + 1)).lines.find? (·.line == r.addr / 64) = some l → l.cid = r.cid → l.bad = false →
    ∃ t, exec (.cacheAccess (.l1 c) tb) s = .next t ∧
      t = { s with
        caches := t.caches
        reqs := mapWhere (·.id == r.id) (fun q => { q with at_ := .done cOk ((l.data.drop (r.addr % 64)).take n) }) s.reqs } ∧
      (cacheOf t (c + 1)).lines = l :: (cacheOf s (c + 1)).lines.filter (·.line != l.line)) ∧
  (∀ (s : State) (r : Req), lookupNext s 0 = some r → reqCheck s r ≠ cOk → exec (.cacheAccess .loft false) s =
      .next { s with reqs := mapWhere (·.id == r.id) (fun q => { q with at_ := .done (reqCheck s r) [] }) s.reqs }) ∧
  (∀ (s : State) (r : Req), lookupNext s 0 = some r → reqCheck s r = cOk → badLine s r.addr = true →
    exec (.cacheAccess .loft false) s =
      .next { s with reqs := mapWhere (·.id == r.id) (fun q => { q with at_ := .done cMemUe [] }) s.reqs }) ∧
  (∀ (s : State) (r : Req), lookupNext s 0 = some r → r.cid < 1024 → reach s r.addr = .dram →
    ∃ t, exec (.cacheAccess .loft true) s = .next t ∧ granule r.addr ∈ t.badTags ∧ Raised E.XLAT_EVENT.OTT_UE s t ∧
      t.reqs = mapWhere (·.id == r.id) (fun q => { q with at_ := .done cMemUe [] }) s.reqs ∧ t.mem = s.mem) ∧
  (∀ (c : CacheId) (s : State) (r : Req) (n : Nat), filling s (cacheKey c) = some r → r.kind = .load n →
    r.fills = [cacheKey c] → (cacheOf s (cacheKey c)).lines.find? (·.line == r.addr / 64) = none → badLine s r.addr = false →
    ∃ t, exec (.cacheFill c) s = .next t ∧
      (∀ q ∈ t.reqs, q.id = r.id →
        q.at_ = .done cOk (((backing s (cacheKey c) (r.addr / 64)).drop (r.addr % 64)).take n)) ∧
      (∀ q ∈ s.reqs, q.id ≠ r.id → q ∈ t.reqs) ∧
      (cacheOn s (cacheKey c) = false ∨ writeThrough s (cacheKey c) = true ∨ writePast s (cacheKey c) r = true ∨
        reqCheck s r ≠ cOk → t.caches = s.caches) ∧
      (cacheOn s (cacheKey c) = true → writeThrough s (cacheKey c) = false → writePast s (cacheKey c) r = false →
        reqCheck s r = cOk →
        ((cacheOf s (cacheKey c)).lines.filter (sameSet s (cacheKey c) (r.addr / 64))).length < setWays s (cacheKey c) →
        ((cacheOf t (cacheKey c)).lines.head?.map fun l => (l.line, l.data)) =
          some (r.addr / 64, backing s (cacheKey c) (r.addr / 64)))) ∧
  (∀ (c : CacheId) (s : State) (r : Req), filling s (cacheKey c) = some r → badLine s r.addr = true →
    exec (.cacheFill c) s =
      .next { s with reqs := mapWhere (·.id == r.id) (fun q => { q with at_ := .done cMemUe [] }) s.reqs }) ∧
  (∀ (c : CacheId) (s : State) (ln cid : Nat) (rest : List (Nat × Nat)), (cacheOf s (cacheKey c)).wanted = (ln, cid) :: rest →
    cid < 1024 → cacheOn s (cacheKey c) = false ∨ writeThrough s (cacheKey c) = true ∨ lineTaken s (cacheKey c) ln = true ∨
      prefetchable s cid (ln * 64) = false →
    ∃ t, exec (.prefetchFill c) s = .next t ∧ t = { s with caches := t.caches } ∧
      cacheOf t (cacheKey c) = { cacheOf s (cacheKey c) with wanted := rest }) ∧
  (∀ (c : CacheId) (s : State) (ln cid : Nat) (rest : List (Nat × Nat)), (cacheOf s (cacheKey c)).wanted = (ln, cid) :: rest →
    cid < 1024 → cacheOn s (cacheKey c) = true → writeThrough s (cacheKey c) = false → lineTaken s (cacheKey c) ln = false →
    badLine s (ln * 64) = false → prefetchable s cid (ln * 64) = true → ∃ t, exec (.prefetchFill c) s = .next t ∧
      t = { s with caches := t.caches, buckets := t.buckets } ∧ (cacheOf t (cacheKey c)).wanted = rest ∧
      (cacheOf t (cacheKey c)).lines = (cacheOf s (cacheKey c)).lines ∧
      ((cacheOf t (cacheKey c)).side.getLast?.map fun l => (l.line, l.data, l.dirty)) =
        some (ln, backing s (cacheKey c) ln, 0) ∧ (cacheOf t (cacheKey c)).side.length ≤ 256)

/-- Parking and merging after a group's threads have moved (R79) change no thread's program counter, return stack,
registers or predicates, and neither the group's slot, workgroup, region nor count of issued instructions; a thread
that waits at a barrier or a matrix instruction, or has exited, is left as it is. After it, no running thread stands
at the top of its join stack. (spec/02_thread_groups.md) -/
def Obligations.ParkingKeepsThreads : Prop :=
  ∀ (now : Nat) (g : Group) (l : Nat), l < 32 →
    ((settle now g).th l).pc = (g.th l).pc ∧ ((settle now g).th l).rets = (g.th l).rets ∧ ((settle now g).th l).regs = (g.th l).regs ∧
      ((settle now g).th l).preds = (g.th l).preds ∧ (settle now g).slot = g.slot ∧ (settle now g).wg = g.wg ∧
      (settle now g).region = g.region ∧ (settle now g).issued = g.issued ∧
      (((g.th l).stat ≠ .run ∧ ∀ n, (g.th l).stat ≠ .parked n) → ((settle now g).th l) = g.th l) ∧
      (((settle now g).th l).stat = .run → ((settle now g).th l).joins.head?.map (·.addr) ≠ some ((settle now g).th l).pc)

/-- For an instruction of class CTRL that issues (R71, R78): a branch sends the threads whose guard holds to TARGET words
from the branch and the others on (R79); a call does so and pushes the next word's address on the return stack of
those threads (R78), but with a full return stack of 16 in one of them the first such lane faults with CALL_DEPTH; a
return whose guarded threads have something to return to pops it; a NOP moves on. Registers and predicates stay,
memory too. EXIT ends the threads whose guard holds, and waits while an access of its threads is outstanding (R81,
R104). Each takes an issue beat, charged to its context unless it is the second of a pair of that context (R66, R334).
(spec/02_thread_groups.md) -/
def Obligations.ControlInstructions : Prop :=
  (∀ (i : Issue) (s : State) (x : Iss), Issues s i x → isCls 0 x.word = true → ∃ t, exec (.ctrlBranch i) s = .next t ∧
    t = { s with cores := t.cores, ctxs := beats s x } ∧ LanesBecome s t x fun l u =>
      if l ∈ x.act then { u with pc := relAddr x.pc (wTarget x.word) } else x.next l u) ∧
  (∀ (i : Issue) (s : State) (x : Iss), Issues s i x → isCls 0 x.word = true → (∀ l ∈ x.act, (x.g.th l).rets.length < 16) →
    ∃ t, exec (.ctrlCall i) s = .next t ∧ t = { s with cores := t.cores, ctxs := beats s x } ∧ LanesBecome s t x fun l u =>
      if l ∈ x.act then { u with pc := relAddr x.pc (wTarget x.word), rets := (x.pc + 8) % 2 ^ 48 :: u.rets }
      else x.next l u) ∧
  (∀ (i : Issue) (s : State) (x : Iss) (l : Nat), Issues s i x → isCls 0 x.word = true →
    x.act.find? (fun l => 16 ≤ (x.g.th l).rets.length) = some l →
    ∃ t, exec (.ctrlCall i) s = .next t ∧ LaneFaults s t x cCallDepth l none) ∧
  (∀ (i : Issue) (s : State) (x : Iss), Issues s i x → isCls 0 x.word = true → (∀ l ∈ x.act, (x.g.th l).rets ≠ []) →
    ∃ t, exec (.ctrlReturn i) s = .next t ∧ t = { s with cores := t.cores, ctxs := beats s x, free := s.free + 1 } ∧ LanesBecome s t x fun l u =>
      if l ∈ x.act then { u with pc := u.rets.headD 0, rets := u.rets.drop 1 } else x.next l u) ∧
  (∀ (i : Issue) (s : State) (x : Iss), Issues s i x → isCls 0 x.word = true → ∃ t, exec (.ctrlNop i) s = .next t ∧
    t = { s with cores := t.cores, ctxs := beats s x } ∧ LanesBecome s t x x.next) ∧
  (∀ (i : Issue) (s : State) (x : Iss), Issues s i x → isCls 0 x.word = true → outstanding s x = true →
    exec (.exit i) s = .next s) ∧
  (∀ (i : Issue) (s : State) (x : Iss), Issues s i x → isCls 0 x.word = true → outstanding s x = false →
    x.act.length < 32 → (∀ l < 32, (x.g.th l).stat = .run ∧ (x.g.th l).joins = []) → x.g.region = none →
    (∀ b ∈ x.w.bars, b = Barrier.fresh) → ∃ t, exec (.exit i) s = .next t ∧ t = { s with cores := t.cores, ctxs := beats s x } ∧
      ∃ g, groupAt t x.core x.g.slot = some g ∧ (∀ l ∈ x.act, (g.th l).stat = .exited) ∧
        ∀ l < 32, l ∉ x.act → (g.th l).stat = .run ∧ (g.th l).regs = (x.g.th l).regs ∧
          (g.th l).pc = if l ∈ x.lanes then (x.pc + 8) % 2 ^ 48 else (x.g.th l).pc)

/-- For an instruction of class IALU, FALU, CVT or XFN that issues with no register of its threads waiting for a load:
each thread whose guard holds has DST replaced by the class's result of its operands (an open function of the class,
OP, modifier bits and the operands, which the spec names without stating), every issuing thread moves on, and nothing
else changes (R72). CMP writes predicate DST[2:0] so, SYS one of the thread, group, workgroup and launch values (R72,
R279), and MOVI the immediate. A write to register 255 is discarded (R68). (spec/02_thread_groups.md) -/
def Obligations.ArithmeticInstructions : Prop :=
  (∀ (mk : Issue → Instr) (cls : Nat), (mk, cls) ∈ [(Instr.ialu, 1), (Instr.falu, 2), (Instr.cvt, 3), (Instr.xfn, 4)] →
    ∀ (i : Issue) (s : State) (x : Iss), Issues s i x → isCls cls x.word = true →
      interlocked s x [(wF3 x.word, 1), (wF2 x.word, 1), (wF1 x.word, 1), (wF0 x.word, 1)] = false →
      ∃ t, exec (mk i) s = .next t ∧ t = { s with cores := t.cores, ctxs := beats s x } ∧ LanesBecome s t x (x.writes (wF3 x.word) fun l =>
        Config.pipe cls (wOp x.word) (bits x.word 15 0) ((x.g.th l).get (wF2 x.word))
          (if wImmb x.word then wF1 x.word else (x.g.th l).get (wF1 x.word)) ((x.g.th l).get (wF0 x.word)))) ∧
  (∀ (i : Issue) (s : State) (x : Iss), Issues s i x → isCls 5 x.word = true →
    interlocked s x [(wF2 x.word, 1), (wF1 x.word, 1), (wF0 x.word, 1)] = false →
    ∃ t, exec (.cmp i) s = .next t ∧ t = { s with cores := t.cores, ctxs := beats s x } ∧ LanesBecome s t x (x.writesPred (wF3 x.word % 8) fun l =>
      Config.compare (wOp x.word) (bits x.word 15 0) ((x.g.th l).get (wF2 x.word))
        (if wImmb x.word then wF1 x.word else (x.g.th l).get (wF1 x.word)) ((x.g.th l).get (wF0 x.word)))) ∧
  (∀ (i : Issue) (s : State) (x : Iss), Issues s i x → isCls 12 x.word = true → interlocked s x [(wF3 x.word, 1)] = false →
    ∃ t, exec (.sys i) s = .next t ∧ t = { s with cores := t.cores, ctxs := beats s x } ∧ ∃ k < 13, LanesBecome s t x (x.writes (wF3 x.word) fun l =>
      (sysValues x l).getD k 0)) ∧
  (∀ (i : Issue) (s : State) (x : Iss), Issues s i x → isCls 13 x.word = true → interlocked s x [(wF3 x.word, 1)] = false →
    ∃ t, exec (.movi i) s = .next t ∧ t = { s with cores := t.cores, ctxs := beats s x } ∧
      LanesBecome s t x (x.writes (wF3 x.word) fun _ => bits x.word 31 0)) ∧
  (∀ (t : Thread) (v r : Nat), t.set 255 v = t ∧ t.get 255 = 0 ∧ (r ≠ 255 → (t.set r v).get r = v % 2 ^ 32) ∧
    ∀ q, q ≠ r → (t.set r v).get q = t.get q)

/-- For a GROUP instruction that issues with no register of its threads waiting for a load (R77): LANE_GET takes SA of the
lane that SB names in the segment, LANE_ROT of the lane SB further round it, LANE_PAIR of the lane whose number
differs in SB's bits, LANE_LEAD of the first issuing lane; a source lane that does not issue supplies 0. FOLD_ADD sums
SA over the segment's issuing lanes modulo 2^32, FOLD_MIN and FOLD_MAX take the least and greatest (signed for TYPE
0), FOLD_RUN sums up to the lane itself; POLL_MASK is the mask, and POLL_COUNT the number in the segment, of issuing
lanes whose predicate holds. Each writes DST of every guarded thread; POLL_EVERY and POLL_SOME write predicate
DST[2:0]. Nothing else changes. (spec/02_thread_groups.md) -/
def Obligations.GroupWideInstructions : Prop :=
  (∀ (mk : Issue → Instr) (op : Nat) (f : Iss → Nat → Nat), (mk, op, f) ∈ ([(Instr.laneGet, 0x10, fun x l =>
          srcLane x (segBase x.word l + opB (x.g.th l) x.word % 2 ^ (wMod x.word + 1))),
        (Instr.laneRot, 0x11, fun x l => srcLane x (segBase x.word l +
          (l - segBase x.word l + opB (x.g.th l) x.word) % 2 ^ (wMod x.word + 1))),
        (Instr.lanePair, 0x12, fun x l => srcLane x (l ^^^ (opB (x.g.th l) x.word % 2 ^ (wMod x.word + 1)))),
        (Instr.laneLead, 0x13, fun x l => srcLane x ((segAct x l).headD l)),
        (Instr.pollMask, 0x16, fun x _ => ((upTo 32).filter fun k => x.act.contains k && polled x k).foldl (fun m k => m + 2 ^ k) 0),
        (Instr.pollCount, 0x17, fun x l => ((segLanes x.word l).filter fun k => x.act.contains k && polled x k).length),
        (Instr.foldAdd, 0x18, fun x l => ((segAct x l).map (srcLane x)).foldl (fun a b => a + b) 0),
        (Instr.foldRun, 0x1B, fun x l => (((segAct x l).filter fun k => decide (k ≤ l)).map (srcLane x)).foldl (fun a b => a + b) 0)]
        : List ((Issue → Instr) × Nat × (Iss → Nat → Nat))) →
    ∀ (i : Issue) (s : State) (x : Iss), Issues s i x → isOp 6 op x.word = true →
      interlocked s x [(wF3 x.word, 1), (wF2 x.word, 1), (wF1 x.word, 1)] = false →
      ∃ t, exec (mk i) s = .next t ∧ t = { s with cores := t.cores, ctxs := beats s x } ∧ LanesBecome s t x (x.writes (wF3 x.word) (f x))) ∧
  (∀ (i : Issue) (s : State) (x : Iss), Issues s i x → isOp 6 0x19 x.word = true →
    interlocked s x [(wF3 x.word, 1), (wF2 x.word, 1), (wF1 x.word, 1)] = false →
    ∃ t, exec (.foldMin i) s = .next t ∧ t = { s with cores := t.cores, ctxs := beats s x } ∧ ∃ f : Nat → Nat,
      LanesBecome s t x (x.writes (wF3 x.word) f) ∧ ∀ l ∈ x.act, (∃ k ∈ segAct x l, f l = srcLane x k) ∧ ∀ k ∈ segAct x l,
        if wType x.word = 0 then sx 32 (f l) ≤ sx 32 (srcLane x k) else f l ≤ srcLane x k) ∧
  (∀ (i : Issue) (s : State) (x : Iss), Issues s i x → isOp 6 0x1A x.word = true →
    interlocked s x [(wF3 x.word, 1), (wF2 x.word, 1), (wF1 x.word, 1)] = false →
    ∃ t, exec (.foldMax i) s = .next t ∧ t = { s with cores := t.cores, ctxs := beats s x } ∧ ∃ f : Nat → Nat,
      LanesBecome s t x (x.writes (wF3 x.word) f) ∧ ∀ l ∈ x.act, (∃ k ∈ segAct x l, f l = srcLane x k) ∧ ∀ k ∈ segAct x l,
        if wType x.word = 0 then sx 32 (srcLane x k) ≤ sx 32 (f l) else srcLane x k ≤ f l) ∧
  (∀ (i : Issue) (s : State) (x : Iss), Issues s i x → isOp 6 0x14 x.word = true → ∃ t, exec (.pollEvery i) s = .next t ∧
    t = { s with cores := t.cores, ctxs := beats s x } ∧ LanesBecome s t x (x.writesPred (wF3 x.word % 8) fun l =>
      decide (∀ k ∈ segAct x l, (x.g.th k).pred (wF2 x.word % 8) = true))) ∧
  (∀ (i : Issue) (s : State) (x : Iss), Issues s i x → isOp 6 0x15 x.word = true → ∃ t, exec (.pollSome i) s = .next t ∧
    t = { s with cores := t.cores, ctxs := beats s x } ∧ LanesBecome s t x (x.writesPred (wF3 x.word % 8) fun l =>
      decide (∃ k ∈ segAct x l, (x.g.th k).pred (wF2 x.word % 8) = true)))

/-- For every instruction row, when its subset is one that may go now (R80): a word that is not valid (a reserved class or
an OP not defined, reserved bits set, a register out of range, or a combination that R73 to R76 or R86 to R89 refuses)
in a group whose address may be fetched from stops the group with a record of ILLEGAL_INSTR at the lowest issuing lane
(R71, R105, R107), and no thread moves. A fetch that translation or ownership refuses stops it with that code and the
address (R362). A word of another class never runs as MOVI: it changes nothing. The second of a pair that R66 or R67
does not admit does not issue: nothing changes; a pair of one group stands at consecutive addresses for the same
threads, neither is a branch, barrier or matrix instruction, and the second names no register that the first writes; a
matrix instruction pairs with no vector instruction. (spec/02_thread_groups.md; spec/11_translation.md) -/
def Obligations.IllegalWordsAndFetches : Prop :=
  (∀ mk ∈ shaderRows,
    ∀ (i : Issue) (s : State) (g : Group) (w : Wg), groupAt s i.core i.slot = some g → wgOf s i.core g = some w → g.halted = false →
      (g.th i.lane).stat = .run → coreRole s i.core ≠ 3 → fair g (subsetOf g i.lane) = true →
      let x : Iss := ⟨i.core, g, w, subsetOf g i.lane, [], (g.th i.lane).pc, i.word.toNat, i.paired⟩
      (i.paired = true → x.joins (coreOf s i.core).beat = false → exec (mk i) s = .next s) ∧
      ((i.paired = true → x.joins (coreOf s i.core).beat = true) →
      ((∃ da nc p n b, xcheck s w.cid x.pc .fetch = .ok da nc p n b) → badWord i.word.toNat w.nregs = true →
        ∃ t, exec (mk i) s = .next t ∧ LaneFaults s t x cIllegal ((subsetOf g i.lane).headD i.lane) none) ∧
      ∀ code, xcheck s w.cid x.pc .fetch = .fault code → ∃ t, exec (mk i) s = .next t ∧ t = { s with cores := t.cores, free := s.free + 1 } ∧
        groupAt t i.core g.slot = some { g with halted := true } ∧
        ((coreOf t i.core).faults.getLast?.map fun f => (f.cid, field f.record 0 2)) = some (w.cid, code % 2 ^ 16))) ∧
  (∀ (i : Issue) (s : State) (x : Iss), Issues s i x → isCls 13 x.word = false → exec (.movi i) s = .next s) ∧
  (∀ a b : Issued, mayPair a b = true →
    (a.slot = b.slot → b.pc = (a.pc + 8) % 2 ^ 48 ∧ a.lanes = b.lanes ∧ wClass a.word ∉ [0, 11] ∧ wClass b.word ∉ [0, 11] ∧
      (∀ r ∈ wWrites a.word, ∀ q ∈ wReads b.word ++ wWrites b.word, r.1 ≠ 255 → q.1 ≠ 255 →
        r.1 + r.2 ≤ q.1 ∨ q.1 + q.2 ≤ r.1)) ∧
    (wClass a.word = 11 → wClass b.word ∉ [1, 2, 3, 4, 5, 11, 13]))

/-- BAR_WAIT with no access of its threads outstanding: arrivals that do not complete the generation are counted and their
threads wait; at group scope, when every live thread of the group arrives together at a fresh barrier, all go on and
the barrier is fresh again (R82, R83). BAR_PASS counts its threads and lets them go on (R84). A FENCE at group or
workgroup scope lets its threads go on; each of the three waits while an access is outstanding (R99, R100).
MREGION_BEGIN outside a region opens one whose entry mask is the issuing threads, inside one faults with
ILLEGAL_INSTR; MREGION_END takes them out of it, and the region of which they were all closes (R86). A matrix
instruction of all the region's live threads executes and writes its eight outputs to each; of only some of them it
waits; outside a region it faults (R86, R87). (spec/02_thread_groups.md) -/
def Obligations.BarriersAndMatrix : Prop :=
  (∀ (i : Issue) (s : State) (x : Iss) (mk : Issue → Instr) (op : Nat), (mk, op) ∈ [(Instr.barWait, 0), (Instr.barPass, 1), (Instr.fence, 2)] →
    Issues s i x → isOp 10 op x.word = true → outstanding s x = true → exec (mk i) s = .next s) ∧
  (∀ (i : Issue) (s : State) (x : Iss), Issues s i x → isOp 10 0 x.word = true → outstanding s x = false → x.act ≠ [] →
    (∀ l < 32, (x.g.th l).stat = .run ∧ (x.g.th l).joins = []) → x.w.bars.getD (wBid x.word) Barrier.fresh = Barrier.fresh →
    wBid x.word < x.w.bars.length → wSScope x.word = 0 → x.act.length < 32 → ∃ t, exec (.barWait i) s = .next t ∧
      t = { s with cores := t.cores, ctxs := beats s x } ∧ ∃ g w, groupAt t x.core x.g.slot = some g ∧ wgOf t x.core g = some w ∧
        w.bars.getD (wBid x.word) Barrier.fresh = ⟨some 0, x.act.map (threadNo x.g), []⟩ ∧
        ∀ l < 32, ((g.th l).stat = if l ∈ x.act then .bar (wBid x.word) false x.word else .run) ∧
          (g.th l).regs = (x.g.th l).regs) ∧
  (∀ (i : Issue) (s : State) (x : Iss), Issues s i x → isOp 10 0 x.word = true → outstanding s x = false →
    (∀ l < 32, (x.g.th l).stat = .run ∧ (x.g.th l).joins = []) → x.act = upTo 32 →
    x.w.bars.getD (wBid x.word) Barrier.fresh = Barrier.fresh → wBid x.word < x.w.bars.length → wSScope x.word = 0 →
    ((coreOf s x.core).groups.filter fun g => g.slot == x.g.slot || g.wg == x.w.id && g.idx == x.g.idx) = [x.g] →
    ∃ t, exec (.barWait i) s = .next t ∧ t = { s with cores := t.cores, ctxs := beats s x } ∧
      ∃ g w, groupAt t x.core x.g.slot = some g ∧ wgOf t x.core g = some w ∧
        w.bars.getD (wBid x.word) Barrier.fresh = Barrier.fresh ∧
        ∀ l < 32, (g.th l).stat = .run ∧ (g.th l).pc = (x.pc + 8) % 2 ^ 48 ∧ (g.th l).regs = (x.g.th l).regs) ∧
  (∀ (i : Issue) (s : State) (x : Iss), Issues s i x → isOp 10 1 x.word = true → outstanding s x = false → x.act ≠ [] →
    (∀ l < 32, (x.g.th l).stat = .run ∧ (x.g.th l).joins = []) → x.w.bars.getD (wBid x.word) Barrier.fresh = Barrier.fresh →
    wBid x.word < x.w.bars.length → wSScope x.word = 0 → x.act.length < 32 → ∃ t, exec (.barPass i) s = .next t ∧
      t = { s with cores := t.cores, ctxs := beats s x } ∧ ∃ g w, groupAt t x.core x.g.slot = some g ∧ wgOf t x.core g = some w ∧
        w.bars.getD (wBid x.word) Barrier.fresh = ⟨some 0, x.act.map (threadNo x.g), []⟩ ∧
        ∀ l < 32, (g.th l).stat = .run ∧ (g.th l).pc = (x.next l (x.g.th l)).pc) ∧
  (∀ (i : Issue) (s : State) (x : Iss), Issues s i x → isOp 10 2 x.word = true → outstanding s x = false → wSScope x.word < 3 →
    ∃ t, exec (.fence i) s = .next t ∧ t = { s with cores := t.cores, ctxs := beats s x } ∧ LanesBecome s t x x.next) ∧
  (∀ (i : Issue) (s : State) (x : Iss), Issues s i x → isOp 10 3 x.word = true → x.g.region.isSome = true →
    ∃ t, exec (.mregionBegin i) s = .next t ∧ LaneFaults s t x cIllegal (x.lanes.headD 0) none) ∧
  (∀ (i : Issue) (s : State) (x : Iss), Issues s i x → isOp 10 3 x.word = true → x.g.region = none →
    ∃ t, exec (.mregionBegin i) s = .next t ∧ t = { s with cores := t.cores, ctxs := beats s x } ∧ ∃ g m, groupAt t x.core x.g.slot = some g ∧
      g.region = some m ∧ (∀ l < 32, bit m l = x.lanes.contains l) ∧ ∀ l < 32, (g.th l).pc = (x.next l (x.g.th l)).pc ∧
        (g.th l).regs = (x.g.th l).regs) ∧
  (∀ (i : Issue) (s : State) (x : Iss), Issues s i x → isOp 10 4 x.word = true → regionLanes x.g = x.lanes →
    ∃ t, exec (.mregionEnd i) s = .next t ∧ t = { s with cores := t.cores, ctxs := beats s x } ∧ ∃ g, groupAt t x.core x.g.slot = some g ∧
      g.region = none ∧ ∀ l < 32, (g.th l).pc = (x.next l (x.g.th l)).pc ∧ (g.th l).regs = (x.g.th l).regs) ∧
  (∀ (mk : Issue → Instr) (op : Nat), (mk, op) ∈ [(Instr.gmac, 0), (Instr.gmacZ, 1)] → ∀ (i : Issue) (s : State) (x : Iss),
    Issues s i x → isOp 11 op x.word = true →
      interlocked s x [(wF3 x.word, 8), (wF2 x.word, 4), (wF1 x.word, 4), (wF0 x.word, 8)] = false → x.lanes = regionLanes x.g →
      ∀ ta tb, etyOf (wType x.word) = some ta → etyOf (bits x.word 11 8) = some tb →
      ∃ t, exec (mk i) s = .next t ∧ t = { s with cores := t.cores, ctxs := beats s x } ∧ LanesBecome s t x fun l u => x.next l
        (if l ∈ x.lanes then (upTo 8).foldl (fun (u : Thread) n => u.set (wF3 x.word + n)
            (matOut x.g x.lanes x.word ta tb (256 / ta.width) (matAnchor x.g x.lanes x.word ta tb (256 / ta.width))
              (l % 16) (l / 16 * 8 + n))) u
          else u)) ∧
  (∀ (mk : Issue → Instr) (op : Nat), (mk, op) ∈ [(Instr.gmac, 0), (Instr.gmacZ, 1)] → ∀ (i : Issue) (s : State) (x : Iss) (l : Nat),
    Issues s i x → isOp 11 op x.word = true → x.lanes.find? (fun l => !(regionLanes x.g).contains l) = some l →
      ∃ t, exec (mk i) s = .next t ∧ LaneFaults s t x cIllegal l none)

/-- LOAD_L that issues with no register and no acquire to wait for (R99) and every address aligned and inside the
allocation: each guarded thread's DATA registers take the little-endian bytes at its address (base plus OFFSET in
units of the size), for sizes of 32 bits and more, and CORE_REPLAY_COUNT goes up by the cost less one, beats charged
to the context too (R73, R93, R94, R96, R334). STORE_L writes each thread's bytes in ascending lane order and leaves
every other byte of the store, and the registers, as they were. The first lane whose address is misaligned or outside
the allocation faults, MISALIGNED before LOCAL_OOB (R74), and no byte is written. (spec/02_thread_groups.md) -/
def Obligations.LocalStoreInstructions : Prop :=
  (∀ (i : Issue) (s : State) (x : Iss), Issues s i x → isOp 7 0 x.word = true → 2 ≤ wSize x.word →
    interlocked s x [(wF3 x.word, wRegs x.word), (wF2 x.word, 1)] = false → acquirePending s x = false → localFault x (fun l => localEa (x.g.th l) x.word) = none →
    ∃ t, exec (.loadL i) s = .next t ∧ t = { s with
        cores := t.cores
        regs := t.regs
        ctxs := (chargeBeats { s with ctxs := beats s x } x.w.cid (localCost x (fun l => localEa (x.g.th l) x.word) - 1) 0).ctxs
        free := s.free + 1 } ∧
      OnlyRegs [R.CORE_REPLAY_COUNT x.core] s t ∧
      rdN t (R.CORE_REPLAY_COUNT x.core) = min 0xFFFFFFFF (rdN s (R.CORE_REPLAY_COUNT x.core) +
        (localCost x (fun l => localEa (x.g.th l) x.word) - 1)) ∧
      LanesBecome s t x fun l u => x.next l (if l ∈ x.act then
        u.setN (wF3 x.word) (wRegs x.word) (leNat (mgets 0 x.w.store (localEa u x.word) (wBytes x.word))) else u)) ∧
  (∀ (i : Issue) (s : State) (x : Iss), Issues s i x → isOp 7 1 x.word = true →
    interlocked s x [(wF3 x.word, wRegs x.word), (wF2 x.word, 1)] = false → acquirePending s x = false → localFault x (fun l => localEa (x.g.th l) x.word) = none →
    ∃ t, exec (.storeL i) s = .next t ∧ t = { s with
        cores := t.cores
        regs := t.regs
        ctxs := (chargeBeats { s with ctxs := beats s x } x.w.cid (localCost x (fun l => localEa (x.g.th l) x.word) - 1) 0).ctxs } ∧
      OnlyRegs [R.CORE_REPLAY_COUNT x.core] s t ∧ ∃ g w, groupAt t x.core x.g.slot = some g ∧ wgOf t x.core g = some w ∧
        w = { x.w with store := w.store } ∧
        (∀ l < 32, (g.th l).regs = (x.g.th l).regs ∧ (g.th l).pc = (x.next l (x.g.th l)).pc) ∧
        (∀ a, (∀ l ∈ x.act, a < localEa (x.g.th l) x.word ∨ localEa (x.g.th l) x.word + wBytes x.word ≤ a) →
          mget 0 w.store a = mget 0 x.w.store a) ∧
        ∀ l, x.act.getLast? = some l → mgets 0 w.store (localEa (x.g.th l) x.word) (wBytes x.word) =
          leBytes (wBytes x.word) ((x.g.th l).getN (wF3 x.word) (wRegs x.word))) ∧
  (∀ (mk : Issue → Instr) (op : Nat), (mk, op) ∈ [(Instr.loadL, 0), (Instr.storeL, 1)] → ∀ (i : Issue) (s : State) (x : Iss) (l : Nat),
    Issues s i x → isOp 7 op x.word = true → interlocked s x [(wF3 x.word, wRegs x.word), (wF2 x.word, 1)] = false → acquirePending s x = false →
    x.act.find? (fun l => localEa (x.g.th l) x.word % wBytes x.word != 0 ||
      decide (x.w.localKib * 1024 < localEa (x.g.th l) x.word + wBytes x.word)) = some l →
    ∃ t, exec (mk i) s = .next t ∧ LaneFaults s t x
      (if localEa (x.g.th l) x.word % wBytes x.word ≠ 0 then cMisaligned else cLocalOob) l none)

/-- LOAD_C, STORE_C, LOAD_CU, LINE_ZERO and the eleven RMW on context memory, issuing with no register and no earlier
access to wait for, every address aligned and translated, its table walks in domains that are up, and no release to
make: one request is added for each guarded thread in ascending lane order, after all earlier ones, with fresh
numbers, the thread's addresses, what it does and the register its answer goes to (256 for none); the threads move on
(R73 to R75, R97, R98). A misaligned or unmapped address in the first such lane faults with MISALIGNED or the
translation's code at that lane and address, and sends nothing (R74). LINE_HINT never faults: with no acquire to wait
for (R99) and the L1 off the threads move on and nothing is asked for. (spec/02_thread_groups.md;
spec/11_translation.md) -/
def Obligations.ContextMemoryInstructions : Prop :=
  (∀ (mk : Issue → Instr) (cls op : Nat) (xk : XKind) (reg : Iss → Nat) (un : Bool) (kind : Iss → Thread → ReqKind)
      (names : Iss → List (Nat × Nat)), (mk, cls, op, xk, reg, un, kind, names) ∈
      ([(Instr.loadC, 8, 0, .read, fun x => wF3 x.word, false, fun x _ => .load (wBytes x.word), fun x => [(wF3 x.word, wRegs x.word)]),
        (Instr.storeC, 8, 1, .write, fun _ => 256, false,
          fun x u => .store (leBytes (wBytes x.word) (u.getN (wF3 x.word) (wRegs x.word))), fun x => [(wF3 x.word, wRegs x.word)]),
        (Instr.loadCu, 8, 2, .read, fun x => wF3 x.word, true, fun x _ => .load (wBytes x.word), fun x => [(wF3 x.word, wRegs x.word)]),
        (Instr.lineZero, 8, 3, .write, fun _ => 256, false, fun _ _ => .zero, fun _ => [])]
        : List ((Issue → Instr) × Nat × Nat × XKind × (Iss → Nat) × Bool × (Iss → Thread → ReqKind) × (Iss → List (Nat × Nat)))) →
    ∀ (i : Issue) (s : State) (x : Iss) (ls : List (Nat × Nat × Nat × Bool)), Issues s i x → isOp cls op x.word = true →
      interlocked s x ((wF2 x.word, 2) :: names x) = false → laneBusy s x (fun l => ctxEa (x.g.th l) x.word) = false →
      walkGated s x.w.cid (x.act.map fun l => ctxEa (x.g.th l) x.word) = [] → laneAddrs s x xk x.act = .ok ls → (wOrder x.word < 2 ∨ wScope x.word < 3) → ∃ t, exec (mk i) s = .next t ∧
        t = { s with regs := t.regs, tc := t.tc, wc := t.wc, cores := t.cores, ctxs := beats s x, reqs := t.reqs, nextReq := s.nextReq + ls.length } ∧
        OnlyRegs [R.XLAT_TC_HIT, R.XLAT_WALKS] s t ∧ LanesBecome s t x x.next ∧
        t.reqs.take s.reqs.length = s.reqs ∧ ls.map (·.1) = x.act ∧
        (t.reqs.drop s.reqs.length).map (fun r => (r.id, r.core, r.slot, r.lane, r.reg, r.cid)) =
          (ls.zipIdx.map fun p => (s.nextReq + p.2, x.core, x.g.slot, p.1.1, reg x, x.w.cid)) ∧
        (t.reqs.drop s.reqs.length).map (fun r => (r.va, r.addr, r.kind, r.nc, r.uncached, r.order, r.scope)) =
          ls.map fun p => (ctxEa (x.g.th p.1) x.word, p.2.2.1, kind x (x.g.th p.1), p.2.2.2, un, wOrder x.word, wScope x.word)) ∧
  (∀ (mk : Issue → Instr) (op : Nat), (mk, op) ∈ [(Instr.rmwAdd, 0), (Instr.rmwSmin, 1), (Instr.rmwSmax, 2), (Instr.rmwUmin, 3),
      (Instr.rmwUmax, 4), (Instr.rmwAnd, 5), (Instr.rmwOr, 6), (Instr.rmwXor, 7), (Instr.rmwSwap, 8), (Instr.rmwCmpswap, 9),
      (Instr.rmwFadd, 10)] →
    ∀ (i : Issue) (s : State) (x : Iss) (ls : List (Nat × Nat × Nat × Bool)), Issues s i x → isOp 9 op x.word = true →
      wSpace x.word = false → interlocked s x ((wF2 x.word, 2) :: (wF3 x.word, wRegs x.word) ::
        (if op = 9 then [(wF1 x.word, wRegs x.word)] else [])) = false →
      laneBusy s x (fun l => ctxEa (x.g.th l) x.word) = false →
      walkGated s x.w.cid (x.act.map fun l => ctxEa (x.g.th l) x.word) = [] → laneAddrs s x .write x.act = .ok ls →
      (wOrder x.word < 2 ∨ wScope x.word < 3) → ∃ t, exec (mk i) s = .next t ∧
        t = { s with regs := t.regs, tc := t.tc, wc := t.wc, cores := t.cores, ctxs := beats s x, reqs := t.reqs, nextReq := s.nextReq + ls.length } ∧
        OnlyRegs [R.XLAT_TC_HIT, R.XLAT_WALKS] s t ∧ LanesBecome s t x x.next ∧
        t.reqs.take s.reqs.length = s.reqs ∧
        (t.reqs.drop s.reqs.length).map (fun r => (r.lane, r.reg, r.addr, r.kind)) = ls.map fun p =>
          (p.1, if wRet x.word then wF3 x.word else 256, p.2.2.1, ReqKind.rmw op (wBytes x.word)
            ((x.g.th p.1).getN (wF3 x.word) (wRegs x.word)) ((x.g.th p.1).getN (wF1 x.word) (wRegs x.word)))) ∧
  (∀ (i : Issue) (s : State) (x : Iss) (code l a : Nat), Issues s i x → isOp 8 0 x.word = true →
    interlocked s x [(wF2 x.word, 2), (wF3 x.word, wRegs x.word)] = false → laneBusy s x (fun l => ctxEa (x.g.th l) x.word) = false →
    walkGated s x.w.cid (x.act.map fun l => ctxEa (x.g.th l) x.word) = [] → laneAddrs s x .read x.act = .fault code l a → ∃ t, exec (.loadC i) s = .next t ∧ LaneFaults s t x code l (some a)) ∧
  (∀ (i : Issue) (s : State) (x : Iss), Issues s i x → isOp 8 4 x.word = true → interlocked s x [(wF2 x.word, 2)] = false →
    acquirePending s x = false → fbit s (cacheEn (x.core + 1)) = false → ∃ t, exec (.lineHint i) s = .next t ∧ t = { s with cores := t.cores, ctxs := beats s x } ∧
      LanesBecome s t x x.next)

/-- For each of the eleven RMW operations on the local store (SPACE 1, R75, R95), relaxed, issuing with no register and no
acquire to wait for and no address fault: the operations of the guarded threads apply to the store one after another
in ascending lane order, each on the 32-bit word at its thread's address; with RET the thread's DATA register takes
the value the word had before its own operation; other registers stay. The operations are R75's: addition modulo 2^32,
signed and unsigned least and greatest, AND, OR, exclusive or, swap, and compare and swap, each on 4 or 8 bytes.
(spec/02_thread_groups.md) -/
def Obligations.LocalAtomics : Prop :=
  (∀ (mk : Issue → Instr) (op : Nat), (mk, op) ∈ [(Instr.rmwAdd, 0), (Instr.rmwSmin, 1), (Instr.rmwSmax, 2), (Instr.rmwUmin, 3),
      (Instr.rmwUmax, 4), (Instr.rmwAnd, 5), (Instr.rmwOr, 6), (Instr.rmwXor, 7), (Instr.rmwSwap, 8), (Instr.rmwCmpswap, 9),
      (Instr.rmwFadd, 10)] →
    ∀ (i : Issue) (s : State) (x : Iss), Issues s i x → isOp 9 op x.word = true → wSpace x.word = true → wOrder x.word = 0 →
      interlocked s x ((wF2 x.word, 1) :: (wF3 x.word, wRegs x.word) ::
        (if op = 9 then [(wF1 x.word, wRegs x.word)] else [])) = false → acquirePending s x = false →
      localFault x (fun l => localEa (x.g.th l) x.word) = none → ∃ t, exec (mk i) s = .next t ∧
        t = { s with
          cores := t.cores
          regs := t.regs
          ctxs := (chargeBeats { s with ctxs := beats s x } x.w.cid (atomicCost x (fun l => localEa (x.g.th l) x.word) - 1)
            0).ctxs } ∧ OnlyRegs [R.CORE_REPLAY_COUNT x.core] s t ∧
        ∃ g w, groupAt t x.core x.g.slot = some g ∧ wgOf t x.core g = some w ∧
          let go := fun (m : SMap Byte) (l : Nat) => mputs 0 m (localEa (x.g.th l) x.word)
            (leBytes 4 (rmwValue op 4 (leNat (mgets 0 m (localEa (x.g.th l) x.word) 4)) ((x.g.th l).get (wF3 x.word))
              ((x.g.th l).get (wF1 x.word))))
          w.store = x.act.foldl go x.w.store ∧
          ∀ k l ls, x.act = k ++ l :: ls → (g.th l).pc = (x.pc + 8) % 2 ^ 48 ∧
            ∀ r < 255, (g.th l).get r = if r = wF3 x.word ∧ wRet x.word = true then
              leNat (mgets 0 (k.foldl go x.w.store) (localEa (x.g.th l) x.word) 4) else (x.g.th l).get r) ∧
  (∀ size old data cmp : Nat, size = 4 ∨ size = 8 → old < 2 ^ (8 * size) → data < 2 ^ (8 * size) →
    rmwValue 0 size old data cmp = (old + data) % 2 ^ (8 * size) ∧
    sx (8 * size) (rmwValue 1 size old data cmp) = min (sx (8 * size) old) (sx (8 * size) data) ∧
    sx (8 * size) (rmwValue 2 size old data cmp) = max (sx (8 * size) old) (sx (8 * size) data) ∧
    rmwValue 3 size old data cmp = min old data ∧ rmwValue 4 size old data cmp = max old data ∧
    rmwValue 5 size old data cmp = old &&& data ∧ rmwValue 6 size old data cmp = old ||| data ∧
    rmwValue 7 size old data cmp = old ^^^ data ∧ rmwValue 8 size old data cmp = data ∧
    rmwValue 9 size old data cmp = if old = cmp then data else old)

/-- WORKGROUP_PLACE with a launch of the source that has a workgroup left, on an active core of its partition where it
fits, up, its context not stopping and the workgroup next to be placed there (R105, R337, R339, R350): the launch's
next workgroup is resident last on the core, with one new group for each of its groups, and the launch's count goes up
(R69, R70, R279); with none left nothing changes; a gated core's wake starts and the workgroup waits (R434).
MEMORY_RESPONSE delivers a group's oldest answered request: a relaxed load's data of 4 bytes or more to its thread's
registers, a relaxed store's answer to none, and the request is gone; with none to deliver and an instruction all
answered, the failure of its lowest failing lane is that thread's fault with its code (R38, R105, R107). PARK_TIMEOUT
changes nothing before 256 instructions of the group (R79). BARRIER_DEADLOCK of a group whose live threads are all
blocked in it stops the group with BARRIER_DEADLOCK at lane 0xFF (R91, R92). CORE_FAULT_STOPPED takes the core's first
fault, halts the context's groups on it and reports it once (R105, R106). (spec/02_thread_groups.md;
spec/08_prompt_desk.md) -/
def Obligations.PlacingAnsweringAndFaults : Prop :=
  (∀ (c : Fin 17) (src : Src) (s : State) (l : Launch),
    s.launches.find? (fun l => ((cuesOf s (srcOf src)).map (·.uid)).contains l.uid && decide (l.next < l.gridX * l.gridY * l.gridZ)) =
      some l → coreTakes s c (ctxOf s l.cid).part = true → homeOk s (srcOf src) c = true → ctxStopping s c l.cid = false →
    wgFits (coreOf s c) l.groups l.nregs l.split l.localKib = true →
    mayPlace (noteAll s (ctxOf s l.cid).part) (ctxOf s l.cid).part l.cid (srcOf src) .workgroup c = true →
    beingTaken s l.cid .workgroup [c.val] = false →
    (domOn s (dCore + c.val) = false → exec (.workgroupPlace c src) s = .next (wakeFor s [dCore + c.val])) ∧
    (domOn s (dCore + c.val) = true → ∃ t, exec (.workgroupPlace c src) s = .next t ∧
      (coreOf t c).wgs = (coreOf s c).wgs ++ [{ launchWg l with id := (coreOf s c).nextWg }] ∧
      (coreOf t c).nextWg = (coreOf s c).nextWg + 1 ∧ (coreOf t c).split = l.split ∧
      (coreOf t c).groups.take (coreOf s c).groups.length = (coreOf s c).groups ∧
      ((coreOf t c).groups.drop (coreOf s c).groups.length).map (fun g => (g.wg, g.idx)) =
        (upTo l.groups).map (fun n => ((coreOf s c).nextWg, n)) ∧
      t.launches = mapWhere (·.uid == l.uid) (fun l => { l with next := l.next + 1 }) s.launches ∧
      fget t (F.CORE_STATE.WORKGROUPS c) = ((coreOf s c).wgs.length + 1) % 64 ∧ t.cues = s.cues ∧ t.reqs = s.reqs)) ∧
  (∀ (c : Fin 17) (src : Src) (s : State), s.launches = [] → exec (.workgroupPlace c src) s = .next s) ∧
  (∀ (c : Fin 17) (slot : Fin 48) (h : HostData) (s : State) (r : Req) (g : Group) (w : Wg) (bs : List Byte),
    readyAnswer s c slot = some r →
    r.at_ = .done cOk bs → groupAt s c slot = some g → wgOf s c g = some w → r.order % 2 = 0 → r.reg < 255 → r.lane < 32 →
    4 ≤ bs.length → ∃ t, exec (.memoryResponse c slot h) s = .next t ∧
      t = { s with cores := t.cores, reqs := s.reqs.filter (·.id != r.id), free := s.free + 1 } ∧
      ∃ g', groupAt t c slot = some g' ∧ g'.th r.lane = (g.th r.lane).setN r.reg (ceilDiv bs.length 4) (leNat bs) ∧
        ∀ l < 32, l ≠ r.lane → g'.th l = g.th l) ∧
  (∀ (c : Fin 17) (slot : Fin 48) (h : HostData) (s : State) (r : Req) (g : Group) (w : Wg) (bs : List Byte),
    readyAnswer s c slot = some r →
    r.at_ = .done cOk bs → groupAt s c slot = some g → wgOf s c g = some w → r.order % 2 = 0 → r.reg = 256 →
    exec (.memoryResponse c slot h) s = .next { s with reqs := s.reqs.filter (·.id != r.id) }) ∧
  (∀ (c : Fin 17) (slot : Fin 48) (h : HostData) (s : State) (q r : Req) (g : Group) (w : Wg) (code : Nat) (bs : List Byte),
    readyAnswer s c slot = none → s.reqs.find? (fun r => r.core == c.val && r.slot == slot.val && (failedCode r).isSome) = some q →
    r ∈ s.reqs → sameInstr q r = true → r.at_ = .done code bs → code ≠ cOk →
    (∀ p ∈ s.reqs, sameInstr q p = true → (∃ k b, p.at_ = .done k b) ∧ (failedCode p ≠ none → p = r ∨ r.lane < p.lane)) →
    groupAt s c slot = some g → wgOf s c g = some w →
    ∃ t, exec (.memoryResponse c slot h) s = .next t ∧ t = { s with cores := t.cores, reqs := t.reqs } ∧
      (∀ p ∈ t.reqs, p ∈ s.reqs ∧ (sameInstr q p = true → failedCode p = none)) ∧
      (∀ p ∈ s.reqs, sameInstr q p = false → p.id ≠ r.id → p ∈ t.reqs) ∧
      groupAt t c slot = some { g with halted := true } ∧ (coreOf t c).faults = (coreOf s c).faults ++
        [⟨w.cid, faultRec code (lcoreOf s c) c w.cid g.slot r.lane r.pc (some r.va) r.iword false, some w.uid⟩]) ∧
  (∀ (c : Fin 17) (slot : Fin 48) (lane : Fin 32) (s : State) (g : Group) (n : Nat), groupAt s c slot = some g →
    (g.th lane).stat = .parked n → g.issued < n + 256 → exec (.parkTimeout c slot lane) s = .next s) ∧
  (∀ (c : Fin 17) (slot : Fin 48) (lane : Fin 32) (s : State) (g : Group) (n : Nat) (j : JoinEntry) (js : List JoinEntry),
    groupAt s c slot = some g → (g.th lane).stat = .parked n → n + 256 ≤ g.issued → (g.th lane).joins = j :: js →
    (∀ k ∈ js, k.addr ≠ (g.th lane).pc) → ∃ t, exec (.parkTimeout c slot lane) s = .next t ∧ t = { s with cores := t.cores } ∧
      ∃ g', groupAt t c slot = some g' ∧ (g'.th lane).stat = .run ∧ (g'.th lane).joins = js ∧
        ∀ l < 32, (g'.th l).pc = (g.th l).pc ∧ (g'.th l).regs = (g.th l).regs) ∧
  (∀ (c : Fin 17) (slot : Fin 48) (s : State) (g : Group) (w : Wg), groupAt s c slot = some g → wgOf s c g = some w →
    g.halted = false → deadlocked s c w g = true → ∃ t, exec (.barrierDeadlock c slot) s = .next t ∧
      t = { s with cores := t.cores, regs := t.regs } ∧ groupAt t c slot = some { g with halted := true } ∧
      Raised (E.CORE_FAULT_STATUS.DEADLOCK c) s t ∧
      ((coreOf t c).faults.getLast?.map fun f => (f.cid, field f.record 0 2, field f.record 7 1)) =
        some (w.cid, cDeadlock, 0xFF)) ∧
  (∀ (c : Fin 17) (s : State) (f : CoreFault), (coreOf s c).faults = [f] → (ctxOf s f.cid).state = .live →
    (∀ r ∈ s.faultReps, r.cid ≠ f.cid) → ∃ t, exec (.coreFaultStopped c) s = .next t ∧
      (coreOf t c).faults = [] ∧ t.faultReps = s.faultReps ++ [⟨f.cid, f.record, f.uid⟩] ∧
      Raised (E.CORE_FAULT_STATUS.FAULT c) s t ∧ (∀ i < 8, rdN t (R.CORE_FAULT_REC c i) = field f.record (4 * i) 4) ∧
      ∀ g ∈ (coreOf t c).groups, ∀ w ∈ (coreOf t c).wgs, w.id = g.wg → w.cid = f.cid → g.halted = true) ∧
  (∀ (c : Fin 17) (s : State), (coreOf s c).faults = [] → exec (.coreFaultStopped c) s = .next s)

/-- The accesses of an engine's unit leave traces in the CACHE region, the regulators and its peers' answers only (R40,
R49, R352, R405): with the region disabled they change nothing but the tokens of the partition's regulators, and let
go of the answers they have used; with it enabled a byte of the memory behind it changes only where a line that they
evict is written back, and takes that line's dirty byte. No line of an L1 moves. (spec/01_fabric_and_loft.md;
spec/10_stage_manager.md) -/
def Obligations.EngineTraffic : Prop :=
  ∀ (s : State) (e : EngAsk) (pages : List HeldPage) (ranges : List (Nat × Nat × Bool)),
    used s e pages ranges = { s with
      caches := (used s e pages ranges).caches
      mem := (used s e pages ranges).mem
      ueWords := (used s e pages ranges).ueWords
      buckets := (used s e pages ranges).buckets
      reqs := (used s e pages ranges).reqs } ∧
    (cacheOn s 0 = false → used s e pages ranges = { s with
      buckets := (used s e pages ranges).buckets
      reqs := (used s e pages ranges).reqs }) ∧
    (used s e pages ranges).reqs.Sublist s.reqs ∧
    (∀ r ∈ s.reqs, r ∈ (used s e pages ranges).reqs ∨
      (∃ x, r.eng = some x ∧ x.port = e.port) ∧ r.cid = e.cid ∧ r.isDone = true ∧ ∃ n, r.kind = .load n) ∧
    (∀ k, k ≠ 0 → cacheOf (used s e pages ranges) k = cacheOf s k) ∧
    ∀ x, memByte (used s e pages ranges) x ≠ memByte s x → ∃ l ∈ (cacheOf s 0).lines, l.line = x / 64 ∧
      bit l.dirty (x % 64) = true ∧ memByte (used s e pages ranges) x = l.data.getD (x % 64) 0

/-- TENSOR_GEMM, CONV1D_CAUSAL, RECUR, SCAN and ROUTE (R113 to R133): on an engine that is free, of a core that is up and
takes the context's work, with the cue able to start and the next to be placed there (R337; a privileged stream's
chain cue before any gang), and its 128 bytes readable: a descriptor of the row's OPC that passes R117 and R118
becomes an operation at its first tile boundary (or, of more than one engine, waits for its gang), with nothing
counted; CORE_TE_STATUS, TILE and DESC show it; its context's slice starts when it held no work (R336); the cue runs,
and the next of its source meets its fence (R284). Nothing else changes but by the descriptor's read. One that fails
the check sets and counts DESC_INVALID, shows its address in DESC and ends the cue with CUE_INVALID, and no operation
starts. A busy engine starts nothing; a gated core's wake starts once and the cue waits (R434).
(spec/03_tensor_engine.md; spec/08_prompt_desk.md; spec/10_stage_manager.md) -/
def Obligations.TensorOperationsStart : Prop :=
  (∀ (mk : Fin 17 → Src → Instr) (opc : Nat), (mk, opc) ∈ [(Instr.tensorGemm, 1), (Instr.tensorConv1dCausal, 2),
      (Instr.tensorRecur, 3), (Instr.tensorScan, 4), (Instr.tensorRoute, 5)] →
    ∀ (c : Fin 17) (src : Src) (s n : State) (q : CueRun), n = noted s c →
      Starts n (srcOf src) 1 q → opOn n c = none → coreTakes n c (ctxOf n q.cid).part = true → homeOk n (srcOf src) c = true →
      mayPlace n (ctxOf n q.cid).part q.cid (srcOf src) .tensor c = true →
      isChain n (srcOf src) = true ∨ gangFirst n (ctxOf n q.cid).part q.cid = false →
      beingTaken n q.cid .tensor [c.val] = false →
      (domOn n (dCore + c) = false → exec (mk c src) s = .next (meetFence (wakeFor n [dCore + c]) (srcOf src))) ∧
      ∀ (e : EngAsk) (u : State) (pages : List HeldPage) (d : List Byte), domOn n (dCore + c) = true → (∀ p ∈ s.prefetched, p.op.uid ≠ q.uid) →
      e = descEng (started n q) c q q.addr → UnitGoes (started n q) e [(q.addr, 128, false)] pages → d = ctxRead (started n q) pages q.addr 128 →
      u = unitUsed (started n q) e pages [(q.addr, 128, false)] →
      (dOpc d = opc → descOk u (ctxOf n q.cid).part d = true → chainBad u (srcOf src) d = false →
        ∃ t, exec (mk c src) s = .next (meetFence t (srcOf src)) ∧
          t = { startSlice u q.cid with
            regs := t.regs
            tensors := s.tensors ++ [{ freshOp q.uid q.cid c d q.addr q.seed with
              stage := if dGang d = 1 then .boundary else .gang }] } ∧
          fget t (F.CORE_TE_STATUS.BUSY c) = 1 ∧ fget t (F.CORE_TE_STATUS.OPC c) = opc ∧ rdN t (R.CORE_TE_TILE c) = 0 ∧
          rdN t (R.CORE_TE_DESC_LO c) = q.addr % 2 ^ 32 ∧
          OnlyRegs [R.CORE_TE_STATUS c, R.CORE_TE_TILE c, R.CORE_TE_DESC_LO c, R.CORE_TE_DESC_HI c, R.XLAT_TC_HIT, R.XLAT_WALKS] s t) ∧
      (dOpc d = opc ∨ dOpc d = 0 ∨ 5 < dOpc d → descOk u (ctxOf n q.cid).part d = false → chainBad u (srcOf src) d = false →
        ∃ t, exec (mk c src) s = .next (meetFence t (srcOf src)) ∧ t = { u with regs := t.regs, cues := t.cues } ∧
          CueEnds q.uid cCueInvalid zeroNum (started n q) t ∧ Raised (E.CORE_TE_EVENT.DESC_INVALID c) s t ∧
          rdN t (R.CORE_TE_DESC_LO c) = q.addr % 2 ^ 32 ∧
          OnlyRegs [R.CORE_TE_EVENT c, R.CORE_TE_EVT c, R.CORE_TE_DESC_LO c, R.CORE_TE_DESC_HI c, R.XLAT_TC_HIT, R.XLAT_WALKS] s t)) ∧
  (∀ (mk : Fin 17 → Src → Instr), mk ∈ [Instr.tensorGemm, Instr.tensorConv1dCausal, Instr.tensorRecur, Instr.tensorScan,
      Instr.tensorRoute] → ∀ (c : Fin 17) (src : Src) (s : State), opOn s c ≠ none → exec (mk c src) s = .next (noted s c))

/-- TILE_START (R141): an operation at a boundary with tiles left and no pre-emption asked for, whose next tile's places
all translate, a gang's exchange buffer too, and meet no bad word or tag, holds those pages, counts the new ones, and
is in its tile; reads not yet in the operand buffers, those of the pre-pass and of the exchange buffer go out, each
member's by its own core's port. PROMPTER_FETCH (R140) with room in the buffers holds the next tile's pages ahead and
adds chunks of it as memory reads, each member's to its limit; a tile that does not translate is noted with its
failures and nothing faults (R142). PROMPTER_PREFETCH_NEXT (R147) keeps the descriptor of the next tensor cue that may
issue, the last tile being reached. TILE_FINISH (R112, R138, R145), its accesses meeting nothing bad: the operation
stands at the next tile's boundary, a ROUTE's with pairs to hand over in their hand-over (R135); each engine counts
the beats, its context is charged for every engine and its DEBT grows by the overrun (R334, R345); with the CACHE
region disabled and no page on a peer no byte outside the pages held changes. Queues, cues and other operations stay.
(spec/03_tensor_engine.md; spec/10_stage_manager.md; spec/11_translation.md) -/
def Obligations.TensorTiles : Prop :=
  (∀ (c : Fin 17) (s : State) (o : TensorOp) (own xb pages : List HeldPage) (rs unread reads : List OpRange), headOn s c = some o →
    o.stage = .boundary → o.next < tileCount o.desc → beingTaken s o.cid .tensor o.cores = false → rs = tilePrint o o.next →
    unread = rs.filter (fun r => !inOb o o.next r) → unitVerdict (tilePoints s o o.next rs) = .ok own →
    mapUnit s o.cid (xbufRange o.desc) = .ok xb → pages = own ++ xb.filter (!own.contains ·) →
    reads = unread ++ prePass o o.next ++ xbufReads o.desc o.next →
    heldBad s o.cid pages (unread.map (·.plain)) = none → tensorWaits s o pages reads = false →
    ∃ t u, exec (.tileStart c) s = .next t ∧
      u = tensorUse (countXlat s o o.next (own.filter (!(heldPages s (.prompter c o.uid o.next)).contains ·))) o pages
        (reads.filter (!·.w)) ∧
      (∃ o', t.tensors = mapWhere (·.uid == o.uid) (fun _ => o') s.tensors ∧
        o' = { o with stage := .tile, ob0 := o'.ob0, ahead := o.ahead.filter (·.tile != o.next) }) ∧
      t = { usePages (unhold u (.prompter c o.uid o.next)) o.cid pages with
        helds := (s.helds.filter (·.agent != .prompter c o.uid o.next)).filter (·.agent != .tensor c) ++
          [⟨.tensor c, o.cid, (fnOfCid s o.cid).getD 32, pages, true, []⟩]
        tensors := t.tensors } ∧
      OnlyRegs (o.cores.map R.CORE_PR_XLAT ++ xlatRegs) s t) ∧
  (∀ (c : Fin 17) (s : State) (o : TensorOp) (pages : List HeldPage) (i : Nat) (rs : List OpRange), headOn s c = some o →
    o.stage = .boundary ∨ o.stage = .tile ∨ o.stage = .pairs → i = nextAhead o → i < tileCount o.desc → obFull s o = false →
    rs = (tilePrint o i).filter (fun r => !r.w && decide (r.ob < 2)) →
    mapUnit s o.cid ((tilePrint o i).map (·.plain)) = .ok pages → heldBad s o.cid pages (rs.map (·.plain)) = none →
    tensorWaits s o pages rs = false → ∃ t o', exec (.prompterFetch c) s = .next t ∧
      t = { s with
        regs := t.regs
        caches := t.caches
        mem := t.mem
        ueWords := t.ueWords
        buckets := t.buckets
        reqs := t.reqs
        tc := t.tc
        wc := t.wc
        helds := s.helds.filter (·.agent != .prompter c o.uid i) ++
          [⟨.prompter c o.uid i, o.cid, (fnOfCid s o.cid).getD 32, pages, false, []⟩]
        tensors := mapWhere (·.uid == o.uid) (fun _ => o') s.tensors } ∧
      o' = { o with ob0 := o'.ob0, ob1 := o'.ob1, ahead := o.ahead ++ [⟨i, []⟩] } ∧
      (∀ k ∈ o'.ob0 ++ o'.ob1, k ∈ o.ob0 ++ o.ob1 ∨ k.tile = i ∧ k.bytes = ctxRead s pages k.va k.bytes.length) ∧
      (∀ x, obBytes o'.ob0 x + obBytes o'.ob1 x ≤ max (obLimit s o x) (obBytes o.ob0 x + obBytes o.ob1 x)) ∧
      OnlyRegs (o.cores.map R.CORE_PR_XLAT ++ xlatRegs) s t) ∧
  (∀ (c : Fin 17) (s : State) (o : TensorOp) (i code a : Nat), headOn s c = some o →
    o.stage = .boundary ∨ o.stage = .tile ∨ o.stage = .pairs → i = nextAhead o → i < tileCount o.desc → obFull s o = false →
    mapUnit s o.cid ((tilePrint o i).map (·.plain)) = .fault code a → ∃ t fails, exec (.prompterFetch c) s = .next t ∧
      fails ≠ [] ∧ t = { s with
        regs := t.regs
        tc := t.tc
        wc := t.wc
        helds := t.helds
        tensors := mapWhere (·.uid == o.uid) (fun _ => { o with ahead := o.ahead ++ [⟨i, fails⟩] }) s.tensors } ∧
      OnlyRegs (o.cores.map R.CORE_PR_XLAT ++ xlatRegs) s t) ∧
  (∀ (c : Fin 17) (s : State) (o : TensorOp) (q n : CueRun) (pages : List HeldPage), headOn s c = some o →
    cueOf s o.uid = some q → nextWaiting s q.src = some n → tileCount o.desc ≤ nextAhead o → n.opc = 1 → cueReady s n = true →
    n.indirect = false → homeOk s q.src c = true → readAhead s c n.uid = none →
    UnitGoes s (descEng s c n n.addr) [(n.addr, 128, false)] pages →
    ∃ t, exec (.prompterPrefetchNext c) s = .next t ∧
      t = { unitUsed s (descEng s c n n.addr) pages [(n.addr, 128, false)] with
        prefetched := s.prefetched ++ [⟨c, freshOp n.uid n.cid c (ctxRead s pages n.addr 128) n.addr n.seed, none⟩] }) ∧
  (∀ (c : Fin 17) (beats wait extra dup : Nat) (s : State) (o : TensorOp), headOn s c = some o → o.stage = .tile →
    o.cores.Nodup → (∀ m ∈ o.cores, m < 17) → (ctxOf s o.cid).part < 8 →
    (∀ p ∈ heldPages s (.tensor c), p.va % 65536 = 0 ∧ p.size % 65536 = 0) →
    heldBad s o.cid (heldPages s (.tensor c)) (((tilePrint o o.next).filter fun r => !inOb o o.next r).map (·.plain)) = none →
    ∃ t, exec (.tileFinish c beats wait extra dup) s = .next t ∧
      (∃ o', t.tensors = mapWhere (·.uid == o.uid) (fun _ => o') s.tensors ∧ o'.uid = o.uid ∧ o'.cid = o.cid ∧
        o'.cores = o.cores ∧ o'.desc = o.desc ∧ o'.sent = o.sent ∧ o'.handed = o.handed ∧
        (o'.next = o.next + 1 ∧ o'.stage = .boundary ∧ (∀ m ∈ o.cores, rdN t (R.CORE_TE_TILE m) = (o.next + 1) % 2 ^ 32) ∧
            t.helds = s.helds.filter (·.agent != .tensor c) ∨
          dOpc o.desc = 5 ∧ o'.next = o.next ∧ o'.stage = .pairs ∧ o'.pairs ≠ [] ∧ t.helds = s.helds)) ∧
      t = { s with
        regs := t.regs
        mem := t.mem
        ueWords := t.ueWords
        caches := t.caches
        buckets := t.buckets
        weights := t.weights
        tensors := t.tensors
        helds := t.helds
        reqs := t.reqs
        nextReq := t.nextReq
        ctxs := (tileBeats s o beats extra dup).ctxs } ∧
      (cacheOn s 0 = false →
        (∀ p ∈ heldPages s (.tensor c), ∀ x, p.da ≤ x → x < p.da + p.size → reach s x ≠ .peer) → MemOnly (heldPages s (.tensor c)) s t) ∧
      ∀ m ∈ o.cores, rd64 t (R.CORE_TE_BEAT_COUNT_LO m) = (rd64 s (R.CORE_TE_BEAT_COUNT_LO m) + beats) % 2 ^ 64 ∧
        rdN t (R.CORE_PR_WAIT m) = min 0xFFFFFFFF (rdN s (R.CORE_PR_WAIT m) + wait)) ∧
  (∀ (c : Fin 17) (b w e d : Nat) (i : Instr) (s : State), headOn s c = none → i ∈ [.tileStart c, .prompterFetch c,
    .prompterPrefetchNext c, .tileFinish c b w e d, .routePairHandover c b, .routeComplete c, .tensorOpComplete c] →
    exec i s = .next s)

/-- ROUTE_PAIR_HANDOVER (R134, R408 to R410): in a tile's hand-over the first pair waiting is handed over: with no
directory entry for its expert it is undeliverable; to a unit that can be reached with credits for it, its token joins
the link's queue and is outstanding. The beats are counted and charged for every engine (R334). After the tile's last
pair the operation stands at the next boundary (R135). ROUTE_COMPLETE: with every tile done and every pair's outcome
known, the report is written (through the CACHE region, where its address passes it) and the cue ends OK, or
EXPERT_UNREACHABLE if a pair was undeliverable. TENSOR_OP_COMPLETE (R152) ends the cue OK with the operation's counts;
TENSOR_ABORT (R150) ends it with the stop's code, the beats of a tile cut short charged. Each frees the engines: their
STATUS reads 0 and their translations are let go. TENSOR_RESUME (R149): the first saved operation that may stand on
the free cores listed stands there, and its image goes. (spec/03_tensor_engine.md; spec/10_stage_manager.md;
spec/12_umram_link.md) -/
def Obligations.TensorOperationsEnd : Prop :=
  (∀ (c : Fin 17) (beats : Nat) (s u v : State) (o : TensorOp) (pr : RoutePair) (rest : List RoutePair) (pages : List HeldPage)
      (n row entry : Nat),
    headOn s c = some o → o.stage = .pairs → o.pairs = pr :: rest → n = d2 o.desc 20 * (ty (dA o.desc)).width / 8 →
    row = d8 o.desc 32 + pr.token * n → entry = dirEntry s pr.expert → s.link.flying.length < 1024 →
    UnitGoes s (tensorEng s o 0) [(row, n, false)] pages → u = unitUsed s (tensorEng s o 0) pages [(row, n, false)] →
    v = busyBeats u o beats → (∀ x ∈ s.tensors, x.uid = o.uid → x = o) →
    (bits entry 26 24 = 0 → ∃ t o', exec (.routePairHandover c beats) s = .next t ∧
      t.tensors = mapWhere (·.uid == o.uid) (fun _ => o') s.tensors ∧
      o'.pairs = rest ∧ o'.handed = o.handed + 1 ∧ o'.undeliv = o.undeliv + 1 ∧ o'.delivered = o.delivered ∧
      (rest ≠ [] → t = { v with tensors := t.tensors } ∧ o'.next = o.next ∧ o'.stage = .pairs) ∧
      (rest = [] → t = { v with regs := t.regs, helds := s.helds.filter (·.agent != .tensor (o.cores.headD 0)), tensors := t.tensors } ∧
        o'.next = o.next + 1 ∧ o'.stage = .boundary)) ∧
    (∀ dest, dest = unitAddr (bits entry 23 0) (bits entry 26 24) →
      bits entry 26 24 ≠ 0 → dest ≠ me s → 1 + n / 64 ≤ firstPool s dest (ctxOf s o.cid).part →
      canReach s s.link.roster dest = true → rest ≠ [] → ∃ t, exec (.routePairHandover c beats) s = .next t ∧
        t = { v with
          tensors := mapWhere (·.uid == o.uid)
            (fun x => { x with pairs := rest, sent := x.sent ++ [pr], handed := x.handed + 1 }) s.tensors
          link := { s.link with
            flying := s.link.flying ++ [⟨s.link.nextXid % 65536, dest, 3, some (o.uid, pr), none⟩]
            nextXid := s.link.nextXid + 1
            outq := s.link.outq ++ [((ctxOf s o.cid).part, .token (tokenHeader s (ctxOf s o.cid).part (d4 o.desc 28)
              (s.link.nextXid % 65536) (n / 64) entry pr ++ ctxRead u pages row n))] } })) ∧
  (∀ (c : Fin 17) (s u : State) (o : TensorOp) (pages : List HeldPage) (a : Nat), headOn s c = some o → dOpc o.desc = 5 →
    o.stage = .boundary → o.next = tileCount o.desc → o.pairs = [] → o.sent = [] → a = heldAddr pages (d8 o.desc 64) →
    UnitGoes s (tensorEng s o 0) [(d8 o.desc 64, 32, true)] pages →
    u = unitUsed s (tensorEng s o 0) pages [(d8 o.desc 64, 32, true)] →
    isHeld pages (d8 o.desc 64) = true → d8 o.desc 64 % 65536 + 32 ≤ 65536 → ∃ t, exec (.routeComplete c) s = .next t ∧
      t = { u with
        regs := t.regs
        mem := t.mem
        ueWords := t.ueWords
        caches := t.caches
        buckets := t.buckets
        reqs := t.reqs
        nextReq := t.nextReq
        helds := t.helds
        cues := t.cues
        tensors := s.tensors.filter (·.uid != o.uid) } ∧
      (reach s a ≠ .peer → passesCache s a = false → mgets 0 t.mem a 32 = routeReport o ∧ MemOutside a 32 u t) ∧
      CueEnds o.uid (if o.undeliv = 0 then cOk else cExpertUnreach) o.num.block s t ∧
      OnlyRegs (o.cores.map R.CORE_TE_STATUS ++ xlatRegs) s t ∧ ∀ m ∈ o.cores, rdN t (R.CORE_TE_STATUS m) = 0) ∧
  (∀ (c : Fin 17) (s : State) (o : TensorOp), headOn s c = some o → o.stage = .boundary → o.next = tileCount o.desc →
    dOpc o.desc ≠ 5 → ∃ t, exec (.tensorOpComplete c) s = .next t ∧
      t = { s with
        regs := t.regs
        helds := t.helds
        cues := t.cues
        tensors := s.tensors.filter (·.uid != o.uid) } ∧
      CueEnds o.uid cOk o.num.block s t ∧ OnlyRegs (o.cores.map R.CORE_TE_STATUS) s t ∧
      ∀ m ∈ o.cores, rdN t (R.CORE_TE_STATUS m) = 0 ∧ ∀ h ∈ t.helds, h.agent ≠ .tensor m) ∧
  (∀ (src : Src) (beats extra dup : Nat) (s : State) (q : CueRun) (code : Nat) (o : TensorOp),
    stopOf s (srcOf src) [1] = some (q, code) → s.tensors.find? (·.uid == q.uid) = some o →
    ∃ t, exec (.tensorAbort src beats extra dup) s = .next t ∧
      t = { s with
        regs := t.regs
        ctxs := (tileBeats s o beats extra dup).ctxs
        helds := t.helds
        cues := t.cues
        stops := s.stops.filter (·.1 != q.uid)
        tensors := s.tensors.filter (·.uid != q.uid) } ∧
      CueEnds q.uid code o.num.block s t ∧
      OnlyRegs (R.SMGR_P_DEBT_TOTAL (ctxOf s o.cid).part :: o.cores.flatMap fun m =>
        [R.CORE_TE_STATUS m, R.CORE_TE_BEAT_COUNT_LO m, R.CORE_TE_BEAT_COUNT_LO m + 4]) s t ∧
      ∀ m ∈ o.cores, rdN t (R.CORE_TE_STATUS m) = 0 ∧ ∀ h ∈ t.helds, h.agent ≠ .tensor m) ∧
  (∀ (src : Src) (beats extra dup : Nat) (s : State), stopOf s (srcOf src) [1] = none →
    exec (.tensorAbort src beats extra dup) s = .next s) ∧
  (∀ (cores : List (Fin 17)) (ecc : Ecc) (s n : State) (o : TensorOp) (id : Nat) (cs : List Nat) (st : TenStage),
    cs = cores.map (·.val) → n = noteAll s ((cs.head?.bind (partOfCore s ·)).getD 8) →
    n.tensors.find? (resumeFits n cs) = some o → o.stage = .saved id → (∀ c ∈ cs, opOn s c = none) → imageBad n id ecc = false →
    st = (if o.pairs.isEmpty then .boundary else .pairs) →
    ((∃ c ∈ cs, domOn n (dCore + c) = false) → exec (.tensorResume cores ecc) s =
      .next (wakeFor n (cs.map (dCore + ·)))) ∧
    ((∀ c ∈ cs, domOn n (dCore + c) = true) → dGang o.desc = 1 → ∃ t, exec (.tensorResume cores ecc) s = .next t ∧
      t = { startSlice n o.cid with
        regs := t.regs
        buckets := t.buckets
        images := s.images.filter (·.id != id)
        tensors := mapWhere (·.uid == o.uid) (fun _ => { o with cores := cs, stage := st }) s.tensors }) ∧
    ((∀ c ∈ cs, domOn n (dCore + c) = true) → dGang o.desc ≠ 1 → ∀ (u : State) (pages : List HeldPage),
      u = dropImage (charge n (ctxOf n o.cid).part 1 (tensorImage o).length) id →
      mapUnit u o.cid [(xbufOf o.desc, 32768 * cs.length, true)] = .ok pages →
      (∀ v ∈ checkPoints (checkStep u o.cid) (xbufOf o.desc) (32768 * cs.length), reach u (heldAddr pages v) = .scratch) →
      ∃ t, exec (.tensorResume cores ecc) s = .next t ∧
        t = { startSlice u o.cid with
          regs := t.regs
          tensors := mapWhere (·.uid == o.uid) (fun _ => { o with cores := cs, stage := st }) s.tensors }))

/-- FRAME_START of a group whose source port is its own and on: each port of the group takes the configuration written
(R181), the group's counter goes up by one modulo 2^32, and with no armed stream zero goes out on every slot of the
group unless its word clock is lost, and nothing else changes (R183, R213); with one, of one int32 channel, in the
middle of a block, an element on this unit that meets nothing bad and the CACHE region disabled, the slot's value of
the frame that ended is stored whole at element t of the block being filled, no other byte changes, t goes up, and
nothing but samples goes out (R183 to R185); its traffic counts on the regulators (R352). SAP_CFG_WRITE to a Pit that
is up is refused while a port is in use, else writes the register and gives the port its balls (R181, R513).
CSI_PACKET of a disabled receiver changes nothing; a frame start begins a stream; a line of its type and channel is
stored as line t (R182, R184); a frame end counts the frame. A corrected header of a packet on channels 0 to 3 sets
and counts HDR_CORR. (spec/05_the_pit.md) -/
def Obligations.PitPortsAndFrames : Prop :=
  (∀ (p : Fin 4) (ins : List (List (BitVec 32))) (s : State), (∀ m < 32, streamArmed s m = false) →
    clockSrc (sapCfg s) p = p → cMode (sapCfg s p) ≠ 0 → ∃ t, exec (.frameStart p ins) s = .next t ∧
      t = { s with
        regs := t.regs
        saps := t.saps
        out := s.out ++ (if fbit s (F.PIT_SAP_STATUS.LOST p) then []
          else ((upTo 4).filter fun q => (clockSrc (sapForce s) q == p || q == p) && clockSrc (sapForce t) q == p).flatMap
            fun q => (upTo (slotsOf (sapForce t q))).map fun k => Msg.samples q k 0) } ∧
      rdN t (R.PIT_SAP_FRAME p) = (rdN s (R.PIT_SAP_FRAME p) + 1) % 2 ^ 32 ∧ OnlyRegs [R.PIT_SAP_FRAME p] s t ∧
      ∀ q < 4, sapForce t q = if clockSrc (sapForce s) q = p ∨ q = p then sapCfg s q else sapForce s q) ∧
  (∀ (p : Fin 4) (ins : List (List (BitVec 32))) (s : State) (n : Fin 32) (va : Nat), (∀ q < 4, sapForce s q = sapCfg s q) →
    clockSrc (sapCfg s) p = p → cMode (sapCfg s p) ≠ 0 → fbit s (F.PIT_SAP_STATUS.LOST p) = false →
    (∀ m < 32, streamArmed s m = true ↔ m = n) → stIsSap s n = true → clockSrc (sapCfg s) (stPort s n) = p →
    streamState s n ≠ sFaulted → (streamOf s n).forced = false → (streamOf s n).draining = false →
    (streamOf s n).begun = true → (streamOf s n).fifoLost = false → (streamOf s n).t + 1 ≠ stN s n → stCh s n = 1 →
    stFmt s n = 0 → stOutEn s n = false → va = inAddr s n (streamOf s n).block + elemOff s n (streamOf s n).t 0 →
    isHeld (stPages s n) va = true →
    va % 65536 + 4 ≤ 65536 → heldBad s (streamCid s n) (stPages s n) [(va, 4, true)] = none →
    reach s (heldAddr (stPages s n) va) ≠ .peer → cacheOn s 0 = false →
    ∃ t, exec (.frameStart p ins) s = .next t ∧
      t = { s with
        regs := t.regs
        saps := t.saps
        mem := t.mem
        ueWords := t.ueWords
        caches := t.caches
        buckets := t.buckets
        out := t.out
        streams := t.streams } ∧
      (∃ zs, t.out = s.out ++ zs ∧ ∀ e ∈ zs, ∃ q k, e = .samples q k 0) ∧
      rdN t (R.PIT_SAP_FRAME p) = (rdN s (R.PIT_SAP_FRAME p) + 1) % 2 ^ 32 ∧
      streamOf t n = { streamOf s n with t := (streamOf s n).t + 1 } ∧
      mgets 0 t.mem (heldAddr (stPages s n) va) 4 =
        leBytes 4 ((((ins.getD (stPort s n) []).map (·.toNat)).getD (stFirst s n) 0)) ∧
      MemOutside (heldAddr (stPages s n) va) 4 s t) ∧
  (∀ (p : Fin 4) (v : BitVec 32) (s : State), domOn s dPit = true → portInUse s p = true → ∃ t, exec (.sapCfgWrite p v) s = .next t ∧
    Raised (E.PIT_SAP_STATUS.CFG_REFUSED p) s t ∧ Alters [R.PIT_SAP_STATUS p, R.PIT_SAP_EVT p] s t) ∧
  (∀ (p : Fin 4) (v : BitVec 32) (s : State), domOn s dPit = true → portInUse s p = false → ∃ t, exec (.sapCfgWrite p v) s = .next t ∧
    rdN t (R.PIT_SAP_CFG p) = v.toNat &&& 0x37FFF ∧ OnlyRegs [R.PIT_SAP_CFG p] s t ∧
    t = { s with
      regs := t.regs
      boot := { s.boot with balls := s.boot.balls.set p (if v.toNat % 4 = 0 then 1 else 2) } }) ∧
  (∀ (c : Fin 2) (pkt : CsiPkt) (s : State), fbit s (F.PIT_CSI_CFG.EN c) = false → exec (.csiPacket c pkt) s = .next s) ∧
  (∀ (c : Fin 2) (vc : Fin 16) (s : State) (n : Nat), fbit s (F.PIT_CSI_CFG.EN c) = true → csiStreams s c vc = [n] →
    (streamOf s n).t = 0 → ∃ t, exec (.csiPacket c (.frameStart vc false)) s = .next t ∧ t = { s with streams := t.streams } ∧
      streamOf t n = { streamOf s n with begun := true, first := 0 } ∧ ∀ m, m ≠ n → streamOf t m = streamOf s m) ∧
  (∀ (c : Fin 2) (vc : Fin 16) (s : State), fbit s (F.PIT_CSI_CFG.EN c) = true → vc.val < 4 → csiStreams s c vc = [] →
    ∃ t, exec (.csiPacket c (.frameEnd vc false)) s = .next t ∧
      rdN t (R.PIT_CSI_FRAME c) = (rdN s (R.PIT_CSI_FRAME c) + 1) % 2 ^ 32 ∧ Alters [R.PIT_CSI_FRAME c] s t) ∧
  (∀ (c : Fin 2) (vc : Fin 16) (s : State), fbit s (F.PIT_CSI_CFG.EN c) = true → vc.val < 4 →
    ∃ t, exec (.csiPacket c (.lineSync vc true)) s = .next t ∧ Raised (E.PIT_CSI_STATUS.HDR_CORR c) s t ∧
      Alters [(E.PIT_CSI_STATUS.HDR_CORR c).bit.reg, (E.PIT_CSI_STATUS.HDR_CORR c).evt.reg] s t) ∧
  (∀ (c : Fin 2) (vc : Fin 16) (dt : Fin 64) (d : List Byte) (s : State) (n va : Nat), fbit s (F.PIT_CSI_CFG.EN c) = true →
    vc.val < 4 → dt.val ∈ csiTypes → csiStreams s c vc = [n] → fget s (F.PIT_S_VIDEO.DT n) = dt → (streamOf s n).begun = true →
    (streamOf s n).t + 1 ≠ stN s n → va = inAddr s n (streamOf s n).block + (streamOf s n).t * stLine s n →
    streamState s n ≠ sFaulted → isHeld (stPages s n) va = true →
    va % 65536 + (d.take (stLine s n)).length ≤ 65536 →
    heldBad s (streamCid s n) (stPages s n) [(va, (d.take (stLine s n)).length, true)] = none →
    reach s (heldAddr (stPages s n) va) ≠ .peer → cacheOn s 0 = false →
    ∃ t, exec (.csiPacket c (.line vc dt false false d)) s = .next t ∧
      t = { s with
        mem := t.mem
        ueWords := t.ueWords
        caches := t.caches
        buckets := t.buckets
        streams := t.streams } ∧
      streamOf t n = { streamOf s n with t := (streamOf s n).t + 1 } ∧
      mgets 0 t.mem (heldAddr (stPages s n) va)
        (d.take (stLine s n)).length = d.take (stLine s n) ∧
      MemOutside (heldAddr (stPages s n) va)
        (d.take (stLine s n)).length s t)

/-- WORD_CLOCK_LOST of a slave-clocked source that is on sets LOST and sets and counts CLOCK_LOST; the fourth good FSYNC
period in a row clears LOST, a bad one starts the count again (R213). XTAL_WINDOW_END: a window of 16 to 48 edges is
good (R211); the second good one in a row makes a judged crystal good and its OK bit read 1 (R456); a good window of a
good crystal, or the first bad one, leaves it good. LOOP_LOCKED locks a loop whose crystal is good and shows its
frequency (R455), and changes nothing otherwise. PIT_CLK_RESTORE moves an audio loop back to its own crystal after
65,536 good windows where the Pit is up (R212), CLK_RESTORE a memory, link or pixel loop (R455): the loop then locks
anew. (spec/05_the_pit.md; spec/14_power_and_clocks.md) -/
def Obligations.PitClocks : Prop :=
  (∀ (p : Fin 4) (s : State), cSrc (sapForce s p) = p → cRole (sapForce s p) ≠ 0 → cMode (sapForce s p) ≠ 0 →
    fbit s (F.PIT_SAP_STATUS.LOST p) = false → ∃ t, exec (.wordClockLost p) s = .next t ∧
      t = { s with regs := t.regs, saps := t.saps } ∧ fbit t (F.PIT_SAP_STATUS.LOST p) = true ∧
      Raised (E.PIT_SAP_STATUS.CLOCK_LOST p) s t ∧ OnlyRegs [R.PIT_SAP_STATUS p] s t ∧
      sapOf t p = { sapOf s p with good := 0 }) ∧
  (∀ (p : Fin 4) (g : Bool) (s : State), fbit s (F.PIT_SAP_STATUS.LOST p) = false →
    exec (.fsyncEdgeWhileLost p g) s = .next s) ∧
  (∀ (p : Fin 4) (s : State), fbit s (F.PIT_SAP_STATUS.LOST p) = true → 3 ≤ (sapOf s p).good →
    ∃ t, exec (.fsyncEdgeWhileLost p true) s = .next t ∧ t = { s with regs := t.regs, saps := t.saps } ∧
      fbit t (F.PIT_SAP_STATUS.LOST p) = false ∧ OnlyRegs [R.PIT_SAP_STATUS p] s t) ∧
  (∀ (p : Fin 4) (g : Bool) (s : State), fbit s (F.PIT_SAP_STATUS.LOST p) = true → g = false ∨ (sapOf s p).good < 3 →
    ∃ t, exec (.fsyncEdgeWhileLost p g) s = .next t ∧ t = { s with saps := t.saps } ∧
      sapOf t p = { sapOf s p with good := if g then (sapOf s p).good + 1 else 0 }) ∧
  (∀ (x : Fin 2) (n : Nat) (s : State), 16 ≤ n → n ≤ 48 → (xtal s x).st = .judged → 1 ≤ (xtal s x).good →
    ∃ t, exec (.xtalWindowEnd x n) s = .next t ∧ t = { s with regs := t.regs, pwr := t.pwr } ∧ (xtal t x).st = .good ∧
      xtal t (1 - x) = xtal s (1 - x) ∧ fbit t (xtalOk x) = true ∧ fbit t (pitOk x) = true ∧ t.pwr.lost = false ∧
      OnlyRegs [R.PIT_CLK_STATUS, R.CLK_SRC_STATUS] s t) ∧
  (∀ (x : Fin 2) (n : Nat) (s : State), (xtal s x).st = .good → (16 ≤ n ∧ n ≤ 48) ∨ (xtal s x).bad = 0 →
    ∃ t, exec (.xtalWindowEnd x n) s = .next t ∧ t = { s with regs := t.regs, pwr := t.pwr } ∧
      xtal t x = ⟨.good, if 16 ≤ n ∧ n ≤ 48 then 0 else 1, if 16 ≤ n ∧ n ≤ 48 then min 65536 ((xtal s x).good + 1) else 0⟩ ∧
      xtal t (1 - x) = xtal s (1 - x) ∧ (fbit t (pitOk x) = true ↔ 16 ≤ n ∧ n ≤ 48) ∧ OnlyRegs [R.PIT_CLK_STATUS] s t) ∧
  (∀ (x : Fin 2) (n : Nat) (s : State), (xtal s x).st = .off → ∃ t, exec (.xtalWindowEnd x n) s = .next t ∧
    t.regs = s.regs ∧ xtal t x = xtal s x) ∧
  (∀ (n : Fin 6) (s : State), (xtal s (loopXtal s n)).st = .good → ∃ t, exec (.loopLocked n) s = .next t ∧
    locked t n = true ∧ fget t (F.CLK_ML_FREQ.KHZ n) = loopKhz s n % 2 ^ 23 ∧ Alters [R.CLK_ML_FREQ n] s t) ∧
  (∀ (n : Fin 6) (s : State), (xtal s (loopXtal s n)).st ≠ .good → exec (.loopLocked n) s = .next s) ∧
  (∀ (n : Fin 6) (s : State), domOn s dPit = true → onAlt s n = true → (xtal s (normalXtal n)).good = 65536 →
    ∃ t, exec (if 4 ≤ n.val then .pitClkRestore else .clkRestore) s = .next t ∧ t = { s with regs := t.regs, pwr := t.pwr } ∧
      onAlt t n = false ∧ locked t n = false ∧ fget t (F.CLK_ML_FREQ.KHZ n) = 0 ∧ loopXtal t n = normalXtal n) ∧
  (∀ s : State, domOn s dPit = true → (∀ n < 6, onAlt s n = false) → exec .pitClkRestore s = .next s ∧ exec .clkRestore s = .next s)

/-- STREAM_ARM (the Pit being up) of an idle stream with a bad configuration is refused: STREAM_CONFIG in CODE,
ARM_REFUSED set and counted, and it stays IDLE (R200); one whose areas, staging room and budget pass is ARMED with its
translations held, GEN, CODE, BLOCK, CRING_WR and PEAK clear (R186, R200). An armed one ignores it. One whose page the
host has still to translate waits and asks for it. STREAM_DISARM makes an armed or running stream DISARMING and a
FAULTED one IDLE at once (R205); FORCED_DISARM_DONE makes a forced one IDLE once no cue of it is left.
CHAIN_HEAD_ISSUE submits the head cue of the block in processing once, as a follow-on (R189); CHAIN_COMPLETE completes
the block and GEN names the state it wrote (R195, R198); OUTPUT_POINT, N - 1 frames after the boundary and in no other
frame, sends a complete block next, whose first frame it reads where the stream has an output, and drops another, with
UNDERRUN, FILL and its cues aborted (R190, R197). BLOCK_DEADLINE, N / 2 frames after the boundary and in no other
frame, marks an incomplete block of a stream that is not privileged late (R198). (spec/05_the_pit.md;
spec/08_prompt_desk.md) -/
def Obligations.PitStreams : Prop :=
  (∀ (n : Fin 32) (s : State), domOn s dPit = true → streamArmed s n = true → exec (.streamArm n) s = .next s) ∧
  (∀ (n : Fin 32) (s : State), domOn s dPit = true → streamArmed s n = false → streamConfigOk s n = false → ∃ t, exec (.streamArm n) s = .next t ∧
    t = { s with
      regs := t.regs
      msix := t.msix
      out := t.out
      streams := mmod PitStream.idle s.streams n fun p => { p with arming := false }
      reqs := s.reqs.filter fun r => !(r.eng.isSome && r.cid == streamCid s n && r.isDone)
      hostFails := s.hostFails.filter fun e => some e.fn != fnOfCid s (streamCid s n) } ∧
    streamState t n = sIdle ∧ fget t (F.PIT_S_STATE.CODE n) = cStreamConfig ∧ Raised (E.PIT_S_STATUS.ARM_REFUSED n) s t ∧
    OnlyRegs [R.PIT_S_STATE n, R.PIT_S_STATUS n, R.PIT_S_EVT2 n] s t) ∧
  (∀ (n : Fin 32) (s : State) (pts : List (Nat × Bool)) (f g : Nat), domOn s dPit = true → streamArmed s n = false → streamConfigOk s n = true →
    pts = ((areas s n).flatMap fun a => (checkPoints (checkStep s (streamCid s n)) a.1 a.2.1).map fun v => (v, a.2.2.2)) →
    checkAreas s (streamCid s n) (streamPriv s n) pts = .waits f g →
    exec (.streamArm n) s = .next
      (askAts { s with streams := mmod PitStream.idle s.streams n fun p => { p with arming := true } } f g)) ∧
  (∀ (n : Fin 32) (s : State) (pages : List HeldPage) (pts : List (Nat × Bool)), domOn s dPit = true → streamArmed s n = false →
    streamConfigOk s n = true →
    pts = ((areas s n).flatMap fun a => (checkPoints (checkStep s (streamCid s n)) a.1 a.2.1).map fun v => (v, a.2.2.2)) →
    checkAreas s (streamCid s n) (streamPriv s n) pts = .ok pages → carved s = true → stagingFits s n = true →
    streamPriv s n = false ∨ budgetOk s n = true → ∃ t, exec (.streamArm n) s = .next t ∧
      t = { s with regs := t.regs, tc := t.tc, wc := t.wc, helds := t.helds, streams := t.streams } ∧ streamState t n = sArmed ∧
      fget t (F.PIT_S_STATE.GEN n) = 0 ∧ fget t (F.PIT_S_STATE.CODE n) = 0 ∧ rd64 t (R.PIT_S_BLOCK_LO n) = 0 ∧
      rdN t (R.PIT_S_CRING_WR n) = 0 ∧ rdN t (R.PIT_S_PEAK n) = 0 ∧ streamOf t n = PitStream.idle ∧
      heldPages t (.pit n) = pages.eraseDups ∧
      OnlyRegs ([R.PIT_S_STATE n, R.PIT_S_CRING_WR n, R.PIT_S_BLOCK_LO n, R.PIT_S_BLOCK_LO n + 4, R.PIT_S_PEAK n] ++ xlatRegs) s t) ∧
  (∀ (n : Fin 32) (s : State), domOn s dPit = true → streamState s n = sArmed ∨ streamState s n = sRunning →
    ∃ t, exec (.streamDisarm n) s = .next t ∧ streamState t n = sDisarming ∧ OnlyRegs [R.PIT_S_STATE n] s t ∧
      t = { s with regs := t.regs, streams := (dropArming s (· == n.val)).streams }) ∧
  (∀ (n : Fin 32) (i : Instr) (s : State), (i = .streamDisarm n ∧ domOn s dPit = true ∧ streamState s n = sFaulted) ∨
      (i = .forcedDisarmDone n ∧ (streamOf s n).forced = true ∧ chainBusy s n = false) →
    ∃ t, exec i s = .next t ∧ t = { s with
        regs := t.regs
        streams := t.streams
        helds := s.helds.filter (·.agent != .pit n) } ∧
      streamState t n = sIdle ∧ streamOf t n = PitStream.idle ∧ OnlyRegs [R.PIT_S_STATE n] s t) ∧
  (∀ (n : Fin 32) (s : State) (b : PitBlock), (streamOf s n).proc = some b → b.head = true → chainBusy s n = false →
    streamPriv s n = false → replayBefore s n b = false → heldBad s (streamCid s n) (stPages s n) [(chainAddr s n (b.n % 2), 64, false)] = none →
    cacheOn s 0 = false → ∃ t, exec (.chainHeadIssue n) s = .next t ∧
      t = { s with
        streams := t.streams
        ctxs := t.ctxs
        buckets := t.buckets
        nextUid := s.nextUid + 1
        cues := s.cues ++ [fetchedCue s s.nextUid (.stream n) none (streamCid s n) (b.n % 2) true
          (ctxRead s (stPages s n) (chainAddr s n (b.n % 2)) 64)] } ∧
      streamOf t n = { streamOf s n with proc := some { b with head := false, headUid := s.nextUid } } ∧
      ∀ c, c ≠ streamCid s n → ctxOf t c = ctxOf s c) ∧
  (∀ (n : Fin 32) (beats : Nat) (s : State) (b : PitBlock), (streamOf s n).proc = some b → b.head = false →
    b.complete = false → chainBusy s n = false → b.late = false → b.replay = false →
    ∃ t, exec (.chainComplete n beats) s = .next t ∧ t = { s with regs := t.regs, streams := t.streams } ∧
      fget t (F.PIT_S_STATE.GEN n) = (b.n + 1) % 2 ∧
      streamOf t n = { streamOf s n with proc := some { b with complete := true }, dropped := 0 } ∧
      rdN t (R.PIT_S_PEAK n) = (if streamPriv s n then max (rdN s (R.PIT_S_PEAK n)) (min beats 0xFFFFFFFF)
        else rdN s (R.PIT_S_PEAK n)) ∧ OnlyRegs [R.PIT_S_STATE n, R.PIT_S_PEAK n] s t) ∧
  (∀ (n : Fin 32) (s : State), stIsSap s n = false ∨ (streamOf s n).t + 1 ≠ stN s n → exec (.outputPoint n) s = .next s) ∧
  (∀ (n : Fin 32) (s : State) (b : PitBlock) (el : Nat → Nat), stIsSap s n = true → (streamOf s n).t + 1 = stN s n →
    (streamOf s n).proc = some b → b.complete = true → el = (fun c => outAddr s n b.n + elemOff s n 0 c) →
    (stOutEn s n = false → ∃ t, exec (.outputPoint n) s = .next t ∧ t = { s with streams := t.streams } ∧
      streamOf t n = { streamOf s n with proc := none, nextOut := .block (b.n % 2) }) ∧
    (stOutEn s n = true → cacheOn s 0 = false →
      (∀ c < stCh s n, heldBad s (streamCid s n) (stPages s n) [(el c, sampleBytes (stFmt s n), false)] = none) →
      ∃ t, exec (.outputPoint n) s = .next t ∧ t = { s with streams := t.streams, buckets := t.buckets } ∧
        streamOf t n = { streamOf s n with
          proc := none
          nextOut := .block (b.n % 2)
          ahead := some ((upTo (stCh s n)).map fun c =>
            sampleOut (stFmt s n) (leNat (ctxRead s (stPages s n) (el c) (sampleBytes (stFmt s n))))) })) ∧
  (∀ (n : Fin 32) (s : State) (b : PitBlock), stIsSap s n = true → (streamOf s n).t + 1 = stN s n →
    (streamOf s n).proc = some b → b.complete = false → streamPriv s n = false → (∀ c ∈ s.cues, c.src ≠ .stream n) → ∃ t, exec (.outputPoint n) s = .next t ∧
      t = { s with
        regs := t.regs
        msix := t.msix
        out := t.out
        streams := t.streams
        follows := s.follows.filter (·.src != .stream n) } ∧
      streamOf t n = { streamOf s n with proc := none, nextOut := .fill, dropped := min 0xFFFF ((streamOf s n).dropped + 1) } ∧
      Raised (E.PIT_S_STATUS.UNDERRUN n) s t ∧ OnlyRegs [R.PIT_S_STATUS n, R.PIT_S_EVT0 n] s t) ∧
  (∀ (n : Fin 32) (s : State) (b : PitBlock), stIsSap s n = true → (streamOf s n).proc = some b → b.complete = false →
    streamPriv s n = false → 2 * (streamOf s n).t = stN s n → ∃ t, exec (.blockDeadline n) s = .next t ∧ t = { s with streams := t.streams } ∧
      streamOf t n = { streamOf s n with proc := some { b with late := true } }) ∧
  (∀ (n : Fin 32) (s : State), 2 * (streamOf s n).t ≠ stN s n → exec (.blockDeadline n) s = .next s)

/-- RASTER_PASS_START with the block free and up, a cue able to start and the next to be placed there (R337), and the Loft
carved: a descriptor and target records that pass R217, R218 and R220 become the block's pass in its geometry phase,
with nothing read, binned or counted and every tile's list empty, and RAS_STATUS shows it; a descriptor that fails
counts the pass and ends the cue with CUE_INVALID; a block with a pass starts none, and a gated one wakes first
(R434). DRAW_FETCH reads the next draw record once the last is binned, and one that fails its check ends the pass with
DRAW_INVALID, its report to be written (R220, R243). VERTEX_BATCH_LAUNCH gathers the next vertex IDs and places one
workgroup for them (R221), a gated core waking first; VERTEX_BATCH_DONE takes the outputs of an ended group and bins
its primitives in order, or starts a partial render when one does not fit (R225, R236). PARTIAL_RENDER_DONE empties
every list, keeps the SPILLED bits, counts its overrun as DEBT (R345) and returns to geometry (R236).
(spec/06_raster.md; spec/09_objects_and_fences.md) -/
def Obligations.RasterGeometry : Prop :=
  (∀ (src : Src) (s : State), s.raster ≠ none → exec (.rasterPassStart src) s = .next s) ∧
  (∀ (src : Src) (s n : State) (q : CueRun), s.raster = none →
    n = noteAll s (ctxOf s q.cid).part → Starts n (srcOf src) 3 q → beingTaken n q.cid .raster [] = false →
    mayPlace n (ctxOf n q.cid).part q.cid (srcOf src) .raster 17 = true →
    (domOn s dRaster = false → exec (.rasterPassStart src) s = .next (meetFence (wakeFor n [dRaster]) (srcOf src))) ∧
    ∀ (u : State) (pages : List HeldPage) (d : List Byte) (eng : List Byte → EngAsk), domOn s dRaster = true →
    eng = (fun d => rasEng (RasterRun.fresh q.uid q.cid d q.addr []) q.addr (field d 0 4)) →
    UnitGoes (started n q) (eng []) [(q.addr, 64, false)] pages → d = ctxRead (started n q) pages q.addr 64 →
    u = unitUsed (started n q) (eng []) pages [(q.addr, 64, false)] →
    (passDescOk (partNpl s (ctxOf s q.cid).part) d = false → ∃ t, exec (.rasterPassStart src) s = .next (meetFence t (srcOf src)) ∧
      t = { u with regs := t.regs, cues := t.cues } ∧ CueEnds q.uid cCueInvalid zeroNum (started n q) t ∧
      rdN t R.RAS_PASS_COUNT = min 0xFFFFFFFF (rdN s R.RAS_PASS_COUNT + 1) ∧ OnlyRegs (R.RAS_PASS_COUNT :: xlatRegs) s t) ∧
    (∀ (pg : List HeldPage), passDescOk (partNpl s (ctxOf s q.cid).part) d = true →
      UnitGoes u (eng d) [(field d 8 8, 32 * pTargets d, false)] pg →
      passOk d (ctxRead (started n q) pg (field d 8 8) (32 * pTargets d)) = true → carved s = true →
      ∃ t r, exec (.rasterPassStart src) s = .next (meetFence t (srcOf src)) ∧
        t = { startSlice (unitUsed u (eng d) pg [(field d 8 8, 32 * pTargets d, false)]) q.cid with
          regs := t.regs
          mem := t.mem
          ueWords := t.ueWords
          caches := t.caches
          buckets := t.buckets
          raster := some r } ∧
        r.uid = q.uid ∧ r.cid = q.cid ∧ r.desc = d ∧ r.daddr = q.addr ∧
        r.targets = ctxRead (started n q) pg (field d 8 8) (32 * pTargets d) ∧ r.phase = .geometry ∧ r.draws = [] ∧
        r.batches = [] ∧ r.tile = none ∧ r.primsIn = 0 ∧ r.binned = 0 ∧ r.frags = 0 ∧ r.partials = 0 ∧
        fget t F.RAS_STATUS.BUSY = 1 ∧ fget t F.RAS_STATUS.PHASE = 1 ∧ fget t F.RAS_STATUS.CID = q.cid % 1024 ∧
        ∀ i < pTiles d, tileCountOf t i = 0 ∧ tileSpilled t i = false)) ∧
  (∀ (s u : State) (r : RasterRun) (pages : List HeldPage) (w : List Byte) (e : EngAsk), s.raster = some r → r.phase = .geometry →
    asmDone r = true → r.batches = [] → r.yielding = false → r.draws.length < pDraws r.desc →
    e = rasEng r (field r.desc 32 8 + 128 * r.draws.length) (field r.desc 0 4) →
    UnitGoes s e [(field r.desc 32 8 + 128 * r.draws.length, 128, false)] pages →
    u = unitUsed s e pages [(field r.desc 32 8 + 128 * r.draws.length, 128, false)] →
    w = ctxRead u pages (field r.desc 32 8 + 128 * r.draws.length) 128 →
    (drawOk r.desc w = true → exec .drawFetch s =
      .next { u with raster := some { r with draws := r.draws ++ [w], asm := ⟨0, [], 0, 0⟩ } }) ∧
    (drawOk r.desc w = false → ∃ t, exec .drawFetch s = .next t ∧ t.raster = none ∧ Raised E.RAS_EVENT.DRAW_INVALID s t ∧
      CueEnds r.uid cDrawInvalid zeroNum s t ∧ fget t F.RAS_STATUS.BUSY = 0 ∧
      t.reports = s.reports ++ [⟨r.uid, rasEng r r.daddr (field r.desc 0 4), field r.desc 48 8, rasReport r r.draws.length⟩])) ∧
  (∀ (c : Fin 17) (s : State) (r : RasterRun) (m : RasAsm) (ids : List Nat) (p : RasPrim) (ps : List RasPrim),
    s.raster = some r → r.phase = .geometry → asmDone r = false → r.yielding = false →
    rasCoreOk s r c (field (curDraw r) 40 1) (vertexKib (wV (curDraw r))) = true → indexHeld s r (curDraw r) = false →
    gather s r.cid (curDraw r) (wCount (curDraw r) - r.asm.pos) r.asm [] [] = .ok m ids (p :: ps) →
    (domOn s (dCore + c.val) = false → exec (.vertexBatchLaunch c) s = .next (wakeFor s [dCore + c.val])) ∧
    (domOn s (dCore + c.val) = true → ∃ t, exec (.vertexBatchLaunch c) s = .next t ∧
      t = { indexUse s r (curDraw r) r.asm.pos m.pos with
        regs := t.regs
        cores := t.cores
        raster := some { r with
          asm := m
          batches := r.batches ++ [⟨r.nextNum, r.draws.length - 1, ids, p :: ps, none⟩]
          nextNum := r.nextNum + 1 } } ∧
      (∃ g, (coreOf t c).wgs = (coreOf s c).wgs ++ [g] ∧ g.kind = .vertex ∧ g.uid = r.uid ∧ g.cid = r.cid ∧
        g.index = r.nextNum ∧ g.groups = 1 ∧ g.entry = field (curDraw r) 24 8) ∧
      ∀ k : Nat, k ≠ c → coreOf t k = coreOf s k)) ∧
  (∀ (s : State) (r : RasterRun), s.raster = some r → (∀ w ∈ s.endedWgs, w.kind ≠ .vertex ∨ w.uid ≠ r.uid) →
    exec .vertexBatchDone s = .next s) ∧
  (∀ (s s' : State) (r : RasterRun) (w : Wg) (b b' : RasBatch) (p : RasPrim), s.raster = some r → r.phase = .geometry →
    r.yielding = false → s.endedWgs.find? (fun w => w.kind == .vertex && w.uid == r.uid) = some w → r.batches = [b] →
    b.num = w.index → b.prims = [p] →
    b' = { b with outs := some (batchOuts (wV (r.draws.getD b.draw [])) b.ids.length w.store) } →
    s' = { s with endedWgs := dropFirst (· == w) s.endedWgs } →
    (∀ s2 r2, binPrim s' { r with batches := [b'] } b' p = some (s2, r2) → r2.primsIn = r.primsIn + 1 ∧
      exec .vertexBatchDone s = .next { s2 with raster := some { r2 with flushed := false, batches := [] } }) ∧
    (binPrim s' { r with batches := [b'] } b' p = none → ∃ t x, exec .vertexBatchDone s = .next t ∧
      t = { s' with regs := t.regs, raster := some x } ∧ x.phase = .partialRender ∧ x.batches = [b'] ∧ x.nextTile = 0 ∧
      fget t F.RAS_STATUS.PHASE = 3)) ∧
  (∀ (extra dup : Nat) (s : State) (r : RasterRun), s.raster = some r → r.phase = .partialRender → r.tile = none →
    nextTileOf s r r.nextTile = none → r.batches = [] → (ctxOf s r.cid).part < 8 →
    ∃ t x, exec (.partialRenderDone extra dup) s = .next t ∧
      t = { s with
        regs := t.regs
        mem := t.mem
        ueWords := t.ueWords
        ctxs := mmod Ctx.none s.ctxs r.cid fun x =>
          { x with debt := min 0xFFFFFFFF (x.debt + ownOverrun s r.cid extra dup) }
        raster := some x } ∧
      x.phase = .geometry ∧ x.partials = r.partials + 1 ∧ x.flushed = true ∧ x.draws = r.draws ∧ x.asm = r.asm ∧
      Raised E.RAS_EVENT.PARTIAL s t ∧
      ∀ i < pTiles r.desc, tileCountOf t i = 0 ∧ tileSpilled t i = tileSpilled s i)

/-- TILE_PHASE_TILE: the next tile the phase visits, its pages translated, is loaded or cleared and its list rasterised;
the first after the last draw is binned begins the final phase (R229). FRAGMENT_GROUP_LAUNCH places one workgroup for
up to 8 quads of one draw and counts their covered members (R232), a gated core waking first (R434);
FRAGMENT_GROUP_DONE blends groups in list order, and one that has not ended blocks those behind it (R233).
TILE_WRITE_OUT writes a tile with nothing left, its stores meeting nothing bad, touching (the CACHE region disabled,
no page on a peer) no byte outside the pages held, and lets them go. RASTER_PASS_END after the last tile frees the
block, leaves its report to be written and ends the cue OK, the pass counted (R242, R243). RASTER_YIELD starts a
partial render, and at the flush point saves the pass (R238); RASTER_RESUME takes a saved one up where it stood when
it is the next to be placed (R337) and the block is up; RASTER_ABORT ends the pass with the stop's code (R241).
(spec/06_raster.md; spec/10_stage_manager.md) -/
def Obligations.RasterTilesAndEnd : Prop :=
  (∀ (s : State) (r : RasterRun) (k : Nat) (pages : List HeldPage), s.raster = some r → r.phase ≠ .geometry → r.tile = none →
    nextTileOf s r r.nextTile = some k → xlateUnit s r.cid (tileRanges s r k) = .ok pages →
    engineWaits s (tileEng r) pages (tileLoads s r k) = false → ∃ t pk, exec .tilePhaseTile s = .next t ∧
      t = { used (hold s .raster r.cid pages) (tileEng r) pages (tileLoads s r k) with
        regs := t.regs
        raster := some { r with tile := some (fillTile s pages r k), nextTile := k + 1, peak := pk } } ∧
      heldPages t .raster = pages) ∧
  (∀ (s : State) (r : RasterRun) (pages : List HeldPage), s.raster = some r → r.phase = .geometry → geometryDone r = true →
    r.yielding = false → r.tile = none → 0 < pTiles r.desc →
    xlateUnit s r.cid (tileRanges s { r with phase := .final, nextTile := 0 } 0) = .ok pages →
    engineWaits s (tileEng r) pages (tileLoads s { r with phase := .final, nextTile := 0 } 0) = false →
    ∃ t x, exec .tilePhaseTile s = .next t ∧ t.raster = some x ∧ x.phase = .final ∧ x.nextTile = 1 ∧
      x.tile = some (fillTile s pages { r with phase := .final, nextTile := 0 } 0) ∧ fget t F.RAS_STATUS.PHASE = 2) ∧
  (∀ (c : Fin 17) (s : State) (r : RasterRun) (ti : RasTile) (q : RasQuad) (qs : List RasQuad), s.raster = some r →
    r.tile = some ti → leadQuads ti.quads = q :: qs →
    rasCoreOk s r c (field (r.draws.getD q.draw []) 41 1) (fragKib (wV (r.draws.getD q.draw [])) (pTargets r.desc)) = true →
    (domOn s (dCore + c.val) = false → exec (.fragmentGroupLaunch c) s = .next (wakeFor s [dCore + c.val])) ∧
    (domOn s (dCore + c.val) = true → ∃ t, exec (.fragmentGroupLaunch c) s = .next t ∧
      t = { s with
        regs := t.regs
        cores := t.cores
        free := s.free + 1
        raster := some { r with
          tile := some { ti with
            quads := ti.quads.drop (qs.length + 1)
            groups := ti.groups ++ [⟨r.nextNum, q :: qs⟩] }
          nextNum := r.nextNum + 1
          frags := r.frags + sumBy (fun q : RasQuad => countWhere (bit q.cover) (upTo 4)) (q :: qs) } } ∧
      ∃ g, (coreOf t c).wgs = (coreOf s c).wgs ++ [g] ∧ g.kind = .fragment ∧ g.uid = r.uid ∧ g.index = r.nextNum)) ∧
  (∀ (s : State) (r : RasterRun) (ti : RasTile) (g : RasGroup) (gs : List RasGroup), s.raster = some r → r.tile = some ti →
    ti.groups = g :: gs → (∀ w ∈ s.endedWgs, w.kind ≠ .fragment ∨ w.uid ≠ r.uid ∨ w.index ≠ g.num) →
    exec .fragmentGroupDone s = .next s) ∧
  (∀ (s : State) (r : RasterRun) (ti : RasTile) (g : RasGroup) (w : Wg), s.raster = some r → r.tile = some ti →
    ti.groups = [g] → s.endedWgs.find? (fun w => w.kind == .fragment && w.uid == r.uid && w.index == g.num) = some w →
    exec .fragmentGroupDone s = .next { s with
      endedWgs := dropFirst (· == w) s.endedWgs
      raster := some { r with
        tile := some { applyGroup { s with endedWgs := dropFirst (· == w) s.endedWgs } r ti g w.store with groups := [] } } }) ∧
  (∀ (s : State) (r : RasterRun) (ti : RasTile), s.raster = some r → r.tile = some ti → ti.quads = [] → ti.groups = [] →
    r.phase = .final → (∀ p ∈ heldPages s .raster, p.va % 65536 = 0 ∧ p.size % 65536 = 0) →
    engineWaits s (tileEng r) (heldPages s .raster) (tileStores s r ti.idx) = false →
    heldBad s r.cid (heldPages s .raster) (tileStores s r ti.idx) = none → cacheOn s 0 = false →
    (∀ p ∈ heldPages s .raster, ∀ x, p.da ≤ x → x < p.da + p.size → reach s x ≠ .peer) →
    ∃ t pk n, exec .tileWriteOut s = .next t ∧
      t = { s with
        regs := t.regs
        mem := t.mem
        ueWords := t.ueWords
        caches := t.caches
        buckets := t.buckets
        reqs := t.reqs
        nextReq := t.nextReq
        helds := s.helds.filter (·.agent != .raster)
        raster := some { r with tile := none, stored := n, peak := pk } } ∧
      MemOnly (heldPages s .raster) s t ∧ (n = r.stored ∨ n = r.stored + 1)) ∧
  (∀ (extra dup : Nat) (s : State) (r : RasterRun), s.raster = some r → r.phase = .final → r.tile = none →
    pTiles r.desc ≤ r.nextTile → (ctxOf s r.cid).part < 8 → ∃ t, exec (.rasterPassEnd extra dup) s = .next t ∧ t.raster = none ∧
      CueEnds r.uid cOk zeroNum s t ∧ fget t F.RAS_STATUS.BUSY = 0 ∧
      rdN t R.RAS_PASS_COUNT = min 0xFFFFFFFF (rdN s R.RAS_PASS_COUNT + 1) ∧ t.fences = s.fences ∧ t.rings = s.rings ∧
      t.reports = s.reports ++ [⟨r.uid, rasEng r r.daddr (field r.desc 0 4), field r.desc 48 8, rasReport r 0xFFFFFFFF⟩]) ∧
  (∀ (s : State) (r : RasterRun), s.raster = some r → r.yielding = false ∨ r.phase ≠ .geometry →
    exec .rasterYield s = .next s) ∧
  (∀ (s : State) (r : RasterRun), s.raster = some r → r.yielding = true → r.phase = .geometry →
    (r.flushed = false → ∃ t pk, exec .rasterYield s = .next t ∧ t = { s with
      regs := t.regs
      raster := some { r with phase := .partialRender, nextTile := 0, tile := none, peak := pk } }) ∧
    (r.flushed = true → ∃ t, exec .rasterYield s = .next t ∧ t.raster = none ∧ t.nextImage = s.nextImage + 1 ∧
      t.savedPasses = s.savedPasses ++ [(s.nextImage, savedPass s r)] ∧ t.cues = s.cues ∧
      (t.images.getLast?.map fun i => (i.id, i.kind, i.uid)) = some (s.nextImage, .raster, r.uid))) ∧
  (∀ (ecc : Ecc) (s : State) (r : RasterRun) (id : Nat) (q : CueRun), s.raster = none → s.savedPasses = [(id, r)] →
    ctxLive s r.cid = true → s.preempts = [] → cueOf s r.uid = some q →
    mayPlace (noteAll s (ctxOf s r.cid).part) (ctxOf s r.cid).part r.cid q.src .raster 17 = true → imageBad s id ecc = false →
    (domOn s dRaster = false → ∃ n, n = noteAll s (ctxOf s r.cid).part ∧ exec (.rasterResume ecc) s = .next (wakeFor n [dRaster])) ∧
    (domOn s dRaster = true → ∃ t x, exec (.rasterResume ecc) s = .next t ∧ t.raster = some x ∧
      x.uid = r.uid ∧ x.desc = r.desc ∧ x.draws = r.draws ∧ x.asm = r.asm ∧ x.phase = r.phase ∧ x.spilled = [] ∧
      t.savedPasses = [] ∧ t.images = s.images.filter (·.id != id) ∧ t.cues = s.cues ∧ fget t F.RAS_STATUS.BUSY = 1)) ∧
  (∀ (src : Src) (x d : Nat) (s : State), stopOf s (srcOf src) [3] = none → exec (.rasterAbort src x d) s = .next s) ∧
  (∀ (src : Src) (x d : Nat) (s : State) (q : CueRun) (code : Nat) (r : RasterRun), stopOf s (srcOf src) [3] = some (q, code) →
    s.raster = some r → r.uid = q.uid → (ctxOf s r.cid).part < 8 → ∃ t, exec (.rasterAbort src x d) s = .next t ∧ t.raster = none ∧
      CueEnds q.uid code zeroNum s t ∧ t.stops = s.stops.filter (·.1 != q.uid) ∧ fget t F.RAS_STATUS.BUSY = 0 ∧
      rdN t R.RAS_PASS_COUNT = min 0xFFFFFFFF (rdN s R.RAS_PASS_COUNT + 1) ∧
      t.reports = s.reports ++ [⟨r.uid, rasEng r r.daddr (field r.desc 0 4), field r.desc 48 8, rasReport r 0xFFFFFFFF⟩])

/-- FLIP_ISSUE (R247, R248): a record that the layer's owner issues, that passes its check and whose pixels translate
joins the end of the layer's queue, shown by QUEUED; with four flips queued on the layer it names nothing issues,
whatever the record; on a layer of another owner the cue ends with LAYER_NOT_OWNED. The next cue of the source then
meets its fence. LATCH_INSTANT at line VACTIVE takes a pending commit first (R356); then (R249 to R251) a lone
unfenced flip at the head of a held layer becomes what the layer shows and its cue ends OK; of two the first is
superseded and the second latches. At any other line nothing latches. DEADLINE_NEAR at its line (R258, R349): a flip
that only its fence holds back sets and counts DEADLINE_NEAR once for its partition, and the partition's DEADLINE_EVT
goes up. (spec/07_proscenium.md; spec/10_stage_manager.md) -/
def Obligations.FlipsAndLatching : Prop :=
  (∀ (src : Src) (s : State) (q : CueRun) (pages : List HeldPage) (b : List Byte), Starts s (srcOf src) 4 q →
    xlateUnit (started s q) q.cid [(q.addr, 64, false)] = .ok pages → b = ctxRead (started s q) pages q.addr 64 → fLayer b < 24 →
    (4 ≤ (layerOf s (fLayer b)).queue.length → exec (.flipIssue src) s = .next (meetFence s (srcOf src))) ∧
    ((layerOf s (fLayer b)).queue.length < 4 → layerOwner s (fLayer b) ≠ q.cid →
      ∃ t, exec (.flipIssue src) s = .next (meetFence t (srcOf src)) ∧ t = { started s q with cues := t.cues } ∧
      CueEnds q.uid cNotOwned zeroNum (started s q) t) ∧
    (∀ pg, (layerOf s (fLayer b)).queue.length < 4 → layerOwner s (fLayer b) = q.cid → flipOk (started s q) b = true →
      fFenced b = false ∨ mayWait (started s q) (fFence b) q.cid = true → mapUnit (started s q) q.cid (flipRanges b) = .ok pg →
      ∃ t, exec (.flipIssue src) s = .next (meetFence t (srcOf src)) ∧
        t = { started s q with regs := t.regs, layers := t.layers } ∧
        layerOf t (fLayer b) = { layerOf s (fLayer b) with
          queue := (layerOf s (fLayer b)).queue ++ [⟨q.uid, q.cid, b, q.addr, pg, false⟩] } ∧
        (∀ l, l ≠ fLayer b → layerOf t l = layerOf s l) ∧
        fget t (F.PROSC_L_STATE.QUEUED (fLayer b)) = (layerOf s (fLayer b)).queue.length + 1 ∧
        OnlyRegs [R.PROSC_L_STATE (fLayer b), R.PROSC_L_BUF_LO (fLayer b), R.PROSC_L_BUF_LO (fLayer b) + 4] s t)) ∧
  (∀ (o : Fin 3) (s : State), outEn s o = false ∨ fget s (F.PROSC_DO_SCAN.LINE o) ≠ vActive s o →
    exec (.latchInstant o) s = .next s) ∧
  (∀ (o : Fin 3) (s : State), outEn s o = true → fget s (F.PROSC_DO_SCAN.LINE o) = vActive s o →
    exec (.latchInstant o) s = exec (.latchInstant o) (takeCommit s o)) ∧
  (∀ (o : Fin 3) (s : State) (l : Nat) (f : Flip), outEn s o = true → fget s (F.PROSC_DO_SCAN.LINE o) = vActive s o →
    scPending s (5 + o) = false → layersOf s o = [l] → heldBy s o l = true → (layerOf s l).queue = [f] → fFenced f.raw = false →
    fGroup f.raw = 0 → ∃ t, exec (.latchInstant o) s = .next t ∧
      layerOf t l = ⟨[], some f, false, [], (layerOf s l).lost ++ (layerOf s l).losing⟩ ∧ CueEnds f.uid cOk zeroNum s t ∧
      t.mem = s.mem ∧ ∀ m, m ≠ l → layerOf t m = layerOf s m) ∧
  (∀ (o : Fin 3) (s : State) (l : Nat) (f g : Flip), outEn s o = true → fget s (F.PROSC_DO_SCAN.LINE o) = vActive s o →
    scPending s (5 + o) = false → layersOf s o = [l] → heldBy s o l = true → (layerOf s l).queue = [f, g] → f.uid ≠ g.uid → fFenced f.raw = false →
    fGroup f.raw = 0 → fFenced g.raw = false → fGroup g.raw = 0 → ∃ t u, exec (.latchInstant o) s = .next t ∧
      layerOf t l = ⟨[], some g, false, [], (layerOf s l).lost ++ (layerOf s l).losing⟩ ∧ CueEnds f.uid cSuperseded zeroNum s u ∧ CueEnds g.uid cOk zeroNum u t) ∧
  (∀ (o : Fin 3) (s : State) (l : Nat) (f : Flip), outEn s o = true →
    fget s (F.PROSC_DO_SCAN.LINE o) = fget s (F.PROSC_DO_DEADLINE.LINE o) → fget s (F.PROSC_DO_DEADLINE.LINE o) < vTotal s o →
    queuedOn s o = [(l, f)] → heldBy s o l = true → fGroup f.raw = 0 → flipReady s f = false → flipFailed s f = none →
    (ctxOf s f.cid).part < 8 → (ctxOf s f.cid).part ∉ (outOf s o).near → ctxLive s (fenceOf s (fFence f.raw)).owner = false →
    ∃ t, exec (.deadlineNear o) s = .next t ∧
      t = { s with
        regs := t.regs
        outputs := t.outputs
        msix := t.msix
        out := t.out } ∧
      Raised (E.PROSC_DO_STATUS.DEADLINE_NEAR o) s t ∧
      fget t (F.SMGR_P_EVT.DEADLINE_EVT (ctxOf s f.cid).part) =
        (fget s (F.SMGR_P_EVT.DEADLINE_EVT (ctxOf s f.cid).part) + 1) % 2 ^ 16 ∧
      (outOf t o).near = (outOf s o).near ++ [(ctxOf s f.cid).part]) ∧
  (∀ (o : Fin 3) (s : State), queuedOn s o = [] → exec (.deadlineNear o) s = .next s)

/-- With the Proscenium up, OUTPUT_ENABLE starts an output at line 0 of frame 0 with its configuration and timing in
force, or stops it (R246): the pages of a Curtain that is off are then let go. SCAN_LINE of a stopped output sends
nothing; a line from VACTIVE on only moves the scan on, and the last one of a frame goes back to line 0 and counts the
frame, modulo 2^32 (R263); an active line sends HACTIVE pixels of that line, and with the Curtain off nothing else
changes but the CRCs and the line; where the Curtain's own line met an error CURTAIN_FAULT is set and counted (R260).
CURTAIN_ENABLE (the Proscenium up, as for the next two) of an unlocked Curtain that is off holds its buffer's pages
too and keeps the address for the next latch instant, sets CURTAIN_FAULT when the buffer fails the check, or waits for
the host's translation; otherwise it changes nothing (R259, R262). CURTAIN_FLIP sets FLIP (R261), CURTAIN_LOCK sets
LOCK (R262). (spec/07_proscenium.md) -/
def Obligations.OutputsAndCurtain : Prop :=
  (∀ (o : Fin 3) (en : Bool) (s : State), domOn s dProsc = true → outEn s o = en → exec (.outputEnable o en) s = .next s) ∧
  (∀ (o : Fin 3) (s : State), domOn s dProsc = true → outEn s o = true → (∀ l < 24, (layerOf s l).losing = []) →
    ∃ t, exec (.outputEnable o false) s = .next t ∧ outEn t o = false ∧ OnlyRegs [R.PROSC_DO_CFG o] s t ∧
      t = { s with
        regs := t.regs
        helds := if fbit s (F.PROSC_DO_CURTAIN_CTRL.EN o) then s.helds else s.helds.filter (·.agent != .curtain o) }) ∧
  (∀ (o : Fin 3) (s : State), domOn s dProsc = true → outEn s o = false → ∃ t, exec (.outputEnable o true) s = .next t ∧ outEn t o = true ∧
    rdN t (R.PROSC_DO_FRAME o) = 0 ∧ fget t (F.PROSC_DO_SCAN.LINE o) = 0 ∧
    t = { s with regs := t.regs, applied := t.applied, outputs := t.outputs } ∧
    (∀ r ∈ R.PROSC_DO_CFG o :: timeRegs o, mget 0 t.applied r = rd t r) ∧
    (∀ r, r ∉ R.PROSC_DO_CFG o :: timeRegs o → mget 0 t.applied r = mget 0 s.applied r) ∧
    OnlyRegs [R.PROSC_DO_CFG o, R.PROSC_DO_FRAME o, R.PROSC_DO_SCAN o] s t) ∧
  (∀ (o : Fin 3) (u : List (Fin 24 × Nat)) (b : Bool) (s : State), outEn s o = false → exec (.scanLine o u b) s = .next s) ∧
  (∀ (o : Fin 3) (u : List (Fin 24 × Nat)) (b : Bool) (s : State), outEn s o = true →
    vActive s o ≤ fget s (F.PROSC_DO_SCAN.LINE o) → (∀ l < 24, (layerOf s l).losing = []) →
    ∃ t, exec (.scanLine o u b) s = .next t ∧ t = { s with regs := t.regs, outputs := t.outputs } ∧
      OnlyRegs [R.PROSC_DO_SCAN o, R.PROSC_DO_FRAME o] s t ∧
      outOf t o = (if fget s (F.PROSC_DO_SCAN.LINE o) + 1 < vTotal s o then outOf s o else { outOf s o with near := [] }) ∧
      (fget s (F.PROSC_DO_SCAN.LINE o) + 1 < vTotal s o →
        fget t (F.PROSC_DO_SCAN.LINE o) = fget s (F.PROSC_DO_SCAN.LINE o) + 1 ∧
        rdN t (R.PROSC_DO_FRAME o) = rdN s (R.PROSC_DO_FRAME o)) ∧
      (vTotal s o ≤ fget s (F.PROSC_DO_SCAN.LINE o) + 1 → fget t (F.PROSC_DO_SCAN.LINE o) = 0 ∧
        rdN t (R.PROSC_DO_FRAME o) = (rdN s (R.PROSC_DO_FRAME o) + 1) % 2 ^ 32)) ∧
  (∀ (o : Fin 3) (b : Bool) (s : State) (y : Nat), outEn s o = true → y = fget s (F.PROSC_DO_SCAN.LINE o) → y + 1 < vActive s o →
    y + 1 < vTotal s o → (∀ l < 24, (layerOf s l).losing = []) →
    (aget s (F.PROSC_DO_CURTAIN_CTRL.EN o) = 0 → ∃ t px, exec (.scanLine o [] b) s = .next t ∧ px.length = hActive s o ∧
      t = { s with regs := t.regs, outputs := t.outputs, out := s.out ++ [.pixels o y px] } ∧
      fget t (F.PROSC_DO_SCAN.LINE o) = y + 1 ∧ OnlyRegs [R.PROSC_DO_SCAN o] s t) ∧
    (aget s (F.PROSC_DO_CURTAIN_CTRL.EN o) = 1 →
      inRange y (aget s (F.PROSC_DO_CURTAIN_POS.Y o)) (aget s (F.PROSC_DO_CURTAIN_SIZE.H o)) = true →
      ∃ t, exec (.scanLine o [] true) s = .next t ∧ Raised (E.PROSC_DO_STATUS.CURTAIN_FAULT o) s t ∧
        fget t (F.PROSC_DO_SCAN.LINE o) = y + 1)) ∧
  (∀ (o : Fin 3) (s : State), domOn s dProsc = true → curtainLocked s o = true ∨ fbit s (F.PROSC_DO_CURTAIN_CTRL.EN o) = true →
    exec (.curtainEnable o) s = .next s) ∧
  (∀ (o : Fin 3) (s : State), domOn s dProsc = true → curtainLocked s o = false → fbit s (F.PROSC_DO_CURTAIN_CTRL.EN o) = false →
    fget s (F.PROSC_DO_CURTAIN_CTRL.FMT o) ∉ [1, 2, 4] ∨
      (∃ c a, curtainPages s o (rd64 s (R.PROSC_DO_CURTAIN_ADDR_LO o) % 2 ^ 48) = .fault c a) →
    ∃ t, exec (.curtainEnable o) s = .next t ∧
      t = { s with
        regs := t.regs
        msix := t.msix
        out := t.out
        outputs := mmod OutSt.off s.outputs o fun u => { u with asking := false } } ∧
      Raised (E.PROSC_DO_STATUS.CURTAIN_FAULT o) s t ∧ OnlyRegs [R.PROSC_DO_STATUS o, R.PROSC_DO_EVT1 o] s t) ∧
  (∀ (o : Fin 3) (s : State) (pages : List HeldPage) (va : Nat), domOn s dProsc = true → curtainLocked s o = false →
    fbit s (F.PROSC_DO_CURTAIN_CTRL.EN o) = false → fget s (F.PROSC_DO_CURTAIN_CTRL.FMT o) ∈ [1, 2, 4] →
    va = rd64 s (R.PROSC_DO_CURTAIN_ADDR_LO o) % 2 ^ 48 → curtainPages s o va = .ok pages →
    ∃ t, exec (.curtainEnable o) s = .next t ∧ 
      t = { s with regs := t.regs, tc := t.tc, wc := t.wc, helds := t.helds, outputs := t.outputs } ∧
      fbit t (F.PROSC_DO_CURTAIN_CTRL.EN o) = true ∧
      heldPages t (.curtain o) = (heldPages s (.curtain o) ++ pages).eraseDups ∧
      outOf t o = { outOf s o with asking := false, curNext := some va } ∧ OnlyRegs (R.PROSC_DO_CURTAIN_CTRL o :: xlatRegs) s t) ∧
  (∀ (o : Fin 3) (s : State) (f g : Nat), domOn s dProsc = true → curtainLocked s o = false → fbit s (F.PROSC_DO_CURTAIN_CTRL.EN o) = false →
    fget s (F.PROSC_DO_CURTAIN_CTRL.FMT o) ∈ [1, 2, 4] →
    curtainPages s o (rd64 s (R.PROSC_DO_CURTAIN_ADDR_LO o) % 2 ^ 48) = .waits f g → ∃ t, exec (.curtainEnable o) s = .next t ∧
      (outOf t o).asking = true ∧ fbit t (F.PROSC_DO_CURTAIN_CTRL.EN o) = false ∧ t.helds = s.helds) ∧
  (∀ (o : Fin 3) (s : State), domOn s dProsc = true → ∃ t u, exec (.curtainFlip o) s = .next t ∧ fbit t (F.PROSC_DO_CURTAIN_FLIP.FLIP o) = true ∧
    Alters [R.PROSC_DO_CURTAIN_FLIP o] s t ∧ exec (.curtainLock o) s = .next u ∧ curtainLocked u o = true ∧
    Alters [R.PROSC_DO_CURTAIN_CTRL o] s u)

/-- A side transaction of kind 0 to 7 (AUX native write and read, I2C over AUX write and read, DSI DCS short and long
write, generic write, DCS read; R244) writes SIDE_CMD where the Proscenium is up; on an output that has its kind (AUX
on DO0 and DO1, DSI on DO2), of at most 16 bytes and with none running, it is then running and goes out with the first
LEN bytes of SIDE_DATA if it writes, and with none if it reads; otherwise nothing starts. SIDE_TRANSACTION_DONE of a
running one gives RESULT, sets and counts AUX_DONE, and for a read with result 0 puts the LEN bytes read in SIDE_DATA;
with none running it changes nothing. HPD_IRQ shows the level and sets and counts HPD_IRQ. (spec/07_proscenium.md) -/
def Obligations.SideChannels : Prop :=
  (∀ (mk : Fin 3 → Fin 32 → BitVec 20 → Instr) (kind : Nat), (mk, kind) ∈ [(Instr.auxNativeWrite, 0), (Instr.auxNativeRead, 1),
      (Instr.i2cOverAuxWrite, 2), (Instr.i2cOverAuxRead, 3), (Instr.dsiDcsShortWrite, 4), (Instr.dsiDcsLongWrite, 5),
      (Instr.dsiGenericWrite, 6), (Instr.dsiDcsRead, 7)] →
    ∀ (o : Fin 3) (len : Fin 32) (addr : BitVec 20) (s : State), domOn s dProsc = true → ∃ t, exec (mk o len addr) s = .next t ∧
      rdN t (R.PROSC_DO_SIDE_CMD o) = kind + 16 * len + 4096 * addr.toNat ∧ OnlyRegs [R.PROSC_DO_SIDE_CMD o] s t ∧
      ((outOf s o).side = true ∨ ¬(o = 2 ↔ 4 ≤ kind) ∨ 16 < len.val → t = { s with regs := t.regs }) ∧
      ((outOf s o).side = false → (o = 2 ↔ 4 ≤ kind) → len.val ≤ 16 →
        t = { s with
          regs := t.regs
          outputs := t.outputs
          out := s.out ++ [.side o kind addr.toNat (if kind ∈ [1, 3, 7] then [] else (sideData s o).take len)] } ∧
        outOf t o = { outOf s o with side := true } ∧ ∀ k : Nat, k ≠ o → outOf t k = outOf s k)) ∧
  (∀ (o : Fin 3) (r : Fin 4) (d : BitVec 128) (s : State), (outOf s o).side = false →
    exec (.sideTransactionDone o r d) s = .next s) ∧
  (∀ (o : Fin 3) (r : Fin 4) (d : BitVec 128) (s : State), (outOf s o).side = true →
    ∃ t, exec (.sideTransactionDone o r d) s = .next t ∧
      t = { s with
        regs := t.regs
        outputs := t.outputs
        msix := t.msix
        out := t.out } ∧
      outOf t o = { outOf s o with side := false } ∧ fget t (F.PROSC_DO_SIDE_STATUS.RESULT o) = r ∧
      Raised (E.PROSC_DO_STATUS.AUX_DONE o) s t ∧
      sideData t o = (if fget s (F.PROSC_DO_SIDE_CMD.KIND o) ∈ [1, 3, 7] ∧ r = 0 then
        leBytes (min (fget s (F.PROSC_DO_SIDE_CMD.LEN o)) 16) d.toNat ++
          (sideData s o).drop (min (fget s (F.PROSC_DO_SIDE_CMD.LEN o)) 16)
        else sideData s o)) ∧
  (∀ (o : Fin 2) (l : Bool) (s : State), ∃ t, exec (.hpdIrq o l) s = .next t ∧
    t = { s with regs := t.regs, msix := t.msix, out := t.out } ∧ fbit t (F.PROSC_DO_STATUS.HPD o) = l ∧
    Raised (E.PROSC_DO_STATUS.HPD_IRQ o) s t ∧ OnlyRegs [R.PROSC_DO_STATUS o, R.PROSC_DO_EVT0 o] s t)

/-- While the host's translations admit the ring's accesses (R366, R367): RING_ENABLE (R269, R276, R538) of a ring that is
not OFF, or whose fields fail, is refused; otherwise, the Loft carved, the ring is ASLEEP with CI, PI and WAKE at the
PI read and everything else of it cleared, and WAKE is written to the doorbell word; a failed access sets and counts
DB_FAULT and stalls the ring. RING_DISABLE (R298): an OFF or DISABLING ring stays, an aborting one disables later, any
other is DISABLING with no cue of it waiting and its follow-ons gone; RING_DISABLE_DONE makes it OFF when its cues
have completed, with its fields at reset values after a reset. RING_RESUME (R296): refused unless STALLED; with one
parked record whose slot is held, or none, the ring writes it, is ACTIVE and writes WAKE; a record still undeliverable
leaves it STALLED, one without a free slot makes it wait. RING_ABORT (R297): no cue of the ring waits, its running
engine cues are asked to stop, and cues fetched up to PI end with ABORTED_BY_HOST; once all are, RING_ABORT_DONE
leaves it ASLEEP with WAKE at CI, or STALLED with parked records or after a failed fetch. (spec/08_prompt_desk.md) -/
def Obligations.RingCommands : Prop :=
  (∀ (fn : Fin 32) (d : HostRead) (w : Option HostErr) (s : State) (k : Nat), k = selRing s fn.val →
    ((ringOf s k).state ≠ .off → ∃ t, exec (.ringEnable fn d w) s = .next t ∧ t = { s with rings := t.rings } ∧
      RingBecomes k (ringOf s k).refusedOnce s t) ∧
    ((ringOf s k).state = .off → ringFieldsOk s fn.val k = false → ∃ t, exec (.ringEnable fn d w) s = .next t ∧
      t = { s with rings := t.rings } ∧ RingBecomes k { (ringOf s k).refusedOnce with code := cCueInvalid } s t) ∧
    ((ringOf s k).state = .off → ringFieldsOk s fn.val k = true → carved s = true → DoorOpen s k →
      (∀ v, d = .word v → w = none → ∃ t, exec (.ringEnable fn d w) s = .next t ∧
        t = { s with
          tc := t.tc
          rings := t.rings
          mem := t.mem
          ueWords := t.ueWords
          out := t.out } ∧
        PutsHost (ringFn k) (wakeAddr s k) (leBytes 2 (v.toNat % 2 ^ 15)) (hostGet (atDoor s k) (ringFn k) (doorAddr s k) 4) t ∧
        RingBecomes k { (ringOf s k).enabledAt (v.toNat % 2 ^ 15) with wake := v.toNat % 2 ^ 15 } s t) ∧
      (∀ v e, d = .word v → w = some e → ∃ t, exec (.ringEnable fn d w) s = .next t ∧ Raised (E.PDESK_FN_STATUS.DB_FAULT fn) s t ∧
        RingBecomes k (((ringOf s k).enabledAt (v.toNat % 2 ^ 15)).stalledBy (hostCode e)) s t) ∧
      (∀ e, d = .fail e → ∃ t, exec (.ringEnable fn d w) s = .next t ∧ Raised (E.PDESK_FN_STATUS.DB_FAULT fn) s t ∧
        t = { s with
          regs := t.regs
          tc := t.tc
          rings := t.rings
          msix := t.msix
          out := t.out } ∧
        RingBecomes k ((ringOf s k).stalledBy (hostCode e)) s t))) ∧
  (∀ (fn : Fin 32) (s : State) (k : Nat), k = selRing s fn.val →
    ((ringOf s k).state = .off ∨ (ringOf s k).state = .disabling → exec (.ringDisable fn) s = .next s) ∧
    ((ringOf s k).state = .aborting → ∃ t, exec (.ringDisable fn) s = .next t ∧ t = { s with rings := t.rings } ∧
      RingBecomes k { ringOf s k with disableNext := true } s t) ∧
    ((ringOf s k).state = .active ∨ (ringOf s k).state = .asleep ∨ (ringOf s k).state = .stalled →
      ∃ t, exec (.ringDisable fn) s = .next t ∧ OnlyRegs [R.PDESK_PARK_USED] s t ∧
        RingBecomes k { (ringOf s k).halted .disabling with parked := [], disableNext := false } s t ∧
        (∀ c ∈ t.cues, c.src = .ring k → c.stage ≠ .waiting) ∧ t.follows = s.follows.filter (·.src != .ring k) ∧
        ((∀ p ∈ s.sems, ∀ u ∈ p.2.fifo, ∀ c ∈ s.cues, c.src = .ring k → c.uid ≠ u) →
          (∀ c ∈ s.cues, (∀ q ∈ s.cues, q.src = .ring k → q.stage = .waiting → q.uid ≠ c.uid) → c ∈ t.cues) ∧
          t = { s with
            regs := t.regs
            rings := t.rings
            cues := t.cues
            follows := t.follows }))) ∧
  (∀ (fn : Fin 32) (r : Fin 1024) (s : State) (k : Nat), k = fn.val * 1024 + r.val →
    ((ringOf s k).state ≠ .disabling ∨ cuesOf s (.ring k) ≠ [] → exec (.ringDisableDone fn r) s = .next s) ∧
    ((ringOf s k).state = .disabling → cuesOf s (.ring k) = [] → ∃ t, exec (.ringDisableDone fn r) s = .next t ∧
      t = { s with rings := t.rings } ∧
      RingBecomes k (if (ringOf s k).wiped then Ring.idle else { ringOf s k with state := .off }) s t)) ∧
  (∀ (fn : Fin 32) (f : Option Nat) (w : Option HostErr) (s : State) (k : Nat), k = selRing s fn.val →
    ((ringOf s k).state ≠ .stalled ∨ (ringOf s k).code = cRingLost → ∃ t, exec (.ringResume fn f w) s = .next t ∧
      t = { s with rings := t.rings } ∧ RingBecomes k (ringOf s k).refusedOnce s t) ∧
    ((ringOf s k).state = .stalled → (ringOf s k).code ≠ cRingLost → (ringOf s k).parked = [] → DoorOpen s k →
      (w = none → ∃ t, exec (.ringResume fn f w) s = .next t ∧
        t = { s with
          regs := t.regs
          tc := t.tc
          rings := t.rings
          mem := t.mem
          ueWords := t.ueWords
          out := t.out } ∧ OnlyRegs [R.PDESK_PARK_USED] s t ∧ PutsHost (ringFn k) (wakeAddr s k) (leBytes 2 0xFFFF) (atDoor s k) t ∧
        RingBecomes k { (ringOf s k).resumed with wake := 0xFFFF } s t) ∧
      (∀ e, w = some e → ∃ t, exec (.ringResume fn f w) s = .next t ∧ Raised (E.PDESK_FN_STATUS.DB_FAULT (ringFn k)) s t ∧
        RingBecomes k ((ringOf s k).resumed.stalledBy (hostCode e)) s t)) ∧
    (∀ p, (ringOf s k).state = .stalled → (ringOf s k).code ≠ cRingLost → (ringOf s k).parked = [p] → p.slotHeld = true →
      p.irq = false → p.bytes.length = 32 → DoorOpen s k →
      HostAdmits (atDoor s k) (ringFn k) (recAddr (ringOf s k)) 32 true →
      (f ≠ some 0 → w = none → ∃ t, exec (.ringResume fn f w) s = .next t ∧
        (∀ a b, a = (ringOf s k).cbase + 32 * ((ringOf s k).cwr % 2 ^ (ringOf s k).csizeLog2) →
          b = onBus (atDoor s k) (ringFn k) → t.out = s.out ++ [.hostWrite (ringFn k) (b (a + 16)).1 (b (a + 16)).2 16,
            .hostWrite (ringFn k) (b a).1 (b a).2 16, .hostWrite (ringFn k) (b (wakeAddr s k)).1 (b (wakeAddr s k)).2 2]) ∧
        RingBecomes k { (ringOf s k).resumed with
          wake := 0xFFFF
          parked := []
          cwr := ((ringOf s k).cwr + 1) % 2 ^ 15 } s t) ∧
      (f = some 0 → ∃ t, exec (.ringResume fn f w) s = .next t ∧
        t = { s with tc := t.tc, regs := t.regs, rings := t.rings } ∧
        RingBecomes k { ringOf s k with resuming := false, waitSlot := false } s t)) ∧
    (∀ p, (ringOf s k).state = .stalled → (ringOf s k).code ≠ cRingLost → (ringOf s k).parked = [p] → p.slotHeld = false →
      slotFree (ringOf s k) = false → DoorOpen s k → HostAdmits (atDoor s k) (ringFn k) (recAddr (ringOf s k)) 32 true →
      ∃ t, exec (.ringResume fn f w) s = .next t ∧ t = { s with tc := t.tc, regs := t.regs, rings := t.rings } ∧
        RingBecomes k { ringOf s k with resuming := true, waitSlot := true } s t)) ∧
  (∀ (fn : Fin 32) (l : List CueRead) (s : State) (k : Nat), k = selRing s fn.val →
    ((ringOf s k).state = .off ∨ (ringOf s k).state = .aborting → exec (.ringAbort fn l) s = .next s) ∧
    ((ringOf s k).state = .disabling → ∃ t, exec (.ringAbort fn l) s = .next t ∧ t = { s with rings := t.rings } ∧
      RingBecomes k (ringOf s k).refusedOnce s t) ∧
    ((ringOf s k).state = .active ∨ (ringOf s k).state = .asleep ∨ (ringOf s k).state = .stalled →
      ((ringOf s k).ci = (ringOf s k).pi → ∃ t, exec (.ringAbort fn l) s = .next t ∧
        RingBecomes k ((ringOf s k).halted .aborting) s t ∧ (∀ c ∈ t.cues, c.src = .ring k → c.stage ≠ .waiting) ∧
        (∀ c ∈ s.cues, c.src = .ring k → c.stage = .running → c.opc ∈ [1, 3, 5, 6, 7] → ∃ p ∈ t.stops, p.1 = c.uid) ∧
        t.follows = s.follows.filter (·.src != .ring k) ∧
        ((∀ c ∈ s.cues, c.src = .ring k → c.stage = .running → c.opc ∈ [1, 3, 5, 6, 7]) →
          (∀ p ∈ s.sems, ∀ u ∈ p.2.fifo, ∀ c ∈ s.cues, c.src = .ring k → c.uid ≠ u) →
          t = { s with
            rings := t.rings
            cues := t.cues
            follows := t.follows
            stops := t.stops })) ∧
      (∀ b, ((ringOf s k).ci + 1) % 2 ^ 15 = (ringOf s k).pi → (ringOf s k).ci ≠ (ringOf s k).pi → l = [.cue b] →
        (ringOf s k).abortFail = none → HostAdmits (startAbort s k) (ringFn k) (cueAddr (ringOf s k)) 64 false →
        ∃ t, exec (.ringAbort fn l) s = .next t ∧
          RingBecomes k { (ringOf s k).halted .aborting with ci := (ringOf s k).pi, last := some s.nextUid } s t ∧
          ∃ c ∈ t.cues, c.src = .ring k ∧ c.uid = s.nextUid ∧ c.raw = leBytes 64 b.toNat ∧ c.stage = .ended ∧
            c.code = cAborted ∧ c.slot = (ringOf s k).ci % 2 ^ (ringOf s k).sizeLog2))) ∧
  (∀ (fn : Fin 32) (r : Fin 1024) (w : Option HostErr) (s : State) (k : Nat), k = fn.val * 1024 + r.val →
    ((ringOf s k).state ≠ .aborting ∨ cuesOf s (.ring k) ≠ [] ∨
      ((ringOf s k).ci ≠ (ringOf s k).pi ∧ (ringOf s k).abortFail = none) → exec (.ringAbortDone fn r w) s = .next s) ∧
    ((ringOf s k).state = .aborting → cuesOf s (.ring k) = [] → (ringOf s k).ci = (ringOf s k).pi →
      (ringOf s k).abortFail = none → (ringOf s k).consFail = none → (ringOf s k).disableNext = false →
      ((ringOf s k).parked = [] → (ringOf s k).wiped = false → DoorOpen s k → w = none → ∃ t, exec (.ringAbortDone fn r w) s = .next t ∧
        t = { s with
          tc := t.tc
          rings := t.rings
          mem := t.mem
          ueWords := t.ueWords
          out := t.out } ∧
        PutsHost (ringFn k) (wakeAddr s k) (leBytes 2 (ringOf s k).ci) (atDoor s k) t ∧
        RingBecomes k { ringOf s k with state := .asleep, wake := (ringOf s k).ci, reread := false } s t) ∧
      (∀ e, (ringOf s k).parked = [] → (ringOf s k).wiped = false → DoorOpen s k → w = some e → ∃ t, exec (.ringAbortDone fn r w) s = .next t ∧
        Raised (E.PDESK_FN_STATUS.DB_FAULT fn) s t ∧ RingBecomes k { (ringOf s k).stalledBy (hostCode e) with reread := false } s t) ∧
      ((ringOf s k).parked ≠ [] → ∃ t, exec (.ringAbortDone fn r w) s = .next t ∧
        t = { s with
          tc := t.tc
          rings := t.rings
          msix := t.msix
          out := t.out } ∧
        RingBecomes k { (ringOf s k).stalledBy cUndeliverable with reread := false } s t)) ∧
    (∀ code, (ringOf s k).state = .aborting → cuesOf s (.ring k) = [] →
      (ringOf s k).abortFail = some code ∨
        ((ringOf s k).ci = (ringOf s k).pi ∧ (ringOf s k).abortFail = none ∧ (ringOf s k).consFail = some code) →
      (ringOf s k).disableNext = false → ∃ t, exec (.ringAbortDone fn r w) s = .next t ∧
        t = { s with
          rings := t.rings
          msix := t.msix
          out := t.out } ∧
        RingBecomes k { (ringOf s k).stalledBy code with abortFail := none, consFail := none, reread := false } s t))

/-- While the host's translations admit the accesses (R366; a host page still to be translated is asked for): RING_BELL
(R274, R275): a ring that is awake or asleep with WAKE written becomes ACTIVE and writes WAKE as FFFFH; any other bell
only counts, saturating. DOORBELL_PI_READ_DONE of an ACTIVE ring that has fetched up to PI (R270, R273, R276): a PI
more than the ring's size ahead stalls it with PI_INVALID; another PI than CI is taken; a PI at CI writes WAKE as CI
first and on the next such read puts the ring to sleep; a failed read or write sets DB_FAULT and stalls. CUE_FETCH
(R270, R281, R286, R302) of an ACTIVE ring with CI apart from PI and fewer than 8 fetched cues still to issue, whose
context is not DYING: the cue is read at BASE + 64 x slot and joins with the slot of CI, CI moves on, and the cue has
ended with CONTEXT_LOST or CUE_INVALID or with the code of a fence in ERROR, or waits, and the ring's next cue then
meets its fence (R284); a failed fetch stalls the ring with CI unmoved; an aborting ring fetches cues that end with
ABORTED_BY_HOST (R297). CONS_POLL (R292, R295 to R297) takes CONS and ends the wait when a slot is free, and a
RING_RESUME that waited goes on; a failed read stalls a ring that runs, stalls one that aborts at its end, and lets a
disable go on. Elsewhere each changes nothing. (spec/08_prompt_desk.md; spec/09_objects_and_fences.md) -/
def Obligations.DoorbellsAndFetch : Prop :=
  (∀ (fn : Fin 32) (v : BitVec 32) (w : Option HostErr) (s : State) (k : Nat), k = fn.val * 1024 + v.toNat →
    (v.toNat < 1024 → (ringOf s k).state = .asleep ∨ (ringOf s k).state = .active → (ringOf s k).wake ≠ 0xFFFF →
      (∀ f g, hostRange s (ringFn k) (doorAddr s k) 4 false = some (.waits f g) → exec (.ringBell fn v w) s = .next (askAts s f g)) ∧
      (∀ c, hostRange s (ringFn k) (doorAddr s k) 4 false = some (.fault c) → ∃ t, exec (.ringBell fn v w) s = .next t ∧
        Raised (E.PDESK_FN_STATUS.DB_FAULT fn) s t ∧ RingBecomes k ((ringOf s k).stalledBy c) s t) ∧
      (DoorOpen s k → w = none → ∃ t, exec (.ringBell fn v w) s = .next t ∧
        t = { s with
          tc := t.tc
          rings := t.rings
          mem := t.mem
          ueWords := t.ueWords
          out := t.out } ∧ PutsHost (ringFn k) (wakeAddr s k) (leBytes 2 0xFFFF) (atDoor s k) t ∧
        RingBecomes k { ringOf s k with state := .active, wake := 0xFFFF } s t) ∧
      (∀ e, DoorOpen s k → w = some e → ∃ t, exec (.ringBell fn v w) s = .next t ∧ Raised (E.PDESK_FN_STATUS.DB_FAULT fn) s t ∧
        RingBecomes k ((ringOf s k).stalledBy (hostCode e)) s t)) ∧
    (1024 ≤ v.toNat ∨ ((ringOf s k).state ≠ .asleep ∧ (ringOf s k).state ≠ .active) ∨ (ringOf s k).wake = 0xFFFF →
      ∃ t, exec (.ringBell fn v w) s = .next t ∧ Alters [R.PDESK_BELL_IGNORED fn] s t ∧
        rdN t (R.PDESK_BELL_IGNORED fn) = min 0xFFFFFFFF (rdN s (R.PDESK_BELL_IGNORED fn) + 1))) ∧
  (∀ (fn : Fin 32) (r : Fin 1024) (d : HostRead) (w : Option HostErr) (s u : State) (k : Nat), k = fn.val * 1024 + r.val →
    u = hostGet (atDoor s k) (ringFn k) (doorAddr s k) 4 →
    ((ringOf s k).state ≠ .active ∨ ((ringOf s k).ci ≠ (ringOf s k).pi ∧ (ringOf s k).reread = false) → exec (.doorbellPiReadDone fn r d w) s = .next s) ∧
    ((ringOf s k).state = .active → (ringOf s k).ci = (ringOf s k).pi ∨ (ringOf s k).reread = true → DoorOpen s k →
      (∀ e, d = .fail e → ∃ t, exec (.doorbellPiReadDone fn r d w) s = .next t ∧ Raised (E.PDESK_FN_STATUS.DB_FAULT fn) s t ∧
        RingBecomes k ((ringOf s k).stalledBy (hostCode e)) s t) ∧
      (∀ v, d = .word v →
        (2 ^ (ringOf s k).sizeLog2 < (v.toNat % 2 ^ 15 + 2 ^ 15 - (ringOf s k).ci) % 2 ^ 15 →
          ∃ t, exec (.doorbellPiReadDone fn r d w) s = .next t ∧
            t = { s with
              rings := t.rings
              msix := t.msix
              out := t.out } ∧
            RingBecomes k ((ringOf s k).stalledBy cPiInvalid) s t) ∧
        ((v.toNat % 2 ^ 15 + 2 ^ 15 - (ringOf s k).ci) % 2 ^ 15 ≤ 2 ^ (ringOf s k).sizeLog2 →
          (v.toNat % 2 ^ 15 ≠ (ringOf s k).ci → (ringOf s k).wake = 0xFFFF →
            ∃ t, exec (.doorbellPiReadDone fn r d w) s = .next t ∧ t = { u with rings := t.rings } ∧
              RingBecomes k { ringOf s k with pi := v.toNat % 2 ^ 15, reread := false } s t) ∧
          (v.toNat % 2 ^ 15 ≠ (ringOf s k).ci → (ringOf s k).wake ≠ 0xFFFF → w = none →
            ∃ t, exec (.doorbellPiReadDone fn r d w) s = .next t ∧ PutsHost (ringFn k) (wakeAddr s k) (leBytes 2 0xFFFF) u t ∧
              RingBecomes k { ringOf s k with pi := v.toNat % 2 ^ 15, reread := false, wake := 0xFFFF } s t) ∧
          (v.toNat % 2 ^ 15 = (ringOf s k).ci → (ringOf s k).wake = 0xFFFF → w = none →
            ∃ t, exec (.doorbellPiReadDone fn r d w) s = .next t ∧ PutsHost (ringFn k) (wakeAddr s k) (leBytes 2 (ringOf s k).ci) u t ∧
              RingBecomes k { ringOf s k with pi := (ringOf s k).ci, reread := false, wake := (ringOf s k).ci } s t) ∧
          (∀ e, v.toNat % 2 ^ 15 = (ringOf s k).ci → (ringOf s k).wake = 0xFFFF → w = some e →
            ∃ t, exec (.doorbellPiReadDone fn r d w) s = .next t ∧ Raised (E.PDESK_FN_STATUS.DB_FAULT fn) s t ∧
              RingBecomes k ({ ringOf s k with pi := (ringOf s k).ci, reread := false }.stalledBy (hostCode e)) s t) ∧
          (v.toNat % 2 ^ 15 = (ringOf s k).ci → (ringOf s k).wake ≠ 0xFFFF →
            ∃ t, exec (.doorbellPiReadDone fn r d w) s = .next t ∧ t = { u with rings := t.rings } ∧
              RingBecomes k { ringOf s k with pi := (ringOf s k).ci, reread := false, state := .asleep } s t))))) ∧
  (∀ (fn : Fin 32) (r : Fin 1024) (c : CueRead) (s u : State) (k : Nat), k = fn.val * 1024 + r.val →
    u = hostGet (atHost s (ringFn k) (cueAddr (ringOf s k)) 64) (ringFn k) (cueAddr (ringOf s k)) 64 →
    ((ringOf s k).state ≠ .aborting → (ringOf s k).state ≠ .active ∨ (ringOf s k).reread = true ∨ (ringOf s k).ci = (ringOf s k).pi ∨
      (ctxOf s (ringOf s k).cid).state = .dying ∨ 8 ≤ fetchedAhead s k → exec (.cueFetch fn r c) s = .next s) ∧
    (∀ b, (ringOf s k).state = .aborting → (ringOf s k).ci ≠ (ringOf s k).pi → (ringOf s k).abortFail = none → c = .cue b →
      HostAdmits s (ringFn k) (cueAddr (ringOf s k)) 64 false →
      ∃ t q, exec (.cueFetch fn r c) s = .next t ∧
        t = { hostGet s (ringFn k) (cueAddr (ringOf s k)) 64 with
          rings := t.rings
          cues := s.cues ++ [q]
          nextUid := s.nextUid + 1 } ∧
        q.uid = s.nextUid ∧ q.src = .ring k ∧ q.raw = leBytes 64 b.toNat ∧ q.stage = .ended ∧ q.code = cAborted ∧
        q.slot = (ringOf s k).ci % 2 ^ (ringOf s k).sizeLog2 ∧
        RingBecomes k { ringOf s k with ci := ((ringOf s k).ci + 1) % 2 ^ 15, last := some s.nextUid } s t) ∧
    ((ringOf s k).state = .active → (ringOf s k).reread = false → (ringOf s k).ci ≠ (ringOf s k).pi →
      (ctxOf s (ringOf s k).cid).state ≠ .dying → fetchedAhead s k < 8 →
      HostAdmits s (ringFn k) (cueAddr (ringOf s k)) 64 false →
      (∀ e, c = .fail e → ∃ t, exec (.cueFetch fn r c) s = .next t ∧
        t = { s with
          tc := t.tc
          rings := t.rings
          msix := t.msix
          out := t.out } ∧
        RingBecomes k ((ringOf s k).stalledBy (hostCode e)) s t) ∧
      (∀ b, c = .cue b → ∃ t q, exec (.cueFetch fn r c) s = .next (noteReady (meetFence t (.ring k)) (ringOf s k).cid) ∧
        t = { u with
          rings := t.rings
          cues := s.cues ++ [q]
          nextUid := s.nextUid + 1 } ∧
        RingBecomes k { ringOf s k with ci := ((ringOf s k).ci + 1) % 2 ^ 15, last := some s.nextUid } s t ∧
        q.uid = s.nextUid ∧ q.src = .ring k ∧ q.raw = leBytes 64 b.toNat ∧ q.follow = false ∧ q.reserved = false ∧
        q.chain = s.nextUid ∧ q.prev = (ringOf s k).last ∧ q.slot = (ringOf s k).ci % 2 ^ (ringOf s k).sizeLog2 ∧
        (ctxUsable s fn (ringOf s k).cid = false → q.stage = .ended ∧ q.code = cCtxLost) ∧
        (ctxUsable s fn (ringOf s k).cid = true → cueValid s (ringOf s k).cid q.raw = false →
          q.stage = .ended ∧ q.code = cCueInvalid) ∧
        (ctxUsable s fn (ringOf s k).cid = true → cueValid s (ringOf s k).cid q.raw = true →
          (q.wait = false → q.stage = .waiting ∧ q.released = true) ∧
          (q.wait = true → (fenceOf s q.waitFence).state ≠ .error → q.stage = .waiting ∧ q.released = false) ∧
          (q.wait = true → (fenceOf s q.waitFence).state = .error → q.stage = .ended ∧
            q.code = (fenceOf s q.waitFence).code))))) ∧
  (∀ (fn : Fin 32) (r : Fin 1024) (d : HostRead) (f : Option Nat) (w : Option HostErr) (s : State) (k : Nat),
    k = fn.val * 1024 + r.val →
    ((ringOf s k).waitSlot = false → exec (.consPoll fn r d f w) s = .next s) ∧
    ((ringOf s k).waitSlot = true → HostAdmits s (ringFn k) (ringOf s k).cons 4 false →
      (∀ e, d = .fail e → ∃ t, exec (.consPoll fn r d f w) s = .next t ∧
        ((ringOf s k).state = .active ∨ (ringOf s k).state = .asleep ∨ (ringOf s k).state = .stalled →
          RingBecomes k (({ (ringOf s k).halted (ringOf s k).state with noSlot := true } : Ring).stalledBy (hostCode e)) s t) ∧
        ((ringOf s k).state = .aborting → RingBecomes k { (ringOf s k).halted .aborting with
          noSlot := true
          consFail := some ((ringOf s k).consFail.getD (hostCode e)) } s t) ∧
        ((ringOf s k).state = .disabling → RingBecomes k { (ringOf s k).halted .disabling with noSlot := true } s t)) ∧
      (∀ v, d = .word v →
        ((ringOf s k).resuming = false → ∃ t, exec (.consPoll fn r d f w) s = .next t ∧
          t = { hostGet (atHost s (ringFn k) (ringOf s k).cons 4) (ringFn k) (ringOf s k).cons 4 with rings := t.rings } ∧
          RingBecomes k ((ringOf s k).consAt (v.toNat % 2 ^ 15)) s t) ∧
        (∀ p u, (ringOf s k).resuming = true → (ringOf s k).parked = [p] → u = atHost s (ringFn k) (ringOf s k).cons 4 →
          DoorOpen u k → HostAdmits (atDoor u k) (ringFn k) (recAddr (ringOf s k)) 32 true → p.slotHeld = false → p.irq = false →
          slotFree ((ringOf s k).consAt (v.toNat % 2 ^ 15)) = true → f ≠ some 0 → w = none →
          ∃ t, exec (.consPoll fn r d f w) s = .next t ∧
            RingBecomes k { ((ringOf s k).consAt (v.toNat % 2 ^ 15)).resumed with
              wake := 0xFFFF
              parked := []
              reserved := ((ringOf s k).reserved + 1) % 2 ^ 15
              cwr := ((ringOf s k).cwr + 1) % 2 ^ 15 } s t))))

/-- A cue able to start (R283 to R285, R292) whose accesses go now: CUE_NOP ends OK at once. CUE_LAUNCH with a valid
record joins the launches in order, with an invalid one ends with CUE_INVALID (R279). CUE_COPY with a valid record
becomes a copy with nothing moved, ends OK at once when LEN is 0, and with CUE_INVALID on a bad record (R280); a
context whose copies are being pre-empted issues none (R339). COPY_CHUNK moves the bytes up to the next 4 KiB boundary
of DST, or to the end, where the cue ends OK, and writes nothing else; COPY_ABORT drops the copy and ends it with the
stop's code. CUE_CACHE ends OK, its range's lines of the CACHE region invalidated, cleaned or both as ARG says, or
changes none and sets CMD_REFUSED while BUSY (R53). CUE_WRITE writes its 8 bytes and no other, and ends OK; with
INDIRECT set it writes where the word read says (R285), and a word that is not aligned or exceeds 48 bits ends it with
CUE_INVALID. (spec/08_prompt_desk.md; spec/01_fabric_and_loft.md) -/
def Obligations.SimpleCues : Prop :=
  (∀ (src : Src) (s : State) (q : CueRun), Starts s (srcOf src) 0 q → ∃ t, exec (.cueNop src) s = .next (meetFence t (srcOf src)) ∧
    t = { started s q with cues := t.cues } ∧ CueEnds q.uid cOk zeroNum (started s q) t) ∧
  (∀ (src : Src) (s u : State) (q : CueRun) (pages : List HeldPage) (b : List Byte), Starts s (srcOf src) 2 q →
    UnitGoes (started s q) (deskEng q 0xFA) [(q.addr, 64, false)] pages →
    u = unitUsed (started s q) (deskEng q 0xFA) pages [(q.addr, 64, false)] →
    b = ctxRead u pages q.addr 64 →
    (∀ l, launchOf q.uid q.cid b = some l →
      exec (.cueLaunch src) s = .next (meetFence { u with launches := s.launches ++ [l] } (srcOf src))) ∧
    (launchOf q.uid q.cid b = none → ∃ t, exec (.cueLaunch src) s = .next (meetFence t (srcOf src)) ∧
      t = { u with cues := t.cues } ∧ CueEnds q.uid cCueInvalid zeroNum u t)) ∧
  (∀ (src : Src) (s n u : State) (q : CueRun) (pages : List HeldPage) (b : List Byte), n = noteAll s (ctxOf s q.cid).part →
    Starts n (srcOf src) 5 q →
    (beingTaken n q.cid .copy [] = true → exec (.cueCopy src) s = .next n) ∧
    (beingTaken n q.cid .copy [] = false → UnitGoes (started n q) (cueEng q copyPort 0xFA) [(q.addr, 32, false)] pages →
      u = unitUsed (started n q) (cueEng q copyPort 0xFA) pages [(q.addr, 32, false)] → b = ctxRead u pages q.addr 32 →
      (zeros b 24 8 = false ∨ 2 ^ 40 < field b 16 8 ∨ 2 ^ 48 < field b 0 8 + field b 16 8 ∨ 2 ^ 48 < field b 8 8 + field b 16 8 ∨
          overlaps (field b 0 8) (field b 16 8) (field b 8 8) (field b 16 8) = true →
        ∃ t, exec (.cueCopy src) s = .next (meetFence t (srcOf src)) ∧ t = { u with cues := t.cues } ∧
          CueEnds q.uid cCueInvalid zeroNum u t) ∧
      (zeros b 24 8 = true → field b 16 8 ≤ 2 ^ 40 → field b 0 8 + field b 16 8 ≤ 2 ^ 48 →
        field b 8 8 + field b 16 8 ≤ 2 ^ 48 → overlaps (field b 0 8) (field b 16 8) (field b 8 8) (field b 16 8) = false →
        (field b 16 8 = 0 → ∃ t, exec (.cueCopy src) s = .next (meetFence t (srcOf src)) ∧ t = { u with cues := t.cues } ∧
          CueEnds q.uid cOk zeroNum u t) ∧
        (field b 16 8 ≠ 0 → exec (.cueCopy src) s = .next (meetFence
          (startSlice { u with copies := s.copies ++ [⟨q.uid, field b 0 8, field b 8 8, field b 16 8, 0, false⟩] } q.cid)
          (srcOf src)))))) ∧
  (∀ (src : Src) (s u : State) (q : CueRun) (k : CopySt) (pages : List HeldPage) (a d n : Nat),
    ((cuesOf s (srcOf src)).findSome? fun c => (s.copies.find? (·.uid == c.uid)).map fun k => (c, k)) = some (q, k) →
    q.stage = .running → k.stopped = false → s.stops.any (·.1 == q.uid) = false → beingTaken s q.cid .copy [] = false → a = k.src + k.done → d = k.dst + k.done →
    n = min (4096 - d % 4096) (k.len - k.done) → UnitGoes s (copyEng q) [(a, n, false), (d, n, true)] pages →
    u = unitUsed s (copyEng q) pages [(a, n, false), (d, n, true)] →
    ∃ t, exec (.copyChunk src) s = .next t ∧
      t = { u with
        mem := t.mem
        ueWords := t.ueWords
        caches := t.caches
        buckets := t.buckets
        reqs := t.reqs
        nextReq := t.nextReq
        copies := t.copies
        cues := t.cues } ∧
      (k.done + n ≠ k.len → t.cues = s.cues ∧
        t.copies = mapWhere (·.uid == q.uid) (fun x => { x with done := x.done + n }) s.copies) ∧
      (k.done + n = k.len → CueEnds q.uid cOk zeroNum s t ∧ t.copies = s.copies.filter (·.uid != q.uid)) ∧
      (cacheOn s 0 = false → reach s (heldAddr pages d) ≠ .peer → MemOutside (heldAddr pages d) n s t ∧
        (isHeld pages d = true → mgets 0 t.mem (heldAddr pages d) n = ctxRead u pages a n))) ∧
  (∀ (src : Src) (s : State), stopOf s (srcOf src) [5] = none → exec (.copyAbort src) s = .next s) ∧
  (∀ (src : Src) (s : State) (q : CueRun) (code : Nat), stopOf s (srcOf src) [5] = some (q, code) →
    ∃ t, exec (.copyAbort src) s = .next t ∧
      t = { s with
        cues := t.cues
        copies := s.copies.filter (·.uid != q.uid)
        helds := s.helds.filter (·.agent != .copy q.uid)
        stops := s.stops.filter (·.1 != q.uid) } ∧ CueEnds q.uid code zeroNum s t) ∧
  (∀ (src : Src) (s : State) (q : CueRun) (pages : List HeldPage) (len : Nat), Starts s (srcOf src) 8 q →
    len = bits q.arg 31 0 → mapUnit (started s q) q.cid (if len = 0 then [] else [(q.addr, len, false)]) = .ok pages →
    (fbit s (cacheBusy 0) = true → ∃ t, exec (.cueCache src) s = .next (meetFence t (srcOf src)) ∧
      t = { started s q with regs := t.regs, cues := t.cues } ∧ CueEnds q.uid cOk zeroNum (started s q) t ∧
      Raised (cacheCmdRefused 0) s t ∧ OnlyRegs [cacheReg 0 0x14, cacheReg 0 0x18] s t) ∧
    (fbit s (cacheBusy 0) = false → ∃ t, exec (.cueCache src) s = .next (meetFence t (srcOf src)) ∧
      t = { started s q with
        regs := t.regs
        cues := t.cues
        mem := t.mem
        ueWords := t.ueWords
        buckets := t.buckets
        caches := t.caches } ∧ CueEnds q.uid cOk zeroNum (started s q) t ∧
      (bits q.arg 35 32 = 5 ∨ bits q.arg 35 32 = 6 → ∀ l ∈ (cacheOf t 0).lines,
        (deviceLines pages q.addr len).all (fun r => !inLines r l) = true) ∧
      (bits q.arg 35 32 = 4 → ∀ l ∈ (cacheOf t 0).lines,
        (deviceLines pages q.addr len).any (fun r => inLines r l) = true → l.dirty = 0 ∨ l.bad = true) ∧
      (bits q.arg 35 32 = 5 → t.mem = s.mem) ∧ ∀ k, k ≠ 0 → cacheOf t k = cacheOf s k)) ∧
  (∀ (src : Src) (s u : State) (q : CueRun) (pages : List HeldPage), Starts s (srcOf src) 9 q → q.addr % 8 = 0 →
    UnitGoes (started s q) (deskEng q 0xFA) [(q.addr, 8, true)] pages →
    u = unitUsed (started s q) (deskEng q 0xFA) pages [(q.addr, 8, true)] →
    ∃ t, exec (.cueWrite src) s = .next (meetFence t (srcOf src)) ∧
      t = { u with
        mem := t.mem
        ueWords := t.ueWords
        caches := t.caches
        buckets := t.buckets
        reqs := t.reqs
        nextReq := t.nextReq
        cues := t.cues } ∧ CueEnds q.uid cOk zeroNum u t ∧
      (cacheOn s 0 = false → reach s (heldAddr pages q.addr) ≠ .peer → MemOutside (heldAddr pages q.addr) 8 s t ∧
        (isHeld pages q.addr = true → mgets 0 t.mem (heldAddr pages q.addr) 8 = leBytes 8 q.arg))) ∧
  (∀ (src : Src) (s u v : State) (q : CueRun) (pages pg : List HeldPage) (w : Nat), nextWaiting s (srcOf src) = some q →
    q.opc = 9 → cueReady s q = true → q.indirect = true → (reserveSlot s q).2 = true →
    UnitGoes (started s q) (deskEng q 0xFA) [(q.addr, 8, false)] pages →
    u = unitUsed (started s q) (deskEng q 0xFA) pages [(q.addr, 8, false)] →
    w = leNat (ctxRead u pages q.addr 8) →
    (2 ^ 48 ≤ w ∨ w % 8 ≠ 0 → ∃ t, exec (.cueWrite src) s = .next t ∧ t = { u with cues := t.cues } ∧
      CueEnds q.uid cCueInvalid zeroNum u t) ∧
    (w < 2 ^ 48 → w % 8 = 0 → v = { u with cues := mapWhere (·.uid == q.uid) (fun c => { c with ea := w }) u.cues } →
      UnitGoes v (deskEng q 0xFA) [(w, 8, true)] pg → ∃ t, exec (.cueWrite src) s = .next (meetFence t (srcOf src)) ∧
        CueEnds q.uid cOk zeroNum v t ∧ (cacheOn s 0 = false → reach s (heldAddr pg w) ≠ .peer → MemOutside (heldAddr pg w) 8 s t ∧
          (isHeld pg w = true → mgets 0 t.mem (heldAddr pg w) 8 = leBytes 8 q.arg))))

/-- CUE_COMPLETE acts on the oldest ended cue of a source, and nothing happens without one. On a ring where its record
must wait for a completion slot (R292), its report is written and its fence signalled, and the ring waits. Otherwise,
the writes of its engine acknowledged (R404), a report is written first, as the context (R242, R243, R431), and a
place of the record that the host has still to translate is asked for (R367); then the SIGNAL fence takes the value of
an OK cue and the ERROR code of any other (R287), the cue leaves, PDESK_CUE_COUNT goes up by one, and an OK cue with
NEXT leaves a follow-on to be read (R288). The record of a running ring with its slot reserved goes to slot CWR mod
2^CSIZE as two 16-byte writes, bytes 0 to 15 last, with its PHASE (R290, R291), CWR moves on, and IRQ raises the
ring's MSI-X; a failed write parks the record and stalls the ring with COMPLETION_UNDELIVERABLE; a stalled ring parks
it, or counts it lost with the store full (R294); a disabling one with no slot writes none (R298). An unarmed stream's
cue writes no record. The source's next cue then meets its fence. FOLLOW_ON_READ reads the cue at NEXT_ADDR as the
source's context: it stands first, in its chain's slot, checked as a fetched one; a failed read ends the chain with
its code kept (R288). (spec/08_prompt_desk.md; spec/06_raster.md) -/
def Obligations.CompletionAndFollowOns : Prop :=
  (∀ (src : Src) (f : Option HostErr) (s : State), (∀ c ∈ s.cues, c.src = srcOf src → c.stage ≠ .ended) →
    exec (.cueComplete src f) s = .next s) ∧
  (∀ (src : Src) (f : Option HostErr) (s : State) (c : CueRun), (cuesOf s (srcOf src)).find? (·.stage == .ended) = some c →
    (∀ k, c.src = .ring k → recordWaits s c = true → s.reports.find? (·.uid == c.uid) = none → engWrites s c.uid = false →
      cueOf s c.uid = some c → ∃ t, exec (.cueComplete src f) s = .next t ∧ RingBecomes k { ringOf s k with waitSlot := true } s t ∧
      (c.signal = true → c.sigOk = true → t.fences = (if c.code = cOk then signalFence s c.signalFence c.signalValue
          else errorFence s c.signalFence c.code).fences) ∧
      (c.signal = false ∨ c.sigOk = false → t = { s with
        rings := t.rings
        ctxs := t.ctxs
        cues := mapWhere (·.uid == c.uid) (fun c => { c with sigOk := false }) s.cues })) ∧
    (∀ g h, recordWaits s c = false → recPlace s c = some (.waits g h) → exec (.cueComplete src f) s = .next (askAts s g h)) ∧
    (∀ r s' u pages, recordWaits s c = false → s.reports.find? (·.uid == c.uid) = some r →
      s' = { s with reports := s.reports.filter (·.uid != c.uid) } → UnitGoes s' r.eng [(r.addr, r.bytes.length, true)] pages →
      u = ctxWrite (unitUsed s' r.eng pages [(r.addr, r.bytes.length, true)]) r.eng pages r.addr r.bytes →
      recPlace s c = none → recPlace u c = none → exec (.cueComplete src f) s = exec (.cueComplete src f) u) ∧
    (recordWaits s c = false → s.reports.find? (·.uid == c.uid) = none → engWrites s c.uid = false → cueOf s c.uid = some c →
      recPlace s c = none → ∃ u, exec (.cueComplete src f) s = .next (noteReadyAll (meetFence u c.src)) ∧
        rd64 u R.PDESK_CUE_COUNT_LO = (rd64 s R.PDESK_CUE_COUNT_LO + 1) % 2 ^ 64 ∧ (∀ q ∈ u.cues, q.uid ≠ c.uid) ∧
        (c.signal = false ∨ c.sigOk = false → u.fences = s.fences ∧ u.cues = s.cues.filter (·.uid != c.uid)) ∧
        (c.signal = true → c.sigOk = true → u.fences = (if c.code = cOk
          then signalFence (noteIdle s c.cid) c.signalFence c.signalValue
          else errorFence (noteIdle s c.cid) c.signalFence c.code).fences) ∧
        u.follows = s.follows ++ (if followOk s c then [⟨c.src, c.slot, c.nextAddr, c.uid, c.chain⟩] else []) ∧
        (∀ k a n b, c.src = .ring k → b = onBus s (ringFn k) → n = 2 ^ (ringOf s k).csizeLog2 → a = (ringOf s k).cbase + 32 * ((ringOf s k).cwr % n) →
          ((ringOf s k).state = .active ∨ (ringOf s k).state = .asleep → f = none → c.reserved = true → c.num.length = 20 →
            RingBecomes k { ringOf s k with cwr := ((ringOf s k).cwr + 1) % 2 ^ 15 } s u ∧
            mgets 0 u.mem (hostBase + a) 32 = leBytes 2 c.code ++
              leBytes 1 (2 * b2n c.follow + (1 - (ringOf s k).cwr / n % 2)) ++ leBytes 1 c.opc ++ leBytes 2 (c.slot % 2 ^ 15) ++
              leBytes 2 (k % 1024 + 1024 * ringFn k) ++ leBytes 4 c.tag ++ c.num ∧
            (c.irq = false → u.out = s.out ++ [.hostWrite (ringFn k) (b (a + 16)).1 (b (a + 16)).2 16,
              .hostWrite (ringFn k) (b a).1 (b a).2 16]) ∧
            (c.irq = true → u.msix = (raiseMsix s (ringFn k) (ringOf s k).vector).msix)) ∧
          ((ringOf s k).state = .active ∨ (ringOf s k).state = .asleep → (∃ e, f = some e) → (ringOf s k).parked.length < 8 →
            parkUsed s < 512 → RingBecomes k { (ringOf s k).stalledBy cUndeliverable with
              parked := (ringOf s k).parked ++ [⟨buildRec c k, c.irq, c.reserved⟩] } s u) ∧
          ((ringOf s k).state = .stalled → (ringOf s k).parked.length < 8 → parkUsed s < 512 →
            RingBecomes k { ringOf s k with parked := (ringOf s k).parked ++ [⟨buildRec c k, c.irq, c.reserved⟩] } s u) ∧
          ((ringOf s k).state = .stalled → 8 ≤ (ringOf s k).parked.length → u.rings = s.rings ∧
            rdN u R.PDESK_PARK_LOST = min 0xFFFFFFFF (rdN s R.PDESK_PARK_LOST + 1)) ∧
          ((ringOf s k).state = .disabling → c.reserved = false → slotFree (ringOf s k) = false → u.rings = s.rings)) ∧
        (∀ n, c.src = .stream n → streamArmed s n = false → u.rings = s.rings ∧ u.out = s.out ∧ u.streams = s.streams))) ∧
  (∀ (src : Src) (s : State), (∀ f ∈ s.follows, f.src ≠ srcOf src) → exec (.followOnRead src) s = .next s) ∧
  (∀ (src : Src) (s s' : State) (f : Follow) (cid : Nat), s.follows.find? (·.src == srcOf src) = some f →
    cid = srcCid s (srcOf src) → s' = { s with follows := dropFirst (· == f) s.follows } →
    (ctxLive s cid = false → exec (.followOnRead src) s = .next (meetFence s' (srcOf src))) ∧
    (∀ code a, ctxLive s cid = true → xlateUnit s cid [(f.addr, 64, false)] = .fault code a → exec (.followOnRead src) s =
      .next (meetFence { s' with followFails := s.followFails ++ [(f.uid, code)] } (srcOf src))) ∧
    (∀ pages, ctxLive s cid = true → xlateUnit s cid [(f.addr, 64, false)] = .ok pages → ∃ q, exec (.followOnRead src) s =
        .next (noteReady (meetFence { s' with cues := q :: s.cues, nextUid := s.nextUid + 1 } (srcOf src)) cid) ∧
      q.uid = s.nextUid ∧ q.src = srcOf src ∧ q.slot = f.slot ∧ q.follow = true ∧ q.chain = f.chain ∧
      q.raw = ctxRead s pages f.addr 64 ∧ (cueValid s cid q.raw = false → q.stage = .ended) ∧
      (cueValid s cid q.raw = true → q.wait = false → fnOfCid s cid = some (ringFn (match srcOf src with | .ring k => k | .stream _ => 0)) →
        q.stage = .waiting ∧ q.released = true)))

/-- FENCE_ALLOC (R315) makes a FREE fence of the function ACTIVE with its value, a usable OWNER and its sharing; a fence
outside the function is refused, as is every command on one (R300). FENCE_SIGNAL (R310) does nothing to a fence that
is not ACTIVE or holds the value; a value strictly beyond replaces it and releases the cues that meet it now (R312);
any other counts a regression, in the entry and in the device, and raises REGRESSION; contexts that the signal makes
ready take their virtual time then (R335). FENCE_ERROR (R311) puts an ACTIVE fence in ERROR and ends every cue that
waits on it with the code; FENCE_FREE (R315) clears the entry and ends them with FENCE_FREED. Each keeps the fence
table equal to the directory (R308). SEM_ALLOC and SEM_FREE (R318): a count of at least 1; a freed semaphore's waiting
acquires end with FENCE_FREED. SEM_ACQUIRE (R319): FENCE_FREED on a FREE semaphore, its code on one in ERROR; with a
unit and a holder slot it is granted at once, else it waits at the FIFO's end. SEM_RELEASE (R320): SEM_NOT_HELD
without a unit; else the unit returns, and goes to the acquire at the FIFO's head when it fits. Effective shares
follow (R347). (spec/09_objects_and_fences.md; spec/10_stage_manager.md) -/
def Obligations.FencesAndSemaphores : Prop :=
  (∀ (fn : Fin 32) (s : State) (x o : Nat), x = selFence s fn.val → o = fget s (F.PDESK_FENCE_CFG.OWNER fn) →
    (fnOfFence s x = some fn.val → (fenceOf s x).state = .free → ctxUsable s fn o = true → carved s = true →
      ∃ t, exec (.fenceAlloc fn) s = .next t ∧ t = { s with fences := t.fences, mem := t.mem, ueWords := t.ueWords } ∧
        FenceBecomes x ⟨BitVec.ofNat 64 (rd64 s (R.PDESK_FENCE_ARG_LO fn)), o, 0, .active,
          fget s (F.PDESK_FENCE_CFG.SHARE_FN fn), fbit s (F.PDESK_FENCE_CFG.SHARED fn), 0⟩ s t ∧ FenceStored x s t) ∧
    (fnOfFence s x ≠ some fn.val ∨ (fenceOf s x).state ≠ .free ∨ ctxUsable s fn o = false →
      ∃ t, exec (.fenceAlloc fn) s = .next t ∧ RefusedBy (E.PDESK_FENCE_STATUS.CFG_REFUSED fn) s t) ∧
    (fnOfFence s x ≠ some fn.val → ∀ i ∈ [Instr.fenceSignal fn, .fenceError fn, .fenceFree fn],
      ∃ t, exec i s = .next t ∧ RefusedBy (E.PDESK_FENCE_STATUS.CFG_REFUSED fn) s t)) ∧
  (∀ (fn : Fin 32) (s : State) (x : Nat) (v : W64), x = selFence s fn.val → fnOfFence s x = some fn.val →
    v = BitVec.ofNat 64 (rd64 s (R.PDESK_FENCE_ARG_LO fn)) →
    ((fenceOf s x).state ≠ .active ∨ (fenceOf s x).value = v → exec (.fenceSignal fn) s = .next (noteReadyAll s)) ∧
    ((fenceOf s x).state = .active → strictlyBeyond v (fenceOf s x).value = true → ∃ t, exec (.fenceSignal fn) s = .next (noteReadyAll t) ∧
      t = { s with fences := t.fences, mem := t.mem, ueWords := t.ueWords, cues := t.cues } ∧
      FenceBecomes x { fenceOf s x with value := v } s t ∧ FenceStored x s t ∧
      t.cues = mapWhere (fun c => c.waitFence == x && atFence s c && atOrBeyond v c.waitValue)
        (fun c => { c with released := true }) s.cues) ∧
    ((fenceOf s x).state = .active → (fenceOf s x).value ≠ v → strictlyBeyond v (fenceOf s x).value = false →
      ∃ t, exec (.fenceSignal fn) s = .next (noteReadyAll t) ∧
        t = { s with fences := t.fences, mem := t.mem, ueWords := t.ueWords, regs := t.regs } ∧
        FenceBecomes x { fenceOf s x with regress := min 0xFFFF ((fenceOf s x).regress + 1) } s t ∧ FenceStored x s t ∧
        Raised (E.PDESK_FENCE_STATUS.REGRESSION fn) s t ∧
        rdN t R.PDESK_FENCE_REGRESS_COUNT = min 0xFFFFFFFF (rdN s R.PDESK_FENCE_REGRESS_COUNT + 1))) ∧
  (∀ (fn : Fin 32) (s : State) (x code : Nat), x = selFence s fn.val → fnOfFence s x = some fn.val →
    code = bits (rd64 s (R.PDESK_FENCE_ARG_LO fn)) 15 0 →
    (code = 0 → ∃ t, exec (.fenceError fn) s = .next t ∧ RefusedBy (E.PDESK_FENCE_STATUS.CFG_REFUSED fn) s t) ∧
    (code ≠ 0 → (fenceOf s x).state ≠ .active → exec (.fenceError fn) s = .next s) ∧
    (code ≠ 0 → (fenceOf s x).state = .active → ∃ t, exec (.fenceError fn) s = .next t ∧
      t = { s with fences := t.fences, mem := t.mem, ueWords := t.ueWords, cues := t.cues } ∧
      FenceBecomes x { fenceOf s x with state := .error, code := code } s t ∧ FenceStored x s t ∧
      t.cues = mapWhere (fun c => c.wait && c.waitFence == x && c.stage == .waiting && !c.released)
        (fun c => { c with stage := .ended, code := code }) s.cues) ∧
    ((fenceOf s x).state = .free → exec (.fenceFree fn) s = .next s) ∧
    ((fenceOf s x).state ≠ .free → ∃ t, exec (.fenceFree fn) s = .next t ∧
      t = { s with fences := t.fences, mem := t.mem, ueWords := t.ueWords, cues := t.cues, layers := t.layers } ∧
      FenceBecomes x Fence.none s t ∧ FenceStored x s t ∧
      t.cues = mapWhere (fun c => c.wait && c.waitFence == x && c.stage == .waiting && !c.released)
        (fun c => { c with stage := .ended, code := cFenceFreed }) s.cues ∧
      ∀ l, layerOf t l = { layerOf s l with queue := (mapWhere (fun f => bit (field f.raw 25 1) 2 && field f.raw 48 2 == x)
        (fun f => { f with freed := true }) (layerOf s l).queue) })) ∧
  (∀ (fn : Fin 32) (s : State) (x n : Nat), x = selSem s fn.val → n = fget s (F.PDESK_SEM_CFG.COUNT fn) →
    (fnOfSem s x ≠ some fn.val → ∀ i ∈ [Instr.semAlloc fn, .semFree fn],
      ∃ t, exec i s = .next t ∧ RefusedBy (E.PDESK_SEM_STATUS.CFG_REFUSED fn) s t) ∧
    (fnOfSem s x = some fn.val → (semOf s x).state ≠ .free ∨ n = 0 →
      ∃ t, exec (.semAlloc fn) s = .next t ∧ RefusedBy (E.PDESK_SEM_STATUS.CFG_REFUSED fn) s t) ∧
    (fnOfSem s x = some fn.val → (semOf s x).state = .free → 1 ≤ n → ∃ t, exec (.semAlloc fn) s = .next t ∧
      t = { s with sems := t.sems } ∧ SemBecomes x ⟨.active, 0, n, fget s (F.PDESK_SEM_CFG.SHARE_FN fn),
        fbit s (F.PDESK_SEM_CFG.SHARED fn), List.replicate 8 ⟨0, 0⟩, []⟩ s t) ∧
    (fnOfSem s x = some fn.val → ∃ t, exec (.semFree fn) s = .next t ∧
      t = { s with sems := t.sems, cues := t.cues, ctxs := t.ctxs } ∧ SemBecomes x Sem.none s t ∧ OnlyShares s t ∧
      t.cues = mapWhere (fun c => (semOf s x).fifo.contains c.uid) (·.finish cFenceFreed zeroNum) s.cues)) ∧
  (∀ (src : Src) (s u : State) (q : CueRun) (x : Nat) (m : Sem), Starts s (srcOf src) 10 q → u = started s q →
    x = bits q.arg 15 0 → m = semOf u x → cidOfCue u q.uid = q.cid →
    (bit q.arg 16 = false →
      (∀ code, (m.state = .free ∧ code = cFenceFreed) ∨ (m.state = .error ∧ code = m.code) → ∃ t,
        exec (.semAcquire src) s = .next (meetFence t (srcOf src)) ∧ t = { u with cues := t.cues } ∧ CueEnds q.uid code zeroNum u t) ∧
      (m.state = .active → m.fifo = [] → 1 ≤ m.count → holderRoom m q.cid = true → ∃ t,
        exec (.semAcquire src) s = .next (meetFence t (srcOf src)) ∧ t = { u with sems := t.sems, cues := t.cues, ctxs := t.ctxs } ∧
        CueEnds q.uid cOk zeroNum u t ∧ OnlyShares u t ∧
        SemBecomes x { m with count := m.count - 1, holders := takeUnit m.holders q.cid } u t) ∧
      (∀ h, m.state = .active → (m.fifo ++ [q.uid]).head? = some h → m.count = 0 ∨ holderRoom m (cidOfCue u h) = false → ∃ t,
        exec (.semAcquire src) s = .next (meetFence t (srcOf src)) ∧ t = { u with sems := t.sems, ctxs := t.ctxs } ∧
        OnlyShares u t ∧ SemBecomes x { m with fifo := m.fifo ++ [q.uid] } u t)) ∧
    (bit q.arg 16 = true →
      (∀ code, (m.state = .free ∧ code = cFenceFreed) ∨ (m.state = .error ∧ code = cOk) ∨
          (m.state = .active ∧ (∀ h ∈ m.holders, h.units = 0 ∨ h.cid ≠ q.cid) ∧ code = cSemNotHeld) → ∃ t,
        exec (.semRelease src) s = .next (meetFence t (srcOf src)) ∧ t = { u with cues := t.cues } ∧ CueEnds q.uid code zeroNum u t) ∧
      (∀ h ∈ m.holders, m.state = .active → h.units ≠ 0 → h.cid = q.cid →
        (m.fifo = [] → ∃ t, exec (.semRelease src) s = .next (meetFence t (srcOf src)) ∧
          t = { u with sems := t.sems, cues := t.cues, ctxs := t.ctxs } ∧ CueEnds q.uid cOk zeroNum u t ∧ OnlyShares u t ∧
          SemBecomes x { m with count := m.count + 1, holders := giveUnit m.holders q.cid } u t) ∧
        (∀ w c, m.fifo = [w] → w ≠ q.uid → c = cidOfCue u w →
          holderRoom { m with holders := giveUnit m.holders q.cid } c = true → ∃ v t,
          exec (.semRelease src) s = .next (meetFence t (srcOf src)) ∧
          t = { u with sems := t.sems, cues := t.cues, ctxs := t.ctxs } ∧ CueEnds q.uid cOk zeroNum u v ∧
          CueEnds w cOk zeroNum v t ∧ OnlyShares u t ∧
          SemBecomes x { m with holders := takeUnit (giveUnit m.holders q.cid) c, fifo := [] } u t))))

/-- FN_RANGE_WRITE (R300) applies a range that lies among the objects of its kind, meets no other function's and drops no
object in use, and sets FN_CFG_REFUSED for any other; a PART_MASK always applies. CTX_CREATE (R301, R335) makes a FREE
context of the function LIVE in a partition its mask permits, all else cleared, share 100, and is refused otherwise.
CONTEXT_FAULT_REPORT (R106, R303): the first report of a LIVE context makes it FAULTED with the record and code, ends
the cue whose work faulted with the code and its other waiting cues with CONTEXT_LOST, drops its launches and faults
its streams; a later one only counts FURTHER; on a FREE context it is dropped. CONTEXT_STOP_DONE sets FAULTED once no
cue is left but those whose records wait for a slot. CTX_DESTROY (R322): a LIVE or FAULTED context becomes DYING, its
cues stop, its launches go, its streams are disarmed and its rings disabled; nothing more on a DYING one, refused on a
FREE one. CTX_DESTROY_DONE, when no cue, ring or armed stream is left, frees it with its fault slot kept (R304): its
ACTIVE fences and held semaphores enter ERROR with CONTEXT_LOST, its save pages, held pages, tags and cached lines go,
its root is 0, and DESTROYED is raised. CTX_SHARE_WRITE takes 1 to 1,000 and is refused otherwise.
(spec/09_objects_and_fences.md; spec/10_stage_manager.md; spec/11_translation.md) -/
def Obligations.Contexts : Prop :=
  (∀ (fn : Fin 32) (v : BitVec 32) (s : State) (x : Nat) (new : RangeReg → Nat × Nat) (ok : RangeReg → Bool), x = v.toNat →
    new .ctxRange = (bits x 9 0, bits x 26 16) → new .fenceBase = (bits x 15 0, (fenceRange s fn).2) →
    new .fenceCount = ((fenceRange s fn).1, bits x 16 0) → new .semRange = (bits x 11 0, bits x 28 16) →
    ok .ctxRange = rangeOk 1024 fn (ctxRange s fn) (new .ctxRange) (ctxRange s) (busyCtxs s) →
    ok .fenceBase = rangeOk 65536 fn (fenceRange s fn) (new .fenceBase) (fenceRange s) (busyFences s) →
    ok .fenceCount = rangeOk 65536 fn (fenceRange s fn) (new .fenceCount) (fenceRange s) (busyFences s) →
    ok .semRange = rangeOk 4096 fn (semRange s fn) (new .semRange) (semRange s) (busySems s) →
    (∀ r, r ≠ .partMask → ok r = false →
      ∃ t, exec (.fnRangeWrite r fn v) s = .next t ∧ RefusedBy E.PDESK_FNRANGE_STATUS.FN_CFG_REFUSED s t) ∧
    (ok .ctxRange = true → ∃ t, exec (.fnRangeWrite .ctxRange fn v) s = .next t ∧ Alters [R.PDESK_FN_CTX_RANGE fn] s t ∧
      ctxRange t fn = new .ctxRange) ∧
    (ok .fenceBase = true → ∃ t, exec (.fnRangeWrite .fenceBase fn v) s = .next t ∧ Alters [R.PDESK_FN_FENCE_BASE fn] s t ∧
      fenceRange t fn = new .fenceBase) ∧
    (ok .fenceCount = true → ∃ t, exec (.fnRangeWrite .fenceCount fn v) s = .next t ∧ Alters [R.PDESK_FN_FENCE_COUNT fn] s t ∧
      fenceRange t fn = new .fenceCount) ∧
    (ok .semRange = true → ∃ t, exec (.fnRangeWrite .semRange fn v) s = .next t ∧ Alters [R.PDESK_FN_SEM_RANGE fn] s t ∧
      semRange t fn = new .semRange) ∧
    (∃ t, exec (.fnRangeWrite .partMask fn v) s = .next t ∧ Alters [R.PDESK_FN_PART_MASK fn] s t ∧
      rdN t (R.PDESK_FN_PART_MASK fn) = x % 256)) ∧
  (∀ (fn : Fin 32) (v : BitVec 32) (s : State) (x p : Nat), x = selCtx s fn.val → p = fget s (F.PDESK_CTX_CFG.PARTITION fn) →
    (fnOfCid s x = some fn.val → (ctxOf s x).state = .free → bit (rdN s (R.PDESK_FN_PART_MASK fn)) p = true →
      ∃ t, exec (.ctxCreate fn) s = .next t ∧ t = { s with ctxs := t.ctxs } ∧
        CtxBecomes x { Ctx.none with state := .live, part := p, share := 100, effShare := 100, vt := createVt s p } s t) ∧
    (fnOfCid s x ≠ some fn.val ∨ (ctxOf s x).state ≠ .free ∨ bit (rdN s (R.PDESK_FN_PART_MASK fn)) p = false →
      ∃ t, exec (.ctxCreate fn) s = .next t ∧ RefusedBy (E.PDESK_CTX_STATUS.CFG_REFUSED fn) s t) ∧
    (fnOfCid s x ≠ some fn.val ∨ bits v.toNat 9 0 = 0 ∨ 1000 < bits v.toNat 9 0 →
      ∃ t, exec (.ctxShareWrite fn v) s = .next t ∧ RefusedBy (E.PDESK_CTX_STATUS.CFG_REFUSED fn) s t) ∧
    (fnOfCid s x = some fn.val → 1 ≤ bits v.toNat 9 0 → bits v.toNat 9 0 ≤ 1000 → ∃ u t, exec (.ctxShareWrite fn v) s = .next t ∧
      u = { s with ctxs := u.ctxs } ∧ CtxBecomes x { ctxOf s x with share := bits v.toNat 9 0 } s u ∧
      t = { u with ctxs := t.ctxs } ∧ OnlyShares u t) ∧
    (fnOfCid s x ≠ some fn.val ∨ (ctxOf s x).state = .free →
      ∃ t, exec (.ctxDestroy fn) s = .next t ∧ RefusedBy (E.PDESK_CTX_STATUS.CFG_REFUSED fn) s t) ∧
    (fnOfCid s x = some fn.val → (ctxOf s x).state = .dying → exec (.ctxDestroy fn) s = .next s) ∧
    (fnOfCid s x = some fn.val → (ctxOf s x).state = .live ∨ (ctxOf s x).state = .faulted →
      ∃ t, exec (.ctxDestroy fn) s = .next t ∧ (ctxOf t x).state = .dying ∧ (ctxOf t x).slot = (ctxOf s x).slot ∧
        (∀ y, y ≠ x → ctxOf t y = { ctxOf s y with effShare := (ctxOf t y).effShare }) ∧
        (∀ c ∈ t.cues, c.cid = x → c.stage ≠ .waiting) ∧ (∀ l ∈ t.launches, l.cid ≠ x) ∧
        (∀ n ∈ streamsOf s x, streamState t n = sDisarming) ∧
        (∀ k, (ringOf s k).cid = x → (ringOf s k).state = .active ∨ (ringOf s k).state = .asleep ∨ (ringOf s k).state = .stalled →
          (ringOf t k).state = .disabling) ∧
        (mwf Ring.idle s.rings = true → ∀ k, (ringOf s k).cid ≠ x → ringOf t k = ringOf s k) ∧
        (∀ k, (ringOf s k).cid = x → (ringOf s k).state = .aborting →
          (ringOf t k).state = .aborting ∧ (ringOf t k).disableNext = true))) ∧
  (∀ (s : State), s.faultReps = [] → exec .contextFaultReport s = .next s) ∧
  (∀ (s : State) (f : FaultRep) (rest : List FaultRep) (code : Nat), s.faultReps = f :: rest → code = field f.record 0 2 →
    ((ctxOf s f.cid).state = .free → exec .contextFaultReport s = .next { s with faultReps := rest }) ∧
    ((ctxOf s f.cid).state = .faulted ∨ (ctxOf s f.cid).state = .dying → ∃ t, exec .contextFaultReport s = .next t ∧
      t = { s with faultReps := rest, ctxs := t.ctxs } ∧
      CtxBecomes f.cid { ctxOf s f.cid with slot := furtherUp (ctxOf s f.cid).slot } s t) ∧
    ((ctxOf s f.cid).state = .live → ∃ t, exec .contextFaultReport s = .next t ∧ (ctxOf t f.cid).state = .faulted ∧
      (ctxOf t f.cid).slot = f.record ∧ (ctxOf t f.cid).code = code ∧ (ctxOf t f.cid).stopping = true ∧
      (∀ c ∈ t.cues, c.cid = f.cid → some c.uid ≠ f.uid → c.stage ≠ .waiting) ∧ (∀ l ∈ t.launches, l.cid ≠ f.cid) ∧
      (∀ n ∈ streamsOf s f.cid, streamState s n ≠ sFaulted →
        streamState t n = sFaulted ∧ fget t (F.PIT_S_STATE.CODE n) = code % 2 ^ 16) ∧
      (∀ u q, f.uid = some u → cueOf s u = some q → q.stage = .running → q.opc ∈ [1, 3, 5, 6, 7] →
        ∃ p ∈ t.stops, p.1 = u) ∧
      (∀ u q, f.uid = some u → cueOf s u = some q → q.stage = .waiting → q.finish code zeroNum ∈ t.cues) ∧
      (f.uid = none → ∀ c ∈ s.cues, c.cid = f.cid → c.stage = .waiting → c.finish cCtxLost zeroNum ∈ t.cues))) ∧
  (∀ (x : Fin 1024) (s : State), ((∃ c ∈ s.cues, c.cid = x.val ∧ cueStopped s c = false) ∨ (ctxOf s x).stopping = false →
      exec (.contextStopDone x) s = .next s) ∧
    (∀ f, (∀ c ∈ s.cues, c.cid = x.val → cueStopped s c = true) → (ctxOf s x).stopping = true → fnOfCid s x = some f →
      ∃ t, exec (.contextStopDone x) s = .next t ∧ t = { s with ctxs := t.ctxs, regs := t.regs, msix := t.msix, out := t.out } ∧
        CtxBecomes x { ctxOf s x with stopping := false } s t ∧ Raised (E.PDESK_CTX_STATUS.FAULTED f) s t) ∧
    ((ctxOf s x).state ≠ .dying ∨ (∃ c ∈ s.cues, c.cid = x.val) ∨ ringsOfCtx s x ≠ [] ∨ streamsOf s x ≠ [] →
      exec (.ctxDestroyDone x) s = .next s) ∧
    (∀ f, (ctxOf s x).state = .dying → (∀ c ∈ s.cues, c.cid ≠ x.val) → ringsOfCtx s x = [] → streamsOf s x = [] →
      mwf Fence.none s.fences = true → mwf Sem.none s.sems = true → fnOfCid s x = some f →
      ∃ t, exec (.ctxDestroyDone x) s = .next t ∧ (ctxOf t x).state = .free ∧ (ctxOf t x).slot = (ctxOf s x).slot ∧
        (ctxOf t x).root = 0 ∧ (ctxOf t x).savePages = 0 ∧ (ctxOf t x).stopping = false ∧
        (∀ y, y ≠ x.val → ctxOf t y = { ctxOf s y with effShare := (ctxOf t y).effShare }) ∧
        Raised (E.PDESK_CTX_STATUS.DESTROYED f) s t ∧ t.images = s.images.filter (·.cid != x.val) ∧
        t.helds = s.helds.filter (·.cid != x.val) ∧
        (∀ k ≤ 17, ∀ l ∈ (cacheOf t k).lines, lineOwned s x.val l = false) ∧
        t.tags = s.tags.filter (fun g => bits g.2 1 0 == 0 || bits g.2 17 8 != x.val) ∧
        (∀ k, fenceOf t k = if (fenceOf s k).owner = x ∧ (fenceOf s k).state = .active
          then { fenceOf s k with state := .error, code := cCtxLost } else fenceOf s k) ∧
        (∀ k, semOf t k = if (∃ h ∈ (semOf s k).holders, h.units ≠ 0 ∧ h.cid = x.val) ∧ (semOf s k).state = .active
          then { semOf s k with state := .error, code := cCtxLost, fifo := [] } else semOf s k)))

/-- WORK_PLACE (R335, R336) notes of every live context of the partition whether it holds work and is ready: an idle one
has no slice, and one that becomes ready after holding no work takes a virtual time no earlier than that of the other
ready context; a chain cue of a privileged stream that waits pre-empts what holds its place (R350). SLICE_END (R336,
R337): with no earlier context blocked a new slice begins, L = max(SLICE / 8, SLICE - DEBT) and DEBT less by what L
falls short; else the holder is asked to stop, or the request is deferred with SAVE_WAIT (R341). GANG_PLACE (R137)
gives a checked gang that is next the engines listed, whose cores are up. PREEMPT_POINT_REACHED (R339, R340): work at
its point is written to save pages and leaves its engine; a request with nothing left is complete and counted, its
lateness debt (R345). SAVE_PAGES_RELEASED retries a deferred request. WORK_RESUME (R342, R343): the next saved
workgroup, or the oldest saved copy, stands again and its image goes; a bad image faults its context and keeps its
pages. MAX_BEATS_ABORT (R346) stops a cue whose engine beats reach its limit. REGULATOR_RELEASE (R351) adds tokens up
to the bucket's size and lets the oldest waiting request go when they are not negative. (spec/10_stage_manager.md;
spec/03_tensor_engine.md) -/
def Obligations.StageManager : Prop :=
  (∀ (p : Fin 8) (s u : State), u = noteAll s p →
    (chainCues u p = [] → ∃ t, exec (.workPlace p) s = .next t ∧ t = { s with ctxs := t.ctxs } ∧
      (mwf Ctx.none s.ctxs = true → ∀ y, ctxOf t y = { ctxOf s y with
          sliceLen := (ctxOf t y).sliceLen
          held := (ctxOf t y).held
          vt := (ctxOf t y).vt } ∧
        (ctxLive s y = false ∨ (ctxOf s y).part ≠ p → ctxOf t y = ctxOf s y) ∧
        (ctxLive s y = true → (ctxOf s y).part = p →
          (ctxOf t y).sliceLen = (if holdsWork s y then (ctxOf s y).sliceLen else 0) ∧
          (ctxOf t y).held = (ctxReady s y || ((ctxOf s y).held && holdsWork s y)) ∧
          ((ctxOf s y).held = true → (ctxOf t y).vt = (ctxOf s y).vt) ∧
          (∀ a, readyIn s p = [a, y] ∨ readyIn s p = [y, a] → a ≠ y → (ctxOf s a).held = true → (ctxOf s y).held = false →
            (ctxOf t y).vt = if strictlyBeyond (ctxOf s a).vt (ctxOf s y).vt then (ctxOf s a).vt else (ctxOf s y).vt)))) ∧
    (∀ q v, chainCues u p = [q] → victims u (ctxOf u q.cid).part q (fun _ => true) = [v] → v.deferred = false → v.busy u = true →
      (∀ r ∈ s.preempts, r.cid ≠ v.cid) → v.fits u = true → ∃ t, exec (.workPlace p) s = .next t ∧
        t = { u with preempts := s.preempts ++ [v], raster := t.raster })) ∧
  (∀ (x : Fin 1024) (s u : State) (p n : Nat) (q : Preempt), p = (ctxOf s x).part → u = noteAll s p →
    n = partSlice u (ctxOf u x).part → q = ⟨x, 17, none, false, true⟩ →
    (holdsWork s x = false → exec (.sliceEnd x) s = .next s) ∧
    (holdsWork s x = true → (∀ c ∈ readyIn u p, c ≠ x.val → earlier u c x = true → blockedBy u p c x = false) →
      ∃ t l, exec (.sliceEnd x) s = .next t ∧ t = { u with ctxs := t.ctxs } ∧ l = max (n / 8) (n - (ctxOf u x).debt) ∧
        CtxBecomes x { ctxOf u x with sliceLen := l, debt := (ctxOf u x).debt - (n - l) } u t) ∧
    (∀ c ∈ readyIn u p, holdsWork s x = true → c ≠ x.val → earlier u c x = true → blockedBy u p c x = true → q.busy u = true →
      (∀ r ∈ s.preempts, r.cid ≠ x.val) →
      (q.fits u = true → ∃ t, exec (.sliceEnd x) s = .next t ∧ t = { u with preempts := s.preempts ++ [q], raster := t.raster } ∧
        ∀ r, q.pass u = some r → t.raster = some { r with yielding := true }) ∧
      (q.fits u = false → ∃ t, exec (.sliceEnd x) s = .next t ∧ Raised E.SMGR_EVENT.SAVE_WAIT s t ∧
        t = { u with preempts := s.preempts ++ [{ q with deferred := true }], regs := t.regs }))) ∧
  (∀ (src : Src) (l : List (Fin 17)) (s : State),
    (∀ o ∈ s.tensors, o.stage ≠ .gang ∨ ∀ c ∈ s.cues, c.src = srcOf src → c.uid ≠ o.uid) → exec (.gangPlace src l) s = .next s) ∧
  (∀ (src : Src) (l : List (Fin 17)) (s u : State) (o : TensorOp) (cs : List Nat) (p : Nat) (pages : List HeldPage),
    s.tensors.find? (fun o => o.stage == .gang && ((cuesOf s (srcOf src)).map (·.uid)).contains o.uid) = some o →
    p = (ctxOf s o.cid).part → u = noteAll s p → cs = l.map (·.val) → cs.length = dGang o.desc → cs.eraseDups = cs →
    cs.head? = o.cores.head? → (∀ c ∈ cs, coreTakes u c p = true ∧ homeOk u (srcOf src) c = true ∧
      mayPlace u p o.cid (srcOf src) .tensor c = true ∧ ∀ x, opOn u c = some x → x.uid = o.uid) →
    beingTaken u o.cid .tensor cs = false → (∀ c ∈ cs, domOn u (dCore + c) = true) → mapUnit u o.cid [(xbufOf o.desc, 32768 * cs.length, true)] = .ok pages →
    ((∀ v ∈ checkPoints (checkStep u o.cid) (xbufOf o.desc) (32768 * cs.length), reach u (heldAddr pages v) = .scratch) →
      ∃ t, exec (.gangPlace src l) s = .next t ∧ t = { startSlice u o.cid with
        regs := t.regs
        tensors := mapWhere (·.uid == o.uid) (fun _ => { o with cores := cs, stage := .boundary }) s.tensors } ∧
      ∀ c ∈ cs, fget t (F.CORE_TE_STATUS.BUSY c) = 1) ∧
    (∀ v ∈ checkPoints (checkStep u o.cid) (xbufOf o.desc) (32768 * cs.length), reach u (heldAddr pages v) ≠ .scratch →
      ∃ t, exec (.gangPlace src l) s = .next t ∧ t = { u with
        regs := t.regs
        helds := t.helds
        cues := t.cues
        tensors := s.tensors.filter (·.uid != o.uid) } ∧ CueEnds o.uid cCueInvalid o.num.block s t)) ∧
  (∀ (src : Src) (l : List (Fin 17)) (s u : State) (o : TensorOp) (cs : List Nat) (p : Nat),
    s.tensors.find? (fun o => o.stage == .gang && ((cuesOf s (srcOf src)).map (·.uid)).contains o.uid) = some o →
    p = (ctxOf s o.cid).part → u = noteAll s p → cs = l.map (·.val) → (∃ c ∈ cs, domOn u (dCore + c) = false) →
    ∃ t, exec (.gangPlace src l) s = .next t ∧ t.tensors = s.tensors ∧ t.cues = s.cues ∧ t.mem = s.mem) ∧
  (∀ (x : Fin 1024) (late : Nat) (s : State), (∀ q ∈ s.preempts, q.deferred = true ∨ q.cid ≠ x.val) →
    exec (.preemptPointReached x late) s = .next s) ∧
  (∀ (x : Fin 1024) (late : Nat) (s : State) (q : Preempt), s.preempts.filter (fun q => !q.deferred && q.cid == x.val) = [q] →
    (q.busy s = false → q.part s < 8 → ∃ t, exec (.preemptPointReached x late) s = .next t ∧
      t = { s with preempts := dropFirst (· == q) s.preempts, regs := t.regs, ctxs := t.ctxs } ∧
      rdN t (R.SMGR_P_PREEMPTS (q.part s)) = min 0xFFFFFFFF (rdN s (R.SMGR_P_PREEMPTS (q.part s)) + 1) ∧
      (ctxOf t x).preempts = min 0xFFFFFFFF ((ctxOf s x).preempts + 1) ∧ (∀ y, y ≠ x.val → ctxOf t y = ctxOf s y) ∧
      (ctxOf t x).debt = if q.sliceEnd then min 0xFFFFFFFF ((ctxOf s x).debt + late) else (ctxOf s x).debt) ∧
    (∀ o, q.wgs s = [] → q.ops s = [o] → q.copies s = [] →
      (o.stage ≠ .boundary → o.stage ≠ .gang → routeWaits s o = false → exec (.preemptPointReached x late) s = .next s) ∧
      (∀ pg rest, o.stage = .boundary → freeSavePages s (ctxOf s o.cid).part = pg :: rest → (tensorImage o).length ≤ 4096 →
        (∀ c ∈ o.cores, c < 17) →
        ∃ t, exec (.preemptPointReached x late) s = .next t ∧
          t.tensors = mapWhere (·.uid == o.uid) (fun o => { o with
            stage := .saved s.nextImage
            cores := []
            ob0 := []
            ob1 := []
            ahead := [] }) s.tensors ∧
          t.images = s.images ++ [⟨s.nextImage, .tensor, o.cid, o.uid, (ctxOf s o.cid).part, [pg], false⟩] ∧
          mgets 0 t.mem (saveBase s + 4096 * pg) (tensorImage o).length = tensorImage o ∧
          MemOutside (saveBase s + 4096 * pg) 4096 s t ∧ (∀ c ∈ o.cores, rdN t (R.CORE_TE_STATUS c) = 0) ∧
          (q.pass s = none → q.comps s = [] → q ∉ t.preempts))) ∧
    (∀ c w, q.wgs s = [(c, w)] → q.ops s = [] → q.copies s = [] →
      (wgAtPoint s c w = false → exec (.preemptPointReached x late) s = .next s) ∧
      (wgAtPoint s c w = true → ∃ t, exec (.preemptPointReached x late) s = .next t ∧
        t.savedWgs = s.savedWgs ++ [⟨s.nextImage, w, (coreOf s c).groups.filter (·.wg == w.id)⟩] ∧
        coreOf t c = dropWgs (·.id == w.id) (coreOf s c) ∧ (∀ d, d ≠ c → coreOf t d = coreOf s d) ∧
        ∃ pages, t.images = s.images ++ [⟨s.nextImage, .workgroup, w.cid, w.uid, (ctxOf s w.cid).part, pages, false⟩])) ∧
    (∀ k, q.wgs s = [] → q.ops s = [] → q.copies s = [k] → ∃ t, exec (.preemptPointReached x late) s = .next t ∧
      t.copies = mapWhere (·.uid == k.uid) (fun c => { c with stopped := true }) s.copies ∧
      t.helds = s.helds.filter (·.agent != .copy k.uid) ∧ t.nextImage = s.nextImage + 1)) ∧
  (∀ (p : Fin 8) (s : State), (∀ q ∈ s.preempts, q.deferred = false ∨ q.part s ≠ p ∨ q.fits s = false) →
    exec (.savePagesReleased p) s = .next s) ∧
  (∀ (p : Fin 8) (s : State) (q : Preempt), s.preempts = [q] → q.deferred = true → q.part s = p → q.fits s = true →
    ∃ t, exec (.savePagesReleased p) s = .next t ∧ t = { s with preempts := [{ q with deferred := false }], raster := t.raster }) ∧
  (∀ (c : Fin 17) (ecc : Ecc) (s : State), partOfCore s c = none → exec (.workResume c ecc) s = .next s) ∧
  (∀ (c : Fin 17) (ecc : Ecc) (s u : State) (p : Nat), partOfCore s c = some p → u = noteAll s p →
    (∀ v, resumable u c = some v → domOn u (dCore + c.val) = false →
      exec (.workResume c ecc) s = .next (wakeFor u [dCore + c.val])) ∧
    (∀ v, resumable u c = some v → domOn u (dCore + c.val) = true →
      (imageBad u v.image ecc = true → ∃ t, exec (.workResume c ecc) s = .next t ∧
        t = { u with
          savedWgs := s.savedWgs.filter (·.image != v.image)
          hostFails := t.hostFails
          reqs := t.reqs
          faultReps := s.faultReps ++ [⟨v.wg.cid, faultRec cMemUe (lcoreOf s c) c v.wg.cid 0xFF 0xFF v.wg.entry none 0 false,
            some v.wg.uid⟩] }) ∧
      (imageBad u v.image ecc = false → ∃ t, exec (.workResume c ecc) s = .next t ∧
        t.savedWgs = s.savedWgs.filter (·.image != v.image) ∧ t.images = s.images.filter (·.id != v.image) ∧
        (coreOf t c).wgs = (coreOf s c).wgs ++ [{ v.wg with id := (coreOf s c).nextWg }] ∧ (coreOf t c).split = v.wg.split ∧
        (coreOf t c).groups = (coreOf s c).groups ++ (upTo v.groups.length).zipWith (fun i g =>
          { g with slot := (freeSlots (coreOf s c)).getD i 0, wg := (coreOf s c).nextWg }) v.groups ∧
        ∀ d, d ≠ c.val → coreOf t d = coreOf s d)) ∧
    (resumable u c = none → ∀ k i, s.copies.find? (fun k => k.stopped && (ctxOf u (cidOfCue s k.uid)).part == p &&
        ctxLive u (cidOfCue s k.uid) && !beingTaken s (cidOfCue s k.uid) .copy []) = some k →
      s.images.find? (fun i => i.uid == k.uid && i.kind == .copy) = some i → imageBad s i.id ecc = false →
      ∃ t, exec (.workResume c ecc) s = .next t ∧ t = { startSlice u i.cid with
        regs := t.regs
        buckets := t.buckets
        copies := mapWhere (·.uid == k.uid) (fun c => { c with stopped := false }) s.copies
        images := s.images.filter (·.id != i.id) })) ∧
  (∀ (uid n : Nat) (s : State), cueOf s uid = none → exec (.maxBeatsAbort uid n) s = .next s) ∧
  (∀ (uid n : Nat) (s : State) (c : CueRun), cueOf s uid = some c →
    (c.stage ≠ .running ∨ kindOf c.opc = none ∨ c.maxBeats = 0 ∨ n < c.maxBeats ∨ onEngine s uid = false ∨
      (∃ p ∈ s.stops, p.1 = uid) → exec (.maxBeatsAbort uid n) s = .next s) ∧
    (c.stage = .running → (kindOf c.opc).isSome = true → c.maxBeats ≠ 0 → c.maxBeats ≤ n → onEngine s uid = true →
      (∀ p ∈ s.stops, p.1 ≠ uid) → ∃ t, exec (.maxBeatsAbort uid n) s = .next t ∧ Raised E.SMGR_EVENT.OVERRUN s t ∧
        (c.opc ≠ 2 → t = { s with regs := t.regs, stops := s.stops ++ [(uid, cOverrun)] }) ∧
        (c.opc = 2 → c.finish cOverrun zeroNum ∈ t.cues ∧ ∀ l ∈ t.launches, l.uid ≠ uid))) ∧
  (∀ (p : Fin 8) (k : Fin 3) (n b : Nat) (s : State) (v : Int), b = p.val * 3 + k.val →
    v = min (mget 0 s.buckets b + (regRate s p k * n : Nat)) (regBurst s p k * 16384 : Nat) →
    ((∀ r ∈ s.reqs, r.part ≠ p ∨ ∀ f, r.at_ ≠ .port k f) → ∃ t, exec (.regulatorRelease p k n) s = .next t ∧
      t = { s with buckets := t.buckets } ∧ ∀ j, mget 0 t.buckets j = if j = b then v else mget 0 s.buckets j) ∧
    (∀ (pre post : List Req) (r : Req) (f : Bool), s.reqs = pre ++ r :: post → r.part = p → r.at_ = .port k f →
      (∀ q ∈ pre, q.part ≠ p ∨ ∀ g, q.at_ ≠ .port k g) →
      (v < 0 → regRate s p k ≠ 0 → ∃ t, exec (.regulatorRelease p k n) s = .next t ∧
        t = { s with buckets := t.buckets } ∧ ∀ j, mget 0 t.buckets j = if j = b then v else mget 0 s.buckets j) ∧
      (0 ≤ v → regRate s p k ≠ 0 → ∃ t, exec (.regulatorRelease p k n) s = .next t ∧
        t = { s with
          reqs := mapWhere (·.id == r.id) (fun q => { q with at_ := if f then .cache 0 else routeOf s 0 r }) s.reqs
          buckets := t.buckets } ∧
        ∀ j, mget 0 t.buckets j = if j = b then v - (reqBytes r * 256 : Nat) else mget 0 s.buckets j)))

/-- SC_COMMIT (R353, R354, R356) with a commit pending, with an inconsistent set, or with what it would take in use is
refused: SC_REFUSED with its code, and nothing else. A good one takes the shadow values as the committed set, counts
GEN, makes every unit pending that differs from what it applies, writes GEN at once for the others, locks the
registers that a commit reads, and sets SC_DONE when no unit differs. SC_UNIT_APPLY (R355) does nothing for a unit
that is not pending or not at its boundary; else the unit applies its part: the partition registers (the scheduler,
but for the masks), the G5 mode, the functions' windows, the scrub interval, or a core's bit of every mask; its
APPLIED register takes GEN, its PENDING bit clears and no other does, and with the last SC_DONE is set. The link stays
pending while a credit pool has still to shrink (R408); XLAT stays pending, and gives each function its windows once
the function's own transfers have drained (R384). (spec/10_stage_manager.md; spec/07_proscenium.md;
spec/12_umram_link.md) -/
def Obligations.SceneChange : Prop :=
  (∀ (s : State) (code : Nat), rdN s R.SMGR_SC_PENDING ≠ 0 ∧ code = cScBusy ∨
      rdN s R.SMGR_SC_PENDING = 0 ∧ scConfigBad s = true ∧ code = cScConfig ∨
      rdN s R.SMGR_SC_PENDING = 0 ∧ scConfigBad s = false ∧ scInUse s = true ∧ code = cScInUse →
    ∃ t, exec .scCommit s = .next t ∧ Alters [R.SMGR_SC_STATUS, R.SMGR_SC_EVT] s t ∧
      Raised E.SMGR_SC_STATUS.SC_REFUSED s t ∧ fget t F.SMGR_SC_STATUS.CODE = code) ∧
  (∀ (s n : State), rdN s R.SMGR_SC_PENDING = 0 → scConfigBad s = false → scInUse s = false →
    n = { s with committed := part shadowed s.regs } → ∃ t, exec .scCommit s = .next t ∧ t.scLocked = true ∧
      rdN t R.SMGR_SC_GEN = (rdN s R.SMGR_SC_GEN + 1) % 2 ^ 32 ∧
      (∀ a, shadowed a = true → (∀ l < 24, a ≠ R.PROSC_L_CTRL l) → mget 0 t.committed a = rd s a) ∧
      (∀ u < 26, bit (rdN t R.SMGR_SC_PENDING) u = unitDiffers n u) ∧
      (∀ u < 26, unitDiffers n u = false → rd t (R.SMGR_SC_APPLIED u) = rd t R.SMGR_SC_GEN) ∧
      ((∀ u < 26, unitDiffers n u = false) → Raised E.SMGR_SC_STATUS.SC_DONE s t)) ∧
  (∀ (u : Fin 26) (s : State), bit (rdN s R.SMGR_SC_PENDING) u = false ∨ atBoundary s u = false →
    exec (.scUnitApply u) s = .next s) ∧
  (∀ (s : State), bit (rdN s R.SMGR_SC_PENDING) 8 = true → poolsFit (applyLink s) = false → ∃ t,
    exec (.scUnitApply 8) s = .next t ∧ t = { s with applied := t.applied } ∧
    (mwf 0 s.committed = true → ∀ a, inDir a = true → mget 0 t.applied a = mget 0 s.committed a)) ∧
  (∀ (s : State), bit (rdN s R.SMGR_SC_PENDING) 2 = true → windowsApplied (applyUnit s 2) = false → ∃ t,
    exec (.scUnitApply 2) s = .next t ∧ t = { s with applied := t.applied } ∧
    (mwf 0 s.committed = true → mwf 0 s.applied = true → ∀ f < 32, mget 0 t.applied (R.XLAT_FN_CFG f) =
      if ∃ v ∈ s.invs, v.kind = .window f then mget 0 s.applied (R.XLAT_FN_CFG f) else mget 0 s.committed (R.XLAT_FN_CFG f))) ∧
  (∀ (u : Fin 26) (s : State), bit (rdN s R.SMGR_SC_PENDING) u = true → atBoundary s u = true →
    u ≠ 8 ∨ poolsFit (applyLink s) = true → u ≠ 2 ∨ (windowsApplied (applyUnit s 2) = true ∧ ∀ v ∈ s.invs, ∀ f < 32, v.kind ≠ .window f) →
    ∃ t, exec (.scUnitApply u) s = .next t ∧
      rd t (R.SMGR_SC_APPLIED u) = rd s R.SMGR_SC_GEN ∧ bit (rdN t R.SMGR_SC_PENDING) u = false ∧
      (∀ v, v ≠ u.val → bit (rdN t R.SMGR_SC_PENDING) v = bit (rdN s R.SMGR_SC_PENDING) v) ∧
      (rdN t R.SMGR_SC_PENDING = 0 → Raised E.SMGR_SC_STATUS.SC_DONE s t) ∧
      (u = 0 → ∀ p < 8, ∀ i, 1 ≤ i → i < 8 →
        mget 0 t.applied (R.SMGR_P_CFG p + 4 * i) = mget 0 s.committed (R.SMGR_P_CFG p + 4 * i)) ∧
      (mwf 0 s.committed = true → ∀ a, u = 1 ∧ a = R.PDESK_G5_MODE ∨ u = 2 ∧ inFnCfg a = true ∨ u = 8 ∧ inDir a = true ∨
        u = 9 ∧ a = R.MEMC_SCRUB_INTERVAL → mget 0 t.applied a = mget 0 s.committed a) ∧
      (10 ≤ u.val → ∀ p < 8, bit (mget 0 t.applied (R.SMGR_P_CFG p)).toNat (6 + u) =
        bit (mget 0 s.committed (R.SMGR_P_CFG p)).toNat (6 + u)))

/-- PAGE_WALK (R362, R368) does nothing beyond 48 bits or in G5 mode; a cached translation is a hit and the most recent;
else a walk is counted, a valid leaf is cached, and a table behind an unknown host page asks the host once.
ATS_TRANSLATION_RESPONSE (R365, R366): the answer to an outstanding request is cached with a size of 4 KiB to 1 GiB;
no permission fails the page with XLAT_UNMAPPED, an error with HOST_ERROR and HOST_ERR; a request that an invalidation
has covered waits until it is over, and is then made again. HOST_COMPLETION_TIMEOUT fails the page likewise; of
accesses, it fails those of a core's instruction, else of the streams there, else of the function's running engines.
ATS_INVALIDATION_REQUEST, XLAT_INV_CMD and CTX_ROOT_WRITE (R378, R381): an invalidation starts, of a host range, of a
context's range (all of it with LEN 0) or, with the root written, of the whole context; in G5 mode a host's is
acknowledged at once and the others are refused, as are a command while BUSY and one on a context outside the
function. INVALIDATION_DRAINED (R378, R264): when nothing that uses a removed page is left it is acknowledged: the
host is told, or BUSY clears and DONE is set, and its layers are REVOKED. REVOKE_TIMEOUT (R379) aborts what still
holds a removed page, sets REVOKE_ABORT, of a command ABORTED, and acknowledges it. (spec/11_translation.md;
spec/05_the_pit.md; spec/07_proscenium.md) -/
def Obligations.Translation : Prop :=
  (∀ (x : Fin 1024) (va : BitVec 64) (k : XKind) (s : State) (a : Nat), a = va.toNat →
    (2 ^ 48 ≤ a ∨ isG5 s ((fnOfCid s x).getD 0) = true → exec (.pageWalk x va k) s = .next s) ∧
    (a < 2 ^ 48 → isG5 s ((fnOfCid s x).getD 0) = false →
      (∀ e, s.tc.find? (fun e => !e.ats && e.owner == x.val && inRange a e.page e.size) = some e →
        ∃ t, exec (.pageWalk x va k) s = .next t ∧
          t = { s with regs := t.regs, tc := t.tc, atsReqs := t.atsReqs, out := t.out } ∧
          OnlyRegs [R.XLAT_TC_HIT, R.XLAT_ATS_REQ] s t ∧ rdN t R.XLAT_TC_HIT = min 0xFFFFFFFF (rdN s R.XLAT_TC_HIT + 1) ∧
          (reach s (e.da + a % e.size) ≠ .host → t.tc.head? = some e ∧ t.atsReqs = s.atsReqs ∧ t.out = s.out)) ∧
      (s.tc.find? (fun e => !e.ats && e.owner == x.val && inRange a e.page e.size) = none →
        ((ctxOf s x).root = 0 → exec (.pageWalk x va k) s = .next s) ∧
        (∀ pte size, (ctxOf s x).root ≠ 0 → walkFrom s x a (walkStart s x a).1 (walkStart s x a).2 = .inl (pte, size) →
          ∃ t, exec (.pageWalk x va k) s = .next t ∧
            t = { s with regs := t.regs, tc := t.tc, wc := t.wc, atsReqs := t.atsReqs, out := t.out } ∧
            rdN t R.XLAT_WALKS = min 0xFFFFFFFF (rdN s R.XLAT_WALKS + 1) ∧
            (reach s (bits pte 47 8 * 256 + a % size) ≠ .host → t.tc.head? = some
              ⟨false, x, a / size * size, size, bits pte 47 8 * 256, true, bit pte 2, bit pte 3, bit pte 4⟩)) ∧
        (∀ c, (ctxOf s x).root ≠ 0 → walkFrom s x a (walkStart s x a).1 (walkStart s x a).2 = .inr (.fault c) →
          ∃ t, exec (.pageWalk x va k) s = .next t ∧ Alters [R.XLAT_WALKS] s t ∧
            rdN t R.XLAT_WALKS = min 0xFFFFFFFF (rdN s R.XLAT_WALKS + 1)) ∧
        (∀ f g, (ctxOf s x).root ≠ 0 → walkFrom s x a (walkStart s x a).1 (walkStart s x a).2 = .inr (.waits f g) →
          (∀ r ∈ s.atsReqs, r.fn ≠ f ∨ r.page ≠ g) → ∃ t, exec (.pageWalk x va k) s = .next t ∧
            t = { s with
              regs := t.regs
              atsReqs := s.atsReqs ++ [⟨f, g, false, false⟩]
              out := s.out ++ [.atsRequest f g] })))) ∧
  (∀ (fn : Fin 32) (page : BitVec 47) (res : AtsRes) (s : State) (p : Nat), p = page.toNat / 4096 →
    ((∀ r ∈ s.atsReqs, r.fn ≠ fn ∨ r.page ≠ p ∨ r.answered = true) → exec (.atsTranslationResponse fn page res) s = .next s) ∧
    (∀ r, s.atsReqs.find? (fun r => r.fn == fn.val && r.page == p && !r.answered) = some r →
      (r.stale = true → (∀ q ∈ s.atsReqs, q.answered = false) →
        ∀ i ∈ [Instr.atsTranslationResponse fn page res, .hostCompletionTimeout fn page],
        ((∃ v ∈ s.invs, invCovers v fn p = true) → exec i s = .next { s with
          atsReqs := mapWhere (fun q => q.fn == fn.val && q.page == p) (fun q => { q with answered := true }) s.atsReqs }) ∧
        ((∀ v ∈ s.invs, invCovers v fn p = false) → (∀ q ∈ s.atsReqs, q.fn = fn ∧ q.page = p → q = r) → s.atsReqs.Nodup →
          ∃ t, exec i s = .next t ∧ OnlyRegs [R.XLAT_ATS_REQ] s t ∧ t = { s with
            regs := t.regs
            atsReqs := s.atsReqs.filter (fun r => !(r.fn == fn.val && r.page == p)) ++ [⟨fn, p, false, false⟩]
            out := s.out ++ [.atsRequest fn p] })) ∧
      (r.stale = false → NoneWaits s →
        (∀ pl n rd wr size, res = .ok pl n rd wr → (rd || wr) = true → size = 2 ^ min 30 (max 12 n) →
          ∃ t, exec (.atsTranslationResponse fn page res) s = .next t ∧ t = { s with
            atsReqs := s.atsReqs.filter (fun r => !(r.fn == fn.val && r.page == p))
            hostFails := s.hostFails.filter (fun e => !(e.fn == fn.val && e.page == p))
            tc := t.tc } ∧
          t.tc.head? = some ⟨true, fn, page.toNat / size * size, size,
            pl.toNat + (page.toNat / size * size - page.toNat / 2 ^ n * 2 ^ n), rd, wr, false, true⟩) ∧
        (∀ code, res = .fail ∧ code = cHostError ∨ (∃ pl n, res = .ok pl n false false) ∧ code = cUnmapped →
          ∃ t, exec (.atsTranslationResponse fn page res) s = .next t ∧ t = { s with
            regs := t.regs
            atsReqs := s.atsReqs.filter (fun r => !(r.fn == fn.val && r.page == p))
            hostFails := s.hostFails.filter (fun e => !(e.fn == fn.val && e.page == p)) ++ [⟨fn, p, code, false⟩] } ∧
          (code = cHostError → Raised E.XLAT_EVENT.HOST_ERR s t) ∧ (code = cUnmapped → t.regs = s.regs)))) ∧
    (∀ r, s.atsReqs.filter (fun r => r.fn == fn.val && r.page == p) = [r] → r.answered = false →
      (r.stale = false → NoneWaits s → ∃ t, exec (.hostCompletionTimeout fn page) s = .next t ∧ t = { s with
        regs := t.regs
        atsReqs := s.atsReqs.filter (fun r => !(r.fn == fn.val && r.page == p))
        hostFails := s.hostFails.filter (fun e => !(e.fn == fn.val && e.page == p)) ++ [⟨fn, p, cHostError, false⟩] } ∧
        Raised E.XLAT_EVENT.HOST_ERR s t)) ∧
    (∀ q, (∀ r ∈ s.atsReqs, r.fn ≠ fn ∨ r.page ≠ p ∨ r.answered = true) → s.reqs = [q] → q.at_ = .host → q.fills = [] →
      fnOfCid s q.cid = some fn.val → (q.addr - hostBase) / 4096 = p → ∃ t, exec (.hostCompletionTimeout fn page) s = .next t ∧
        t = { s with regs := t.regs, reqs := [{ q with at_ := .done cHostError [] }] } ∧ Raised E.XLAT_EVENT.HOST_ERR s t) ∧
    ((∀ r ∈ s.atsReqs, r.fn ≠ fn ∨ r.page ≠ p ∨ r.answered = true) → (∀ q ∈ s.reqs, q.at_ ≠ .host) →
      ((∀ n ∈ streamsIn s fn p, streamState s n ≠ sFaulted → ∃ t, exec (.hostCompletionTimeout fn page) s = .next t ∧
        streamState t n = sFaulted ∧ fget t (F.PIT_S_STATE.CODE n) = cHostError ∧ Raised E.XLAT_EVENT.HOST_ERR s t) ∧
      (streamsIn s fn p = [] → (∀ c ∈ s.cues, c.stage = .running → fnOfCid s c.cid ≠ some fn.val) →
        exec (.hostCompletionTimeout fn page) s = .next s) ∧
      (streamsIn s fn p = [] → ∀ c ∈ s.cues, c.stage = .running → fnOfCid s c.cid = some fn.val →
        ∃ t, exec (.hostCompletionTimeout fn page) s = .next t ∧ Raised E.XLAT_EVENT.HOST_ERR s t ∧
          t = { s with regs := t.regs, hostFails := s.hostFails ++ [⟨fn, p, cHostError, true⟩] })))) ∧
  (∀ (fn : Fin 32) (tag : BitVec 5) (lo size : BitVec 47) (s : State),
    (isG5 s fn = true → ∃ t, exec (.atsInvalidationRequest fn tag lo size) s = .next t ∧
      t = { s with regs := t.regs, out := s.out ++ [.atsInvDone fn tag.toNat] } ∧ OnlyRegs [R.XLAT_INV_COUNT] s t ∧
      rdN t R.XLAT_INV_COUNT = min 0xFFFFFFFF (rdN s R.XLAT_INV_COUNT + 1)) ∧
    (isG5 s fn = false → ∃ t, exec (.atsInvalidationRequest fn tag lo size) s = .next t ∧
      InvStarts ⟨s.nextInv, .ats fn tag.toNat, 1024, hostBase + lo.toNat, hostBase + lo.toNat + size.toNat, s.nextReq⟩ s t)) ∧
  (∀ (fn : Fin 32) (hi : BitVec 32) (s : State) (x lo n : Nat), x = selCtx s fn →
    lo = rd64 s (R.XLAT_INV_ADDR_LO fn) % 2 ^ 48 / 65536 * 65536 → n = rdN s (R.XLAT_INV_LEN fn) →
    (fbit s (F.XLAT_INV_STATUS.BUSY fn) = true ∨ fnOfCid s x ≠ some fn.val ∨ isG5 s fn = true →
      ∃ t, exec (.xlatInvCmd fn) s = .next t ∧ RefusedBy (E.XLAT_INV_STATUS.REFUSED fn) s t) ∧
    (fbit s (F.XLAT_INV_STATUS.BUSY fn) = false → fnOfCid s x = some fn.val → isG5 s fn = false →
      ∃ u t, exec (.xlatInvCmd fn) s = .next t ∧ Alters [R.XLAT_INV_STATUS fn] s u ∧ fget t (F.XLAT_INV_STATUS.BUSY fn) = 1 ∧
        InvStarts ⟨s.nextInv, .cmd fn, x, if n = 0 then 0 else lo, if n = 0 then 2 ^ 48 else lo + n * 65536, s.nextReq⟩ u t) ∧
    (ctxUsable s fn x = false ∨ isG5 s fn = true → ∃ t, exec (.ctxRootWrite fn hi) s = .next t ∧
      t = { s with regs := t.regs, loHeld := t.loHeld } ∧ Raised (E.PDESK_CTX_STATUS.CFG_REFUSED fn) s t) ∧
    (ctxUsable s fn x = true → isG5 s fn = false → ∀ v, v = (s.loHeld.lookup (loKey (1 + fn.val) (ctxRootLo fn.val))).getD
        (BitVec.ofNat 32 (ctxOf s x).root) → ∃ u t, exec (.ctxRootWrite fn hi) s = .next t ∧
      u = { s with loHeld := u.loHeld, ctxs := u.ctxs } ∧
      CtxBecomes x { ctxOf s x with root := v.toNat / 4096 * 4096 + 2 ^ 32 * bits hi.toNat 15 0 } s u ∧
      InvStarts ⟨s.nextInv, .root, x, 0, 2 ^ 48, s.nextReq⟩ u t)) ∧
  (∀ (id : Nat) (s : State), (∀ v ∈ s.invs, v.id ≠ id) →
    exec (.invalidationDrained id) s = .next s ∧ exec (.revokeTimeout id) s = .next s) ∧
  (∀ (id : Nat) (s : State) (v : Inv), s.invs.find? (·.id == id) = some v →
    (undrained s v = true → exec (.invalidationDrained id) s = .next s) ∧
    (undrained s v = false → exec (.revokeTimeout id) s = exec (.invalidationDrained id) s ∧
      ((∀ r ∈ s.atsReqs, r.answered = false) → ∃ t, exec (.invalidationDrained id) s = .next t ∧
        t.invs = s.invs.filter (·.id != id) ∧
        (∀ l < 24, v.id ∈ (layerOf s l).lost → Raised (E.PROSC_L_STATUS.REVOKED l) s t ∧ v.id ∉ (layerOf t l).lost) ∧
        (∀ fn < 32, v.kind = .cmd fn → fget t (F.XLAT_INV_STATUS.BUSY fn) = 0 ∧ Raised (E.XLAT_INV_STATUS.DONE fn) s t) ∧
        ((∀ l < 24, v.id ∉ (layerOf s l).lost) →
          (∀ f tag, v.kind = .ats f tag → t = { s with regs := t.regs, invs := t.invs, out := s.out ++ [.atsInvDone f tag] }) ∧
          ((∀ f tag, v.kind ≠ .ats f tag) → t = { s with regs := t.regs, invs := t.invs })))) ∧
    ((∀ r ∈ s.reqs, invReq s v r = false) → (∀ l < 24, (layerOf s l).losing.contains v.id = false ∧ v.id ∉ (layerOf s l).lost) →
      (∀ r ∈ s.atsReqs, r.answered = false) → ∀ h, s.helds.filter (·.stale.contains id) = [h] →
      (∀ n < 256, h.agent = .entryRing n → ∃ t, exec (.revokeTimeout id) s = .next t ∧ Raised E.XLAT_EVENT.REVOKE_ABORT s t ∧
        t.invs = s.invs.filter (·.id != id) ∧ fget t (F.UL_ER_CFG.EN n) = 0 ∧
        t.helds = s.helds.filter (·.agent != .entryRing n) ∧ ∃ r ∈ t.faultReps, r.cid = h.cid ∧ field r.record 0 2 = cRevoked) ∧
      (∀ u, h.agent = .copy u → ∃ t, exec (.revokeTimeout id) s = .next t ∧ Raised E.XLAT_EVENT.REVOKE_ABORT s t ∧
        t.invs = s.invs.filter (·.id != id) ∧ t.helds = s.helds.filter (·.agent != .copy u) ∧
        (∀ fn < 32, v.kind = .cmd fn → Raised (E.XLAT_INV_STATUS.ABORTED fn) s t ∧ Raised (E.XLAT_INV_STATUS.DONE fn) s t))))

/-- TAG_WRITE (R332, R372, R374) is refused with TAG_REFUSED and TAG_INVALID for no granule, while one runs, a value that
R372 rules out, an owner that is not LIVE, or granules past the last of SCRATCH or of installed DRAM, and with
TAG_QUOTA when the owner's partition would exceed its Loft quota; a good one sets TAG_BUSY and leaves its granules to
apply, from the first named. TAG_GRANULE_APPLY (R375, R376) takes the next granule: no cache holds a line of it any
more, its tag reads as the value and every other as before, it is no longer known bad, and after the last TAG_BUSY
clears. TAG_READ shows the tag selected. MSIX_UNMASK (R526) unmasks a vector and sends the message that was pending on
it. (spec/11_translation.md; spec/18_register_map.md) -/
def Obligations.TagsAndMessages : Prop :=
  (∀ (s : State) (g raw n v o p : Nat), raw = fget s F.XLAT_TAG_SEL.GRANULE →
    g = raw + (if fbit s F.XLAT_TAG_SEL.SPACE then 0 else 0x10000) → n = fget s F.XLAT_TAG_COUNT.COUNT →
    v = rdN s R.XLAT_TAG_VALUE → o = bits v 17 8 → p = (ctxOf s o).part →
    (n = 0 ∨ fbit s F.XLAT_STATUS.TAG_BUSY = true ∨ tagOk v = false ∨ (bits v 1 0 ≠ 0 ∧ ctxLive s o = false) ∨
        (fbit s F.XLAT_TAG_SEL.SPACE = true ∧ 4096 < raw + n) ∨ (fbit s F.XLAT_TAG_SEL.SPACE = false ∧ 131072 < raw + n) ∨
        tagRange s g n = false →
      ∃ t, exec .tagWrite s = .next t ∧ RegsAlone s t ∧ Raised E.XLAT_EVENT.TAG_REFUSED s t ∧
        fget t F.XLAT_STATUS.CODE = cTagInvalid) ∧
    (n ≠ 0 → fbit s F.XLAT_STATUS.TAG_BUSY = false → tagOk v = true → bits v 1 0 = 0 ∨ ctxLive s o = true →
      raw + n ≤ (if fbit s F.XLAT_TAG_SEL.SPACE then 4096 else 131072) → tagRange s g n = true →
      (fbit s F.XLAT_TAG_SEL.SPACE = true → bits v 1 0 ≠ 0 → aget s (F.SMGR_P_LOFT_QUOTA.QUOTA p) < taggedAfter s g n p →
        ∃ t, exec .tagWrite s = .next t ∧ RegsAlone s t ∧ Raised E.XLAT_EVENT.TAG_REFUSED s t ∧
          fget t F.XLAT_STATUS.CODE = cTagQuota) ∧
      (fbit s F.XLAT_TAG_SEL.SPACE = false ∨ bits v 1 0 = 0 ∨ taggedAfter s g n p ≤ aget s (F.SMGR_P_LOFT_QUOTA.QUOTA p) →
        ∃ t, exec .tagWrite s = .next t ∧ t = { s with regs := t.regs, tagJob := some ⟨g, n, v⟩ } ∧
          OnlyRegs [R.XLAT_STATUS] s t ∧ fget t F.XLAT_STATUS.TAG_BUSY = 1)) ∧
    (∃ t, exec .tagRead s = .next t ∧ Alters [R.XLAT_TAG_READ] s t ∧
      rdN t R.XLAT_TAG_READ = mget 0 s.tags g % 2 ^ 32)) ∧
  (∀ (s : State), s.tagJob = none → exec .tagGranuleApply s = .next s) ∧
  (∀ (s : State) (j : TagJob), s.tagJob = some j → ∃ t, exec .tagGranuleApply s = .next t ∧
    t = { s with
      regs := t.regs
      mem := t.mem
      ueWords := t.ueWords
      caches := t.caches
      buckets := t.buckets
      tags := t.tags
      badTags := s.badTags.filter (· != j.next)
      tagJob := if j.left ≤ 1 then none else some { j with next := j.next + 1, left := j.left - 1 } } ∧
    (∀ g, mget 0 t.tags g = if g = j.next then j.value else mget 0 s.tags g) ∧
    (∀ k < 18, ∀ l ∈ (cacheOf t k).lines ++ (cacheOf t k).side, lineInGranule j.next l = false) ∧
    (j.left ≤ 1 → fget t F.XLAT_STATUS.TAG_BUSY = 0) ∧ (1 < j.left → fget t F.XLAT_STATUS.TAG_BUSY = fget s F.XLAT_STATUS.TAG_BUSY)) ∧
  (∀ (fn : Fin 32) (v : Fin 64) (s : State) (e : Msix), e = mget Msix.reset s.msix (fn.val * 64 + v) →
    ∃ t, exec (.msixUnmask fn v) s = .next t ∧ t = { s with
      msix := t.msix
      out := if e.mask && e.pending then s.out ++ [.msix fn v] else s.out } ∧
    ∀ k, mget Msix.reset t.msix k = if k = fn.val * 64 + v then { e with mask := false, pending := false }
      else mget Msix.reset s.msix k)

/-- PORT_TRAINED (R389, R392, R393): a trained port with 3 or 4 lanes is up and fresh, PORT_UP set and told to the ring;
east to east or west to west is MISWIRED; failed lanes back make UP3 UP4 and resend. TRAIN_FAIL, TRAINING_RETRY and
RETRAIN set DOWN or TRAINING. LANE_FAIL (R391): four lanes become three, everything unacknowledged sent again with the
credits it carries; the next takes the port down. LANE_ERR_WINDOW_END fails the lane at its limit. FLIT_RECEIVE (R390,
R406): one failing its check is counted and a KIND 2 flit answers; one that passes acknowledges; the expected one is
delivered and its credits return; another is discarded. NEGATIVE_ACK resends what is left. PCIE_LINK_UP (R394, R396),
once HOST is up, makes a unit with the HEAD strap the head, which starts addressing. ADDRESS_TOKEN: a unit takes its
position or becomes a gateway, whose sub-token carries the upper one, sent on by the second gateway; its own token
back gives the ring's size; tokens of two heads leave units without an address; an address too deep, a third uplink
and (the model's choice, log 57) a counter past 7 are TOPO_ERR. TOKEN_TIMEOUT (R397) opens the ring and sends a second
token west, once. ROSTER (R396): the unit writes its address and passes the roster on. TOPOLOGY_UPDATE (R402, R405):
the roster changes, the update goes on, and an access whose target is out of reach ends with LINK_DOWN.
(spec/12_umram_link.md; spec/14_power_and_clocks.md) -/
def Obligations.LinkPorts : Prop :=
  (∀ (p k : Fin 3) (l : BitVec 4) (rv : Bool) (s : State) (n : Nat), n = (onesOf 4 l.toNat).length →
    (portState s p = pUp3 → (portOf s p).retrain = true →
      (n = 4 → ∃ t, exec (.portTrained p k l rv) s = .next t ∧ portState t p = pUp4 ∧ fget t (F.UL_P_STATE.LANES_OK p) = 15 ∧
        portOf t p = { portOf s p with retrain := false, acked := (portOf s p).rxNext } ∧
        t.out = s.out ++ (portOf s p).unacked.map (SentFlit.again (portOf s p) p)) ∧
      (n ≠ 4 → ∃ t, exec (.portTrained p k l rv) s = .next t ∧ t = { s with link := t.link } ∧
        portOf t p = { portOf s p with retrain := false })) ∧
    (portState s p ≠ pUp3 ∨ (portOf s p).retrain = false →
      (mayTrain s p = false ∨ 2 ≤ portState s p ∨ n < 3 → exec (.portTrained p k l rv) s = .next s) ∧
      (mayTrain s p = true → portState s p < 2 → 3 ≤ n → ∃ t, exec (.portTrained p k l rv) s = .next t ∧
        fget t (F.UL_P_STATE.PEER_KIND p) = k ∧ fget t (F.UL_P_STATE.REVERSED p) = b2n rv ∧
        (k = p → p ≠ 2 → portState t p = pMiswired ∧ Raised E.UL_STATUS.TOPO_ERR s t ∧ fget t F.UL_STATUS.CODE = cTopology) ∧
        (k ≠ p ∨ p = 2 → portState t p = (if n = 4 then pUp4 else pUp3) ∧ fget t (F.UL_P_STATE.LANES_OK p) = l.toNat ∧
          portOf t p = { LinkPort.fresh with rx := (portOf s p).rx, used := (portOf t p).used } ∧
          Raised E.UL_STATUS.PORT_UP s t ∧ (p ≠ 2 ∨ fget s F.UL_SELF.GATEWAY ≠ 0 → .topology p (me s) p true ∈ t.out)))) ∧
    (2 ≤ portState s p → exec (.trainFail p) s = .next s) ∧
    (portState s p < 2 → ∃ t, exec (.trainFail p) s = .next t ∧ Alters [R.UL_P_STATE p, R.UL_P_TRAIN_FAIL p] s t ∧
      portState t p = pDown ∧ rdN t (R.UL_P_TRAIN_FAIL p) = min 0xFFFFFFFF (rdN s (R.UL_P_TRAIN_FAIL p) + 1)) ∧
    (mayTrain s p = false ∨ portState s p ≠ pDown → exec (.trainingRetry p) s = .next s) ∧
    (mayTrain s p = true → portState s p = pDown → ∃ t, exec (.trainingRetry p) s = .next t ∧ Alters [R.UL_P_STATE p] s t ∧
      portState t p = pTraining) ∧
    (domOn s dLink = true →
      (portState s p = pUp3 → ∃ t, exec (.retrain p) s = .next t ∧ t = { s with link := t.link } ∧
        portOf t p = { portOf s p with retrain := true }) ∧
      (mayTrain s p = true → portState s p = pDown ∨ portState s p = pMiswired → ∃ t, exec (.retrain p) s = .next t ∧
        Alters [R.UL_P_STATE p] s t ∧ portState t p = pTraining) ∧
      (portState s p ≠ pUp3 → mayTrain s p = false ∨ (portState s p ≠ pDown ∧ portState s p ≠ pMiswired) →
        exec (.retrain p) s = .next s))) ∧
  (∀ (p : Fin 3) (l : Fin 4) (errs : List Nat) (s : State) (ok : Nat), ok = fget s (F.UL_P_STATE.LANES_OK p) →
    (portUp s p = false ∨ bit ok l = false → exec (.laneFail p l) s = .next s) ∧
    (portState s p = pUp4 → bit ok l = true → ∃ t, exec (.laneFail p l) s = .next t ∧ portState t p = pUp3 ∧
      bit (fget t (F.UL_P_STATE.LANES_OK p)) l = false ∧ Raised E.UL_STATUS.LANE_FAIL s t ∧
      portOf t p = { portOf s p with acked := (portOf s p).rxNext } ∧
      ∀ f ∈ (portOf s p).unacked, f.again (portOf s p) p ∈ t.out) ∧
    (portState s p = pUp3 → bit ok l = true → ∃ t, exec (.laneFail p l) s = .next t ∧ portState t p = pDown ∧
      fget t (F.UL_P_STATE.LANES_OK p) = 0 ∧ Raised E.UL_STATUS.PORT_DOWN s t ∧
      (∀ q < 3, q ≠ p.val → q ≠ 2 ∨ fget s F.UL_SELF.GATEWAY ≠ 0 → mgmtFree s q = true → .topology q (me s) p false ∈ t.out) ∧
      portOf t p = { LinkPort.fresh with rx := (portOf s p).rx }) ∧
    ((∀ j < 4, errs.getD j 0 < max 1 (fget s (F.UL_P_CFG.LANE_ERR_LIMIT p))) → exec (.laneErrWindowEnd p errs) s = .next s) ∧
    (max 1 (fget s (F.UL_P_CFG.LANE_ERR_LIMIT p)) ≤ errs.getD l 0 →
      (∀ j < 4, j ≠ l.val → errs.getD j 0 < max 1 (fget s (F.UL_P_CFG.LANE_ERR_LIMIT p))) →
      exec (.laneErrWindowEnd p errs) s = exec (.laneFail p l) s)) ∧
  (∀ (p : Fin 3) (w : BitVec 576) (s : State) (b : List Byte) (c : Nat), b = leBytes 72 w.toNat → c = field b 64 4 →
    (portUp s p = false → exec (.flitReceive p w) s = .next s) ∧
    (portUp s p = true → crc32c (b.take 68) ≠ field b 68 4 ∨ bits c 21 20 = 3 → ∃ t, exec (.flitReceive p w) s = .next t ∧
      t = { s with
        regs := t.regs
        link := t.link
        free := s.free + 1
        out := s.out ++ [.flit p (mkFlit (portOf s p).tx ((portOf s p).rxNext + 1023) 2 0 0 (leBytes 64 (freeVal s)))] } ∧
      portOf t p = { portOf s p with nak := true, acked := (portOf s p).rxNext } ∧ OnlyRegs [R.UL_P_CRC_ERR p] s t ∧
      rdN t (R.UL_P_CRC_ERR p) = min 0xFFFFFFFF (rdN s (R.UL_P_CRC_ERR p) + 1)) ∧
    (portUp s p = true → crc32c (b.take 68) = field b 68 4 → ∀ q n j, q = { portOf s p with
        unacked := ackFlits (bits c 19 10) (portOf s p).unacked } → n = bits c 31 26 → j = bits c 25 22 →
      (bits c 21 20 = 2 → ∃ t, exec (.flitReceive p w) s = .next t ∧ portOf t p = { q with acked := q.rxNext } ∧
        t.out = s.out ++ q.unacked.map (SentFlit.again q p)) ∧
      (bits c 21 20 = 0 → n = 0 → ∃ t, exec (.flitReceive p w) s = .next t ∧ t = { s with link := t.link } ∧ portOf t p = q) ∧
      ((bits c 21 20 = 0 ∧ n ≠ 0) ∨ bits c 21 20 = 1 → bits c 9 0 = q.rxNext → ∀ r, r = { q with
          rx := if bits c 21 20 = 1 then q.rx ++ [b.take 64] else q.rx
          rxNext := (q.rxNext + 1) % 1024
          nak := false
          used := q.used.set j (q.used.getD j 0 - n) } →
        (j ≠ 8 ∨ n = 0 ∨ (∀ m ∈ s.link.mgmt, m.1 ≠ p) → ∃ t, exec (.flitReceive p w) s = .next t ∧
          t = { s with regs := t.regs, link := t.link } ∧ portOf t p = r) ∧
        (∀ m, j = 8 → n ≠ 0 → s.link.mgmt = [(p.val, m)] → ∃ u t, exec (.flitReceive p w) s = .next t ∧
          u = { s with regs := u.regs, link := u.link } ∧ u.link.mgmt = [] ∧ portOf u p = r ∧ MgmtSent u p m t)) ∧
      ((bits c 21 20 = 0 ∧ n ≠ 0) ∨ bits c 21 20 = 1 → bits c 9 0 ≠ q.rxNext → ∃ t, exec (.flitReceive p w) s = .next t ∧
        (portOf t p).rx = q.rx ∧ (portOf t p).rxNext = q.rxNext ∧ (portOf t p).used = q.used ∧
        rdN t (R.UL_P_CRC_ERR p) = min 0xFFFFFFFF (rdN s (R.UL_P_CRC_ERR p) + 1) ∧
        (q.nak = true → t.out = s.out) ∧
        (q.nak = false → (bits c 9 0 + 1024 - q.rxNext) % 1024 < 512 → t.out = s.out ++
          [.flit p (mkFlit q.tx (q.rxNext + 1023) 2 0 0 (leBytes 64 (freeVal s)))])))) ∧
  (∀ (p : Fin 3) (a : BitVec 10) (s : State) (q : LinkPort), q = { portOf s p with unacked := ackFlits a.toNat (portOf s p).unacked } →
    (portUp s p = false → exec (.negativeAck p a) s = .next s) ∧
    (portUp s p = true → ∃ t, exec (.negativeAck p a) s = .next t ∧ portOf t p = { q with acked := q.rxNext } ∧
      t.out = s.out ++ q.unacked.map (SentFlit.again q p))) ∧
  (∀ (a : BitVec 32) (s : State),
    (domOn s dHost = false → exec (.pcieLinkUp a) s = .next s) ∧
    (domOn s dHost = true → s.boot.head = false → ∃ t, exec (.pcieLinkUp a) s = .next t ∧ t = { s with
      atsEn := a.toNat
      link := { s.link with pcie := true, strap := false } }) ∧
    (domOn s dHost = true → s.boot.head = true →
      ((me s).isEmpty = false ∨ s.link.conflict = true ∨ portUp s 0 = false → ∃ t, exec (.pcieLinkUp a) s = .next t ∧
        fget t F.UL_SELF.HEAD = 1 ∧ OnlyRegs [R.UL_SELF] s t ∧ t = { s with
          regs := t.regs
          atsEn := a.toNat
          link := { s.link with pcie := true, strap := true } }) ∧
      ((me s).isEmpty = true → s.link.conflict = false → portUp s 0 = true →
        ∃ u t, exec (.pcieLinkUp a) s = .next t ∧ fget u F.UL_SELF.HEAD = 1 ∧ OnlyRegs [R.UL_SELF] s u ∧ u = { s with
          regs := u.regs
          atsEn := a.toNat
          link := { s.link with pcie := true, strap := true, pos := [0], tokOut := true, second := false, upTok := [] } } ∧
        MgmtSent u 0 (.addrToken 0 ⟨[], 1, false, []⟩) t))) ∧
  (∀ (p : Fin 3) (k : AddrTok) (s u : State), u = mgmtTaken s p →
    (s.link.tokOut = false → exec (.addressToken p k true) s = .next u) ∧
    (s.link.tokOut = true → ∃ t, exec (.addressToken p k true) s = .next t ∧ t = { u with
      regs := t.regs
      link := { u.link with tokOut := false } } ∧ OnlyRegs [R.UL_RING] s t ∧ fget t F.UL_RING.SIZE = k.counter % 16) ∧
    (s.link.strap = true → s.link.pcie = true → ∃ v t, exec (.addressToken p k false) s = .next t ∧ AddressLost u v ∧
      Raised E.UL_STATUS.HEAD_CONFLICT s v ∧ fget v F.UL_STATUS.CODE = cHeadConflict ∧ TokenGoesOn v p k k.upper t) ∧
    (s.link.strap = false ∨ s.link.pcie = false →
      (s.link.conflict = true → ∃ t, exec (.addressToken p k false) s = .next t ∧ TokenGoesOn u p k k.upper t) ∧
      (s.link.conflict = false →
        (6 < k.pre.length + (if p = 2 then 2 else 1) ∨ 7 < k.counter → ∃ t, exec (.addressToken p k false) s = .next t ∧
          Raised E.UL_STATUS.TOPO_ERR s t ∧ fget t F.UL_STATUS.CODE = cTopology ∧ t.link = u.link) ∧
        (k.pre.length + (if p = 2 then 2 else 1) ≤ 6 → k.counter ≤ 7 →
          (fbit s F.UL_SELF.ADDR_DONE = true → tokenAddr p k ≠ me s →
            (k.west = true ∨ p = 2 → exec (.addressToken p k false) s = .next u) ∧
            (k.west = false → p ≠ 2 → ∃ v t, exec (.addressToken p k false) s = .next t ∧ AddressLost u v ∧
              TokenGoesOn v p k k.upper t)) ∧
          (fbit s F.UL_SELF.ADDR_DONE = false ∨ tokenAddr p k = me s →
            (p ≠ 2 → ∀ v, v = { u with link := { u.link with pos := k.pre ++ [k.counter] } } →
              (k.pre = [] ∨ portUp s 2 = false → ∃ t, exec (.addressToken p k false) s = .next t ∧ TokenGoesOn v p k k.upper t) ∧
              (k.pre ≠ [] → portUp s 2 = true → k.upper = [] → ∃ w t, exec (.addressToken p k false) s = .next t ∧
                Raised E.UL_STATUS.TOPO_ERR v w ∧ fget w F.UL_STATUS.CODE = cTopology ∧ w.link = v.link ∧ TokenGoesOn w p k [] t) ∧
              (∀ x rest, k.pre ≠ [] → portUp s 2 = true → k.upper = x :: rest → ∃ w y t, exec (.addressToken p k false) s = .next t ∧
                Alters [R.UL_SELF] v w ∧ fget w F.UL_SELF.GATEWAY = (if x.west then 1 else 2) ∧
                MgmtSent w 2 (.addrToken 2 ⟨x.pre, if x.west then x.counter - 1 else x.counter + 1, x.west, rest⟩) y ∧
                TokenGoesOn y p k [] t)) ∧
            (p = 2 → ∀ up, up = ⟨k.pre, k.counter, k.west⟩ :: k.upper → ∃ v t, exec (.addressToken p k false) s = .next t ∧ v = { u with
                regs := v.regs
                link := { u.link with pos := k.pre ++ [k.counter, 0], tokOut := true, second := false, upTok := up } } ∧
              OnlyRegs [R.UL_SELF] s v ∧ fget v F.UL_SELF.GATEWAY = (if k.west then 2 else 1) ∧
              MgmtSent v 0 (.addrToken 0 ⟨k.pre ++ [k.counter], 1, false, up⟩) t)))))) ∧
  (∀ (s : State), (s.link.tokOut = false → exec .tokenTimeout s = .next s) ∧
    (s.link.tokOut = true → s.link.second = false → ∃ u t, exec .tokenTimeout s = .next t ∧ u = { s with
        regs := u.regs
        link := { s.link with second := true } } ∧ fget u F.UL_RING.OPEN = 1 ∧
      MgmtSent u 1 (.addrToken 1 ⟨(me s).dropLast, 7, true, s.link.upTok⟩) t) ∧
    (s.link.tokOut = true → s.link.second = true → ∃ t, exec .tokenTimeout s = .next t ∧ t = { s with
      regs := t.regs
      link := { s.link with tokOut := false } } ∧ fget t F.UL_RING.OPEN = 1)) ∧
  (∀ (q : Option (Fin 3)) (r : Roster) (gap a : List Nat) (s u : State), a = (if (me s).isEmpty then gap else me s) →
    u = (match q with | some p => mgmtTaken s p | none => s) →
    (s.link.conflict = true ∨ a = [] ∨ (q = none ∧ (isHead s = false ∨ s.link.tokOut = true)) → exec (.roster q r gap) s = .next u) ∧
    (s.link.conflict = false → a ≠ [] → q ≠ none ∨ (isHead s = true ∧ s.link.tokOut = false) →
      ∀ g, g = ((rosterUnit r a).map (·.gw)).getD 0 → ∃ t, exec (.roster q r gap) s = .next t ∧ me t = a ∧ t.link.roster = r ∧
      fget t F.UL_SELF.UNIT = unitNum a % 2 ^ 24 ∧ fget t F.UL_SELF.DEPTH = a.length % 8 ∧ fget t F.UL_SELF.ADDR_DONE = 1 ∧
      fget t F.UL_RING.SIZE = ((rosterRing r a.dropLast).map (·.size)).getD 1 % 16 ∧ fget t F.UL_SELF.GATEWAY = g % 4 ∧
      (2 < uplinks r a.dropLast → fget t F.UL_STATUS.CODE = cTopology) ∧
      (∀ p ∈ [0, 1], q = none → mgmtFree s p = true → .roster p r ∈ t.out) ∧
      (∀ p : Fin 3, q = some p → isHead s = false →
        (p = 0 → g = 0 → mgmtFree s 1 = true → .roster 1 r ∈ t.out) ∧ (p = 1 → g = 0 → mgmtFree s 0 = true → .roster 0 r ∈ t.out)))) ∧
  (∀ (i : Fin 3) (x : List Nat) (p : Fin 3) (up : Bool) (s u : State) (r : Roster), u = mgmtTaken s i →
    r = rosterSetPort s.link.roster x p up →
    (r = s.link.roster → up = true ∨ s.link.conflict = false → exec (.topologyUpdate i x p up) s = .next u) ∧
    (r ≠ s.link.roster ∨ (up = false ∧ s.link.conflict = true) →
      (∃ t, exec (.topologyUpdate i x p up) s = .next t ∧ t.link.roster = r ∧ t.link.pos = s.link.pos ∧
        t.link.outq = s.link.outq.filter (fun q => canReach s r (pktDest q.2)) ∧
        (∀ j ∈ updatePorts s i x, mgmtFree s j = true → .topology j x p up ∈ t.out) ∧
        ((∀ f ∈ s.link.flying, canReach s r f.dest = true) → t.link.flying = s.link.flying ∧ t.reqs = s.reqs)) ∧
      (∀ f q, s.link.flying = [f] → canReach s r f.dest = false → f.tok = none → s.reqs = [q] → q.at_ = .away → q.eng = none →
        f.req = some q.id → ∃ t, exec (.topologyUpdate i x p up) s = .next t ∧ t.link.flying = [] ∧
          t.reqs = [{ q with at_ := .done cLinkDown [] }])))

/-- LINK_PACKET_FORWARD (R401, R405 to R408): the packet at the front of a port gives its credits back and is delivered or
sent on in the class of its hop, waiting for room; with no port, this unit's own next packet goes: delivered here,
dropped or ended with LINK_DOWN where there is no way, or sent as flits with numbers, credits and a check; with none
to send, what is owed leaves with an idle flit. PEER_REQUEST (R403): the oldest request is performed and answered
once, refused by its tag, failed by an uncorrectable error, and a second arrival is answered from the record.
PEER_RESPONSE answers the access. TOKEN_DELIVER (R412): a token whose ring is not enabled, is another partition's, has
slots too small or is full is refused and acknowledged with the code, as is one whose ring's access fails (the model's
choice, log 57); any other advances WR. TOKEN_ACK (R413) counts the pair. ENTRY_RING_ENABLE (R411): EN set, WR 0, V0
the fence's value; refused with ER_REFUSED; DISABLE clears EN. RACC_READ, WRITE and RESET (R416) set BUSY and send a
MGMT packet, ignored while BUSY and on a unit other than the head; RESPONSE gives OK and the data, TIMEOUT gives
RACC_TIMEOUT. (spec/12_umram_link.md) -/
def Obligations.LinkTraffic : Prop :=
  (∀ (n c : Nat) (k : LinkPkt) (s : State), (∀ r ∈ s.reqs, r.at_ ≠ .peer) →
    (s.link.outq = [] →
      (LinkQuiet s → exec (.linkPacketForward none n c k) s = .next s) ∧
      (∀ p q b, p < 3 → portUp s p = true → q = portOf s p → (∀ j < p, portUp s j = true → ¬(portOf s j).Owes) → b = leBytes 64 (freeVal s) →
        (q.give = [] → q.acked ≠ q.rxNext → ∃ t, exec (.linkPacketForward none n c k) s = .next t ∧
          t = { s with
            link := t.link
            free := s.free + 1
            out := s.out ++ [.flit p (mkFlit q.tx (q.rxNext + 1023) 0 0 0 b)] } ∧
          portOf t p = { q with acked := q.rxNext }) ∧
        (∀ j m rest, q.give = (j, m) :: rest → q.unacked.length < 512 → ∃ t, exec (.linkPacketForward none n c k) s = .next t ∧
          t = { s with
            link := t.link
            free := s.free + 1
            out := s.out ++ [.flit p (mkFlit q.tx (q.rxNext + 1023) 0 j (min m 63) b)] } ∧
          portOf t p = { q with
            tx := (q.tx + 1) % 1024
            acked := q.rxNext
            unacked := q.unacked ++ [⟨q.tx, 0, (j, min m 63), b, none⟩]
            give := if 63 < m then (j, m - 63) :: rest else rest }))) ∧
    (∀ cls pkt, s.link.outq = [(cls, pkt)] → pktOwnXid (me s) pkt = none → ∀ way, way = rosterRoute s.link.roster (me s) (pktDest pkt) →
      (way = some none → exec (.linkPacketForward none n c k) s = .next { s with
        link := { s.link with outq := [], arrived := s.link.arrived ++ [pkt] } }) ∧
      (way = none → exec (.linkPacketForward none n c k) s = .next { s with link := { s.link with outq := [] } }) ∧
      ∀ p o, way = some (some p) → o = outClass s pkt cls p →
        (tokenShort s p o pkt = true → exec (.linkPacketForward none n c k) s = .next { s with link := { s.link with outq := [] } }) ∧
        (tokenShort s p o pkt = false → canSend s p o pkt = false → LinkQuiet s → exec (.linkPacketForward none n c k) s = .next s) ∧
        ∀ (q : LinkPort) (f : List Byte) (own : LinkPkt) (ret : Nat × Nat), q = portOf s p → own = pktOnClass pkt o →
          tokenShort s p o pkt = false → canSend s p o pkt = true → pktFlits own = [f] → ret = q.give.headD (0, 0) →
          ∃ t, exec (.linkPacketForward none n c k) s = .next t ∧ t.link.outq = [] ∧
            t = { s with
              regs := t.regs
              link := t.link
              out := s.out ++ [.flit p (mkFlit q.tx (q.rxNext + 1023) 1 ret.1 (min ret.2 63) f)] } ∧
            portOf t p = { q with
              tx := (q.tx + 1) % 1024
              acked := q.rxNext
              unacked := q.unacked ++ [⟨q.tx, 1, (ret.1, min ret.2 63), f, some (o, own)⟩]
              give := (if 63 < ret.2 then [(ret.1, ret.2 - 63)] else []) ++ q.give.drop 1
              used := q.used.set o (q.used.getD o 0 + pktCredits own) })) ∧
  (∀ (n c : Nat) (k : LinkPkt) (s : State) (r : Req) (d : List Nat) (a : Nat), s.link.outq = [] → s.link.flying = [] → s.reqs = [r] →
    r.at_ = .peer → peerTarget s (if r.kind = .zero then r.addr / 64 * 64 else r.addr) = some (d, a) →
    (rosterRoute s.link.roster (me s) d = none → exec (.linkPacketForward none n c k) s = .next (reqAnswered s r cLinkDown []) ∧
      (r.eng = none → reqAnswered s r cLinkDown [] = { s with reqs := [{ r with at_ := .done cLinkDown [] }] })) ∧
    ∀ p, rosterRoute s.link.roster (me s) d = some (some p) → ∀ x pkt, x = s.link.nextXid % 65536 →
      pkt = LinkPkt.peerReq d (me s) x a (peerOpOf r.kind) →
      (canSend s p (min r.part 7) pkt = false → LinkQuiet s → exec (.linkPacketForward none n c k) s = .next s) ∧
      (canSend s p (min r.part 7) pkt = true → ∃ t, exec (.linkPacketForward none n c k) s = .next t ∧
        t.reqs = [{ r with at_ := .away }] ∧ t.link.flying = [⟨x, d, p, none, some r.id⟩] ∧ t.link.nextXid = s.link.nextXid + 1 ∧
        t.mem = s.mem ∧ ∃ f ∈ (portOf t p).unacked, f.ends = some (min r.part 7, pkt))) ∧
  (∀ (p : Fin 3) (n c : Nat) (k : LinkPkt) (s : State),
    (frontPkt (portOf s p) n c k = none → exec (.linkPacketForward (some p) n c k) s = .next s) ∧
    ∀ len cls pkt way, frontPkt (portOf s p) n c k = some (len, cls, pkt) → way = rosterRoute s.link.roster (me s) (pktDest pkt) →
      ∀ (q : LinkPort) (o h : Nat), q = portOf s p → h = hopClass s pkt cls p o →
      (way = none → ∃ t, exec (.linkPacketForward (some p) n c k) s = .next t ∧ t = { s with link := t.link } ∧
        portOf t p = { q with rx := q.rx.drop len, give := q.give ++ [(cls, pktCredits pkt)] }) ∧
      (way = some none → (∀ d u x v, pkt ≠ .raccReq d u 3 x v) → ∃ t, exec (.linkPacketForward (some p) n c k) s = .next t ∧
        t = { s with link := t.link } ∧ t.link.arrived = s.link.arrived ++ [pkt] ∧
        portOf t p = { q with rx := q.rx.drop len, give := q.give ++ [(cls, pktCredits pkt)] }) ∧
      (∀ d u x v, way = some none → pkt = .raccReq d u 3 x v → ∃ r, r = { s with link := r.link } ∧
        portOf r p = { q with rx := q.rx.drop len, give := q.give ++ [(cls, pktCredits pkt)] } ∧
        exec (.linkPacketForward (some p) n c k) s = .next (assertSource r 11 0)) ∧
      (way = some (some o) → canSend s o h pkt = false → exec (.linkPacketForward (some p) n c k) s = .next s) ∧
      (way = some (some o) → canSend s o h pkt = true → o ≠ p →
        ∃ t, exec (.linkPacketForward (some p) n c k) s = .next t ∧ t.mem = s.mem ∧
          portOf t p = { q with rx := q.rx.drop len, give := q.give ++ [(cls, pktCredits pkt)] } ∧
          (portOf t o).used.getD h 0 = (if h < (portOf s o).used.length then
            (portOf s o).used.getD h 0 + pktCredits (pktOnClass pkt h) else 0))) ∧
  (∀ (ecc : Ecc) (bad : Bool) (s : State),
    ((∀ q ∈ s.link.arrived, ∀ d u x a op, q ≠ .peerReq d u x a op) → exec (.peerRequest ecc bad) s = .next s) ∧
    ∀ pre post d src x a op kind code, s.link.arrived = pre ++ .peerReq d src x a op :: post →
      (∀ q ∈ pre, ∀ d u x a op, q ≠ .peerReq d u x a op) → kind = reqKindOf op → code = peerCheck s a kind.writes →
      (∀ c b, s.link.outcomes.lookup (src, x) = some (c, b) → ∃ t, exec (.peerRequest ecc bad) s = .next t ∧
        t = { s with
          regs := t.regs
          link := { s.link with arrived := pre ++ post, outq := s.link.outq ++ [(9, .peerResp src (me s) x c b)] } } ∧
        OnlyRegs [R.UL_DUP_DROPPED] s t ∧ rdN t R.UL_DUP_DROPPED = min 0xFFFFFFFF (rdN s R.UL_DUP_DROPPED + 1)) ∧
      (s.link.outcomes.lookup (src, x) = none →
        (∀ m, domAt s a = some m → serves s m = false → exec (.peerRequest ecc bad) s = .next (wakeFor s [m])) ∧
        ((∀ m, domAt s a = some m → serves s m = true) →
          (bad = true → reach s a = .dram ∨ reach s a = .scratch → ∃ t, exec (.peerRequest ecc bad) s = .next t ∧
            t.mem = s.mem ∧ granule a ∈ t.badTags ∧ Raised E.XLAT_EVENT.OTT_UE s t ∧
            t.link.outq = s.link.outq ++ [(9, .peerResp src (me s) x (if reach s a = .scratch ∧ carved s = false then cOwner else cMemUe) [])]) ∧
          (∀ n, bad = false ∨ (reach s a ≠ .dram ∧ reach s a ≠ .scratch) → (code ≠ cOk ∧ n = code) ∨ (code = cOk ∧ badLine s a = true ∧ n = cMemUe) →
            ∃ t, exec (.peerRequest ecc bad) s = .next t ∧ t = { s with link := { s.link with
              arrived := pre ++ post
              outcomes := t.link.outcomes
              outq := s.link.outq ++ [(9, .peerResp src (me s) x n [])] } } ∧
            t.link.outcomes.lookup (src, x) = some (n, [])) ∧
          (bad = false → code = cOk → badLine s a = false →
            (∀ w, kindReads a kind = true → foundEcc s a kind.size ecc = .double w → ∃ t, exec (.peerRequest ecc bad) s = .next t ∧
              t.mem = s.mem ∧ t.link.outq = s.link.outq ++ [(9, .peerResp src (me s) x cMemUe [])]) ∧
            (∀ m, op = .read m → (∀ w, foundEcc s a m ecc ≠ .double w) → ∃ t, exec (.peerRequest ecc bad) s = .next t ∧ t.mem = s.mem ∧
              t.link.outq = s.link.outq ++ [(9, .peerResp src (me s) x cOk (devRead s a m))] ∧
              t.link.outcomes.lookup (src, x) = some (cOk, devRead s a m) ∧
              (foundEcc s a m ecc = .clean → t = { s with link := { s.link with
                arrived := pre ++ post
                outcomes := t.link.outcomes
                outq := s.link.outq ++ [(9, .peerResp src (me s) x cOk (devRead s a m))] } })) ∧
            (∀ bs, op = .write bs → kindReads a kind = false ∨ (∀ w, foundEcc s a kind.size ecc ≠ .double w) →
              ∃ t, exec (.peerRequest ecc bad) s = .next t ∧ t.mem = (devWrite s a bs).mem ∧
              t.link.outq = s.link.outq ++ [(9, .peerResp src (me s) x cOk [])] ∧
              t.link.outcomes.lookup (src, x) = some (cOk, [])) ∧
            (∀ o n v z, op = .rmw o n v z → (∀ w, foundEcc s a kind.size ecc ≠ .double w) → ∃ t, exec (.peerRequest ecc bad) s = .next t ∧
              t.mem = (devWrite s a (leBytes n (rmwValue o n (leNat (devRead s a n)) v z))).mem ∧
              t.link.outq = s.link.outq ++ [(9, .peerResp src (me s) x cOk (leBytes n (leNat (devRead s a n))))]))))) ∧
  (∀ (s : State), ((∀ q ∈ s.link.arrived, ∀ d u x c b, q ≠ .peerResp d u x c b) → exec .peerResponse s = .next s) ∧
    ∀ pre post d u x c b r f, s.link.arrived = pre ++ .peerResp d u x c b :: post → (∀ q ∈ pre, ∀ d u x c b, q ≠ .peerResp d u x c b) →
      s.link.flying.find? (fun f => f.xid == x && f.req.isSome) = some f → f.req = some r.id →
      s.reqs = [r] → r.at_ = .away → ∀ v, v = { s with link := { s.link with
          arrived := pre ++ post
          flying := dropFirst (· == f) s.link.flying } } → exec .peerResponse s = .next (reqAnswered v r c b) ∧
        (r.eng = none → reqAnswered v r c b = { v with reqs := [{ r with at_ := .done c b }] })) ∧
  (∀ (s : State), ((∀ q ∈ s.link.arrived, ∀ b, q ≠ .token b) → exec .tokenDeliver s = .next s) ∧
    ∀ pre post b src x n cid wr rd, s.link.arrived = pre ++ .token b :: post → (∀ q ∈ pre, ∀ b, q ≠ .token b) →
      src = unitAddr (field b 8 3) (bits (field b 11 1) 2 0) → x = field b 26 2 → n = field b 12 1 →
      cid = fget s (F.UL_ER_CFG.CID n) → wr = rdN s (R.UL_ER_WR n) → rd = (erOf s n).rd → ∀ (used : Nat → Nat) (size : Nat) (pg : List HeldPage),
      (∀ r, used r = (wr + 2 ^ 32 - r % 2 ^ 32) % 2 ^ 32) → size = 2 ^ fget s (F.UL_ER_CFG.COUNT_LOG2 n) → pg = heldPages s (.entryRing n) →
      (∀ c l, s.link.outcomes.lookup (src, x) = some (c, l) → ∃ t, exec .tokenDeliver s = .next t ∧
        t = { s with
          regs := t.regs
          link := { s.link with arrived := pre ++ post, outq := s.link.outq ++ [(9, .tokAck src (me s) x c)] } } ∧
        rdN t R.UL_DUP_DROPPED = min 0xFFFFFFFF (rdN s R.UL_DUP_DROPPED + 1)) ∧
      (s.link.outcomes.lookup (src, x) = none → (slotDoms s b).all (serves s) = false →
        exec .tokenDeliver s = .next (wakeFor s (slotDoms s b))) ∧
      (s.link.outcomes.lookup (src, x) = none → (slotDoms s b).all (serves s) = true →
        (fbit s (F.UL_ER_CFG.EN n) = false ∨ bits (field b 7 1) 6 4 ≠ (ctxOf s cid).part ∨
            2 ^ fget s (F.UL_ER_CFG.SLOT_LOG2 n) < 64 * (1 + field b 14 2) →
          ∃ t, exec .tokenDeliver s = .next t ∧ t = { s with
            regs := t.regs
            link := { s.link with
              arrived := pre ++ post
              outcomes := t.link.outcomes
              outq := s.link.outq ++ [(9, .tokAck src (me s) x cEringInvalid)] } } ∧ OnlyRegs [R.UL_TOK_REFUSED] s t ∧
            rdN t R.UL_TOK_REFUSED = min 0xFFFFFFFF (rdN s R.UL_TOK_REFUSED + 1)) ∧
        (fbit s (F.UL_ER_CFG.EN n) = true → bits (field b 7 1) 6 4 = (ctxOf s cid).part →
          64 * (1 + field b 14 2) ≤ 2 ^ fget s (F.UL_ER_CFG.SLOT_LOG2 n) →
          (∀ v e, heldBad s cid pg ((slotRanges s b).filter fun r => r.2.2 || decide (size ≤ used rd)) = some (v, e) →
            ∃ t, exec .tokenDeliver s = .next t ∧ rdN t R.UL_TOK_REFUSED = min 0xFFFFFFFF (rdN s R.UL_TOK_REFUSED + 1) ∧
              t.mem = s.mem ∧ t.link.outq = s.link.outq ++ [(9, .tokAck src (me s) x e)] ∧ t.link.arrived = pre ++ post) ∧
          (∀ r, heldBad s cid pg (slotRanges s b) = none → size ≤ used rd →
            r = leNat (ctxRead s pg (rd64 s (R.UL_ER_RD_LO n) % 2 ^ 48) 4) → size ≤ used r →
            ∃ t, exec .tokenDeliver s = .next t ∧ Raised (E.UL_ER_STATUS.FULL n) s t ∧
              rdN t R.UL_TOK_REFUSED = min 0xFFFFFFFF (rdN s R.UL_TOK_REFUSED + 1) ∧ t.mem = s.mem ∧
              t.link.outq = s.link.outq ++ [(9, .tokAck src (me s) x cEringFull)] ∧ t.link.arrived = pre ++ post) ∧
          (∀ r, (heldBad s cid pg ((slotRanges s b).filter fun r => r.2.2) = none ∧ used rd < size ∧ r = rd) ∨
              (heldBad s cid pg (slotRanges s b) = none ∧ size ≤ used rd ∧ r = leNat (ctxRead s pg (rd64 s (R.UL_ER_RD_LO n) % 2 ^ 48) 4) ∧
                used r < size) →
            ∃ t, exec .tokenDeliver s = .next t ∧ (erOf t n).rd = r ∧ rdN t (R.UL_ER_WR n) = (wr + 1) % 2 ^ 32 ∧
              rdN t R.UL_TOK_DELIVERED = min 0xFFFFFFFF (rdN s R.UL_TOK_DELIVERED + 1) ∧ t.link.arrived = pre ++ post ∧
              t.link.outq = s.link.outq ++ [(9, .tokAck src (me s) x cOk)])))) ∧
  (∀ (s : State), ((∀ q ∈ s.link.arrived, ∀ d u x c, q ≠ .tokAck d u x c) → exec .tokenAck s = .next s) ∧
    ∀ pre post d u x c f uid pr, s.link.arrived = pre ++ .tokAck d u x c :: post → (∀ q ∈ pre, ∀ d u x c, q ≠ .tokAck d u x c) →
      s.link.flying = [f] → f.xid = x → f.tok = some (uid, pr) → ∃ t, exec .tokenAck s = .next t ∧
        t = { s with tensors := t.tensors, link := { s.link with arrived := pre ++ post, flying := [] } } ∧
        t.tensors = mapWhere (·.uid == uid) (fun o => { o with
          sent := dropFirst (· == pr) o.sent
          delivered := o.delivered + b2n (c == cOk)
          undeliv := o.undeliv + b2n (c != cOk)
          firstFail := if c = cOk then o.firstFail else
            some (min ((pr.token * 8 + pr.rank) * 4096 + pr.expert) (o.firstFail.getD ((pr.token * 8 + pr.rank) * 4096 + pr.expert))) })
          s.tensors) ∧
  (∀ (n : Fin 256) (s : State) (cid cnt slot base rd : Nat) (f : Fence) (ranges : List (Nat × Nat × Bool)),
    cid = fget s (F.UL_ER_CFG.CID n) → cnt = fget s (F.UL_ER_CFG.COUNT_LOG2 n) → slot = fget s (F.UL_ER_CFG.SLOT_LOG2 n) →
    base = rd64 s (R.UL_ER_BASE_LO n) % 2 ^ 48 → rd = rd64 s (R.UL_ER_RD_LO n) % 2 ^ 48 →
    f = fenceOf s (fget s (F.UL_ER_FENCE.FENCE n)) → ranges = [(base, 2 ^ (cnt + slot), true), (rd, 4, false)] →
    (domOn s dLink = true → fbit s (F.UL_ER_CFG.EN n) = true → exec (.entryRingEnable n) s = .next s) ∧
    (domOn s dLink = true → fbit s (F.UL_ER_CFG.EN n) = false →
      (cnt < 1 ∨ 12 < cnt ∨ slot < 7 ∨ 13 < slot ∨ ctxLive s cid = false ∨ f.state ≠ .active ∨
          fnOfCid s cid = none ∨ fnOfCid s f.owner ≠ fnOfCid s cid ∨ (∃ c a, ownedScratch s cid ranges = .fault c a) →
        ∃ t, exec (.entryRingEnable n) s = .next t ∧ Raised E.UL_STATUS.ER_REFUSED s t ∧
          fbit t (F.UL_ER_CFG.EN n) = false ∧ t.helds = s.helds ∧ t.mem = s.mem) ∧
      (1 ≤ cnt → cnt ≤ 12 → 7 ≤ slot → slot ≤ 13 → ctxLive s cid = true → (fnOfCid s cid).isSome = true → f.state = .active →
        fnOfCid s f.owner = fnOfCid s cid → ∀ pages, ownedScratch s cid ranges = .ok pages →
        ∃ t, exec (.entryRingEnable n) s = .next t ∧ fbit t (F.UL_ER_CFG.EN n) = true ∧ rdN t (R.UL_ER_WR n) = 0 ∧
          erOf t n = ⟨f.value, leNat (ctxRead s pages rd 4), false⟩ ∧ heldPages t (.entryRing n) = pages ∧ t.mem = s.mem)) ∧
    (domOn s dLink = true → ∃ t, exec (.entryRingDisable n) s = .next t ∧ fbit t (F.UL_ER_CFG.EN n) = false ∧ heldPages t (.entryRing n) = [] ∧
      OnlyRegs [R.UL_ER_CFG n] s t ∧ erOf t n = { erOf s n with asking := false } ∧
      t = { s with regs := t.regs, link := t.link, helds := t.helds })) ∧
  (∀ (s : State) (dest : List Nat), domOn s dLink = true → dest = unitAddr (fget s F.UL_RACC_UNIT.UNIT) (fget s F.UL_RACC_UNIT.DEPTH) →
    ∀ c ∈ [(Instr.raccRead, 1), (Instr.raccWrite, 2), (Instr.raccReset, 3)],
      (fbit s F.UL_RACC_STATUS.BUSY = true ∨ fbit s F.UL_SELF.HEAD = false → exec c.1 s = .next s) ∧
      (fbit s F.UL_RACC_STATUS.BUSY = false → fbit s F.UL_SELF.HEAD = true → ∃ t, exec c.1 s = .next t ∧ fget t F.UL_RACC_STATUS.BUSY = 1 ∧
        OnlyRegs [R.UL_RACC_STATUS] s t ∧ t = { s with
          regs := t.regs
          link := { s.link with
            racc := c.2
            outq := s.link.outq ++ [(8, .raccReq dest (me s) c.2 (rdN s R.UL_RACC_OFF) (rdN s R.UL_RACC_DATA))] } })) ∧
  (∀ (s : State), (fbit s F.UL_RACC_STATUS.BUSY = false → exec .raccTimeout s = .next s) ∧
    (fbit s F.UL_RACC_STATUS.BUSY = true → ∃ t, exec .raccTimeout s = .next t ∧ Alters [R.UL_RACC_STATUS] s t ∧
      fget t F.UL_RACC_STATUS.BUSY = 0 ∧ fget t F.UL_RACC_STATUS.RESULT = cRaccTimeout) ∧
    ((∀ q ∈ s.link.arrived, ∀ d u v, q ≠ .raccResp d u v) → exec .raccResponse s = .next s) ∧
    ∀ pre post d u v, s.link.arrived = pre ++ .raccResp d u v :: post → (∀ q ∈ pre, ∀ d u v, q ≠ .raccResp d u v) →
      (fbit s F.UL_RACC_STATUS.BUSY = false → exec .raccResponse s = .next { s with link := { s.link with arrived := pre ++ post } }) ∧
      (fbit s F.UL_RACC_STATUS.BUSY = true → ∃ t, exec .raccResponse s = .next t ∧
        t = { s with regs := t.regs, link := { s.link with arrived := pre ++ post } } ∧ fget t F.UL_RACC_STATUS.BUSY = 0 ∧
        fget t F.UL_RACC_STATUS.RESULT = cOk ∧ (s.link.racc = 1 → rdN t R.UL_RACC_DATA = v % 2 ^ 32) ∧
        OnlyRegs (if s.link.racc = 1 then [R.UL_RACC_STATUS, R.UL_RACC_DATA] else [R.UL_RACC_STATUS]) s t))

/-- CUE_COMPRESS and CUE_DECOMPRESS (R427, R428): with an engine free, the cue able to start and the next to be placed, a
valid record takes the first free engine, whose registers show it; an invalid one ends with CUE_INVALID and its report
(R431); with both engines busy nothing starts, and a gated transfer domain wakes first (R434). COMPRESS_BLOCK_DONE
(R419, R425, R430): the next source bytes become a block that decodes to them, written padded to 64 bytes with its
offset in the index, or the cue ends with COMP_NO_SPACE and nothing is written. DECOMPRESS_BLOCK_DONE (R424, R429): a
header or payload that is not well formed ends the cue with FORMAT, a wrong CRC with CHECK, too little room with
NO_SPACE, each with its flag and its block in the report; any other block is decoded and written. A page that fails
ends the cue with a fault record of its context (R432); when the input cannot be read, the whole unit names the fault
(R371), the output reaching as far as a block can (the model's choice, log 54). The last block ends the cue OK.
COMPRESS_ABORT (R431): a cue asked to stop leaves its engine, its report is written, and it ends with the code. Every
block that R425 allows has a good header and decodes to its bytes. (spec/13_compression.md; spec/10_stage_manager.md) -/
def Obligations.Compression : Prop :=
  (∀ (mk : Src → Instr) (opc : Nat) (dec : Bool), (mk, opc, dec) ∈ [(Instr.cueCompress, 6, false), (Instr.cueDecompress, 7, true)] →
    ∀ (src : Src) (s n : State) (q : CueRun) (e : Nat),
    (s.comps.any (·.engine == 0) = true → s.comps.any (·.engine == 1) = true → exec (mk src) s = .next s) ∧
    (n = noteAll s (ctxOf s q.cid).part → e < 2 → s.comps.any (·.engine == e) = false →
      (e = 1 → s.comps.any (·.engine == 0) = true) → Starts n (srcOf src) opc q → beingTaken n q.cid .comp [] = false →
      mayPlace n (ctxOf n q.cid).part q.cid (srcOf src) .comp 17 = true →
      (domOn s dXfer = false → exec (mk src) s = .next (meetFence (wakeFor n [dXfer]) (srcOf src))) ∧
      ∀ (u : State) (pages : List HeldPage) (b : List Byte) (run : List Byte → CompRun), domOn s dXfer = true →
      run = (fun b => ⟨q.uid, q.cid, e, dec, b, q.addr, 0, 0, 0, 0⟩) → UnitGoes (started n q) (compEng (run [])) [(q.addr, 64, false)] pages →
      u = unitUsed (started n q) (compEng (run [])) pages [(q.addr, 64, false)] → b = ctxRead u pages q.addr 64 →
      (recordOk dec b q.maxBeats = true → ∃ t, exec (mk src) s = .next (meetFence t (srcOf src)) ∧
        t = { startSlice { u with comps := s.comps ++ [run b] } q.cid with regs := t.regs } ∧
        fget t (F.XFER_E_STATUS.BUSY e) = 1 ∧ fget t (F.XFER_E_STATUS.OP e) = b2n dec ∧
        fget t (F.XFER_E_STATUS.LEVEL e) = (if dec then 0 else zLevel b) ∧ fget t (F.XFER_E_STATUS.CID e) = q.cid % 1024 ∧
        fget t (F.XFER_E_BLOCK.BLOCK e) = 0 ∧ OnlyRegs ([R.XFER_E_STATUS e, R.XFER_E_BLOCK e] ++ xlatRegs) s t) ∧
      (recordOk dec b q.maxBeats = false → ∃ t, exec (mk src) s = .next (meetFence t (srcOf src)) ∧
        t = { u with
          cues := t.cues
          reports := s.reports ++ [⟨q.uid, compEng (run b), zReport b, compReport (run b) 0xFFFFFFFF⟩] } ∧
        CueEnds q.uid cCueInvalid zeroNum u t))) ∧
  (∀ (e : Fin 2) (s : State), (compOn s e false = none → exec (.compressBlockDone e) s = .next s) ∧
    ∀ r n src b, compOn s e false = some r → b = r.raw → n = min 65536 (zSrcLen b - r.used) → src = (zSrc b + r.used, n, false) →
      ∀ (dst ix : Nat) (index : List (Nat × Nat × Bool)), dst = zDst b + r.out → ix = zIndex b + 4 * r.block →
      index = (if zIndex b = 0 then [] else [(ix, 4, true)]) →
      (∀ c a k x, xlateUnit s r.cid [src] = .fault c a →
        xlateUnit s r.cid (src :: (dst, min 65600 (zCap b - r.out), true) :: index) = .fault k x →
        ∃ t, exec (.compressBlockDone e) s = .next t ∧ CompFaults r k x s t) ∧
      ∀ (p : List HeldPage) (u : State) (blk full : List Byte) (outs : List (Nat × Nat × Bool)),
        UnitGoes s (compEng r) [src] p → u = unitUsed s (compEng r) p [src] → blk = mkBlock (zLevel b) (ctxRead s p src.1 n) →
        full = padTo (alignUp blk.length 64) blk → outs = (dst, full.length, true) :: index →
        (zCap b < r.out + full.length → ∃ t, exec (.compressBlockDone e) s = .next t ∧ t.mem = u.mem ∧
          CompFails r cCompSpace (E.XFER_E_EVENT.NO_SPACE e) s t) ∧
        (r.out + full.length ≤ zCap b →
          (∀ c a, xlateUnit s r.cid (src :: outs) = .fault c a →
            ∃ t, exec (.compressBlockDone e) s = .next t ∧ CompFaults r c a s t) ∧
          ∀ (pg : List HeldPage) (w v : State), UnitGoes s (compEng r) (src :: outs) pg → w = unitUsed s (compEng r) pg (src :: outs) →
            v = (if zIndex b = 0 then ctxWrite w (compEng r) pg dst full
              else ctxWrite (ctxWrite w (compEng r) pg dst full) (compEng r) pg ix (leBytes 4 r.out)) →
            ∃ t, exec (.compressBlockDone e) s = .next t ∧ t.mem = v.mem ∧
              CompGoes r { r with
                block := r.block + 1
                used := r.used + n
                out := r.out + full.length
                stored := r.stored + b2n (bType blk == 0) } (R.XFER_E_CBLOCKS e) (b2n (bType blk == 0)) s t)) ∧
  (∀ (e : Fin 2) (s : State), (compOn s e true = none → exec (.decompressBlockDone e) s = .next s) ∧
    ∀ r b src avail, compOn s e true = some r → b = r.raw → src = zSrc b + r.used → avail = zSrcLen b - r.used →
      (avail < 16 → ∃ t, exec (.decompressBlockDone e) s = .next t ∧ t.mem = s.mem ∧
        CompFails r cCompFormat (E.XFER_E_EVENT.FORMAT_ERR e) s t) ∧
      (16 ≤ avail →
        (∀ c a k x, xlateUnit s r.cid [(src, 16, false)] = .fault c a →
          xlateUnit s r.cid [(src, min avail 65552, false), (zDst b + r.out, min 65536 (zCap b - r.out), true)] = .fault k x →
          ∃ t, exec (.decompressBlockDone e) s = .next t ∧ CompFaults r k x s t) ∧
        ∀ (p : List HeldPage) (u : State) (h : List Byte), UnitGoes s (compEng r) [(src, 16, false)] p →
          u = unitUsed s (compEng r) p [(src, 16, false)] → h = ctxRead s p src 16 →
          (compHeaderOk h avail = false → ∃ t, exec (.decompressBlockDone e) s = .next t ∧ t.mem = u.mem ∧
            CompFails r cCompFormat (E.XFER_E_EVENT.FORMAT_ERR e) s t) ∧
          (compHeaderOk h avail = true → ∀ (rs : List (Nat × Nat × Bool)),
            rs = (src, bComp h, false) :: (if r.out + bOrig h ≤ zCap b then [(zDst b + r.out, bOrig h, true)] else []) →
            (∀ c a, xlateUnit s r.cid rs = .fault c a → ∃ t, exec (.decompressBlockDone e) s = .next t ∧ CompFaults r c a s t) ∧
            ∀ (pg : List HeldPage) (w : State) (x : Option (List Byte)),
            UnitGoes s (compEng r) rs pg → w = unitUsed s (compEng r) pg rs → x = codedBlockBytes (ctxRead w pg src (bComp h)) →
            (x = none → ∃ t, exec (.decompressBlockDone e) s = .next t ∧ t.mem = w.mem ∧
              CompFails r cCompFormat (E.XFER_E_EVENT.FORMAT_ERR e) s t) ∧
            ∀ out, x = some out →
              (crc32c out ≠ bCrc h → ∃ t, exec (.decompressBlockDone e) s = .next t ∧ t.mem = w.mem ∧
                CompFails r cCompCheck (E.XFER_E_EVENT.CHECK_ERR e) s t) ∧
              (crc32c out = bCrc h → zCap b < r.out + bOrig h → ∃ t, exec (.decompressBlockDone e) s = .next t ∧ t.mem = w.mem ∧
                CompFails r cCompSpace (E.XFER_E_EVENT.NO_SPACE e) s t) ∧
              (crc32c out = bCrc h → r.out + bOrig h ≤ zCap b → ∃ t, exec (.decompressBlockDone e) s = .next t ∧
                t.mem = (ctxWrite w (compEng r) pg (zDst b + r.out) out).mem ∧
                CompGoes r { r with
                  block := r.block + 1
                  used := r.used + min avail (alignUp (bComp h) 64)
                  out := r.out + bOrig h
                  stored := r.stored + b2n (bType h == 0) } (R.XFER_E_DBLOCKS e) (b2n (bType h == 0)) s t)))) ∧
  (∀ (src : Src) (s : State), (stopOf s (srcOf src) [6, 7] = none → exec (.compressAbort src) s = .next s) ∧
    ∀ c code, stopOf s (srcOf src) [6, 7] = some (c, code) →
      (s.comps.find? (·.uid == c.uid) = none → ∃ t, exec (.compressAbort src) s = .next t ∧
        t = { s with cues := t.cues, stops := s.stops.filter (·.1 != c.uid) } ∧ CueEnds c.uid code zeroNum s t) ∧
      ∀ r, s.comps.find? (·.uid == c.uid) = some r → ∃ t, exec (.compressAbort src) s = .next t ∧
        t.stops = s.stops.filter (·.1 != c.uid) ∧ t.mem = s.mem ∧ CompEnds r code 0xFFFFFFFF s t) ∧
  (∀ (level : Nat) (data : List Byte) (b : List Byte), 1 ≤ data.length → data.length ≤ 65536 → b = mkBlock level data →
    codedBlockBytes b = some data ∧ compHeaderOk b b.length = true ∧ b.length ≤ 16 + data.length)

/-- DOMAIN_GATE (R433, R435) gates an idle domain that nothing holds on, DRAM going to self-refresh with MEMC;
DOMAIN_WAKE_DONE (R434) brings a waking domain up and performs the access that waited. PWR_GREEN_ROOM_REQ,
PWR_DARK_REQ and PWR_SHUTDOWN_REQ (R442, R446) are refused by the first refuser: an armed privileged stream (1), a
device that is not quiet (3), the budget or depth (4), for Dark without retention a context (5); else an entry begins
with the move to OP0, and a shutdown leaves LAST_SHUTDOWN. AUTO_STATE_ENTRY (R443) requests the deepest state allowed.
STATE_ENTRY_COMMIT (R439) gates every domain and enters the state at OP0. PWR_WAKE_REQ and PCIE_L12_EXIT (R440) abort
an entry before its commit point and ask for the exit after it. STATE_EXIT (R440, R443) starts FIO, from Dark the
crystals, releases HOST and MEMC or holds them, and keeps memory but for a Loft without retention. SUPPLY_REMOVAL
(R437) leaves what board, host and fuses hold. (spec/14_power_and_clocks.md; spec/15_reset_boot_security.md) -/
def Obligations.PowerStates : Prop :=
  (∀ (d : Fin 28) (s : State),
    (bit s.pwr.waking d = false → exec (.domainWakeDone d) s = .next s) ∧
    (bit s.pwr.waking d = true → (∀ x ∈ s.waitAcc, waitsFor s d x = false) → ∃ t, exec (.domainWakeDone d) s = .next t ∧
      domOn t d = true ∧ (∀ e < 28, e ≠ d.val → domOn t e = domOn s e) ∧
      t = { s with
        regs := t.regs
        pwr := { s.pwr with waking := putBits s.pwr.waking d d 0, gated := putBits s.pwr.gated d d 0 } } ∧
      OnlyRegs [R.PWR_DOMAIN_ON, R.PWR_STATE, R.MEMC_STATE, R.UL_P_STATE 0, R.UL_P_STATE 1, R.UL_P_STATE 2] s t ∧
      (d.val = dLink → ∀ p < 3, portState s p = pDown → mayTrain t p = true → portState t p = pTraining)) ∧
    (∀ x, bit s.pwr.waking d = true → s.waitAcc = [x] → waitsFor s d x = true → ∃ u, domOn u d = true ∧
      u = { s with
        regs := u.regs
        pwr := { s.pwr with waking := putBits s.pwr.waking d d 0, gated := putBits s.pwr.gated d d 0 }
        waitAcc := [] } ∧
      exec (.domainWakeDone d) s = .next (performAcc u x)) ∧
    (domOn s d = false ∨ pIdle < pwrState s ∨ bit (fget s F.PWR_AUTO.MASK) 0 = false ∨ bit (fget s F.PWR_DOMAIN_KEEP.KEEP) d = true ∨
        heldOn s d = true ∨ domBusy s d = true ∨ fitsBudget s (wakeLatency d) = false → exec (.domainGate d) s = .next s) ∧
    (domOn s d = true → pwrState s ≤ pIdle → bit (fget s F.PWR_AUTO.MASK) 0 = true → bit (fget s F.PWR_DOMAIN_KEEP.KEEP) d = false →
      heldOn s d = false → domBusy s d = false → fitsBudget s (wakeLatency d) = true → ∃ t, exec (.domainGate d) s = .next t ∧
        domOn t d = false ∧ (∀ e < 28, e ≠ d.val → domOn t e = domOn s e) ∧ pwrState t = pIdle ∧
        (d.val = dMemc → fbit s F.MEMC_STATE.TRAINED = true → fbit t F.MEMC_STATE.SELF_REFRESH = true) ∧
        t = { s with regs := t.regs, pwr := { s.pwr with gated := t.pwr.gated } } ∧ bit t.pwr.gated d = true ∧
        OnlyRegs [R.PWR_DOMAIN_ON, R.PWR_STATE, R.MEMC_STATE] s t)) ∧
  (∀ (mk : Bool → Instr) (target : Nat), (mk, target) ∈ [(Instr.pwrGreenRoomReq, pGreen), (Instr.pwrDarkReq, pDark)] →
    ∀ (link : Bool) (s : State) (busy : Bool), busy = (!quiet s link || s.pwr.entry.isSome || s.pwr.move.isSome || decide (pIdle < pwrState s)) →
      (pwrState s = pOff → exec (mk link) s = .next s) ∧
      (pwrState s ≠ pOff →
        (armedPriv s ≠ [] → ∃ t, exec (mk link) s = .next t ∧ PowerRefused 1 0 target cStateRefused s t ∧ t.pwr = s.pwr) ∧
        (armedPriv s = [] → busy = true → ∃ t, exec (mk link) s = .next t ∧ PowerRefused 3 0 target cStateRefused s t ∧
          t.pwr = s.pwr) ∧
        (armedPriv s = [] → busy = false →
          (fitsBudget s (exitUs s target) = false ∨ depth s < target → ∃ t, exec (mk link) s = .next t ∧
            PowerRefused 4 0 target cStateRefused s t ∧ t.pwr = s.pwr) ∧
          (fitsBudget s (exitUs s target) = true → target ≤ depth s →
            (target = pDark → fbit s F.PWR_DARK_CFG.LOFT_RET = false → anyContext s = true → ∃ t, exec (mk link) s = .next t ∧
              PowerRefused 5 0 target cStateRefused s t ∧ t.pwr = s.pwr) ∧
            (target = pGreen ∨ fbit s F.PWR_DARK_CFG.LOFT_RET = true ∨ anyContext s = false →
              (fget s F.PWR_STATE.CUR_OP = 0 → exec (mk link) s = .next { s with
                pwr := { s.pwr with entry := some ⟨target, false⟩, req := 8, goal := 0 } }) ∧
              (fget s F.PWR_STATE.CUR_OP ≠ 0 → ∃ t, exec (mk link) s = .next t ∧ t.pwr.entry = some ⟨target, false⟩ ∧
                t.pwr.move.isSome = true ∧ fget t F.PWR_STATE.TARGET_OP = 0 ∧ fget t F.PWR_STATE.CUR_OP = 0 ∧
                fget t F.PWR_STATE.MOVING = 1 ∧ OnlyRegs [R.PWR_STATE] s t)))))) ∧
  (∀ (ms : Fin 1000) (s : State), (pwrState s = pOff → exec (.pwrShutdownReq ms) s = .next s) ∧
    (pwrState s ≠ pOff → armedPriv s ≠ [] → ∃ t, exec (.pwrShutdownReq ms) s = .next t ∧
      PowerRefused 1 0 pOff cStateRefused s t ∧ t.pwr = s.pwr ∧ t.boot = s.boot) ∧
    (pwrState s ≠ pOff → armedPriv s = [] →
      (quiet s true = false ∨ s.pwr.entry.isSome = true ∨ s.pwr.move.isSome = true ∨ pIdle < pwrState s →
        ∃ t, exec (.pwrShutdownReq ms) s = .next t ∧ PowerRefused 3 0 pOff cStateRefused s t ∧ t.pwr = s.pwr ∧ t.boot = s.boot) ∧
      (quiet s true = true → s.pwr.entry = none → s.pwr.move = none → pwrState s ≤ pIdle →
        ∃ t, exec (.pwrShutdownReq ms) s = .next t ∧ t.pwr.entry = some ⟨pOff, false⟩ ∧ t.boot = { s.boot with lastShutdown := 1 } ∧
          t.mem = s.mem ∧ ((s.recorder.rates.all fun r => r.suppressed == 0) = true → t.recorder = s.recorder)))) ∧
  (∀ (s : State), (s.pwr.refHold = false → ∃ t, exec .pcieL12Exit s = .next t ∧ exec .pwrWakeReq s = .next t) ∧
    (s.pwr.refHold = true → ∃ t, exec .pcieL12Exit s = .next t ∧ t.pwr.refHold = false ∧ t.pwr.refBad = 0 ∧ t.mem = s.mem ∧
      exec .pwrWakeReq { s with pwr := { s.pwr with refHold := false, refBad := 0 } } = .next t)) ∧
  (∀ (s : State),
    (s.pwr.entry = none → pwrState s = pGreen ∨ pwrState s = pDark → exec .pwrWakeReq s = .next { s with pwr := { s.pwr with wake := true } }) ∧
    (s.pwr.entry = none → pwrState s ≠ pGreen → pwrState s ≠ pDark → exec .pwrWakeReq s = .next s) ∧
    ∀ e, s.pwr.entry = some e →
      (e.committed = true → exec .pwrWakeReq s = .next { s with pwr := { s.pwr with wake := true } }) ∧
      (e.committed = false → (∃ t, exec .pwrWakeReq s = .next t ∧ t.pwr.entry = none ∧ t.mem = s.mem) ∧
        (s.pwr.move.isSome = true ∨ fbit s F.PWR_STATE.HELD = true → ∃ t, exec .pwrWakeReq s = .next t ∧
          PowerRefused 8 0 e.target cStateRefused s t ∧ t.pwr = { s.pwr with entry := none, req := 8 }))) ∧
  (∀ (link : Bool) (s : State) (may : Nat → Bool), (∀ t, may t = (decide (t ≤ depth s) && bit (fget s F.PWR_AUTO.MASK) (t - 1) &&
      fitsBudget s (exitUs s t))) →
    (quiet s link = false ∨ s.pwr.entry.isSome = true ∨ s.pwr.move.isSome = true ∨ pIdle < pwrState s ∨
        (may pDark = false ∧ may pGreen = false) → exec (.autoStateEntry link) s = .next s) ∧
    (quiet s link = true → s.pwr.entry = none → s.pwr.move = none → pwrState s ≤ pIdle →
      (may pDark = true → exec (.autoStateEntry link) s = exec (.pwrDarkReq link) s) ∧
      (may pDark = false → may pGreen = true → exec (.autoStateEntry link) s = exec (.pwrGreenRoomReq link) s))) ∧
  (∀ (s : State), (s.pwr.entry = none ∨ s.pwr.move.isSome = true ∨ fget s F.PWR_STATE.CUR_OP ≠ 0 → exec .stateEntryCommit s = .next s) ∧
    ∀ e, s.pwr.entry = some e → (e.committed = true → exec .stateEntryCommit s = .next s) ∧
      (e.committed = false → s.pwr.move = none → fget s F.PWR_STATE.CUR_OP = 0 → ∃ t, exec .stateEntryCommit s = .next t ∧
        fget t F.PWR_DOMAIN_ON.ON = 0 ∧ (∀ l ∈ (cacheOf t 0).lines, l.dirty = 0 ∨ l.bad = true) ∧
        ((∀ l ∈ (cacheOf s 0).lines, l.dirty = 0) → t.mem = s.mem) ∧
        (fbit s F.MEMC_STATE.TRAINED = true → fbit t F.MEMC_STATE.SELF_REFRESH = true) ∧
        (∀ g, g = s.pwr.gated ||| fget s F.PWR_DOMAIN_ON.ON →
        (e.target = pOff → t.pwr = { s.pwr with entry := some { e with committed := true }, gated := g } ∧ pwrState t = pwrState s) ∧
        (e.target = pGreen → pwrState t = pGreen ∧ t.tc = [] ∧ t.wc = [] ∧ t.fio = false ∧
          t.pwr = { s.pwr with entry := none, hits := 0, sampling := false, gated := g } ∧ (∀ n < 6, locked t n = false) ∧
          t.boot = { s.boot with balls := s.boot.balls.set 4 2 }) ∧
        (e.target = pDark → pwrState t = pDark ∧ t.tc = [] ∧ t.wc = [] ∧ t.fio = false ∧ t.boot = s.boot ∧
          t.pwr = { s.pwr with entry := none, hits := 0, sampling := false, xa := Xtal.off, xb := Xtal.off, gated := g } ∧
          fbit t F.CLK_SRC_STATUS.XA_OK = false ∧ fbit t F.CLK_SRC_STATUS.XB_OK = false ∧ ∀ n < 6, locked t n = false)))) ∧
  (∀ (loft : List (Fin 0x4000000 × Byte)) (s : State),
    (s.pwr.wake = false ∨ (pwrState s ≠ pGreen ∧ pwrState s ≠ pDark) → exec (.stateExit loft) s = .next s) ∧
    (s.pwr.wake = true → pwrState s = pGreen ∨ pwrState s = pDark → ∃ t, exec (.stateExit loft) s = .next t ∧
      t.fio = true ∧ t.pwr.wake = false ∧ t.pwr.sampling = false ∧ pwrState t ≤ pIdle ∧
      (relReady s dHost = true → domOn t dHost = true) ∧
      (relReady s dHost = false → bit (fget t F.RST_PENDING.PENDING) dHost = true ∧ fbit t F.RST_EVENT.HELD = true) ∧
      (locked s 0 = true → domOn t dMemc = true) ∧ (locked s 0 = false → bit (fget t F.RST_PENDING.PENDING) dMemc = true) ∧
      (pwrState s = pGreen → t.mem = s.mem ∧ t.pwr.xa = s.pwr.xa ∧ t.pwr.xb = s.pwr.xb) ∧
      (pwrState s = pDark → t.pwr.xa = { Xtal.off with st := .delay } ∧ t.pwr.xb = { Xtal.off with st := .delay } ∧
        (fbit s F.PWR_DARK_CFG.LOFT_RET = true → t.mem = s.mem) ∧
        (fbit s F.PWR_DARK_CFG.LOFT_RET = false → (cacheOf t 0).lines = [] ∧ (mwf 0 s.mem = true →
          (∀ x, 64 * mib ≤ x → memByte t x = memByte s x) ∧ (loft = [] → ∀ x < 64 * mib, memByte t x = 0)))))) ∧
  (∀ (s : State), exec .supplyRemoval s = .next { State.reset with
    pending := s.pending
    bus := s.bus
    free := s.free
    mem := s.mem.filter fun p => decide (hostBase ≤ p.1)
    out := s.out
    flash := s.flash
    boot := { BootSt.off with fuses := s.boot.fuses, loftBad := s.boot.loftBad } })

/-- PWR_OP_REQ_WRITE and PWR_VOTE_WRITE (R441, R447): the register takes its value, and a requested point that has changed
is refused below the floor (1) or above the part (2), curtailed by the cap (6), or moved to; a move, a held point or
an entry defers it. AVS_FRAME_ACK (R449): a good answer acknowledges the first step of its rail, a bad one resends it
up to 3 times, a transition-rate frame first. AVS_STATUS_POLL: a step done leaves, and with the last the edge clocks
follow. AVS_STEP_TIMEOUT (R450): HELD at the lower point, NO_ACK by refuser 7; HELD_POLL writes the held point's
voltages. OP_MOVE_DONE: CUR_OP is the target. DRAM_RATE_SWITCH (R451), with the queue drained and the lowest enabled
output in blanking: self-refresh and ML0 unlocked; its DONE: the new rate, and a move down writes its voltages.
THERMAL_CAP_STEP (R452): TJ is shown; above CAP_TEMP the cap falls a point, not below the floor, with THROTTLE; below
RELEASE it rises. GR_PERIOD_TICK (R445): FIO and the Pit wake for a sample; GR_SAMPLE_DONE: the peak is shown (0 from
a port not set up: the model's choice), hits in a row are a wake event, by PME or with WAKE_N held low, else both
stop. (spec/14_power_and_clocks.md) -/
def Obligations.OperatingPoints : Prop :=
  (∀ (c : Instr) (s u : State) (r : Nat), ((∃ op : BitVec 3, c = .pwrOpReqWrite op ∧ u = fset s F.PWR_OP_REQ.OP op.toNat) ∨
      ∃ (fn : Fin 32) (a b : BitVec 3), c = .pwrVoteWrite fn a b ∧
        u = fset (fset s (F.PWR_VOTE.OP_MIN fn) a.toNat) (F.PWR_VOTE.DEEPEST fn) b.toNat) →
    r = (onesOf 32 (rdN u R.PWR_VOTE_MASK)).foldl (fun m f => max m (fget u (F.PWR_VOTE.OP_MIN f))) (fget u F.PWR_OP_REQ.OP) →
    (s.pwr.move.isSome = true ∨ fbit s F.PWR_STATE.HELD = true ∨ s.pwr.entry.isSome = true ∨ bootState s = bLights ∨ r = s.pwr.req →
      exec c s = .next u) ∧
    (s.pwr.move = none → fbit s F.PWR_STATE.HELD = false → s.pwr.entry = none → bootState s ≠ bLights → r ≠ s.pwr.req →
      (r < floorPoint s → ∃ t, exec c s = .next t ∧ PowerRefused 1 1 r cOpRefused u t ∧ t.pwr = { s.pwr with req := r }) ∧
      (floorPoint s ≤ r → maxPoint s < r → ∃ t, exec c s = .next t ∧ PowerRefused 2 1 r cOpRefused u t ∧
        t.pwr = { s.pwr with req := r }) ∧
      (floorPoint s ≤ r → r ≤ maxPoint s → ∃ t, exec c s = .next t ∧ t.pwr.req = r ∧ t.pwr.goal = r ∧
        MovesTo (min r (fget s F.PWR_STATE.CAP_OP)) u t ∧
        (fget s F.PWR_STATE.CAP_OP < r → PowerRefused 6 1 r cOpRefused u t)))) ∧
  (∀ (rail : Fin 2) (good : Bool) (s : State) (i n : Nat), s.pwr.slews.find? (·.1 == rail.val) = some (i, n) →
    (good = true ∨ 3 ≤ n → exec (.avsFrameAck rail good) s = .next { s with
      pwr := { s.pwr with slews := s.pwr.slews.filter (·.1 != rail.val) } }) ∧
    (good = false → n < 3 → exec (.avsFrameAck rail good) s = .next { s with
      pwr := { s.pwr with slews := s.pwr.slews.filter (·.1 != rail.val) ++ [(rail.val, n + 1)] }
      out := s.out ++ [.avsSlew (railSel s rail) (fget s F.PWR_AVS_CFG.SLEW)] })) ∧
  (∀ (rail : Fin 2) (good : Bool) (s : State), (∀ x ∈ s.pwr.slews, x.1 ≠ rail) → ((∀ x ∈ stepsOf s, x.rail ≠ rail.val ∨ x.acked = true) →
      exec (.avsFrameAck rail good) s = .next s) ∧
    ∀ pre post x, stepsOf s = pre ++ x :: post → (∀ y ∈ pre, y.rail ≠ rail.val ∨ y.acked = true) → x.rail = rail.val → x.acked = false →
      (good = true → exec (.avsFrameAck rail good) s = .next { s with
        pwr := s.pwr.withSteps (pre ++ { x with acked := true } :: post) }) ∧
      (good = false → x.resent < 3 → exec (.avsFrameAck rail good) s = .next { s with
        pwr := s.pwr.withSteps (pre ++ { x with resent := x.resent + 1 } :: post)
        out := s.out ++ [.avs (railSel s rail) x.mv] }) ∧
      (good = false → 3 ≤ x.resent → exec (.avsFrameAck rail good) s = .next s)) ∧
  (∀ (core loft : Bool) (mv : BitVec 16) (s : State) (left : List AvsStep),
    left = (stepsOf s).filter (fun x => !(x.acked && if x.rail = 0 then core else loft)) →
    (left = stepsOf s → exec (.avsStatusPoll core loft mv) s = .next s) ∧
    (left ≠ stepsOf s → ∃ t, exec (.avsStatusPoll core loft mv) s = .next t ∧ fget t F.PWR_AVS_STATUS.MV = mv.toNat ∧
      (left ≠ [] → t = { s with regs := t.regs, pwr := s.pwr.withSteps left } ∧ OnlyRegs [R.PWR_AVS_STATUS] s t) ∧
      (∀ m, left = [] → s.pwr.move = some m → t = { s with
        regs := t.regs
        pwr := { s.pwr with move := some { m with
          steps := []
          clocks := if m.clocks ≠ .no then m.clocks
            else if dramRate m.src ≠ dramRate m.dst ∧ fbit s F.MEMC_STATE.TRAINED = true then .due else .set } } }) ∧
      (left = [] → s.pwr.move = none → fbit s F.PWR_STATE.HELD = true → fbit t F.PWR_STATE.HELD = false ∧
        (s.pwr.entry.isSome = true → t.pwr = { s.pwr with heldSteps := [] }) ∧
        (requestedPoint s = s.pwr.req → s.pwr.entry = none → MovesTo (min s.pwr.goal (fget s F.PWR_STATE.CAP_OP)) s t)))) ∧
  (∀ (s : State), (stepsOf s = [] → exec .avsStepTimeout s = .next s) ∧
    (stepsOf s ≠ [] → s.pwr.move = none → ∃ t, exec .avsStepTimeout s = .next t ∧
      t = { s with regs := t.regs, pwr := { s.pwr with heldSteps := [] } } ∧
      fget t F.PWR_AVS_STATUS.TIMEOUTS = min 0xFFFF (fget s F.PWR_AVS_STATUS.TIMEOUTS + 1)) ∧
    ∀ m, stepsOf s ≠ [] → s.pwr.move = some m → ∃ t, exec .avsStepTimeout s = .next t ∧
      t.pwr = { s.pwr with move := none, goal := min m.src m.dst } ∧ fbit t F.PWR_STATE.HELD = true ∧ fbit t F.PWR_STATE.MOVING = false ∧
      Raised E.PWR_STATUS.HELD s t ∧ PowerRefused 7 1 m.dst cNoAck s t ∧
      fget t F.PWR_AVS_STATUS.TIMEOUTS = min 0xFFFF (fget s F.PWR_AVS_STATUS.TIMEOUTS + 1)) ∧
  (∀ (good : Bool) (s : State) (op : Nat), op = fget s F.PWR_STATE.CUR_OP →
    (fbit s F.PWR_STATE.HELD = false ∨ good = false ∨ s.pwr.heldSteps ≠ [] ∨ s.pwr.move.isSome = true → exec (.heldPoll good) s = .next s) ∧
    (fbit s F.PWR_STATE.HELD = true → good = true → s.pwr.heldSteps = [] → s.pwr.move = none → exec (.heldPoll good) s = .next { s with
      pwr := { s.pwr with heldSteps := [⟨0, vCore op, 0, false, false⟩, ⟨1, vLoft op, 0, false, false⟩] }
      out := s.out ++ [.avs (railSel s 0) (vCore op), .avs (railSel s 1) (vLoft op)] })) ∧
  (∀ (s : State), (s.pwr.move = none → exec .opMoveDone s = .next s ∧ exec .dramRateSwitch s = .next s ∧
      exec .dramRateSwitchDone s = .next s) ∧
    ∀ m, s.pwr.move = some m →
      (m.clocks ≠ .set ∨ m.written = false ∨ m.steps ≠ [] → exec .opMoveDone s = .next s) ∧
      (m.clocks = .set → m.written = true → m.steps = [] →
        s.pwr.entry.isSome = true ∨ (fbit s F.PWR_STATE.HELD = false ∧ requestedPoint s = s.pwr.req ∧
          min s.pwr.goal (fget s F.PWR_STATE.CAP_OP) = m.dst) → m.dst < 8 →
        ∃ t, exec .opMoveDone s = .next t ∧ t = { s with regs := t.regs, pwr := { s.pwr with move := none } } ∧
          fget t F.PWR_STATE.CUR_OP = m.dst ∧ fget t F.PWR_STATE.MOVING = 0 ∧ OnlyRegs [R.PWR_STATE, R.CLK_ML_FREQ 0] s t ∧
          (locked s 0 = true → fget t (F.CLK_ML_FREQ.KHZ 0) = dramRate m.dst * 500)) ∧
      (m.clocks ≠ .due ∨ switchReady s = false → exec .dramRateSwitch s = .next s) ∧
      (m.clocks = .due → switchReady s = true → ∃ t, exec .dramRateSwitch s = .next t ∧
        t = { s with regs := t.regs, pwr := { s.pwr with move := some { m with clocks := .switching } } } ∧
        OnlyRegs [R.MEMC_STATE, R.CLK_ML_FREQ 0] s t ∧ fbit t F.MEMC_STATE.SELF_REFRESH = true ∧
        fbit t F.MEMC_STATE.SWITCHING = true ∧ locked t 0 = false) ∧
      (m.clocks ≠ .switching → exec .dramRateSwitchDone s = .next s) ∧
      (m.clocks = .switching → ∀ l, l = (if m.written then m.steps else avsSteps m.src m.dst) →
        ∃ t, exec .dramRateSwitchDone s = .next t ∧ t = { s with
            regs := t.regs
            out := if m.written then s.out else s.out ++ l.map fun x => .avs (railSel s x.rail) x.mv
            pwr := { s.pwr with move := some { m with clocks := .set, written := true, steps := l } } } ∧
          fbit t F.MEMC_STATE.SELF_REFRESH = false ∧ fbit t F.MEMC_STATE.SWITCHING = false ∧ locked t 0 = true ∧
          fget t F.MEMC_CFG.MTS = dramRate m.dst ∧ fget t (F.CLK_ML_FREQ.KHZ 0) = dramRate m.dst * 500)) ∧
  (∀ (tj : BitVec 8) (s : State) (cap : Nat), cap = fget s F.PWR_STATE.CAP_OP →
    ∃ t, exec (.thermalCapStep tj) s = .next t ∧ fget t F.PWR_THERM.TJ = tj.toNat ∧ t.mem = s.mem ∧
      (sx 8 (fget s F.PWR_THERM_CFG.CAP_TEMP) < tj.toInt →
        (cap ≤ floorPoint s → Alters [R.PWR_THERM] s t) ∧
        (floorPoint s < cap → fget t F.PWR_STATE.CAP_OP = cap - 1 ∧ Raised E.PWR_STATUS.THROTTLE s t ∧
          (s.pwr.move = none → fbit s F.PWR_STATE.HELD = false → s.pwr.entry = none → MovesTo (min s.pwr.goal (cap - 1)) s t))) ∧
      (tj.toInt ≤ sx 8 (fget s F.PWR_THERM_CFG.CAP_TEMP) →
        (tj.toInt < sx 8 (fget s F.PWR_THERM_CFG.RELEASE) → cap < maxPoint s → fget t F.PWR_STATE.CAP_OP = cap + 1 ∧
          (s.pwr.move = none → fbit s F.PWR_STATE.HELD = false → s.pwr.entry = none → MovesTo (min s.pwr.goal (cap + 1)) s t)) ∧
        (sx 8 (fget s F.PWR_THERM_CFG.RELEASE) ≤ tj.toInt ∨ maxPoint s ≤ cap → Alters [R.PWR_THERM] s t))) ∧
  (∀ (s : State), (pwrState s ≠ pGreen ∨ s.pwr.sampling = true ∨ s.pwr.wake = true → exec .grPeriodTick s = .next s) ∧
    (pwrState s = pGreen → s.pwr.sampling = false → s.pwr.wake = false → ∃ t, exec .grPeriodTick s = .next t ∧ domOn t dPit = true ∧
      t = { s with regs := t.regs, fio := true, pwr := { s.pwr with sampling := true, gated := t.pwr.gated } } ∧
      OnlyRegs [R.PWR_DOMAIN_ON] s t)) ∧
  (∀ (b : List (BitVec 32)) (s : State) (peak hits : Nat),
    peak = ((if grHears s then b.take (8 * 2 ^ fget s F.PWR_GR_CFG.BLOCK) else []).map fun v => min v.toInt.natAbs (2 ^ 31 - 1)).foldl max 0 →
    hits = (if fget s F.PWR_GR_THRESH.THRESH ≤ peak then s.pwr.hits + 1 else 0) →
    (s.pwr.sampling = false → exec (.grSampleDone b) s = .next s) ∧
    (s.pwr.sampling = true → ∃ t, exec (.grSampleDone b) s = .next t ∧ fget t F.PWR_GR_PEAK.PEAK = peak ∧
      t.pwr.hits = hits ∧ t.pwr.sampling = false ∧
      (hits ≠ fget s F.PWR_GR_CFG.HITS + 1 → domOn t dPit = false ∧ t.fio = false ∧ t.out = s.out) ∧
      (hits = fget s F.PWR_GR_CFG.HITS + 1 → Raised E.PWR_STATUS.GR_HIT s t ∧
        (if fbit s F.PWR_GR_CFG.WAKE_SEL then .pme else .wake true) ∈ t.out ∧
        (fbit s F.PWR_GR_CFG.WAKE_SEL = false → t.pwr.wakeLow = true) ∧
        (s.pwr.entry = none → pwrState s = pGreen → t.pwr.wake = true ∧ t.fio = s.fio))))

/-- FIO_TRIM (R455, R480) takes the code against a good crystal, and shows FIO not trimmed without one. OSC_DELAY_EXPIRE
(R456): a crystal in its delay is judged from then on. XTAL_START_TIMEOUT (R457): a crystal in its delay or judged has
failed, its flag set and its loops moved to the other, unlocked, with FAILOVER; when that has failed too, a double
clock-source loss (source 8) holds the start, and a retry that fails resets nothing more. CRYSTAL_RESTART (R462)
starts both crystals again while it does. REFCLK_WINDOW_END (R458): a window of fewer than 64 or more than 200 edges
is bad, two in a row clear REFCLK_OK, set REFCLK_LOST and are reset source 9; a good one sets it; nothing is counted
while CLKREQ is released. CLKREQ_RELEASE suspends the count while the link is in L1.2, and CLKREQ_ASSERT resumes it
afresh. (spec/14_power_and_clocks.md; spec/05_the_pit.md) -/
def Obligations.ClocksAndCrystals : Prop :=
  (∀ (trim : BitVec 10) (s : State),
    (s.pwr.xa.st = .good ∨ s.pwr.xb.st = .good → ∃ t, exec (.fioTrim trim) s = .next t ∧
      Alters [R.CLK_FIO_TRIM, R.CLK_SRC_STATUS] s t ∧ fget t F.CLK_FIO_TRIM.TRIM = trim.toNat ∧ fget t F.CLK_SRC_STATUS.FIO_TRIMMED = 1) ∧
    (s.pwr.xa.st ≠ .good → s.pwr.xb.st ≠ .good → ∃ t, exec (.fioTrim trim) s = .next t ∧
      Alters [R.CLK_SRC_STATUS] s t ∧ fget t F.CLK_SRC_STATUS.FIO_TRIMMED = 0)) ∧
  (∀ (x : Fin 2) (s : State),
    ((xtal s x).st ≠ .delay → exec (.oscDelayExpire x) s = .next s) ∧
    ((xtal s x).st = .delay → ∃ t, exec (.oscDelayExpire x) s = .next t ∧ t = { s with pwr := t.pwr } ∧
      xtal t x = ⟨.judged, 0, 0⟩ ∧ xtal t (1 - x.val) = xtal s (1 - x.val) ∧ t.pwr.move = s.pwr.move) ∧
    ((xtal s x).st ≠ .delay → (xtal s x).st ≠ .judged → exec (.xtalStartTimeout x) s = .next s) ∧
    ((xtal s x).st = .delay ∨ (xtal s x).st = .judged →
      ((xtal s (1 - x.val)).st ≠ .failed → ∃ t, exec (.xtalStartTimeout x) s = .next t ∧ xtal t x = ⟨.failed, 0, 0⟩ ∧
        xtal t (1 - x.val) = xtal s (1 - x.val) ∧ fbit t (xtalOk x) = false ∧
        Raised (if x.val = 0 then E.CLK_EVENT.XA_FAIL else E.CLK_EVENT.XB_FAIL) s t ∧ Raised E.CLK_EVENT.FAILOVER s t ∧
        (∀ n < 6, loopXtal t n = 1 - x.val) ∧ (∀ n < 6, loopXtal s n = x.val → locked t n = false) ∧
        (∀ n < 6, loopXtal s n ≠ x.val → locked t n = locked s n) ∧ t.mem = s.mem) ∧
      ((xtal s (1 - x.val)).st = .failed → ∃ u, (∃ t, exec (.xtalStartTimeout x) s = .next t ∧ t.pwr.lost = true ∧
          (s.pwr.lost = false → t = { assertSource u 8 0 with pwr := t.pwr }) ∧ (s.pwr.lost = true → t = u)) ∧ fbit u (xtalOk x) = false ∧ fget u F.CLK_SRC_STATUS.FIO_TRIMMED = 0 ∧
        Raised (if x.val = 0 then E.CLK_EVENT.XA_FAIL else E.CLK_EVENT.XB_FAIL) s u ∧ xtal u x = ⟨.failed, 0, 0⟩))) ∧
  (∀ (s : State), (s.pwr.lost = false → exec .crystalRestart s = .next s) ∧
    (s.pwr.lost = true → exec .crystalRestart s = .next { s with
      pwr := { s.pwr with xa := { Xtal.off with st := .delay }, xb := { Xtal.off with st := .delay } } }) ∧
    exec .clkreqAssert s = .next { s with pwr := { s.pwr with refHold := false, refBad := 0 } } ∧
    exec (.clkreqRelease true) s = .next { s with pwr := { s.pwr with refHold := true } } ∧ exec (.clkreqRelease false) s = .next s) ∧
  (∀ (edges : Nat) (s : State), (s.pwr.refHold = true → exec (.refclkWindowEnd edges) s = .next s) ∧
    (s.pwr.refHold = false →
      (64 ≤ edges → edges ≤ 200 → ∃ t, exec (.refclkWindowEnd edges) s = .next t ∧ fget t F.CLK_SRC_STATUS.REFCLK_OK = 1 ∧
        t = { s with regs := t.regs, pwr := { s.pwr with refBad := 0 } } ∧ OnlyRegs [R.CLK_SRC_STATUS] s t) ∧
      (edges < 64 ∨ 200 < edges → s.pwr.refBad ≠ 1 → exec (.refclkWindowEnd edges) s = .next { s with
        pwr := { s.pwr with refBad := min (s.pwr.refBad + 1) 2 } }) ∧
      (edges < 64 ∨ 200 < edges → s.pwr.refBad = 1 → ∃ u, exec (.refclkWindowEnd edges) s = .next (assertSource u 9 0) ∧
        fget u F.CLK_SRC_STATUS.REFCLK_OK = 0 ∧ Raised E.CLK_EVENT.REFCLK_LOST s u ∧ u.pwr = { s.pwr with refBad := 2 } ∧
        u.mem = s.mem)))

/-- Each source asserts at the level its REACH entry selects (R460, R461): RESET_N_ASSERT 1, PERST_ASSERT 2,
PCIE_HOT_RESET 3, FLR_PF 4, FLR_VF 5, SDIO_CCCR_RES 6, SDIO_FULL_RESET with its key 7, THERMAL_TRIP 10,
WATCHDOG_EXPIRE or a wrong WDOG_KICK 12, RST_FW_REQ 13 at the level it names, no wider than its entry. NONE only
counts, as all but sources 0 and 1 do in OFF_READY (R442); a reset no wider than the one in progress is absorbed,
RST_CAUSE showing the lower index of two in one SIO cycle (R463); L3 restores and stops its function, L2 every
function and HOST with the host's waiting accesses, L1 all but AON, L0 everything (R21, R459), the fence table clear,
with RST_CAUSE, and a start cut short is a START_FAIL. POWER_ON begins from nothing with an L0. PERST_DEASSERT ends
what it holds; THERMAL_TRIP_RELEASE does once TJ is below RELEASE (R462). RESET_RELEASE (R298, R324, R463): a quiet
function is released with its fences freed; the device's own, once no source holds it, releases HOST after an L2 and
starts anew after an L1, showing a bad reach table. HELD_RELEASE (R465) releases a domain once it may be, DRAM that
waited for it then being trained. AON_RELEASE (R468) samples the straps. (spec/15_reset_boot_security.md) -/
def Obligations.Resets : Prop :=
  (∀ (s w : State) (f : Fin 32) (same : Bool) (v : BitVec 32) (path : Path) (l : Nat → Nat), w = wakeEvent s →
    l = (fun i => (reachOf s.boot.shadow.reach i).1) →
    exec (.resetNAssert same) s = .next (assertAt { s with boot := { s.boot with resetN := true } } 1 (l 1) 0 same) ∧
    exec (.perstAssert same) s = .next (assertAt { s with boot := { s.boot with perst := true } } 2 (l 2) 0 same) ∧
    exec (.pcieHotReset same) s = .next (assertAt s 3 (l 3) 0 same) ∧ exec (.flrPf same) s = .next (assertAt s 4 (l 4) 0 same) ∧
    exec (.flrVf f same) s = .next (assertAt s 5 (l 5) f same) ∧
    exec (.sdioCccrRes same) s = .next (assertAt { w with sdio := { SdioSt.fresh with irq := w.sdio.irq } } 6 (l 6) 0 same) ∧
    exec (.sdioFullReset 0xA5 same) s = .next (assertAt w 7 (l 7) 0 same) ∧
    (v ≠ 0xA5 → exec (.sdioFullReset v same) s = .next w) ∧
    exec (.thermalTrip same) s = .next (assertAt
      { s with out := s.out ++ [.thermtrip true], boot := { s.boot with trip := true } } 10 (l 10) 0 same) ∧
    exec (.watchdogExpire same) s = .next (if s.boot.counted = true ∨ bootState s = bRunning then assertAt s 12 (l 12) 0 same else s) ∧
    exec (.wdogKick path v) s = .next (if path = .stagehand ∧ v ≠ 0x4B1C ∧ bootState s = bRunning then assertAt s 12 (l 12) 0 false else s) ∧
    exec (.rstFwReq path v) s = .next (if path = .stagehand ∧ bit v.toNat 4 = true
      then assertAt s 13 (max (min 1 (bits v.toNat 1 0)) (l 13)) 0 false else s)) ∧
  (∀ i < 14, (reachOf 0 i).1 = [0, 0, 2, 2, 2, 3, 9, 0, 1, 2, 1, 1, 1, 1].getD i 9) ∧
  (∀ (s t : State) (i l fn : Nat) (same gone off : Bool), i < 14 → t = assertAt s i l fn same →
    gone = (match s.boot.level with
      | some k => decide (k ≤ l)
      | none => l == 3 && s.boot.l3.contains fn) →
    off = decide (pwrState s = pOff ∧ 2 ≤ i) →
    (4 ≤ l ∨ off = true → Alters [R.RST_SRC_CNT (i / 2)] s t ∧ fget t (srcCount i) = min 0xFFFF (fget s (srcCount i) + 1)) ∧
    (l < 4 → off = false → gone = true → t = { s with regs := t.regs, out := t.out, sdio := { s.sdio with irq := t.sdio.irq } } ∧
      Raised E.RST_EVENT.ABSORBED s t ∧ OnlyRegs [R.RST_EVENT, R.RST_EVT1, R.RST_CAUSE, R.RST_SRC_CNT (i / 2)] s t ∧
      fget t (srcCount i) = min 0xFFFF (fget s (srcCount i) + 1) ∧ fget t F.RST_CAUSE.LEVEL = fget s F.RST_CAUSE.LEVEL ∧
      fget t F.RST_CAUSE.SOURCE = if same = true ∧ (s.boot.level = some l ∨ (s.boot.level = none ∧ l = 3)) then
        min i (fget s F.RST_CAUSE.SOURCE) else fget s F.RST_CAUSE.SOURCE) ∧
    (l < 4 → off = false → gone = false → fget t F.RST_CAUSE.SOURCE = i ∧ fget t F.RST_CAUSE.LEVEL = l ∧
      (l = 3 → fget t F.RST_CAUSE.FUNCTION = fn % 32 ∧ t.boot.l3 = s.boot.l3 ++ [fn] ∧ t.boot.level = s.boot.level ∧ FnReset fn s t) ∧
      (l = 2 → t.boot.level = some 2 ∧ t.boot.l3 = [] ∧ domOn t dHost = false ∧ t.link.pcie = false ∧ fget t F.UL_SELF.HEAD = 0 ∧
        (∀ a ∈ t.waitAcc, a.path ≠ .bar2 ∧ ∀ f, a.path ≠ .bar0 f) ∧
        ∀ a, levelOf a = 2 ∨ levelOf a = 3 → rd t a = rd State.reset a) ∧
      (l = 1 → t = { State.reset with
          pending := s.pending
          regs := t.regs
          bus := s.bus
          free := s.free
          fio := true
          mem := tableless s
          out := t.out
          recorder := s.recorder
          repairs := s.repairs
          flash := s.flash
          sdio := { s.sdio with irq := t.sdio.irq }
          pwr := { s.pwr with entry := none, wake := false, waking := 0, sampling := false, hits := 0, gated := 0 }
          boot := { BootSt.off with
            head := s.boot.head
            fuses := s.boot.fuses
            shadow := s.boot.shadow
            fault := s.boot.fault
            level := some 1
            resetN := s.boot.resetN
            perst := s.boot.perst
            trip := s.boot.trip
            cold := s.boot.cold
            lastShutdown := s.boot.lastShutdown
            loftBad := s.boot.loftBad
            balls := List.replicate 4 0 ++ s.boot.balls.drop 4 } } ∧ bootState t = bClocks ∧ fget t F.PWR_DOMAIN_ON.ON = 0 ∧
        pwrState t = pActive ∧ (∀ a, 1 ≤ levelOf a → rd t a = rd State.reset a) ∧
        (∀ a, levelOf a = 0 → a ∉ [R.PWR_DOMAIN_ON, R.RST_PENDING, R.PWR_STATE, R.RST_BOOT_STATE, R.RST_CAUSE,
          R.RST_SRC_CNT (i / 2), R.RST_EVENT, R.RST_EVT1] → rd t a = rd s a) ∧
        (s.boot.counted = true → Raised E.RST_EVENT.START_FAIL s t)) ∧
      (l = 0 → t = { State.reset with
          pending := s.pending
          regs := t.regs
          bus := s.bus
          free := s.free
          fio := true
          mem := tableless s
          out := t.out
          flash := s.flash
          sdio := { State.reset.sdio with irq := t.sdio.irq }
          boot := { BootSt.off with
            head := s.boot.head
            fuses := s.boot.fuses
            level := some 0
            resetN := s.boot.resetN
            perst := s.boot.perst
            trip := s.boot.trip
            cold := some false
            loftBad := s.boot.loftBad } } ∧
        OnlyRegs [R.RST_CAUSE, R.RST_SRC_CNT (i / 2), R.RST_EVENT, R.RST_EVT1] State.reset t ∧ fget t (srcCount i) = 1 ∧
        (s.boot.counted = true → fbit t F.RST_EVENT.START_FAIL = true)))) ∧
  (∀ (s : State) (x : Nat), mwf 0 s.mem = true → mget 0 (tableless s) x =
    if carved s = true ∧ fenceTable s ≤ x ∧ x < fenceTable s + mib then 0 else memByte s x) ∧
  (∀ (s : State), ∃ t, exec .powerOn s = .next t ∧ fget t F.RST_CAUSE.SOURCE = 0 ∧ fget t F.RST_CAUSE.LEVEL = 0 ∧
    OnlyRegs [R.RST_CAUSE, R.RST_SRC_CNT 0] State.reset t ∧ t = { State.reset with
      pending := s.pending
      regs := t.regs
      bus := s.bus
      free := s.free
      fio := true
      mem := s.mem.filter fun p => decide (hostBase ≤ p.1)
      out := s.out
      flash := s.flash
      boot := { BootSt.off with
        fuses := s.boot.fuses
        level := some 0
        cold := some true
        loftBad := s.boot.loftBad } }) ∧
  (∀ (s : State), exec .perstDeassert s = .next (wakeEvent { s with boot := { s.boot with perst := false } }) ∧
    exec .thermalTripRelease s = .next (if s.boot.trip = true ∧ sx 8 (fget s F.PWR_THERM.TJ) < sx 8 (fget s F.PWR_THERM_CFG.RELEASE)
      then { s with out := s.out ++ [.thermtrip false], boot := { s.boot with trip := false } } else s)) ∧
  (∀ (f : Fin 32) (b : Bool) (s : State),
    (s.boot.l3.contains f.val = false ∨ fnQuiet s f = false → exec (.resetRelease (some f) b) s = .next s) ∧
    (s.boot.l3.contains f.val = true → fnQuiet s f = true → ∃ t, exec (.resetRelease (some f) b) s = .next t ∧
      t.boot = { s.boot with l3 := s.boot.l3.filter (· != f.val) } ∧
      (∀ k, ringOf t k = if k / 1024 = f.val then Ring.idle else ringOf s k) ∧
      (∀ x, (fenceOf s x).state = .error → goneCtx s f (fenceOf s x).owner = true → fenceOf t x = Fence.none) ∧
      (∀ x, (semOf s x).state = .error → (semOf s x).holders.any (fun h => h.units != 0 && goneCtx s f h.cid) = true →
        semOf t x = Sem.none))) ∧
  (∀ (b : Bool) (s u : State), u = { s with boot := { s.boot with resetN := s.boot.resetN && !b } } →
    (resetHeld u = true ∨ s.boot.level = none ∨ s.boot.level = some 0 → exec (.resetRelease none b) s = .next u) ∧
    (resetHeld u = false → s.boot.level = some 2 →
      ((∃ f < 32, fnQuiet s f = false) → exec (.resetRelease none b) s = .next u) ∧
      ((∀ f < 32, fnQuiet s f = true) → ∃ t, exec (.resetRelease none b) s = .next t ∧ t.boot.level = none ∧
        (∀ k < 32768, ringOf t k = Ring.idle) ∧ (relReady s dHost = true → domOn t dHost = true) ∧
        (relReady s dHost = false → bit (fget t F.RST_PENDING.PENDING) dHost = true))) ∧
    (resetHeld u = false → s.boot.level = some 1 → ∃ t v, exec (.resetRelease none b) s = .next t ∧
      t = { u with
        regs := t.regs
        boot := { u.boot with level := none }
        pwr := t.pwr
        out := t.out
        sdio := { u.sdio with irq := t.sdio.irq } } ∧ OnlyRegs [R.RST_BOOT_STATE, R.RST_EVENT, R.RST_EVT0] u t ∧
      (reachBad u.boot.shadow.reach = true → Raised E.RST_EVENT.REACH_BAD u t) ∧
      (reachBad u.boot.shadow.reach = false → Alters [R.RST_BOOT_STATE] v t ∧
        v = { u with boot := { u.boot with level := none }, pwr := t.pwr }) ∧
      (s.pwr.xa.st = .good ∨ s.pwr.xb.st = .good → bootState t = bRom ∧ t.pwr = s.pwr) ∧
      (s.pwr.xa.st ≠ .good → s.pwr.xb.st ≠ .good → bootState t = bClocks ∧ t.pwr = if s.pwr.lost then s.pwr
        else { s.pwr with xa := { Xtal.off with st := .delay }, xb := { Xtal.off with st := .delay } }))) ∧
  (∀ (d : Fin 28) (s : State), (bit (fget s F.RST_PENDING.PENDING) d = false ∨ relReady s d = false →
      exec (.heldRelease d) s = .next s) ∧
    (bit (fget s F.RST_PENDING.PENDING) d = true → relReady s d = true → ∃ t, exec (.heldRelease d) s = .next t ∧
      domOn t d = true ∧ bit (fget t F.RST_PENDING.PENDING) d = false ∧ (∀ e < 28, e ≠ d.val → domOn t e = domOn s e) ∧
      t = { s with
        regs := t.regs
        boot := { s.boot with balls := t.boot.balls, train := t.boot.train }
        pwr := { s.pwr with gated := putBits s.pwr.gated d d 0 } } ∧
      (d.val ≠ dLink → OnlyRegs [R.RST_PENDING, R.PWR_DOMAIN_ON, R.PWR_STATE, R.MEMC_STATE, R.MEMC_CFG] s t) ∧
      (∀ gib channels, s.boot.train = some (gib, channels) → d.val = dMemc → t.boot.train = none ∧
        fbit t F.MEMC_STATE.TRAINED = true ∧ fget t F.MEMC_CFG.MTS = dramRate (fget s F.PWR_STATE.CUR_OP) ∧
        (gib < 64 → channels < 16 → fget t F.MEMC_CFG.GIB = gib ∧ fget t F.MEMC_CFG.CH_MASK = channels)) ∧
      (d.val = dLink → ∀ p < 3, portState s p = pDown → mayTrain t p = true → portState t p = pTraining))) ∧
  (∀ (osc : Fin 8) (head : Bool) (s : State), (s.boot.level ≠ some 0 ∨ resetHeld s = true → exec (.aonRelease osc head) s = .next s) ∧
    (s.boot.level = some 0 → resetHeld s = false → ∃ t, exec (.aonRelease osc head) s = .next t ∧ bootState t = bFuses ∧
      fget t F.CLK_SRC_STATUS.OSC_DLY = osc ∧ OnlyRegs [R.RST_BOOT_STATE, R.CLK_SRC_STATUS] s t ∧ t = { s with
        regs := t.regs
        boot := { s.boot with level := none, head := head, balls := (s.boot.balls.set 4 1).set 5 2 } }))

/-- FUSE_READ_DONE (R466, R468): bad rows take their defaults; a bad secure row is a fuse fault and enters House Lights,
at OP0 with LOFT0 alone powered and the factory calibration; else the crystals start. BOOT_ROM_START on a good
crystal: at the limit of failed starts House Lights, else transition rates and OP0 are written, LOFT released and HOST
asked for. FETCH_HOST, START_F2 and VERIFY_F2 (R472, R476) are accepted while an image is awaited, refused with
IMG_REFUSED otherwise, VERIFY_F2 after a fuse fault with FUSE_FAULT. IMAGE_TAKEN (R469, R473): a fetched image is
stored from address 0 and counted; a failed fetch is IMG_FETCH, not counted. IMAGE_VERIFY_DONE (R470): the first check
that fails rejects the image, a failed start; one that passes leaves House Lights as step 5 does. KEYS_DERIVED (R482,
R490) holds digest and keys and gives the cores their roles and DRAM its training, or asks for an L1 with two cores
failed or the Loft bad. START_OK (R471), from firmware alone, ends the count and burns SVN up to the floor, bit by
bit, clearing none; a reset may cut the burns short (the operand cut, the model's form). FUSE_BURN (R467) sets bits of
REACH or START_LIMIT while RUNNING and unlocked, a bit that stays 0 being FUSE_BAD; FUSE_READ reads; FUSE_LOCK locks.
(spec/15_reset_boot_security.md; spec/16_rehearsal_and_show_report.md) -/
def Obligations.BootAndFuses : Prop :=
  (∀ (bad : List FuseRow) (s : State) (f : Fuses), f = bad.foldl Fuses.without s.boot.fuses →
    (bootState s ≠ bFuses ∨ s.boot.level = some 0 → exec (.fuseReadDone bad) s = .next s) ∧
    (bootState s = bFuses → s.boot.level ≠ some 0 → ∃ t, exec (.fuseReadDone bad) s = .next t ∧
      t.boot = { s.boot with
          shadow := f
          fault := bad.any FuseRow.secure
          cal := if bad.any FuseRow.secure then f.cal else s.boot.cal
          calDigest := if bad.any FuseRow.secure then List.replicate 64 0 else s.boot.calDigest } ∧ fget t F.CHIP_VARIANT.MAX_OP = f.maxOp % 8 ∧
      fget t F.PWR_STATE.CAP_OP = f.maxOp % 8 ∧ fget t F.RST_START_FAILS.LIMIT = (if f.startLimit = 0 then 3 else f.startLimit) % 8 ∧
      fget t F.SEC_EVT1.FUSE_BAD_EVT = (fget s F.SEC_EVT1.FUSE_BAD_EVT + bad.length) % 2 ^ 16 ∧
      (reachBad f.reach = true → Raised E.RST_EVENT.REACH_BAD s t) ∧
      (bad.any FuseRow.secure = true → bootState t = bLights ∧ Raised E.SEC_EVENT.FUSE_FAULT s t ∧ Raised E.RST_EVENT.HOUSE_LIGHTS s t ∧
        t.link.pcie = false ∧ fget t F.UL_SELF.HEAD = 0 ∧ (s.boot.cold.isSome = true → .avs (railSel s 0) (vCore 0) ∈ t.out) ∧
        ∀ d < 28, domOn t d = (d == dLoft)) ∧
      (bad.any FuseRow.secure = false → bootState t = bClocks ∧ t.link = s.link ∧
        t.pwr = { s.pwr with xa := { Xtal.off with st := .delay }, xb := { Xtal.off with st := .delay } }))) ∧
  (∀ (s : State), ((bootState s ≠ bClocks ∧ bootState s ≠ bRom) ∨ s.boot.level.isSome = true ∨ s.pwr.lost = true ∨
      (s.pwr.xa.st ≠ .good ∧ s.pwr.xb.st ≠ .good) → exec .bootRomStart s = .next s) ∧
    (bootState s = bClocks ∨ bootState s = bRom → s.boot.level = none → s.pwr.lost = false → s.pwr.xa.st = .good ∨ s.pwr.xb.st = .good →
      ∃ t, exec .bootRomStart s = .next t ∧ t.boot.cold = none ∧ t.boot.fuses = s.boot.fuses ∧ t.mem = s.mem ∧
        fget s F.RST_START_FAILS.COUNT ≤ fget t F.RST_START_FAILS.COUNT ∧
        (s.boot.cold.isSome = true → .avs (railSel s 0) (vCore 0) ∈ t.out ∧ .avs (railSel s 1) (vLoft 0) ∈ t.out) ∧
        (atLimit t = true → bootState t = bLights ∧ t.boot.cal = s.boot.shadow.cal ∧ t.link.pcie = false ∧
          ∀ d < 28, domOn t d = (d == dLoft)) ∧
        (atLimit t = false → bootState t = bWait ∧ (s.fio = true → ∀ d, dLoft ≤ d → d < dRaster → domOn t d = true) ∧
          (relReady s dHost = true → domOn t dHost = true) ∧
          (relReady s dHost = false → bit (fget t F.RST_PENDING.PENDING) dHost = true) ∧
          t.pwr.slews = [(0, 0), (1, 0)] ∧ .avsSlew (railSel s 0) (fget s F.PWR_AVS_CFG.SLEW) ∈ t.out ∧
          .avsSlew (railSel s 1) (fget s F.PWR_AVS_CFG.SLEW) ∈ t.out) ∧
        (logArea s = none → fbit t F.SHOW_STATE.FLASH_OK = false ∧ rdN t R.SHOW_POWER_CYCLES =
          (rdN s R.SHOW_POWER_CYCLES + b2n (s.boot.cold == some true)) % 2 ^ 32))) ∧
  (∀ (s : State) (waits : Bool), waits = (s.boot.take.isNone && s.boot.image.isNone) →
    (waits = true → bootState s = bWait → ∃ t, exec .fetchHost s = .next t ∧ fget t F.SEC_IMG_STATUS.STATE = 1 ∧
      OnlyRegs [R.SEC_IMG_STATUS] s t ∧ t = { s with
        regs := t.regs
        boot := { s.boot with take := some (fget s F.SEC_IMG_LEN.LEN), viaF2 := false, f2 := false } }) ∧
    (waits = true → bootState s = bWait ∨ bootState s = bLights → ∃ t, exec .startF2 s = .next t ∧
      fget t F.SEC_F2_COUNT.COUNT = 0 ∧ OnlyRegs [R.SEC_F2_COUNT] s t ∧ t = { s with regs := t.regs, boot := { s.boot with f2 := true } }) ∧
    (waits = true → bootState s = bWait ∨ bootState s = bLights → s.boot.f2 = true →
      (s.boot.fault = false ∨ bootState s = bWait → ∃ t, exec .verifyF2 s = .next t ∧ fget t F.SEC_IMG_STATUS.STATE = 2 ∧
        t.boot = { s.boot with
          f2 := false
          viaF2 := true
          take := none
          image := some (devRead s 0 (fget s F.SEC_F2_COUNT.COUNT))
          counted := true } ∧ fget t F.RST_START_FAILS.COUNT = min 15 (fget s F.RST_START_FAILS.COUNT + 1) ∧
        bootState t = (if bootState s = bLights then bLights else bVerify) ∧ t.mem = s.mem)) ∧
    (s.boot.fault = true → bootState s = bLights → ∃ t, exec .verifyF2 s = .next t ∧ Alters [R.SEC_IMG_STATUS] s t ∧
      fget t F.SEC_IMG_STATUS.CODE = cFuseFault ∧ fget t F.SEC_IMG_STATUS.STATE = fget s F.SEC_IMG_STATUS.STATE) ∧
    ∀ c ∈ [Instr.fetchHost, .startF2, .verifyF2], c ≠ .verifyF2 ∨ s.boot.fault = false ∨ bootState s ≠ bLights → waits = false ∨ (bootState s ≠ bWait ∧ (bootState s ≠ bLights ∨ c = .fetchHost)) ∨
        (c = .verifyF2 ∧ s.boot.f2 = false) →
      ∃ t, exec c s = .next t ∧ Alters [R.SEC_IMG_STATUS] s t ∧ fget t F.SEC_IMG_STATUS.CODE = cImgRefused ∧
        fget t F.SEC_IMG_STATUS.STATE = fget s F.SEC_IMG_STATUS.STATE) ∧
  (∀ (fail : Option HostErr) (s : State), (s.boot.take = none → exec (.imageTaken fail) s = .next s) ∧
    ∀ n, s.boot.take = some n →
      (∀ e, fail = some e → ∃ t, exec (.imageTaken fail) s = .next t ∧ Raised E.SEC_EVENT.IMG_REJECTED s t ∧
        fget t F.SEC_IMG_STATUS.CODE = cImgFetch ∧ fget t F.SEC_IMG_STATUS.STATE = 4 ∧
        t = { s with regs := t.regs, boot := { s.boot with take := none, image := none } } ∧
        OnlyRegs [R.SEC_IMG_STATUS, R.SEC_EVENT, R.SEC_EVT0] s t) ∧
      (fail = none → ∀ b, b = mgets 0 s.mem (hostBase + rd64 s R.SEC_IMG_ADDR_LO % 2 ^ 47) n →
        ∃ t, exec (.imageTaken fail) s = .next t ∧ t.mem = (devWrite s 0 b).mem ∧
          t.boot = { s.boot with take := none, image := some b, counted := true } ∧ fget t F.SEC_IMG_STATUS.STATE = 2 ∧
          fget t F.RST_START_FAILS.COUNT = min 15 (fget s F.RST_START_FAILS.COUNT + 1) ∧
          bootState t = (if bootState s = bLights then bLights else bVerify))) ∧
  (∀ (s : State), (s.boot.image = none ∨ s.boot.counted = false ∨ s.boot.fw ≠ [] → exec .imageVerifyDone s = .next s) ∧
    ∀ b, s.boot.image = some b → s.boot.counted = true → s.boot.fw = [] →
      (∀ c, imgCheck s.boot.shadow b = some c → ∃ t, exec .imageVerifyDone s = .next t ∧ fget t F.SEC_IMG_STATUS.STATE = 4 ∧
        fget t F.SEC_IMG_STATUS.CODE = c % 2 ^ 16 ∧ Raised E.SEC_EVENT.IMG_REJECTED s t ∧ Raised E.RST_EVENT.START_FAIL s t ∧
        t.boot = { s.boot with
          counted := false
          take := none
          image := none
          cal := if bootState s ≠ bLights ∧ atLimit s = true then s.boot.shadow.cal else s.boot.cal
          calDigest := if bootState s ≠ bLights ∧ atLimit s = true then List.replicate 64 0 else s.boot.calDigest } ∧
        bootState t = (if bootState s = bLights ∨ atLimit s = true then bLights else bWait)) ∧
      (imgCheck s.boot.shadow b = none → ∃ t, exec .imageVerifyDone s = .next t ∧ fget t F.SEC_IMG_STATUS.STATE = 3 ∧
        t.boot = { s.boot with
          fw := (b.drop 128).take (iBody b)
          entryA := field b 20 4
          entryB := field b 24 4
          floor := iFloor b
          revoke := iRevoke b } ∧ fget t F.SEC_SVN.FW_SVN = iSvn b % 256 ∧ fget t F.SEC_SVN.KEY_SLOT = iSlot b % 4 ∧
        (bootState s = bLights → bootState t = bVerify ∧ t.pwr.slews = [(0, 0), (1, 0)] ∧
          .avsSlew (railSel s 0) (fget s F.PWR_AVS_CFG.SLEW) ∈ t.out ∧ (relReady s dHost = true → domOn t dHost = true) ∧
          (s.fio = true → ∀ d, dLoft ≤ d → d < dRaster → domOn t d = true)) ∧ (bootState s ≠ bLights → bootState t = bootState s))) ∧
  (∀ (cf : Bool) (gib : Fin 33) (ch : Fin 16) (s : State),
    (s.boot.image = none ∨ s.boot.fw = [] → exec (.keysDerived cf gib ch) s = .next s) ∧
    ∀ b d k bad, s.boot.image = some b → s.boot.fw ≠ [] → d = padTo 64 (shake256 64 (iSigned b)) →
      k = keysOf s.boot.shadow.uds d (iSvn b) → bad = onesOf 17 (rdN s R.TEST_CORE_FAILED) →
      (bad.length < 2 → s.boot.loftBad = false → ∃ t, exec (.keysDerived cf gib ch) s = .next t ∧ bootState t = bFirmware ∧
        t.boot.keys = some k ∧ t.boot.digest = d ∧ t.boot.image = none ∧ (∀ c ∈ bad, coreRole t c = 3) ∧
        (∀ c < 17, c ∉ bad → coreRole t c = if c = 16 ∧ bad = [] then 1 else 0) ∧
        (s.fio = true → ∀ c < 17, c ∉ bad → domOn t c = true) ∧
        (locked s 0 = true → domOn t dMemc = true ∧ fbit t F.MEMC_STATE.TRAINED = true ∧ fget t F.MEMC_CFG.GIB = gib.val ∧
          fget t F.MEMC_CFG.CH_MASK = ch.val) ∧
        (locked s 0 = false → domOn s dMemc = false → t.boot.train = some (gib.val, ch.val))) ∧
      (2 ≤ bad.length ∨ s.boot.loftBad = true → ∃ u, exec (.keysDerived cf gib ch) s = .next (firmwareReset u 1) ∧
        u.boot.keys = some k ∧ u.boot.digest = d ∧ bootState u = bFirmware)) ∧
  (∀ (p : Path) (cut : Option Nat) (s : State),
    (p ≠ .stagehand ∨ bootState s ≠ bFirmware ∨ s.boot.counted = false → exec (.startOk p cut) s = .next s) ∧
    (p = .stagehand → bootState s = bFirmware → s.boot.counted = true → ∃ t, exec (.startOk p cut) s = .next t ∧
      fget t F.RST_START_FAILS.COUNT = 0 ∧ fget t F.RST_START_OK.START_OK = 1 ∧ t.boot.counted = false ∧ t.mem = s.mem ∧
      (∀ c k, bit (s.boot.fuses.svn.getD c 0) k = true → bit (t.boot.fuses.svn.getD c 0) k = true) ∧
      (∀ c k, bit (s.boot.fuses.revoke.getD c 0) k = true → bit (t.boot.fuses.revoke.getD c 0) k = true) ∧
      (∀ n, cut = some n → bootState t = bFirmware ∧ t.boot.lastShutdown = s.boot.lastShutdown ∧
        t.boot.fuses = ((burnList s.boot.fuses s.boot.floor s.boot.revoke).take n).foldl burnOne s.boot.fuses) ∧
      (cut = none → bootState t = bRunning ∧ t.boot.lastShutdown = 0 ∧
        (s.boot.fuses.svn.length = 3 → s.boot.floor ≤ 64 → fuseSvn t.boot.fuses = max s.boot.floor (fuseSvn s.boot.fuses)) ∧
        (s.boot.fuses.revoke.length = 3 → ∀ k < 4, bit (majority t.boot.fuses.revoke) k =
          (bit (majority s.boot.fuses.revoke) k || bit s.boot.revoke k)) ∧
        (∀ e ∈ s.boot.fuses.repair, e ∈ t.boot.fuses.repair) ∧
        ((s.repairs.all fun r => decide (r.count < 3)) = true → t.boot.fuses.repair = s.boot.fuses.repair)))) ∧
  (∀ (stuck : BitVec 64) (s : State) (sel : Bool) (old want lost row : Nat), sel = fbit s F.SEC_FUSE_ROW.ROW →
    old = (if sel then s.boot.fuses.startLimit else s.boot.fuses.reach) →
    want = rd64 s R.SEC_FUSE_DATA_LO &&& (if sel then 7 else 2 ^ 48 - 1) → lost = want &&& stuck.toNat &&& (old ^^^ (2 ^ 64 - 1)) →
    row = old ||| (want ^^^ lost) →
    (bootState s ≠ bRunning ∨ fbit s F.SEC_FUSE_LOCK.LOCK = true → exec (.fuseBurn stuck) s = .next s) ∧
    (bootState s = bRunning → fbit s F.SEC_FUSE_LOCK.LOCK = false → ∃ t, exec (.fuseBurn stuck) s = .next t ∧
      t = { s with
        regs := t.regs
        boot := { s.boot with
          fuses := if sel then { s.boot.fuses with startLimit := row } else { s.boot.fuses with reach := row } } } ∧
      (lost = 0 → t.regs = s.regs) ∧
      (lost ≠ 0 → Raised E.SEC_EVENT.FUSE_BAD s t ∧ OnlyRegs [R.SEC_EVENT, R.SEC_EVT1] s t)) ∧
    (bootState s ≠ bRunning → exec .fuseRead s = .next s) ∧
    (bootState s = bRunning → ∃ t, exec .fuseRead s = .next t ∧ Alters [R.SEC_FUSE_DATA_LO, R.SEC_FUSE_DATA_HI] s t ∧
      rd64 t R.SEC_FUSE_DATA_LO = old % 2 ^ 64) ∧
    ∃ t, exec .fuseLock s = .next t ∧ Alters [R.SEC_FUSE_LOCK] s t ∧ fbit t F.SEC_FUSE_LOCK.LOCK = true)

/-- Every SDIO command is a wake event (R440) and then, by the card's state (R474): CMD0 makes it idle, CMD5 ready, CMD3
standby with a relative address it answers, CMD7 selects or deselects it, CMD11 switches the voltage at 1.8 V, CMD19
tunes it, CMD15 makes it inactive; in any other state they change nothing. Only a selected card is accessed (R475):
CMD52 reads byte 0 of an F1 word with the word, its other bytes from the latch, and holds bytes 0 to 2 written until
byte 3 commits them; RES in the CCCR is source 6; CMD53 accesses whole words in order, any other read giving zeros and
any other write nothing. F2 takes bytes after START_F2 up to its limit, the rest setting F2_OVERFLOW (R476). Function
0 gives the codes of IDENT in its CIS and interface codes 0 (R474; the tuples' layout is presumed,
notes/assumptions/42.md). The mailbox bits are set and cleared (R477), and the F1 interrupt is a level: on while
OUT_FULL or an enabled RST_EVENT flag is 1 (R475). ATT_REPORT and the certificates (R484) are ignored while BUSY,
refused with ATT_ARGS when ATT_LEN is short, else queued; signing takes the head, and DONE writes its output, once the
host's translation admits it, and reports its code. MR_EXTEND (R486) hashes the register with MR_DATA, which it takes
at its DONE. (spec/15_reset_boot_security.md; spec/18_register_map.md) -/
def Obligations.SdioAndTrust : Prop :=
  (∀ (s w : State) (v : Bool) (rca : BitVec 16), w = wakeEvent s →
    exec .sdioCmd0 s = .next (if w.sdio.card = .inactive then w else { w with sdio := { w.sdio with card := .idle, rca := 0 } }) ∧
    (w.sdio.card = .inactive → exec (.sdioCmd5 v) s = .next w) ∧
    (w.sdio.card ≠ .inactive → ∃ ocr < 2 ^ 24, exec (.sdioCmd5 v) s = .next { w with
      sdio := { w.sdio with card := .ready }
      out := w.out ++ [.sdioResp (2 ^ 31 + 2 * 2 ^ 28 + 2 ^ 24 * b2n v + ocr)] }) ∧
    (w.sdio.card = .ready ∨ w.sdio.card = .standby → ∃ r < 2 ^ 16, exec .sdioCmd3 s = .next { w with
      sdio := { w.sdio with card := .standby, rca := r }
      free := w.free + 1
      out := w.out ++ [.sdioResp (2 ^ 16 * r)] }) ∧
    (w.sdio.card ≠ .ready → w.sdio.card ≠ .standby → exec .sdioCmd3 s = .next w) ∧
    (w.sdio.card = .standby → w.sdio.rca = rca.toNat → ∃ x, exec (.sdioCmd7 rca) s = .next { w with
      sdio := { w.sdio with card := .selected }
      free := w.free + 1
      out := w.out ++ [.sdioResp x] }) ∧
    (w.sdio.card = .selected → w.sdio.rca ≠ rca.toNat → exec (.sdioCmd7 rca) s = .next { w with
      sdio := { w.sdio with card := .standby } }) ∧
    ((w.sdio.card ≠ .standby ∨ w.sdio.rca ≠ rca.toNat) → (w.sdio.card ≠ .selected ∨ w.sdio.rca = rca.toNat) →
      exec (.sdioCmd7 rca) s = .next w) ∧
    (v = true → w.sdio.card = .ready → ∃ x, exec (.sdioCmd11 v) s = .next { w with
      sdio := { w.sdio with volt := true }
      free := w.free + 1
      out := w.out ++ [.sdioResp x] }) ∧
    (v = false ∨ w.sdio.card ≠ .ready → exec (.sdioCmd11 v) s = .next w) ∧
    exec (.sdioCmd15 rca) s = .next (if (w.sdio.card = .standby ∨ w.sdio.card = .selected) ∧ w.sdio.rca = rca.toNat
      then { w with sdio := { w.sdio with card := .inactive } } else w) ∧
    (w.sdio.card = .selected → ∃ x, exec .sdioCmd19 s = .next { w with
      sdio := { w.sdio with tuned := true }
      free := w.free + 1
      out := w.out ++ [.sdioResp x] }) ∧
    (w.sdio.card ≠ .selected → exec .sdioCmd19 s = .next w)) ∧
  (∀ (s w : State) (f : Fin 3) (addr : BitVec 17) (d : Byte) (incr : Bool) (n : BitVec 18) (b : List Byte) (a g : Nat), w = wakeEvent s →
    a = w.sdio.page * 0x20000 + addr.toNat → g = a / 4 * 4 →
    (w.sdio.card ≠ .selected → exec (.sdioCmd52Read f addr) s = .next w ∧ exec (.sdioCmd53Read f addr incr n) s = .next w ∧
      exec (.sdioCmd53Write addr incr b) s = .next w ∧
      (f ≠ 0 ∨ addr.toNat ≠ 6 ∨ bit d.toNat 3 = false → exec (.sdioCmd52Write f addr d) s = .next w)) ∧
    (f = 0 → addr.toNat = 6 → bit d.toNat 3 = true → exec (.sdioCmd52Write f addr d) s = exec (.sdioCccrRes false) s) ∧
    (w.sdio.card = .selected →
      (f = 0 → ∃ v, exec (.sdioCmd52Read f addr) s = .next { w with out := w.out ++ [.sdioResp v] } ∧
        (addr.toNat = 0xF0 → v = w.sdio.page) ∧ (addr.toNat ≠ 0xF0 → v < 256) ∧ (addr.toNat ≠ 0xF0 → cisAt w addr.toNat = none → addr.toNat = 0x101 ∨ addr.toNat = 0x201 → v = 0) ∧
        (∀ k < 4, addr.toNat = cisBase 0 + 2 + k → v = w.boot.shadow.cards / 2 ^ (8 * k) % 256)) ∧
      (f = 1 → a % 4 = 0 → exec (.sdioCmd52Read f addr) s = .next (access
        { w with sdio := { w.sdio with latchFor := some g } } ⟨.f1, BitVec.ofNat 24 g, 4, false, 0, 0⟩)) ∧
      (f = 1 → a % 4 ≠ 0 → exec (.sdioCmd52Read f addr) s = .next { w with out := w.out ++ [.sdioResp (match w.sdio.latch with
        | some (h, v) => if h = g then v / 2 ^ (8 * (a % 4)) % 256 else 0
        | none => 0)] }) ∧
      (f = 2 → exec (.sdioCmd52Read f addr) s = .next { w with out := w.out ++ [.sdioResp 0] } ∧
        exec (.sdioCmd52Write f addr d) s = .next w) ∧
      (f = 0 → addr.toNat = 0xF0 → exec (.sdioCmd52Write f addr d) s = .next { w with
        sdio := { w.sdio with page := d.toNat % 128 } }) ∧
      (f = 0 → addr.toNat ≠ 0xF0 → addr.toNat ≠ 6 ∨ bit d.toNat 3 = false → exec (.sdioCmd52Write f addr d) s = .next w) ∧
      (f = 1 → a % 4 < 3 → ∃ t, exec (.sdioCmd52Write f addr d) s = .next t ∧ t = { w with sdio := { w.sdio with held := t.sdio.held } } ∧
        ∃ l, t.sdio.held = some (g, l) ∧ l.lookup (a % 4) = some d.toNat ∧ ∀ k, k ≠ a % 4 →
          l.lookup k = match w.sdio.held with
            | some (h, bs) => if h = g then bs.lookup k else none
            | none => none) ∧
      (f = 1 → a % 4 = 3 → ∀ x y z l, w.sdio.held = some (g, l) → l.lookup 0 = some x → l.lookup 1 = some y → l.lookup 2 = some z →
        exec (.sdioCmd52Write f addr d) s = .next (access { w with sdio := { w.sdio with held := none } }
          ⟨.f1, BitVec.ofNat 24 g, 4, true, BitVec.ofNat 64 (x + 2 ^ 8 * y + 2 ^ 16 * z + 2 ^ 24 * d.toNat), 0⟩)) ∧
      (f = 1 → a % 4 = 3 → (∀ h l, w.sdio.held = some (h, l) → h ≠ g ∨ l.lookup 0 = none ∨ l.lookup 1 = none ∨ l.lookup 2 = none) →
        exec (.sdioCmd52Write f addr d) s = .next { w with sdio := { w.sdio with held := none } }) ∧
      (f = 0 → ∃ t, exec (.sdioCmd53Read f addr incr n) s = .next t ∧ t = { w with out := t.out } ∧
        t.out.length = w.out.length + n.toNat) ∧
      (f = 1 → incr = true → addr.toNat % 4 = 0 → n.toNat % 4 = 0 → exec (.sdioCmd53Read f addr incr n) s = .next
        ((upTo (n.toNat / 4)).foldl (fun t k => access t ⟨.f1, BitVec.ofNat 24 (w.sdio.page * 0x20000 + (addr.toNat + 4 * k) % 0x20000),
          4, false, 0, 0⟩) w)) ∧
      (f = 2 ∨ (f = 1 ∧ (incr = false ∨ addr.toNat % 4 ≠ 0 ∨ n.toNat % 4 ≠ 0)) → exec (.sdioCmd53Read f addr incr n) s = .next { w with
        out := w.out ++ List.replicate n.toNat (.sdioResp 0) }) ∧
      (incr = true → addr.toNat % 4 = 0 → b.length % 4 = 0 → exec (.sdioCmd53Write addr incr b) s = .next
        ((upTo (b.length / 4)).foldl (fun t k => access t ⟨.f1, BitVec.ofNat 24 (w.sdio.page * 0x20000 + (addr.toNat + 4 * k) % 0x20000),
          4, true, BitVec.ofNat 64 (field b (4 * k) 4), 0⟩) w)) ∧
      (incr = false ∨ addr.toNat % 4 ≠ 0 ∨ b.length % 4 ≠ 0 → exec (.sdioCmd53Write addr incr b) s = .next w))) ∧
  (∀ (s w : State) (addr : BitVec 17) (incr : Bool) (b took : List Byte) (n : Nat), w = wakeEvent s → n = fget w F.SEC_F2_COUNT.COUNT →
    took = (if w.boot.f2 then b.take (2127072 - n) else []) →
    (w.sdio.card ≠ .selected ∨ addr ≠ 0 ∨ incr = true → exec (.sdioF2Write addr incr b) s = .next w) ∧
    (w.sdio.card = .selected → addr = 0 → incr = false → ∃ t, exec (.sdioF2Write addr incr b) s = .next t ∧
      t.mem = (if w.boot.f2 then (memWrite w n took).mem else w.mem) ∧
      (w.boot.f2 = true → fget t F.SEC_F2_COUNT.COUNT = (n + took.length) % 2 ^ 22) ∧
      (took.length < b.length → Raised E.SEC_EVENT.F2_OVERFLOW w t) ∧
      OnlyRegs (R.SEC_F2_COUNT :: if took.length < b.length then [R.SEC_EVENT, R.SEC_EVT2] else []) w t)) ∧
  (∀ (s : State) (m : BitVec 512),
    (∃ t, exec .mboxInPost s = .next t ∧ Alters [R.RST_MBOX_CTRL] s t ∧ fget t F.RST_MBOX_CTRL.IN_FULL = 1) ∧
    (∃ t, exec .mboxInClear s = .next t ∧ Alters [R.RST_MBOX_CTRL] s t ∧ fget t F.RST_MBOX_CTRL.IN_FULL = 0) ∧
    (∀ on : Bool, on = ((rdN s R.RST_EVENT &&& fget s F.RST_SDIO_IRQ_EN.EN) != 0) → ∃ t, exec .mboxOutClear s = .next t ∧
      fget t F.RST_MBOX_CTRL.OUT_FULL = 0 ∧ OnlyRegs [R.RST_MBOX_CTRL] s t ∧ t = { s with
        regs := t.regs
        out := if s.sdio.irq = on then s.out else s.out ++ [.sdioIrq on]
        sdio := { s.sdio with irq := on } }) ∧
    ∃ t, exec (.mboxOutPost m) s = .next t ∧ t = { s with
        regs := t.regs
        out := if s.sdio.irq = true then s.out else s.out ++ [.sdioIrq true]
        sdio := { s.sdio with irq := true } } ∧
      Raised E.RST_MBOX_CTRL.OUT_FULL s t ∧ ∀ k < 16, rdN t (R.RST_MBOX_OUT k) = m.toNat / 2 ^ (32 * k) % 2 ^ 32) ∧
  (∀ (f : Fin 32) (s : State), ∀ c ∈ [(Instr.attReport f, 1, 36432), (.attAliasCert f, 2, 35840), (.attIdentityCert f, 3, 35840)],
    (fbit s (F.ATT_STATUS.BUSY f) = true → exec c.1 s = .next s) ∧
    (fbit s (F.ATT_STATUS.BUSY f) = false → rdN s (R.ATT_LEN f) < c.2.2 → ∃ t, exec c.1 s = .next t ∧
      fget t (F.ATT_STATUS.CODE f) = cAttArgs ∧ Raised (E.ATT_STATUS.DONE f) s t ∧ fbit t (F.ATT_STATUS.BUSY f) = false ∧
      t.boot = s.boot ∧ t.mem = s.mem) ∧
    (fbit s (F.ATT_STATUS.BUSY f) = false → c.2.2 ≤ rdN s (R.ATT_LEN f) → ∃ t, exec c.1 s = .next t ∧
      fbit t (F.ATT_STATUS.BUSY f) = true ∧ OnlyRegs [R.ATT_STATUS f] s t ∧
      t = { s with regs := t.regs, boot := { s.boot with attQ := s.boot.attQ ++ [⟨f.val, c.2.1⟩] } })) ∧
  (∀ (s : State), (s.boot.attQ = [] ∨ s.boot.keys = none ∨ s.boot.signing.isSome = true → exec .attSigningStart s = .next s) ∧
    ∀ r rest k, s.boot.attQ = r :: rest → s.boot.keys = some k → s.boot.signing = none →
      exec .attSigningStart s = .next { s with boot := { s.boot with
        attQ := rest
        signing := some (r, if r.op = 1 then padTo 36432 (reportBody s r.fn k ++ slhSign slh192f k.akSeed (reportBody s r.fn k))
          else if r.op = 2 then s.boot.aliasCert else (identityCert s k).getD []) } }) ∧
  (∀ (fail : Option HostErr) (s : State), (s.boot.signing = none → exec (.attDone fail) s = .next s) ∧
    ∀ r out h, s.boot.signing = some (r, out) → r.fn < 32 → h = rd64 s (R.ATT_ADDR_LO r.fn) % 2 ^ 47 →
      (∀ f g, out ≠ [] → fail = none → hostRange s r.fn h out.length true = some (.waits f g) →
        exec (.attDone fail) s = .next (askAts s f g)) ∧
      ((∀ f g, hostRange s r.fn h out.length true ≠ some (.waits f g)) ∨ out = [] ∨ fail.isSome = true → ∃ t,
        exec (.attDone fail) s = .next t ∧ t.boot = { s.boot with signing := none } ∧ fbit t (F.ATT_STATUS.BUSY r.fn) = false ∧
        Raised (E.ATT_STATUS.DONE r.fn) s t ∧
        (out = [] → fget t (F.ATT_STATUS.CODE r.fn) = cCertAbsent ∧ t.mem = s.mem) ∧
        (∀ e, out ≠ [] → fail = some e → fget t (F.ATT_STATUS.CODE r.fn) = hostCode e ∧ t.mem = s.mem) ∧
        (∀ c, out ≠ [] → fail = none → hostRange s r.fn h out.length true = some (.fault c) →
          fget t (F.ATT_STATUS.CODE r.fn) = c % 2 ^ 16 ∧ t.mem = s.mem) ∧
        (out ≠ [] → fail = none → HostAdmits s r.fn h out.length true → fget t (F.ATT_STATUS.CODE r.fn) = cOk ∧
          t.mem = (memWrite s (hostBase + h) out).mem))) ∧
  (∀ (f : Fin 32) (s : State) (r : Nat), r = fget s (F.MR_SEL.MR_SEL f) →
    (fbit s (F.MR_STATUS.BUSY f) = true → exec (.mrExtend f) s = .next s) ∧
    (fbit s (F.MR_STATUS.BUSY f) = false → ∃ t, exec (.mrExtend f) s = .next t ∧ fbit t (F.MR_STATUS.BUSY f) = true ∧
      OnlyRegs [R.MR_STATUS f] s t ∧ t = { s with
        regs := t.regs
        boot := { s.boot with exts := s.boot.exts ++ [(f.val, r, leNat (padTo 64 (shake256 64
          (leBytes 64 (mrOf s f r) ++ (upTo 16).flatMap fun k => leBytes 4 (rdN s (R.MR_DATA f k))))))] } }) ∧
    ((∀ e ∈ s.boot.exts, e.1 ≠ f.val) → exec (.mrExtendDone f) s = .next s) ∧
    ∀ pre post x v, s.boot.exts = pre ++ (f.val, x, v) :: post → (∀ e ∈ pre, e.1 ≠ f.val) → ∃ t, exec (.mrExtendDone f) s = .next t ∧
      fbit t (F.MR_STATUS.BUSY f) = false ∧ OnlyRegs [R.MR_STATUS f] s t ∧ t = { s with regs := t.regs, boot := t.boot } ∧
      t.boot.exts = s.boot.exts.filter (·.1 != f.val) ∧ (∀ n q, mrOf t n q = if n * 8 + q = f.val * 8 + x then v else mrOf s n q))

/-- TAKEOVER_TEST_DONE (R488, R489) returns a fenced core, as understudy or to the number it kept, or makes it failed.
RT_SLICE_START (R491, R492) begins the next covered unit's slice, cyclically, asking the other work on a core under
test to yield; RT_HANDOVER passes its number to the understudy once nothing runs there; RT_CORE_TEST_DONE makes it the
understudy or failed; RT_PIT_SLICE_DONE and RT_CURTAIN_SLICE_DONE (R493) record a mismatch. REHEARSAL_WAVE_DONE (R495,
R498) takes each finding: a repair, new or known, a failed core, Loft or unit; REHEARSAL_DONE (R496, R498) writes the
results, restarts the counts of entries not found, and OFF_READY goes out. SHOW_RECORD_WRITE (R500 to R502, R505)
takes one event: a record, one pending while frozen, a suppressed or a dropped event. FLASH_RECORD_DONE (R503, R504)
programmes a record, or a flash error ends writes. OPSEC_TICK (R499) counts a second, the header rewritten every
1,024. SHOW_FREEZE, SHOW_THAW and SHOW_FREEZE_EXPIRE (R505) freeze the recorder and write what pended, in order.
SHOW_LOAD, SHOW_LOAD_DONE and SHOW_ERASE (R506) read a record by source and age, and erase the rings while frozen.
What the data registers hold with EMPTY is free. (spec/16_rehearsal_and_show_report.md; spec/05_the_pit.md) -/
def Obligations.SelfTestAndShowReport : Prop :=
  (∀ (c : Fin 17) (pass : Bool) (s : State),
    ((∀ f ∈ s.test.fenced, f.core ≠ c.val) → exec (.takeoverTestDone c pass) s = .next s) ∧
    ∀ f pre post n limit, s.test.fenced = pre ++ f :: post → (∀ x ∈ pre, x.core ≠ c.val) → f.core = c.val →
      n = min 3 (transient s c + 1) → limit = max 1 (fget s F.TEST_RT_CFG.TRANSIENT_LIMIT) →
      (pass = true → n < limit → ∃ t, exec (.takeoverTestDone c pass) s = .next t ∧
        t = { s with regs := t.regs, test := { s.test with fenced := pre ++ post } } ∧ transient t c = n ∧
        coreRole t c = (if f.kept then 0 else 1) ∧ lcoreOf t c = (if f.kept then f.num.getD 15 % 16 else 15) ∧
        fget t F.TEST_RT_STATE.UNDERSTUDY = (understudy t).getD 0x1F ∧
        OnlyRegs [R.CORE_ID c, R.TEST_RT_STATE, R.TEST_TRANSIENT0, R.TEST_TRANSIENT1] s t) ∧
      (pass = false ∨ limit ≤ n → ∃ t, exec (.takeoverTestDone c pass) s = .next t ∧
        t.test = { s.test with fenced := pre ++ post } ∧ transient t c = (if pass then n else transient s c) ∧ CoreFails c f.num s t)) ∧
  (∀ (s : State),
    (fbit s F.TEST_RT_CFG.EN = false ∨ s.test.slice.isSome = true ∨ rtUnits s = [] → exec .rtSliceStart s = .next s) ∧
    ∀ u, fbit s F.TEST_RT_CFG.EN = true → s.test.slice = none → (rtUnits s).find? (s.test.cursor ≤ ·) = some u ∨
        ((∀ x ∈ rtUnits s, x < s.test.cursor) ∧ (rtUnits s).head? = some u) →
      (16 ≤ u → ∃ t, exec .rtSliceStart s = .next t ∧ t = { s with
        regs := t.regs
        test := { s.test with slice := some (if u = 16 then RtSlice.pit else RtSlice.curtain (u - 17)), cursor := u + 1 } } ∧
        fget t F.TEST_RT_STATE.PHASE = 3 ∧ OnlyRegs [R.TEST_RT_STATE] s t) ∧
      (∀ p, u < 16 → physOf s u = some p → ∃ t, exec .rtSliceStart s = .next t ∧
        t.test = { s.test with slice := some (.core p u false), cursor := u + 1 } ∧ fget t F.TEST_RT_STATE.PHASE = 1 ∧
        fget t F.TEST_RT_STATE.PCORE = p ∧ fget t F.TEST_RT_STATE.LOGICAL = u ∧ t.mem = s.mem ∧ t.cores = s.cores ∧
        (cuesOn s p = [] → t = { s with regs := t.regs, test := t.test } ∧ OnlyRegs [R.TEST_RT_STATE] s t) ∧
        ∀ x ∈ (cuesOn s p).map (cidOfCue s), (∀ w ∈ cuesOn s p, isChainCue s w = true → cidOfCue s w ≠ x) →
          Preempt.busy s ⟨x, p, none, false, false⟩ = true → ∃ q ∈ t.preempts, q.cid = x ∧ q.core = p ∧ q.kind = none)) ∧
  (∀ (s : State), ((∀ p l, s.test.slice ≠ some (.core p l false)) → exec .rtHandover s = .next s) ∧
    ∀ p l, s.test.slice = some (.core p l false) → p < 17 →
      (cuesOn s p ≠ [] → exec .rtHandover s = .next (clearFor s p)) ∧
      (cuesOn s p = [] → (∃ n < 32, chainOn s l n = true) ∨ understudy s = none → exec .rtHandover s = .next s) ∧
      (∀ u, cuesOn s p = [] → (∀ n < 32, chainOn s l n = false) → understudy s = some u → u ≠ p → ∃ t, exec .rtHandover s = .next t ∧
        t = { s with regs := t.regs, test := { s.test with slice := some (.core p l true) } } ∧ coreRole t p = 2 ∧
        coreRole t u = 0 ∧ lcoreOf t u = l % 16 ∧ fget t F.TEST_RT_STATE.PHASE = 2 ∧
        OnlyRegs [R.CORE_ID p, R.CORE_ID u, R.TEST_RT_STATE] s t)) ∧
  (∀ (pass : Bool) (s : State), ((∀ p l, s.test.slice ≠ some (.core p l true)) → exec (.rtCoreTestDone pass) s = .next s) ∧
    ∀ p l, s.test.slice = some (.core p l true) → p < 17 → ∃ t, exec (.rtCoreTestDone pass) s = .next t ∧ SliceDone s t ∧
      coreOf t p = { coreOf s p with wgs := [], groups := [] } ∧ (∀ r ∈ t.reqs, r.core ≠ p) ∧
      (pass = true → coreRole t p = 1 ∧ lcoreOf t p = 15 ∧ t.mem = s.mem) ∧ (pass = false → CoreFails p (some l) s t)) ∧
  (∀ (good : Bool) (s : State), (s.test.slice ≠ some .pit → exec (.rtPitSliceDone good) s = .next s) ∧
    (s.test.slice = some .pit → ∃ t, exec (.rtPitSliceDone good) s = .next t ∧ SliceDone s t ∧
      (good = true → t = { s with regs := t.regs, test := t.test } ∧ OnlyRegs [R.TEST_RT_STATE, R.TEST_RT_COUNT] s t) ∧
      (good = false → Raised E.TEST_EVENT.PIT_RT_FAIL s t ∧ Recorded (plainEv cPitRt 0x27 2) s t ∧ t.mem = s.mem))) ∧
  (∀ (o : Fin 3) (s : State), (s.test.slice ≠ some (.curtain o) → exec (.rtCurtainSliceDone o) s = .next s) ∧
    ∀ bad : Bool, s.test.slice = some (.curtain o) → bad = ((outOf s o).moved || (bit (fget s F.TEST_RT_CFG.EXP_VALID) o &&
        rdN s (R.PROSC_DO_CURTAIN_CRC o) != rdN s (R.TEST_CURTAIN_EXP o))) →
      ∃ t, exec (.rtCurtainSliceDone o) s = .next t ∧ SliceDone s t ∧ t.mem = s.mem ∧ outOf t o = { outOf s o with moved := false } ∧
        (bad = false → t = { s with regs := t.regs, test := t.test, outputs := t.outputs } ∧
          OnlyRegs [R.TEST_RT_STATE, R.TEST_RT_COUNT] s t) ∧
        (bad = true → Raised E.TEST_EVENT.CURTAIN_RT_FAIL s t ∧ Recorded (plainEv cCurtainRt 0x27 2) s t)) ∧
  (∀ (s : State), (∀ fs, rehearsing s = false ∨ fs = [] → exec (.rehearsalWaveDone fs) s = .next s) ∧
    ∀ f fs, rehearsing s = true → ∃ t, exec (.rehearsalWaveDone [f]) s = .next t ∧ rehearsing t = true ∧ t.mem = s.mem ∧
      exec (.rehearsalWaveDone (f :: fs)) s = exec (.rehearsalWaveDone fs) t ∧
      (∀ c, f = .coreFail c → CoreFails c none s t) ∧
      (f = .loftFail → t.boot = { s.boot with loftBad := true } ∧ Recorded (plainEv cLoftUnrep 0x27 3) s t) ∧
      (f = .unitFail → Recorded (plainEv cRehFail 0x27 2) s t) ∧
      (∀ e : BitVec 32, f = .repair e →
        (e.toNat ∈ s.test.found → t = s) ∧
        (e.toNat ∉ s.test.found → t.test = { s.test with found := s.test.found ++ [e.toNat] } ∧
          (∀ pre r post, s.repairs = pre ++ r :: post → (∀ x ∈ pre, x.entry ≠ e.toNat) → r.entry = e.toNat →
            t.repairs = pre ++ { r with count := r.count + 1 } :: post ∧ t = { s with test := t.test, repairs := t.repairs }) ∧
          ((∀ r ∈ s.repairs, r.entry ≠ e.toNat) →
            (256 ≤ s.repairs.length → t = { s with test := t.test }) ∧
            (s.repairs.length < 256 → t.repairs = s.repairs ++ [⟨e.toNat, 1⟩] ∧
              fget t F.TEST_REPAIR_STATE.SOFT = s.repairs.length + 1 ∧
              Recorded { plainEv cRepairSoft 0x27 0 with detail := leBytes 4 e.toNat } s t))))) ∧
  (∀ (ok : Bool) (s : State), (rehearsing s = false → exec (.rehearsalDone ok) s = .next s) ∧
    (rehearsing s = true → ∃ t ms, exec (.rehearsalDone ok) s = .next t ∧ fget t F.PWR_STATE.STATE = pOff ∧ t.mem = s.mem ∧
      t.pwr = { s.pwr with entry := none } ∧ t.test = { s.test with found := [] } ∧ t.out = s.out ++ ms ++ [.offReady] ∧
      t.repairs = s.repairs.map (fun r => if r.entry ∈ s.test.found then r else { r with count := 0 }) ∧
      (ok = true → t.boot = { s.boot with lastShutdown := 2 } ∧ ms = [] ∧ OnlyRegs [R.PWR_STATE] s t) ∧
      (ok = false → t.boot = s.boot ∧ t.flash = s.flash ∧ fbit t F.SHOW_STATE.FLASH_OK = false ∧ Raised E.SHOW_EVENT.FLASH_ERR s t))) ∧
  (∀ (seq : Nat) (p : ShowPend) (b : List Byte), b = recordBytes seq p → b.length = 64 ∧ field b 0 4 = seq % 2 ^ 32 ∧
    field b 4 4 = p.opsec % 2 ^ 32 ∧ field b 8 4 = p.cycles % 2 ^ 32 ∧ field b 12 2 = p.ev.code % 2 ^ 16 ∧
    field b 14 1 = p.ev.unit % 2 ^ 8 ∧ field b 15 1 = p.ev.severity % 2 ^ 8 ∧ field b 16 2 = min 0xFFFF p.suppressed ∧
    field b 18 1 = p.ev.pcore % 2 ^ 8 ∧ field b 19 1 = p.ev.fn % 2 ^ 8 ∧ field b 20 2 = p.ev.cid % 2 ^ 16 ∧
    field b 22 2 = p.ms % 2 ^ 16 ∧ (b.drop 24).take 36 = padTo 36 p.ev.detail ∧ field b 60 4 = crc32c (b.take 60) % 2 ^ 32) ∧
  (∀ (ms : Fin 1000) (s : State), (s.recorder.queue = [] → exec (.showRecordWrite ms) s = .next s) ∧
    ∀ e rest, s.recorder.queue = e :: rest → ∃ u,
      exec (.showRecordWrite ms) s = .next (if e.code = cStall ∧ e.unit = 0x06 then firmwareReset u 1 else u) ∧ u.mem = s.mem ∧
      (takeRate s.recorder.rates e.code = none ∨ (fbit s F.SHOW_CTRL.FREEZE = true ∧ 32 ≤ s.recorder.pending.length ∧
          ∀ r ∈ s.recorder.rates, r.code ≠ e.code) →
        u.recorder = { s.recorder with queue := rest } ∧ Raised E.SHOW_EVENT.DROPPED s u ∧
          rdN u R.SHOW_DROPPED_COUNT = min 0xFFFFFFFF (rdN s R.SHOW_DROPPED_COUNT + 1)) ∧
      ∀ r rates n p, takeRate s.recorder.rates e.code = some (r, rates) → n = (if r.minute = rdN s R.SHOW_OPSEC / 60 then r.written else 0) →
        p = (⟨e, rdN s R.SHOW_OPSEC, rdN s R.SHOW_POWER_CYCLES, ms, r.suppressed⟩ : ShowPend) →
        (8 ≤ n → fbit s F.SHOW_CTRL.FREEZE = false ∨ s.recorder.pending.length < 32 →
          u.recorder = { s.recorder with queue := rest, rates := { r with suppressed := min 0xFFFF (r.suppressed + 1) } :: rates } ∧
          Raised E.SHOW_EVENT.SUPPRESSED s u ∧ rdN u R.SHOW_SUPPRESSED_COUNT = min 0xFFFFFFFF (rdN s R.SHOW_SUPPRESSED_COUNT + 1)) ∧
        ((∃ q ∈ s.recorder.rates, q.code = e.code) → fbit s F.SHOW_CTRL.FREEZE = true → 32 ≤ s.recorder.pending.length →
          u.recorder = { s.recorder with queue := rest, rates := { r with suppressed := min 0xFFFF (r.suppressed + 1) } :: rates } ∧
          Raised E.SHOW_EVENT.SUPPRESSED s u) ∧
        (n < 8 → fbit s F.SHOW_CTRL.FREEZE = true → s.recorder.pending.length < 32 → u = { s with
          regs := u.regs
          recorder := { s.recorder with
            queue := rest
            rates := ⟨e.code, rdN s R.SHOW_OPSEC / 60, n + 1, 0⟩ :: rates
            pending := s.recorder.pending ++ [p] } } ∧ fget u F.SHOW_STATE.PENDING = s.recorder.pending.length + 1 ∧
          OnlyRegs [R.SHOW_STATE] s u) ∧
        (n < 8 → fbit s F.SHOW_CTRL.FREEZE = false → u = { s with
          regs := u.regs
          recorder := { s.recorder with
            queue := rest
            rates := ⟨e.code, rdN s R.SHOW_OPSEC / 60, n + 1, 0⟩ :: rates
            ring := (recordBytes (rdN s R.SHOW_SEQ) p :: s.recorder.ring).take 256
            flashQ := if fbit s F.SHOW_STATE.FLASH_OK then s.recorder.flashQ ++ [recordBytes (rdN s R.SHOW_SEQ) p]
              else s.recorder.flashQ } } ∧ rdN u R.SHOW_SEQ = (rdN s R.SHOW_SEQ + 1) % 2 ^ 32 ∧
          OnlyRegs [R.SHOW_STATE, R.SHOW_SEQ] s u)) ∧
  (∀ (ok : Bool) (s : State), (s.recorder.flashQ = [] → exec (.flashRecordDone ok) s = .next s) ∧
    ∀ b rest, s.recorder.flashQ = b :: rest →
      (ok = false ∨ logSlots s = 0 → ∃ t, exec (.flashRecordDone ok) s = .next t ∧ t.recorder = { s.recorder with flashQ := [] } ∧
        t.flash = s.flash ∧ t.mem = s.mem ∧ fbit t F.SHOW_STATE.FLASH_OK = false ∧ Raised E.SHOW_EVENT.FLASH_ERR s t) ∧
      (∀ off, ok = true → logSlots s ≠ 0 → b.length = 64 → off = slotOff s s.recorder.pos → ∃ u,
        exec (.flashRecordDone ok) s = .next (saveHeader u) ∧ u = { s with
          flash := u.flash
          recorder := { s.recorder with flashQ := rest, pos := (s.recorder.pos + 1) % logSlots s } } ∧
        flashRead u off 64 = (if s.recorder.pos % 64 = 0 then b else List.zipWith (· &&& ·) (flashRead s off 64) b) ∧
        ∀ x, x < off ∨ off + (if s.recorder.pos % 64 = 0 then 4096 else 64) ≤ x → mget 0xFF u.flash x = mget 0xFF s.flash x)) ∧
  (∀ (s : State), ∃ u, Alters [R.SHOW_OPSEC] s u ∧ rdN u R.SHOW_OPSEC = (rdN s R.SHOW_OPSEC + 1) % 2 ^ 32 ∧
    exec .opsecTick s = .next (if (rdN s R.SHOW_OPSEC + 1) % 1024 = 0 then saveHeader u else u)) ∧
  (∀ (s : State), (∃ t, exec .showFreeze s = .next t ∧ Alters [R.SHOW_CTRL] s t ∧ fbit t F.SHOW_CTRL.FREEZE = true) ∧
    ∃ t, exec .showThaw s = .next t ∧ fbit t F.SHOW_CTRL.FREEZE = false ∧ OnlyRegs [R.SHOW_CTRL, R.SHOW_STATE, R.SHOW_SEQ] s t ∧
      t = { s with regs := t.regs, recorder := { s.recorder with pending := [], ring := t.recorder.ring, flashQ := t.recorder.flashQ } } ∧
      rdN t R.SHOW_SEQ = (rdN s R.SHOW_SEQ + s.recorder.pending.length) % 2 ^ 32 ∧
      (∀ new, new = ((upTo s.recorder.pending.length).zip s.recorder.pending).map (fun q =>
          recordBytes ((rdN s R.SHOW_SEQ + q.1) % 2 ^ 32) q.2) → s.recorder.ring.length ≤ 256 →
        t.recorder.ring = (new.reverse ++ s.recorder.ring).take 256 ∧
        t.recorder.flashQ = if fbit s F.SHOW_STATE.FLASH_OK then s.recorder.flashQ ++ new else s.recorder.flashQ) ∧
      (fbit s F.SHOW_CTRL.FREEZE = false → exec .showFreezeExpire s = .next s) ∧
      (fbit s F.SHOW_CTRL.FREEZE = true → ∃ u, exec .showFreezeExpire s = .next u ∧ u.recorder = t.recorder ∧ u.mem = s.mem ∧
        fbit u F.SHOW_CTRL.FREEZE = false ∧ Raised E.SHOW_EVENT.THAWED s u)) ∧
  (∀ (s : State),
    (∃ t, exec .showLoad s = .next t ∧ t = { s with
      regs := t.regs
      recorder := { s.recorder with load := some (fbit s F.SHOW_RD_SEL.SRC, fget s F.SHOW_RD_SEL.AGE) } } ∧
      rdN t R.SHOW_RD_STATUS = 1 ∧ OnlyRegs [R.SHOW_RD_STATUS] s t) ∧
    (s.recorder.load = none → exec .showLoadDone s = .next s) ∧
    (∀ src age, s.recorder.load = some (src, age) → ∃ t, exec .showLoadDone s = .next t ∧
      t = { s with regs := t.regs, free := t.free, recorder := { s.recorder with load := none } } ∧
      OnlyRegs (R.SHOW_RD_STATUS :: (upTo 16).map R.SHOW_RD_DATA) s t ∧
      (recordAt s src age = none → rdN t R.SHOW_RD_STATUS = 4) ∧
      ∀ b, recordAt s src age = some b → (∀ k < 16, rdN t (R.SHOW_RD_DATA k) = field b (4 * k) 4) ∧
        rdN t R.SHOW_RD_STATUS = if field b 60 4 = crc32c (b.take 60) then 2 else 0) ∧
    (fbit s F.SHOW_CTRL.FREEZE = false → exec .showErase s = .next s) ∧
    (fbit s F.SHOW_CTRL.FREEZE = true → ∃ t, exec .showErase s = .next t ∧ t = { s with
      regs := t.regs
      flash := t.flash
      recorder := { s.recorder with ring := [], pos := 0 } } ∧ rdN t R.SHOW_SEQ = 0 ∧ fget t F.SHOW_STATE.COUNT = 0 ∧
      OnlyRegs [R.SHOW_SEQ, R.SHOW_STATE] s t ∧ ∀ x, mget 0xFF t.flash x =
        if slotOff s 0 ≤ x ∧ x < slotOff s 0 + 4096 * (logSlots s / 64) then 0xFF else mget 0xFF s.flash x))
end

