-- ==== Sys2Proof/Laws/Maps.lean ====
section
/-! SUPPORT. Laws of the sparse maps of SMap: a read after a write, a write leaves every other address alone, and every
operation keeps the canonical form. -/

namespace Sys2Proof.Machine

variable {α : Type}

theorem mget_minsert_same (d : α) (m : SMap α) (k : Nat) (v : α) : mget d (minsert k v m) k = v := by
  induction m with
  | nil => simp [minsert, mget]
  | cons p m ih =>
    obtain ⟨a, w⟩ := p
    simp only [minsert]
    split
    · simp [mget]
    · split
      · simp [mget]
      · simp [mget, *]

theorem mget_minsert_other (d : α) (m : SMap α) (k j : Nat) (v : α) (h : j ≠ k) :
    mget d (minsert k v m) j = mget d m j := by
  induction m with
  | nil => simp [minsert, mget, h.symm]
  | cons p m ih =>
    obtain ⟨a, w⟩ := p
    simp only [minsert]
    split
    · simp [mget, h.symm]
    · split
      · subst_vars; simp [mget, h.symm]
      · simp [mget, ih]

theorem mget_merase_same (d : α) (m : SMap α) (k : Nat) : mget d (merase k m) k = d := by
  induction m with
  | nil => rfl
  | cons p m ih =>
    obtain ⟨a, w⟩ := p
    by_cases h : a = k
    · simpa [merase, h] using ih
    · simp only [merase, List.filter_cons] at ih ⊢
      simpa [h, mget] using ih

theorem mget_merase_other (d : α) (m : SMap α) (k j : Nat) (h : j ≠ k) : mget d (merase k m) j = mget d m j := by
  induction m with
  | nil => rfl
  | cons p m ih =>
    obtain ⟨a, w⟩ := p
    simp only [merase, List.filter_cons] at ih ⊢
    by_cases hk : a = k
    · subst hk
      simpa [mget, h.symm] using ih
    · simp [hk, mget, ih]

section
variable [DecidableEq α]

theorem mget_mput_same (d : α) (m : SMap α) (k : Nat) (v : α) : mget d (mput d m k v) k = v := by
  unfold mput
  split
  · simp [mget_merase_same, *]
  · exact mget_minsert_same ..

theorem mget_mput_other (d : α) (m : SMap α) (k j : Nat) (v : α) (h : j ≠ k) : mget d (mput d m k v) j = mget d m j := by
  unfold mput
  split
  · exact mget_merase_other _ _ _ _ h
  · exact mget_minsert_other _ _ _ _ _ h

/-- What a written address, and any other, reads as. -/
theorem mget_mput (d : α) (m : SMap α) (k j : Nat) (v : α) :
    mget d (mput d m k v) j = if j = k then v else mget d m j := by
  split
  · subst_vars; exact mget_mput_same ..
  · exact mget_mput_other _ _ _ _ _ ‹_›

/-- Bytes written at consecutive addresses: inside the range the bytes, outside what was there. -/
theorem mget_mputs_outside (d : α) (vs : List α) (m : SMap α) (k j : Nat) (h : j < k ∨ k + vs.length ≤ j) :
    mget d (mputs d m k vs) j = mget d m j := by
  induction vs generalizing m k with
  | nil => rfl
  | cons v vs ih =>
    simp only [List.length_cons] at h
    rw [mputs, ih _ _ (by omega), mget_mput_other _ _ _ _ _ (by omega)]

theorem mwfFrom_mono (d : α) {lo lo' : Nat} (h : lo' ≤ lo) {m : SMap α} (hm : mwfFrom d lo m = true) :
    mwfFrom d lo' m = true := by
  cases m with
  | nil => rfl
  | cons p m =>
    obtain ⟨a, v⟩ := p
    simp only [mwfFrom, Bool.and_eq_true, decide_eq_true_eq] at hm ⊢
    exact ⟨⟨by omega, hm.1.2⟩, hm.2⟩

theorem mwfFrom_minsert (d : α) (k : Nat) (v : α) (hv : v ≠ d) (m : SMap α) (lo : Nat) (hlo : lo ≤ k)
    (hm : mwfFrom d lo m = true) : mwfFrom d lo (minsert k v m) = true := by
  induction m generalizing lo with
  | nil => simp [minsert, mwfFrom, hv, hlo]
  | cons p m ih =>
    obtain ⟨a, w⟩ := p
    simp only [mwfFrom, Bool.and_eq_true, decide_eq_true_eq] at hm
    simp only [minsert]
    split
    · simp only [mwfFrom, Bool.and_eq_true, decide_eq_true_eq]
      exact ⟨⟨hlo, hv⟩, ⟨by omega, hm.1.2⟩, hm.2⟩
    · split
      · subst_vars
        simp only [mwfFrom, Bool.and_eq_true, decide_eq_true_eq]
        exact ⟨⟨hlo, hv⟩, hm.2⟩
      · simp only [mwfFrom, Bool.and_eq_true, decide_eq_true_eq]
        exact ⟨hm.1, ih _ (by omega) hm.2⟩

theorem mwfFrom_filter (d : α) (p : Nat × α → Bool) (m : SMap α) (lo : Nat) (hm : mwfFrom d lo m = true) :
    mwfFrom d lo (m.filter p) = true := by
  induction m generalizing lo with
  | nil => rfl
  | cons q m ih =>
    obtain ⟨a, w⟩ := q
    simp only [mwfFrom, Bool.and_eq_true, decide_eq_true_eq] at hm
    rw [List.filter_cons]
    split
    · simp only [mwfFrom, Bool.and_eq_true, decide_eq_true_eq]
      exact ⟨hm.1, ih _ hm.2⟩
    · exact ih _ (mwfFrom_mono d (by omega) hm.2)

/-- Leaving entries out keeps the canonical form. -/
theorem mwf_filter (d : α) (p : Nat × α → Bool) (m : SMap α) (hm : mwf d m = true) : mwf d (m.filter p) = true :=
  mwfFrom_filter d p m 0 hm

/-- A listed write of a value that is not the default keeps the canonical form. -/
theorem mwf_minsert (d : α) (m : SMap α) (k : Nat) (v : α) (hv : v ≠ d) (hm : mwf d m = true) :
    mwf d (minsert k v m) = true :=
  mwfFrom_minsert d k v hv m 0 (by omega) hm

/-- A write keeps the canonical form. -/
theorem mwf_mput (d : α) (m : SMap α) (k : Nat) (v : α) (hm : mwf d m = true) : mwf d (mput d m k v) = true := by
  unfold mput
  split
  · exact mwf_filter _ _ _ hm
  · exact mwf_minsert _ _ _ _ ‹_› hm

theorem mwf_mputs (d : α) (vs : List α) (m : SMap α) (k : Nat) (hm : mwf d m = true) : mwf d (mputs d m k vs) = true := by
  induction vs generalizing m k with
  | nil => exact hm
  | cons v vs ih => exact ih _ _ (mwf_mput d m k v hm)

theorem mwf_mmod (d : α) (m : SMap α) (k : Nat) (f : α → α) (hm : mwf d m = true) : mwf d (mmod d m k f) = true :=
  mwf_mput d m k _ hm

/-- Writes of a list of entries keep the canonical form. -/
theorem mwf_foldl_mput {β : Type} (d : α) (key : β → Nat) (val : β → α) (l : List β) (m : SMap α) (hm : mwf d m = true) :
    mwf d (l.foldl (fun m p => mput d m (key p) (val p)) m) = true := by
  induction l generalizing m with
  | nil => exact hm
  | cons p l ih => exact ih _ (mwf_mput d m _ _ hm)

/-- A mapped map is in canonical form, whatever it was made from. -/
theorem mwf_mmap (d : α) (f : Nat → α → α) (m : SMap α) : mwf d (mmap d f m) = true :=
  mwf_foldl_mput d (fun p : Nat × α => p.1) (fun p => f p.1 (mget d m p.1)) m [] rfl

theorem mget_unlisted (d : α) (m : SMap α) (k : Nat) (h : ∀ p ∈ m, p.1 ≠ k) : mget d m k = d := by
  induction m with
  | nil => rfl
  | cons p m ih =>
    have hp := h p (by simp)
    simp only [mget, hp, if_false]
    exact ih fun q hq => h q (by simp [hq])

theorem mget_foldl_images (d : α) (g : Nat → α) (l : SMap α) (acc : SMap α) (k : Nat) :
    mget d (l.foldl (fun acc p => mput d acc p.1 (g p.1)) acc) k =
      if ∃ p ∈ l, p.1 = k then g k else mget d acc k := by
  induction l generalizing acc with
  | nil => simp
  | cons p l ih =>
    rw [List.foldl_cons, ih, mget_mput]
    by_cases hl : ∃ q ∈ l, q.1 = k
    · have : ∃ q ∈ p :: l, q.1 = k := by obtain ⟨q, hq, e⟩ := hl; exact ⟨q, by simp [hq], e⟩
      rw [if_pos hl, if_pos this]
    · by_cases hp : p.1 = k
      · have : ∃ q ∈ p :: l, q.1 = k := ⟨p, by simp, hp⟩
        rw [if_neg hl, if_pos hp.symm, if_pos this, hp]
      · have : ¬ ∃ q ∈ p :: l, q.1 = k := by
          rintro ⟨q, hq, e⟩
          rcases List.mem_cons.mp hq with rfl | hq
          · exact hp e
          · exact hl ⟨q, hq, e⟩
        rw [if_neg hl, if_neg (Ne.symm hp), if_neg this]

/-- What a mapped map reads as, where the default's image is the default. -/
theorem mget_mmap (d : α) (f : Nat → α → α) (m : SMap α) (k : Nat) (hf : f k d = d) :
    mget d (mmap d f m) k = f k (mget d m k) := by
  refine (mget_foldl_images d (fun j => f j (mget d m j)) m [] k).trans ?_
  by_cases h : ∃ p ∈ m, p.1 = k
  · rw [if_pos h]
  · rw [if_neg h, mget_unlisted d m k fun p hp e => h ⟨p, hp, e⟩, hf]
    rfl

end

end Sys2Proof.Machine
end

