-- ==== Sys2Proof/Laws/Regs.lean ====
section
/-! SUPPORT. Laws of registers, fields, flags and memory: what a read returns after a write, and that the canonical form
is kept. -/

namespace Sys2Proof.Machine

open Sys2Proof

theorem rd_wr (s : State) (r a : Nat) (v : W32) : rd (wr s r v) a = if a = r then v else rd s a := mget_mput ..
@[simp] theorem rd_wr_same (s : State) (r : Nat) (v : W32) : rd (wr s r v) r = v := mget_mput_same ..
theorem rd_wr_other (s : State) (r a : Nat) (v : W32) (h : a ≠ r) : rd (wr s r v) a = rd s a :=
  mget_mput_other _ _ _ _ _ h

theorem rdN_lt (s : State) (r : Nat) : rdN s r < 2 ^ 32 := (rd s r).isLt
@[simp] theorem rdN_wrN_same (s : State) (r v : Nat) : rdN (wrN s r v) r = v % 2 ^ 32 := by
  simp [rdN, wrN]
theorem rdN_wrN_other (s : State) (r a v : Nat) (h : a ≠ r) : rdN (wrN s r v) a = rdN s a := by
  simp [rdN, wrN, rd_wr_other _ _ _ _ h]

theorem bits_lt (v hi lo : Nat) : bits v hi lo < 2 ^ (hi + 1 - lo) := Nat.mod_lt _ (by positivity)

/-- The replaced bits read as the low bits of what was written. -/
theorem bits_putBits_same (v hi lo x : Nat) (h : lo ≤ hi) : bits (putBits v hi lo x) hi lo = x % 2 ^ (hi + 1 - lo) := by
  unfold bits putBits
  have hp : 2 ^ (hi + 1) = 2 ^ lo * 2 ^ (hi + 1 - lo) := by rw [← pow_add]; congr 1; omega
  have h0 : 0 < 2 ^ lo := by positivity
  rw [hp, mul_assoc, add_assoc, ← mul_add, Nat.add_mul_div_left _ _ h0, Nat.div_eq_of_lt (Nat.mod_lt _ h0), zero_add,
    Nat.add_mul_mod_self_left, Nat.mod_mod]

/-- Fields above the replaced bits stay. -/
theorem bits_putBits_above (v hi lo x hi' lo' : Nat) (h : hi < lo') (hl : lo ≤ hi) :
    bits (putBits v hi lo x) hi' lo' = bits v hi' lo' := by
  unfold bits putBits
  have hp : 2 ^ (hi + 1) = 2 ^ lo * 2 ^ (hi + 1 - lo) := by rw [← pow_add]; congr 1; omega
  have hq : 2 ^ lo' = 2 ^ (hi + 1) * 2 ^ (lo' - (hi + 1)) := by rw [← pow_add]; congr 1; omega
  have h0 : 0 < 2 ^ lo := by positivity
  have h1 : 0 < 2 ^ (hi + 1 - lo) := by positivity
  have hlt : v % 2 ^ lo + 2 ^ lo * (x % 2 ^ (hi + 1 - lo)) < 2 ^ (hi + 1) := by
    rw [hp]
    have a := Nat.mod_lt v h0
    have b := Nat.mod_lt x h1
    nlinarith
  rw [hq, ← Nat.div_div_eq_div_mul, ← Nat.div_div_eq_div_mul, Nat.add_mul_div_left _ _ (by positivity : 0 < 2 ^ (hi + 1)),
    Nat.div_eq_of_lt hlt, zero_add]

/-- Fields below the replaced bits stay. -/
theorem bits_putBits_below (v hi lo x hi' lo' : Nat) (h : hi' < lo) (hl : lo ≤ hi) :
    bits (putBits v hi lo x) hi' lo' = bits v hi' lo' := by
  unfold bits putBits
  by_cases hh : lo' ≤ hi'
  · have e : 2 ^ lo = 2 ^ lo' * 2 ^ (hi' + 1 - lo') * 2 ^ (lo - (hi' + 1)) := by rw [← pow_add, ← pow_add]; congr 1; omega
    have e2 : 2 ^ (hi + 1) = 2 ^ lo * 2 ^ (hi + 1 - lo) := by rw [← pow_add]; congr 1; omega
    rw [e2]
    have key : ∀ w : Nat, (v % 2 ^ lo + 2 ^ lo * w) / 2 ^ lo' % 2 ^ (hi' + 1 - lo') = v / 2 ^ lo' % 2 ^ (hi' + 1 - lo') := by
      intro w
      have h0 : 0 < 2 ^ lo' := by positivity
      have c : ∀ n : Nat, n / 2 ^ lo' % 2 ^ (hi' + 1 - lo') = n % (2 ^ lo' * 2 ^ (hi' + 1 - lo')) / 2 ^ lo' := fun n =>
        (Nat.mod_mul_right_div_self n (2 ^ lo') (2 ^ (hi' + 1 - lo'))).symm
      rw [c, c]
      congr 1
      rw [e, mul_assoc (2 ^ lo' * _), Nat.add_mul_mod_self_left]
      exact Nat.mod_mul_right_mod _ _ _
    have := key (x % 2 ^ (hi + 1 - lo) + 2 ^ (hi + 1 - lo) * (v / (2 ^ lo * 2 ^ (hi + 1 - lo))))
    rw [mul_add, ← mul_assoc, ← add_assoc] at this
    exact this
  · have : hi' + 1 - lo' = 0 := by omega
    simp [this, Nat.mod_one]

theorem putBits_lt (v hi lo x : Nat) (hl : lo ≤ hi) (hh : hi < 32) (hv : v < 2 ^ 32) : putBits v hi lo x < 2 ^ 32 := by
  unfold putBits
  have hp : 2 ^ (hi + 1) = 2 ^ lo * 2 ^ (hi + 1 - lo) := by rw [← pow_add]; congr 1; omega
  have hq : 2 ^ 32 = 2 ^ (hi + 1) * 2 ^ (32 - (hi + 1)) := by rw [← pow_add]; congr 1; omega
  have h0 : 0 < 2 ^ lo := by positivity
  have h1 : 0 < 2 ^ (hi + 1 - lo) := by positivity
  have hlt : v % 2 ^ lo + 2 ^ lo * (x % 2 ^ (hi + 1 - lo)) < 2 ^ (hi + 1) := by
    rw [hp]
    have a := Nat.mod_lt v h0
    have b := Nat.mod_lt x h1
    nlinarith
  have hd : v / 2 ^ (hi + 1) < 2 ^ (32 - (hi + 1)) := by
    apply Nat.div_lt_of_lt_mul
    rw [← hq]; exact hv
  rw [hq]
  calc _ < 2 ^ (hi + 1) + 2 ^ (hi + 1) * (v / 2 ^ (hi + 1)) := by omega
    _ = 2 ^ (hi + 1) * (v / 2 ^ (hi + 1) + 1) := by ring
    _ ≤ _ := Nat.mul_le_mul_left _ hd

/-- A field reads as it was written. -/
theorem fget_fset_same (s : State) (f : Fld) (v : Nat) (hl : f.lo ≤ f.hi) (hh : f.hi < 32) :
    fget (fset s f v) f = v % 2 ^ (f.hi + 1 - f.lo) := by
  unfold fget fset
  rw [rdN_wrN_same, Nat.mod_eq_of_lt (putBits_lt _ _ _ _ hl hh (rdN_lt _ _)), bits_putBits_same _ _ _ _ hl]

/-- A field of another register stays. -/
theorem fget_fset_reg (s : State) (f g : Fld) (v : Nat) (h : g.reg ≠ f.reg) : fget (fset s f v) g = fget s g := by
  unfold fget fset
  rw [rdN_wrN_other _ _ _ _ h]

/-- A field of the same register that shares no bit stays. -/
theorem fget_fset_disjoint (s : State) (f g : Fld) (v : Nat) (hr : g.reg = f.reg) (hl : f.lo ≤ f.hi) (hh : f.hi < 32)
    (h : f.hi < g.lo ∨ g.hi < f.lo) : fget (fset s f v) g = fget s g := by
  unfold fget fset
  rw [hr, rdN_wrN_same, Nat.mod_eq_of_lt (putBits_lt _ _ _ _ hl hh (rdN_lt _ _))]
  rcases h with h | h
  · exact bits_putBits_above _ _ _ _ _ _ h hl
  · exact bits_putBits_below _ _ _ _ _ _ h hl

theorem rd_fset_other (s : State) (f : Fld) (v a : Nat) (h : a ≠ f.reg) : rd (fset s f v) a = rd s a :=
  rd_wr_other _ _ _ _ h

theorem OnlyRegs.refl (l : List Nat) (s : State) : OnlyRegs l s s := fun _ _ => rfl
theorem OnlyRegs.trans {l : List Nat} {s t u : State} (h : OnlyRegs l s t) (k : OnlyRegs l t u) : OnlyRegs l s u :=
  fun a ha => (k a ha).trans (h a ha)
theorem OnlyRegs.mono {l m : List Nat} {s t : State} (h : OnlyRegs l s t) (hlm : ∀ a ∈ l, a ∈ m) : OnlyRegs m s t :=
  fun a ha => h a fun k => ha (hlm a k)
theorem OnlyRegs_wr (s : State) (r : Nat) (v : W32) : OnlyRegs [r] s (wr s r v) := fun a ha =>
  rd_wr_other _ _ _ _ (by simpa using ha)
theorem OnlyRegs_fset (s : State) (f : Fld) (v : Nat) : OnlyRegs [f.reg] s (fset s f v) :=
  OnlyRegs_wr s f.reg _
theorem OnlyRegs_raise (s : State) (f : Flag) : OnlyRegs [f.bit.reg, f.evt.reg] s (raise s f) :=
  OnlyRegs.trans (OnlyRegs.mono (OnlyRegs_fset s f.bit 1) (by simp)) (OnlyRegs.mono (OnlyRegs_fset _ f.evt _) (by simp))

theorem RegsAlone_refl (s : State) : RegsAlone s s := rfl
theorem RegsAlone_wr (s : State) (r : Nat) (v : W32) : RegsAlone s (wr s r v) := rfl
theorem RegsAlone_fset (s : State) (f : Fld) (v : Nat) : RegsAlone s (fset s f v) := rfl
theorem RegsAlone_raise (s : State) (f : Flag) : RegsAlone s (raise s f) := rfl

/-- What raising a flag does, for a flag whose counter stands in another register. -/
theorem raised_raise (s : State) (f : Flag) (h : f.bit.reg ≠ f.evt.reg) (h1 : f.bit.lo = f.bit.hi) (h2 : f.bit.hi < 32)
    (h3 : f.evt.hi = f.evt.lo + 15) (h4 : f.evt.hi < 32) : Raised f s (raise s f) := by
  constructor
  · unfold raise
    rw [fget_fset_reg _ _ _ _ h, fget_fset_same _ _ _ (by omega) h2, h1]; simp
  · unfold raise
    rw [fget_fset_same _ _ _ (by omega) h4, h3]
    congr 2; omega

/-- What raising a flag does, for a flag whose counter stands in its own register above it. -/
theorem raised_raise_own (s : State) (f : Flag) (h : f.evt.reg = f.bit.reg) (h1 : f.bit.lo = f.bit.hi)
    (h2 : f.bit.hi < f.evt.lo) (h3 : f.evt.hi = f.evt.lo + 15) (h4 : f.evt.hi < 32) : Raised f s (raise s f) := by
  constructor
  · unfold raise
    rw [fget_fset_disjoint _ _ _ _ h.symm (by omega) (by omega) (by omega), fget_fset_same _ _ _ (by omega) (by omega), h1]
    simp
  · unfold raise
    rw [fget_fset_same _ _ _ (by omega) h4, h3]
    congr 2; omega

/-! ## Memory -/

theorem memByte_memWrite_outside (s : State) (a x : Nat) (bs : List Byte) (h : x < a ∨ a + bs.length ≤ x) :
    memByte (memWrite s a bs) x = memByte s x := mget_mputs_outside _ _ _ _ _ h

/-! ## Canonical form -/

theorem canonical_reset_stores : Canonical { State.reset with regs := [] } := ⟨rfl, rfl, rfl⟩
theorem Canonical.wr {s : State} (h : Canonical s) (r : Nat) (v : W32) : Canonical (wr s r v) :=
  ⟨mwf_mput _ _ _ _ h.1, h.2⟩
theorem Canonical.fset {s : State} (h : Canonical s) (f : Fld) (v : Nat) : Canonical (fset s f v) := h.wr ..
theorem Canonical.raise {s : State} (h : Canonical s) (f : Flag) : Canonical (raise s f) := (h.fset ..).fset ..
theorem Canonical.memWrite {s : State} (h : Canonical s) (a : Nat) (bs : List Byte) : Canonical (memWrite s a bs) :=
  ⟨h.1, mwf_mputs _ _ _ _ h.2.1, h.2.2⟩
theorem Canonical.devWrite {s : State} (h : Canonical s) (a : Nat) (bs : List Byte) : Canonical (devWrite s a bs) :=
  h.memWrite a bs

end Sys2Proof.Machine
end

