-- ==== Sys2Proof/Laws/State.lean ====
section
/-! SUPPORT. The fields of the state after each shared update: the ones the update leaves alone. The field an update
changes has its law in Regs or Maps. -/

namespace Sys2Proof.Machine

open Sys2Proof

variable (s : State)

@[simp] theorem wr_pending (r : Nat) (v : W32) : (wr s r v).pending = s.pending := rfl
@[simp] theorem wr_applied (r : Nat) (v : W32) : (wr s r v).applied = s.applied := rfl
@[simp] theorem wr_committed (r : Nat) (v : W32) : (wr s r v).committed = s.committed := rfl
@[simp] theorem wr_scLocked (r : Nat) (v : W32) : (wr s r v).scLocked = s.scLocked := rfl
@[simp] theorem wr_loHeld (r : Nat) (v : W32) : (wr s r v).loHeld = s.loHeld := rfl
@[simp] theorem wr_hiLatch (r : Nat) (v : W32) : (wr s r v).hiLatch = s.hiLatch := rfl
@[simp] theorem wr_bus (r : Nat) (v : W32) : (wr s r v).bus = s.bus := rfl
@[simp] theorem wr_waitAcc (r : Nat) (v : W32) : (wr s r v).waitAcc = s.waitAcc := rfl
@[simp] theorem wr_free (r : Nat) (v : W32) : (wr s r v).free = s.free := rfl
@[simp] theorem wr_fio (r : Nat) (v : W32) : (wr s r v).fio = s.fio := rfl
@[simp] theorem wr_mem (r : Nat) (v : W32) : (wr s r v).mem = s.mem := rfl
@[simp] theorem wr_out (r : Nat) (v : W32) : (wr s r v).out = s.out := rfl
@[simp] theorem wr_msix (r : Nat) (v : W32) : (wr s r v).msix = s.msix := rfl
@[simp] theorem wr_caches (r : Nat) (v : W32) : (wr s r v).caches = s.caches := rfl
@[simp] theorem wr_reqs (r : Nat) (v : W32) : (wr s r v).reqs = s.reqs := rfl
@[simp] theorem wr_nextReq (r : Nat) (v : W32) : (wr s r v).nextReq = s.nextReq := rfl
@[simp] theorem wr_buckets (r : Nat) (v : W32) : (wr s r v).buckets = s.buckets := rfl
@[simp] theorem wr_scrubRow (r : Nat) (v : W32) : (wr s r v).scrubRow = s.scrubRow := rfl
@[simp] theorem wr_memcLine (r : Nat) (v : W32) : (wr s r v).memcLine = s.memcLine := rfl
@[simp] theorem wr_ueWords (r : Nat) (v : W32) : (wr s r v).ueWords = s.ueWords := rfl
@[simp] theorem wr_cores (r : Nat) (v : W32) : (wr s r v).cores = s.cores := rfl
@[simp] theorem wr_launches (r : Nat) (v : W32) : (wr s r v).launches = s.launches := rfl
@[simp] theorem wr_endedWgs (r : Nat) (v : W32) : (wr s r v).endedWgs = s.endedWgs := rfl
@[simp] theorem wr_tensors (r : Nat) (v : W32) : (wr s r v).tensors = s.tensors := rfl
@[simp] theorem wr_weights (r : Nat) (v : W32) : (wr s r v).weights = s.weights := rfl
@[simp] theorem wr_prefetched (r : Nat) (v : W32) : (wr s r v).prefetched = s.prefetched := rfl
@[simp] theorem wr_cues (r : Nat) (v : W32) : (wr s r v).cues = s.cues := rfl
@[simp] theorem wr_nextUid (r : Nat) (v : W32) : (wr s r v).nextUid = s.nextUid := rfl
@[simp] theorem wr_follows (r : Nat) (v : W32) : (wr s r v).follows = s.follows := rfl
@[simp] theorem wr_copies (r : Nat) (v : W32) : (wr s r v).copies = s.copies := rfl
@[simp] theorem wr_stops (r : Nat) (v : W32) : (wr s r v).stops = s.stops := rfl
@[simp] theorem wr_followFails (r : Nat) (v : W32) : (wr s r v).followFails = s.followFails := rfl
@[simp] theorem wr_rings (r : Nat) (v : W32) : (wr s r v).rings = s.rings := rfl
@[simp] theorem wr_ctxs (r : Nat) (v : W32) : (wr s r v).ctxs = s.ctxs := rfl
@[simp] theorem wr_fences (r : Nat) (v : W32) : (wr s r v).fences = s.fences := rfl
@[simp] theorem wr_sems (r : Nat) (v : W32) : (wr s r v).sems = s.sems := rfl
@[simp] theorem wr_faultReps (r : Nat) (v : W32) : (wr s r v).faultReps = s.faultReps := rfl
@[simp] theorem wr_streams (r : Nat) (v : W32) : (wr s r v).streams = s.streams := rfl
@[simp] theorem wr_saps (r : Nat) (v : W32) : (wr s r v).saps = s.saps := rfl
@[simp] theorem wr_raster (r : Nat) (v : W32) : (wr s r v).raster = s.raster := rfl
@[simp] theorem wr_savedPasses (r : Nat) (v : W32) : (wr s r v).savedPasses = s.savedPasses := rfl
@[simp] theorem wr_comps (r : Nat) (v : W32) : (wr s r v).comps = s.comps := rfl
@[simp] theorem wr_reports (r : Nat) (v : W32) : (wr s r v).reports = s.reports := rfl
@[simp] theorem wr_layers (r : Nat) (v : W32) : (wr s r v).layers = s.layers := rfl
@[simp] theorem wr_outputs (r : Nat) (v : W32) : (wr s r v).outputs = s.outputs := rfl
@[simp] theorem wr_link (r : Nat) (v : W32) : (wr s r v).link = s.link := rfl
@[simp] theorem wr_preempts (r : Nat) (v : W32) : (wr s r v).preempts = s.preempts := rfl
@[simp] theorem wr_images (r : Nat) (v : W32) : (wr s r v).images = s.images := rfl
@[simp] theorem wr_nextImage (r : Nat) (v : W32) : (wr s r v).nextImage = s.nextImage := rfl
@[simp] theorem wr_savedWgs (r : Nat) (v : W32) : (wr s r v).savedWgs = s.savedWgs := rfl
@[simp] theorem wr_tags (r : Nat) (v : W32) : (wr s r v).tags = s.tags := rfl
@[simp] theorem wr_badTags (r : Nat) (v : W32) : (wr s r v).badTags = s.badTags := rfl
@[simp] theorem wr_tagJob (r : Nat) (v : W32) : (wr s r v).tagJob = s.tagJob := rfl
@[simp] theorem wr_tc (r : Nat) (v : W32) : (wr s r v).tc = s.tc := rfl
@[simp] theorem wr_wc (r : Nat) (v : W32) : (wr s r v).wc = s.wc := rfl
@[simp] theorem wr_helds (r : Nat) (v : W32) : (wr s r v).helds = s.helds := rfl
@[simp] theorem wr_invs (r : Nat) (v : W32) : (wr s r v).invs = s.invs := rfl
@[simp] theorem wr_nextInv (r : Nat) (v : W32) : (wr s r v).nextInv = s.nextInv := rfl
@[simp] theorem wr_atsReqs (r : Nat) (v : W32) : (wr s r v).atsReqs = s.atsReqs := rfl
@[simp] theorem wr_hostFails (r : Nat) (v : W32) : (wr s r v).hostFails = s.hostFails := rfl
@[simp] theorem wr_atsEn (r : Nat) (v : W32) : (wr s r v).atsEn = s.atsEn := rfl
@[simp] theorem wr_recorder (r : Nat) (v : W32) : (wr s r v).recorder = s.recorder := rfl
@[simp] theorem wr_repairs (r : Nat) (v : W32) : (wr s r v).repairs = s.repairs := rfl
@[simp] theorem wr_flash (r : Nat) (v : W32) : (wr s r v).flash = s.flash := rfl
@[simp] theorem wr_boot (r : Nat) (v : W32) : (wr s r v).boot = s.boot := rfl
@[simp] theorem wr_sdio (r : Nat) (v : W32) : (wr s r v).sdio = s.sdio := rfl
@[simp] theorem wr_pwr (r : Nat) (v : W32) : (wr s r v).pwr = s.pwr := rfl
@[simp] theorem wr_test (r : Nat) (v : W32) : (wr s r v).test = s.test := rfl

@[simp] theorem wrN_pending (r v : Nat) : (wrN s r v).pending = s.pending := rfl
@[simp] theorem wrN_applied (r v : Nat) : (wrN s r v).applied = s.applied := rfl
@[simp] theorem wrN_committed (r v : Nat) : (wrN s r v).committed = s.committed := rfl
@[simp] theorem wrN_scLocked (r v : Nat) : (wrN s r v).scLocked = s.scLocked := rfl
@[simp] theorem wrN_loHeld (r v : Nat) : (wrN s r v).loHeld = s.loHeld := rfl
@[simp] theorem wrN_hiLatch (r v : Nat) : (wrN s r v).hiLatch = s.hiLatch := rfl
@[simp] theorem wrN_bus (r v : Nat) : (wrN s r v).bus = s.bus := rfl
@[simp] theorem wrN_waitAcc (r v : Nat) : (wrN s r v).waitAcc = s.waitAcc := rfl
@[simp] theorem wrN_free (r v : Nat) : (wrN s r v).free = s.free := rfl
@[simp] theorem wrN_fio (r v : Nat) : (wrN s r v).fio = s.fio := rfl
@[simp] theorem wrN_mem (r v : Nat) : (wrN s r v).mem = s.mem := rfl
@[simp] theorem wrN_out (r v : Nat) : (wrN s r v).out = s.out := rfl
@[simp] theorem wrN_msix (r v : Nat) : (wrN s r v).msix = s.msix := rfl
@[simp] theorem wrN_caches (r v : Nat) : (wrN s r v).caches = s.caches := rfl
@[simp] theorem wrN_reqs (r v : Nat) : (wrN s r v).reqs = s.reqs := rfl
@[simp] theorem wrN_nextReq (r v : Nat) : (wrN s r v).nextReq = s.nextReq := rfl
@[simp] theorem wrN_buckets (r v : Nat) : (wrN s r v).buckets = s.buckets := rfl
@[simp] theorem wrN_scrubRow (r v : Nat) : (wrN s r v).scrubRow = s.scrubRow := rfl
@[simp] theorem wrN_memcLine (r v : Nat) : (wrN s r v).memcLine = s.memcLine := rfl
@[simp] theorem wrN_ueWords (r v : Nat) : (wrN s r v).ueWords = s.ueWords := rfl
@[simp] theorem wrN_cores (r v : Nat) : (wrN s r v).cores = s.cores := rfl
@[simp] theorem wrN_launches (r v : Nat) : (wrN s r v).launches = s.launches := rfl
@[simp] theorem wrN_endedWgs (r v : Nat) : (wrN s r v).endedWgs = s.endedWgs := rfl
@[simp] theorem wrN_tensors (r v : Nat) : (wrN s r v).tensors = s.tensors := rfl
@[simp] theorem wrN_weights (r v : Nat) : (wrN s r v).weights = s.weights := rfl
@[simp] theorem wrN_prefetched (r v : Nat) : (wrN s r v).prefetched = s.prefetched := rfl
@[simp] theorem wrN_cues (r v : Nat) : (wrN s r v).cues = s.cues := rfl
@[simp] theorem wrN_nextUid (r v : Nat) : (wrN s r v).nextUid = s.nextUid := rfl
@[simp] theorem wrN_follows (r v : Nat) : (wrN s r v).follows = s.follows := rfl
@[simp] theorem wrN_copies (r v : Nat) : (wrN s r v).copies = s.copies := rfl
@[simp] theorem wrN_stops (r v : Nat) : (wrN s r v).stops = s.stops := rfl
@[simp] theorem wrN_followFails (r v : Nat) : (wrN s r v).followFails = s.followFails := rfl
@[simp] theorem wrN_rings (r v : Nat) : (wrN s r v).rings = s.rings := rfl
@[simp] theorem wrN_ctxs (r v : Nat) : (wrN s r v).ctxs = s.ctxs := rfl
@[simp] theorem wrN_fences (r v : Nat) : (wrN s r v).fences = s.fences := rfl
@[simp] theorem wrN_sems (r v : Nat) : (wrN s r v).sems = s.sems := rfl
@[simp] theorem wrN_faultReps (r v : Nat) : (wrN s r v).faultReps = s.faultReps := rfl
@[simp] theorem wrN_streams (r v : Nat) : (wrN s r v).streams = s.streams := rfl
@[simp] theorem wrN_saps (r v : Nat) : (wrN s r v).saps = s.saps := rfl
@[simp] theorem wrN_raster (r v : Nat) : (wrN s r v).raster = s.raster := rfl
@[simp] theorem wrN_savedPasses (r v : Nat) : (wrN s r v).savedPasses = s.savedPasses := rfl
@[simp] theorem wrN_comps (r v : Nat) : (wrN s r v).comps = s.comps := rfl
@[simp] theorem wrN_reports (r v : Nat) : (wrN s r v).reports = s.reports := rfl
@[simp] theorem wrN_layers (r v : Nat) : (wrN s r v).layers = s.layers := rfl
@[simp] theorem wrN_outputs (r v : Nat) : (wrN s r v).outputs = s.outputs := rfl
@[simp] theorem wrN_link (r v : Nat) : (wrN s r v).link = s.link := rfl
@[simp] theorem wrN_preempts (r v : Nat) : (wrN s r v).preempts = s.preempts := rfl
@[simp] theorem wrN_images (r v : Nat) : (wrN s r v).images = s.images := rfl
@[simp] theorem wrN_nextImage (r v : Nat) : (wrN s r v).nextImage = s.nextImage := rfl
@[simp] theorem wrN_savedWgs (r v : Nat) : (wrN s r v).savedWgs = s.savedWgs := rfl
@[simp] theorem wrN_tags (r v : Nat) : (wrN s r v).tags = s.tags := rfl
@[simp] theorem wrN_badTags (r v : Nat) : (wrN s r v).badTags = s.badTags := rfl
@[simp] theorem wrN_tagJob (r v : Nat) : (wrN s r v).tagJob = s.tagJob := rfl
@[simp] theorem wrN_tc (r v : Nat) : (wrN s r v).tc = s.tc := rfl
@[simp] theorem wrN_wc (r v : Nat) : (wrN s r v).wc = s.wc := rfl
@[simp] theorem wrN_helds (r v : Nat) : (wrN s r v).helds = s.helds := rfl
@[simp] theorem wrN_invs (r v : Nat) : (wrN s r v).invs = s.invs := rfl
@[simp] theorem wrN_nextInv (r v : Nat) : (wrN s r v).nextInv = s.nextInv := rfl
@[simp] theorem wrN_atsReqs (r v : Nat) : (wrN s r v).atsReqs = s.atsReqs := rfl
@[simp] theorem wrN_hostFails (r v : Nat) : (wrN s r v).hostFails = s.hostFails := rfl
@[simp] theorem wrN_atsEn (r v : Nat) : (wrN s r v).atsEn = s.atsEn := rfl
@[simp] theorem wrN_recorder (r v : Nat) : (wrN s r v).recorder = s.recorder := rfl
@[simp] theorem wrN_repairs (r v : Nat) : (wrN s r v).repairs = s.repairs := rfl
@[simp] theorem wrN_flash (r v : Nat) : (wrN s r v).flash = s.flash := rfl
@[simp] theorem wrN_boot (r v : Nat) : (wrN s r v).boot = s.boot := rfl
@[simp] theorem wrN_sdio (r v : Nat) : (wrN s r v).sdio = s.sdio := rfl
@[simp] theorem wrN_pwr (r v : Nat) : (wrN s r v).pwr = s.pwr := rfl
@[simp] theorem wrN_test (r v : Nat) : (wrN s r v).test = s.test := rfl

@[simp] theorem fset_pending (f : Fld) (v : Nat) : (fset s f v).pending = s.pending := rfl
@[simp] theorem fset_applied (f : Fld) (v : Nat) : (fset s f v).applied = s.applied := rfl
@[simp] theorem fset_committed (f : Fld) (v : Nat) : (fset s f v).committed = s.committed := rfl
@[simp] theorem fset_scLocked (f : Fld) (v : Nat) : (fset s f v).scLocked = s.scLocked := rfl
@[simp] theorem fset_loHeld (f : Fld) (v : Nat) : (fset s f v).loHeld = s.loHeld := rfl
@[simp] theorem fset_hiLatch (f : Fld) (v : Nat) : (fset s f v).hiLatch = s.hiLatch := rfl
@[simp] theorem fset_bus (f : Fld) (v : Nat) : (fset s f v).bus = s.bus := rfl
@[simp] theorem fset_waitAcc (f : Fld) (v : Nat) : (fset s f v).waitAcc = s.waitAcc := rfl
@[simp] theorem fset_free (f : Fld) (v : Nat) : (fset s f v).free = s.free := rfl
@[simp] theorem fset_fio (f : Fld) (v : Nat) : (fset s f v).fio = s.fio := rfl
@[simp] theorem fset_mem (f : Fld) (v : Nat) : (fset s f v).mem = s.mem := rfl
@[simp] theorem fset_out (f : Fld) (v : Nat) : (fset s f v).out = s.out := rfl
@[simp] theorem fset_msix (f : Fld) (v : Nat) : (fset s f v).msix = s.msix := rfl
@[simp] theorem fset_caches (f : Fld) (v : Nat) : (fset s f v).caches = s.caches := rfl
@[simp] theorem fset_reqs (f : Fld) (v : Nat) : (fset s f v).reqs = s.reqs := rfl
@[simp] theorem fset_nextReq (f : Fld) (v : Nat) : (fset s f v).nextReq = s.nextReq := rfl
@[simp] theorem fset_buckets (f : Fld) (v : Nat) : (fset s f v).buckets = s.buckets := rfl
@[simp] theorem fset_scrubRow (f : Fld) (v : Nat) : (fset s f v).scrubRow = s.scrubRow := rfl
@[simp] theorem fset_memcLine (f : Fld) (v : Nat) : (fset s f v).memcLine = s.memcLine := rfl
@[simp] theorem fset_ueWords (f : Fld) (v : Nat) : (fset s f v).ueWords = s.ueWords := rfl
@[simp] theorem fset_cores (f : Fld) (v : Nat) : (fset s f v).cores = s.cores := rfl
@[simp] theorem fset_launches (f : Fld) (v : Nat) : (fset s f v).launches = s.launches := rfl
@[simp] theorem fset_endedWgs (f : Fld) (v : Nat) : (fset s f v).endedWgs = s.endedWgs := rfl
@[simp] theorem fset_tensors (f : Fld) (v : Nat) : (fset s f v).tensors = s.tensors := rfl
@[simp] theorem fset_weights (f : Fld) (v : Nat) : (fset s f v).weights = s.weights := rfl
@[simp] theorem fset_prefetched (f : Fld) (v : Nat) : (fset s f v).prefetched = s.prefetched := rfl
@[simp] theorem fset_cues (f : Fld) (v : Nat) : (fset s f v).cues = s.cues := rfl
@[simp] theorem fset_nextUid (f : Fld) (v : Nat) : (fset s f v).nextUid = s.nextUid := rfl
@[simp] theorem fset_follows (f : Fld) (v : Nat) : (fset s f v).follows = s.follows := rfl
@[simp] theorem fset_copies (f : Fld) (v : Nat) : (fset s f v).copies = s.copies := rfl
@[simp] theorem fset_stops (f : Fld) (v : Nat) : (fset s f v).stops = s.stops := rfl
@[simp] theorem fset_followFails (f : Fld) (v : Nat) : (fset s f v).followFails = s.followFails := rfl
@[simp] theorem fset_rings (f : Fld) (v : Nat) : (fset s f v).rings = s.rings := rfl
@[simp] theorem fset_ctxs (f : Fld) (v : Nat) : (fset s f v).ctxs = s.ctxs := rfl
@[simp] theorem fset_fences (f : Fld) (v : Nat) : (fset s f v).fences = s.fences := rfl
@[simp] theorem fset_sems (f : Fld) (v : Nat) : (fset s f v).sems = s.sems := rfl
@[simp] theorem fset_faultReps (f : Fld) (v : Nat) : (fset s f v).faultReps = s.faultReps := rfl
@[simp] theorem fset_streams (f : Fld) (v : Nat) : (fset s f v).streams = s.streams := rfl
@[simp] theorem fset_saps (f : Fld) (v : Nat) : (fset s f v).saps = s.saps := rfl
@[simp] theorem fset_raster (f : Fld) (v : Nat) : (fset s f v).raster = s.raster := rfl
@[simp] theorem fset_savedPasses (f : Fld) (v : Nat) : (fset s f v).savedPasses = s.savedPasses := rfl
@[simp] theorem fset_comps (f : Fld) (v : Nat) : (fset s f v).comps = s.comps := rfl
@[simp] theorem fset_reports (f : Fld) (v : Nat) : (fset s f v).reports = s.reports := rfl
@[simp] theorem fset_layers (f : Fld) (v : Nat) : (fset s f v).layers = s.layers := rfl
@[simp] theorem fset_outputs (f : Fld) (v : Nat) : (fset s f v).outputs = s.outputs := rfl
@[simp] theorem fset_link (f : Fld) (v : Nat) : (fset s f v).link = s.link := rfl
@[simp] theorem fset_preempts (f : Fld) (v : Nat) : (fset s f v).preempts = s.preempts := rfl
@[simp] theorem fset_images (f : Fld) (v : Nat) : (fset s f v).images = s.images := rfl
@[simp] theorem fset_nextImage (f : Fld) (v : Nat) : (fset s f v).nextImage = s.nextImage := rfl
@[simp] theorem fset_savedWgs (f : Fld) (v : Nat) : (fset s f v).savedWgs = s.savedWgs := rfl
@[simp] theorem fset_tags (f : Fld) (v : Nat) : (fset s f v).tags = s.tags := rfl
@[simp] theorem fset_badTags (f : Fld) (v : Nat) : (fset s f v).badTags = s.badTags := rfl
@[simp] theorem fset_tagJob (f : Fld) (v : Nat) : (fset s f v).tagJob = s.tagJob := rfl
@[simp] theorem fset_tc (f : Fld) (v : Nat) : (fset s f v).tc = s.tc := rfl
@[simp] theorem fset_wc (f : Fld) (v : Nat) : (fset s f v).wc = s.wc := rfl
@[simp] theorem fset_helds (f : Fld) (v : Nat) : (fset s f v).helds = s.helds := rfl
@[simp] theorem fset_invs (f : Fld) (v : Nat) : (fset s f v).invs = s.invs := rfl
@[simp] theorem fset_nextInv (f : Fld) (v : Nat) : (fset s f v).nextInv = s.nextInv := rfl
@[simp] theorem fset_atsReqs (f : Fld) (v : Nat) : (fset s f v).atsReqs = s.atsReqs := rfl
@[simp] theorem fset_hostFails (f : Fld) (v : Nat) : (fset s f v).hostFails = s.hostFails := rfl
@[simp] theorem fset_atsEn (f : Fld) (v : Nat) : (fset s f v).atsEn = s.atsEn := rfl
@[simp] theorem fset_recorder (f : Fld) (v : Nat) : (fset s f v).recorder = s.recorder := rfl
@[simp] theorem fset_repairs (f : Fld) (v : Nat) : (fset s f v).repairs = s.repairs := rfl
@[simp] theorem fset_flash (f : Fld) (v : Nat) : (fset s f v).flash = s.flash := rfl
@[simp] theorem fset_boot (f : Fld) (v : Nat) : (fset s f v).boot = s.boot := rfl
@[simp] theorem fset_sdio (f : Fld) (v : Nat) : (fset s f v).sdio = s.sdio := rfl
@[simp] theorem fset_pwr (f : Fld) (v : Nat) : (fset s f v).pwr = s.pwr := rfl
@[simp] theorem fset_test (f : Fld) (v : Nat) : (fset s f v).test = s.test := rfl

@[simp] theorem wr64_pending (r v : Nat) : (wr64 s r v).pending = s.pending := rfl
@[simp] theorem wr64_applied (r v : Nat) : (wr64 s r v).applied = s.applied := rfl
@[simp] theorem wr64_committed (r v : Nat) : (wr64 s r v).committed = s.committed := rfl
@[simp] theorem wr64_scLocked (r v : Nat) : (wr64 s r v).scLocked = s.scLocked := rfl
@[simp] theorem wr64_loHeld (r v : Nat) : (wr64 s r v).loHeld = s.loHeld := rfl
@[simp] theorem wr64_hiLatch (r v : Nat) : (wr64 s r v).hiLatch = s.hiLatch := rfl
@[simp] theorem wr64_bus (r v : Nat) : (wr64 s r v).bus = s.bus := rfl
@[simp] theorem wr64_waitAcc (r v : Nat) : (wr64 s r v).waitAcc = s.waitAcc := rfl
@[simp] theorem wr64_free (r v : Nat) : (wr64 s r v).free = s.free := rfl
@[simp] theorem wr64_fio (r v : Nat) : (wr64 s r v).fio = s.fio := rfl
@[simp] theorem wr64_mem (r v : Nat) : (wr64 s r v).mem = s.mem := rfl
@[simp] theorem wr64_out (r v : Nat) : (wr64 s r v).out = s.out := rfl
@[simp] theorem wr64_msix (r v : Nat) : (wr64 s r v).msix = s.msix := rfl
@[simp] theorem wr64_caches (r v : Nat) : (wr64 s r v).caches = s.caches := rfl
@[simp] theorem wr64_reqs (r v : Nat) : (wr64 s r v).reqs = s.reqs := rfl
@[simp] theorem wr64_nextReq (r v : Nat) : (wr64 s r v).nextReq = s.nextReq := rfl
@[simp] theorem wr64_buckets (r v : Nat) : (wr64 s r v).buckets = s.buckets := rfl
@[simp] theorem wr64_scrubRow (r v : Nat) : (wr64 s r v).scrubRow = s.scrubRow := rfl
@[simp] theorem wr64_memcLine (r v : Nat) : (wr64 s r v).memcLine = s.memcLine := rfl
@[simp] theorem wr64_ueWords (r v : Nat) : (wr64 s r v).ueWords = s.ueWords := rfl
@[simp] theorem wr64_cores (r v : Nat) : (wr64 s r v).cores = s.cores := rfl
@[simp] theorem wr64_launches (r v : Nat) : (wr64 s r v).launches = s.launches := rfl
@[simp] theorem wr64_endedWgs (r v : Nat) : (wr64 s r v).endedWgs = s.endedWgs := rfl
@[simp] theorem wr64_tensors (r v : Nat) : (wr64 s r v).tensors = s.tensors := rfl
@[simp] theorem wr64_weights (r v : Nat) : (wr64 s r v).weights = s.weights := rfl
@[simp] theorem wr64_prefetched (r v : Nat) : (wr64 s r v).prefetched = s.prefetched := rfl
@[simp] theorem wr64_cues (r v : Nat) : (wr64 s r v).cues = s.cues := rfl
@[simp] theorem wr64_nextUid (r v : Nat) : (wr64 s r v).nextUid = s.nextUid := rfl
@[simp] theorem wr64_follows (r v : Nat) : (wr64 s r v).follows = s.follows := rfl
@[simp] theorem wr64_copies (r v : Nat) : (wr64 s r v).copies = s.copies := rfl
@[simp] theorem wr64_stops (r v : Nat) : (wr64 s r v).stops = s.stops := rfl
@[simp] theorem wr64_followFails (r v : Nat) : (wr64 s r v).followFails = s.followFails := rfl
@[simp] theorem wr64_rings (r v : Nat) : (wr64 s r v).rings = s.rings := rfl
@[simp] theorem wr64_ctxs (r v : Nat) : (wr64 s r v).ctxs = s.ctxs := rfl
@[simp] theorem wr64_fences (r v : Nat) : (wr64 s r v).fences = s.fences := rfl
@[simp] theorem wr64_sems (r v : Nat) : (wr64 s r v).sems = s.sems := rfl
@[simp] theorem wr64_faultReps (r v : Nat) : (wr64 s r v).faultReps = s.faultReps := rfl
@[simp] theorem wr64_streams (r v : Nat) : (wr64 s r v).streams = s.streams := rfl
@[simp] theorem wr64_saps (r v : Nat) : (wr64 s r v).saps = s.saps := rfl
@[simp] theorem wr64_raster (r v : Nat) : (wr64 s r v).raster = s.raster := rfl
@[simp] theorem wr64_savedPasses (r v : Nat) : (wr64 s r v).savedPasses = s.savedPasses := rfl
@[simp] theorem wr64_comps (r v : Nat) : (wr64 s r v).comps = s.comps := rfl
@[simp] theorem wr64_reports (r v : Nat) : (wr64 s r v).reports = s.reports := rfl
@[simp] theorem wr64_layers (r v : Nat) : (wr64 s r v).layers = s.layers := rfl
@[simp] theorem wr64_outputs (r v : Nat) : (wr64 s r v).outputs = s.outputs := rfl
@[simp] theorem wr64_link (r v : Nat) : (wr64 s r v).link = s.link := rfl
@[simp] theorem wr64_preempts (r v : Nat) : (wr64 s r v).preempts = s.preempts := rfl
@[simp] theorem wr64_images (r v : Nat) : (wr64 s r v).images = s.images := rfl
@[simp] theorem wr64_nextImage (r v : Nat) : (wr64 s r v).nextImage = s.nextImage := rfl
@[simp] theorem wr64_savedWgs (r v : Nat) : (wr64 s r v).savedWgs = s.savedWgs := rfl
@[simp] theorem wr64_tags (r v : Nat) : (wr64 s r v).tags = s.tags := rfl
@[simp] theorem wr64_badTags (r v : Nat) : (wr64 s r v).badTags = s.badTags := rfl
@[simp] theorem wr64_tagJob (r v : Nat) : (wr64 s r v).tagJob = s.tagJob := rfl
@[simp] theorem wr64_tc (r v : Nat) : (wr64 s r v).tc = s.tc := rfl
@[simp] theorem wr64_wc (r v : Nat) : (wr64 s r v).wc = s.wc := rfl
@[simp] theorem wr64_helds (r v : Nat) : (wr64 s r v).helds = s.helds := rfl
@[simp] theorem wr64_invs (r v : Nat) : (wr64 s r v).invs = s.invs := rfl
@[simp] theorem wr64_nextInv (r v : Nat) : (wr64 s r v).nextInv = s.nextInv := rfl
@[simp] theorem wr64_atsReqs (r v : Nat) : (wr64 s r v).atsReqs = s.atsReqs := rfl
@[simp] theorem wr64_hostFails (r v : Nat) : (wr64 s r v).hostFails = s.hostFails := rfl
@[simp] theorem wr64_atsEn (r v : Nat) : (wr64 s r v).atsEn = s.atsEn := rfl
@[simp] theorem wr64_recorder (r v : Nat) : (wr64 s r v).recorder = s.recorder := rfl
@[simp] theorem wr64_repairs (r v : Nat) : (wr64 s r v).repairs = s.repairs := rfl
@[simp] theorem wr64_flash (r v : Nat) : (wr64 s r v).flash = s.flash := rfl
@[simp] theorem wr64_boot (r v : Nat) : (wr64 s r v).boot = s.boot := rfl
@[simp] theorem wr64_sdio (r v : Nat) : (wr64 s r v).sdio = s.sdio := rfl
@[simp] theorem wr64_pwr (r v : Nat) : (wr64 s r v).pwr = s.pwr := rfl
@[simp] theorem wr64_test (r v : Nat) : (wr64 s r v).test = s.test := rfl

@[simp] theorem raise_pending (f : Flag) : (raise s f).pending = s.pending := rfl
@[simp] theorem raise_applied (f : Flag) : (raise s f).applied = s.applied := rfl
@[simp] theorem raise_committed (f : Flag) : (raise s f).committed = s.committed := rfl
@[simp] theorem raise_scLocked (f : Flag) : (raise s f).scLocked = s.scLocked := rfl
@[simp] theorem raise_loHeld (f : Flag) : (raise s f).loHeld = s.loHeld := rfl
@[simp] theorem raise_hiLatch (f : Flag) : (raise s f).hiLatch = s.hiLatch := rfl
@[simp] theorem raise_bus (f : Flag) : (raise s f).bus = s.bus := rfl
@[simp] theorem raise_waitAcc (f : Flag) : (raise s f).waitAcc = s.waitAcc := rfl
@[simp] theorem raise_free (f : Flag) : (raise s f).free = s.free := rfl
@[simp] theorem raise_fio (f : Flag) : (raise s f).fio = s.fio := rfl
@[simp] theorem raise_mem (f : Flag) : (raise s f).mem = s.mem := rfl
@[simp] theorem raise_out (f : Flag) : (raise s f).out = s.out := rfl
@[simp] theorem raise_msix (f : Flag) : (raise s f).msix = s.msix := rfl
@[simp] theorem raise_caches (f : Flag) : (raise s f).caches = s.caches := rfl
@[simp] theorem raise_reqs (f : Flag) : (raise s f).reqs = s.reqs := rfl
@[simp] theorem raise_nextReq (f : Flag) : (raise s f).nextReq = s.nextReq := rfl
@[simp] theorem raise_buckets (f : Flag) : (raise s f).buckets = s.buckets := rfl
@[simp] theorem raise_scrubRow (f : Flag) : (raise s f).scrubRow = s.scrubRow := rfl
@[simp] theorem raise_memcLine (f : Flag) : (raise s f).memcLine = s.memcLine := rfl
@[simp] theorem raise_ueWords (f : Flag) : (raise s f).ueWords = s.ueWords := rfl
@[simp] theorem raise_cores (f : Flag) : (raise s f).cores = s.cores := rfl
@[simp] theorem raise_launches (f : Flag) : (raise s f).launches = s.launches := rfl
@[simp] theorem raise_endedWgs (f : Flag) : (raise s f).endedWgs = s.endedWgs := rfl
@[simp] theorem raise_tensors (f : Flag) : (raise s f).tensors = s.tensors := rfl
@[simp] theorem raise_weights (f : Flag) : (raise s f).weights = s.weights := rfl
@[simp] theorem raise_prefetched (f : Flag) : (raise s f).prefetched = s.prefetched := rfl
@[simp] theorem raise_cues (f : Flag) : (raise s f).cues = s.cues := rfl
@[simp] theorem raise_nextUid (f : Flag) : (raise s f).nextUid = s.nextUid := rfl
@[simp] theorem raise_follows (f : Flag) : (raise s f).follows = s.follows := rfl
@[simp] theorem raise_copies (f : Flag) : (raise s f).copies = s.copies := rfl
@[simp] theorem raise_stops (f : Flag) : (raise s f).stops = s.stops := rfl
@[simp] theorem raise_followFails (f : Flag) : (raise s f).followFails = s.followFails := rfl
@[simp] theorem raise_rings (f : Flag) : (raise s f).rings = s.rings := rfl
@[simp] theorem raise_ctxs (f : Flag) : (raise s f).ctxs = s.ctxs := rfl
@[simp] theorem raise_fences (f : Flag) : (raise s f).fences = s.fences := rfl
@[simp] theorem raise_sems (f : Flag) : (raise s f).sems = s.sems := rfl
@[simp] theorem raise_faultReps (f : Flag) : (raise s f).faultReps = s.faultReps := rfl
@[simp] theorem raise_streams (f : Flag) : (raise s f).streams = s.streams := rfl
@[simp] theorem raise_saps (f : Flag) : (raise s f).saps = s.saps := rfl
@[simp] theorem raise_raster (f : Flag) : (raise s f).raster = s.raster := rfl
@[simp] theorem raise_savedPasses (f : Flag) : (raise s f).savedPasses = s.savedPasses := rfl
@[simp] theorem raise_comps (f : Flag) : (raise s f).comps = s.comps := rfl
@[simp] theorem raise_reports (f : Flag) : (raise s f).reports = s.reports := rfl
@[simp] theorem raise_layers (f : Flag) : (raise s f).layers = s.layers := rfl
@[simp] theorem raise_outputs (f : Flag) : (raise s f).outputs = s.outputs := rfl
@[simp] theorem raise_link (f : Flag) : (raise s f).link = s.link := rfl
@[simp] theorem raise_preempts (f : Flag) : (raise s f).preempts = s.preempts := rfl
@[simp] theorem raise_images (f : Flag) : (raise s f).images = s.images := rfl
@[simp] theorem raise_nextImage (f : Flag) : (raise s f).nextImage = s.nextImage := rfl
@[simp] theorem raise_savedWgs (f : Flag) : (raise s f).savedWgs = s.savedWgs := rfl
@[simp] theorem raise_tags (f : Flag) : (raise s f).tags = s.tags := rfl
@[simp] theorem raise_badTags (f : Flag) : (raise s f).badTags = s.badTags := rfl
@[simp] theorem raise_tagJob (f : Flag) : (raise s f).tagJob = s.tagJob := rfl
@[simp] theorem raise_tc (f : Flag) : (raise s f).tc = s.tc := rfl
@[simp] theorem raise_wc (f : Flag) : (raise s f).wc = s.wc := rfl
@[simp] theorem raise_helds (f : Flag) : (raise s f).helds = s.helds := rfl
@[simp] theorem raise_invs (f : Flag) : (raise s f).invs = s.invs := rfl
@[simp] theorem raise_nextInv (f : Flag) : (raise s f).nextInv = s.nextInv := rfl
@[simp] theorem raise_atsReqs (f : Flag) : (raise s f).atsReqs = s.atsReqs := rfl
@[simp] theorem raise_hostFails (f : Flag) : (raise s f).hostFails = s.hostFails := rfl
@[simp] theorem raise_atsEn (f : Flag) : (raise s f).atsEn = s.atsEn := rfl
@[simp] theorem raise_recorder (f : Flag) : (raise s f).recorder = s.recorder := rfl
@[simp] theorem raise_repairs (f : Flag) : (raise s f).repairs = s.repairs := rfl
@[simp] theorem raise_flash (f : Flag) : (raise s f).flash = s.flash := rfl
@[simp] theorem raise_boot (f : Flag) : (raise s f).boot = s.boot := rfl
@[simp] theorem raise_sdio (f : Flag) : (raise s f).sdio = s.sdio := rfl
@[simp] theorem raise_pwr (f : Flag) : (raise s f).pwr = s.pwr := rfl
@[simp] theorem raise_test (f : Flag) : (raise s f).test = s.test := rfl

@[simp] theorem incSat_pending (r n : Nat) : (incSat s r n).pending = s.pending := rfl
@[simp] theorem incSat_applied (r n : Nat) : (incSat s r n).applied = s.applied := rfl
@[simp] theorem incSat_committed (r n : Nat) : (incSat s r n).committed = s.committed := rfl
@[simp] theorem incSat_scLocked (r n : Nat) : (incSat s r n).scLocked = s.scLocked := rfl
@[simp] theorem incSat_loHeld (r n : Nat) : (incSat s r n).loHeld = s.loHeld := rfl
@[simp] theorem incSat_hiLatch (r n : Nat) : (incSat s r n).hiLatch = s.hiLatch := rfl
@[simp] theorem incSat_bus (r n : Nat) : (incSat s r n).bus = s.bus := rfl
@[simp] theorem incSat_waitAcc (r n : Nat) : (incSat s r n).waitAcc = s.waitAcc := rfl
@[simp] theorem incSat_free (r n : Nat) : (incSat s r n).free = s.free := rfl
@[simp] theorem incSat_fio (r n : Nat) : (incSat s r n).fio = s.fio := rfl
@[simp] theorem incSat_mem (r n : Nat) : (incSat s r n).mem = s.mem := rfl
@[simp] theorem incSat_out (r n : Nat) : (incSat s r n).out = s.out := rfl
@[simp] theorem incSat_msix (r n : Nat) : (incSat s r n).msix = s.msix := rfl
@[simp] theorem incSat_caches (r n : Nat) : (incSat s r n).caches = s.caches := rfl
@[simp] theorem incSat_reqs (r n : Nat) : (incSat s r n).reqs = s.reqs := rfl
@[simp] theorem incSat_nextReq (r n : Nat) : (incSat s r n).nextReq = s.nextReq := rfl
@[simp] theorem incSat_buckets (r n : Nat) : (incSat s r n).buckets = s.buckets := rfl
@[simp] theorem incSat_scrubRow (r n : Nat) : (incSat s r n).scrubRow = s.scrubRow := rfl
@[simp] theorem incSat_memcLine (r n : Nat) : (incSat s r n).memcLine = s.memcLine := rfl
@[simp] theorem incSat_ueWords (r n : Nat) : (incSat s r n).ueWords = s.ueWords := rfl
@[simp] theorem incSat_cores (r n : Nat) : (incSat s r n).cores = s.cores := rfl
@[simp] theorem incSat_launches (r n : Nat) : (incSat s r n).launches = s.launches := rfl
@[simp] theorem incSat_endedWgs (r n : Nat) : (incSat s r n).endedWgs = s.endedWgs := rfl
@[simp] theorem incSat_tensors (r n : Nat) : (incSat s r n).tensors = s.tensors := rfl
@[simp] theorem incSat_weights (r n : Nat) : (incSat s r n).weights = s.weights := rfl
@[simp] theorem incSat_prefetched (r n : Nat) : (incSat s r n).prefetched = s.prefetched := rfl
@[simp] theorem incSat_cues (r n : Nat) : (incSat s r n).cues = s.cues := rfl
@[simp] theorem incSat_nextUid (r n : Nat) : (incSat s r n).nextUid = s.nextUid := rfl
@[simp] theorem incSat_follows (r n : Nat) : (incSat s r n).follows = s.follows := rfl
@[simp] theorem incSat_copies (r n : Nat) : (incSat s r n).copies = s.copies := rfl
@[simp] theorem incSat_stops (r n : Nat) : (incSat s r n).stops = s.stops := rfl
@[simp] theorem incSat_followFails (r n : Nat) : (incSat s r n).followFails = s.followFails := rfl
@[simp] theorem incSat_rings (r n : Nat) : (incSat s r n).rings = s.rings := rfl
@[simp] theorem incSat_ctxs (r n : Nat) : (incSat s r n).ctxs = s.ctxs := rfl
@[simp] theorem incSat_fences (r n : Nat) : (incSat s r n).fences = s.fences := rfl
@[simp] theorem incSat_sems (r n : Nat) : (incSat s r n).sems = s.sems := rfl
@[simp] theorem incSat_faultReps (r n : Nat) : (incSat s r n).faultReps = s.faultReps := rfl
@[simp] theorem incSat_streams (r n : Nat) : (incSat s r n).streams = s.streams := rfl
@[simp] theorem incSat_saps (r n : Nat) : (incSat s r n).saps = s.saps := rfl
@[simp] theorem incSat_raster (r n : Nat) : (incSat s r n).raster = s.raster := rfl
@[simp] theorem incSat_savedPasses (r n : Nat) : (incSat s r n).savedPasses = s.savedPasses := rfl
@[simp] theorem incSat_comps (r n : Nat) : (incSat s r n).comps = s.comps := rfl
@[simp] theorem incSat_reports (r n : Nat) : (incSat s r n).reports = s.reports := rfl
@[simp] theorem incSat_layers (r n : Nat) : (incSat s r n).layers = s.layers := rfl
@[simp] theorem incSat_outputs (r n : Nat) : (incSat s r n).outputs = s.outputs := rfl
@[simp] theorem incSat_link (r n : Nat) : (incSat s r n).link = s.link := rfl
@[simp] theorem incSat_preempts (r n : Nat) : (incSat s r n).preempts = s.preempts := rfl
@[simp] theorem incSat_images (r n : Nat) : (incSat s r n).images = s.images := rfl
@[simp] theorem incSat_nextImage (r n : Nat) : (incSat s r n).nextImage = s.nextImage := rfl
@[simp] theorem incSat_savedWgs (r n : Nat) : (incSat s r n).savedWgs = s.savedWgs := rfl
@[simp] theorem incSat_tags (r n : Nat) : (incSat s r n).tags = s.tags := rfl
@[simp] theorem incSat_badTags (r n : Nat) : (incSat s r n).badTags = s.badTags := rfl
@[simp] theorem incSat_tagJob (r n : Nat) : (incSat s r n).tagJob = s.tagJob := rfl
@[simp] theorem incSat_tc (r n : Nat) : (incSat s r n).tc = s.tc := rfl
@[simp] theorem incSat_wc (r n : Nat) : (incSat s r n).wc = s.wc := rfl
@[simp] theorem incSat_helds (r n : Nat) : (incSat s r n).helds = s.helds := rfl
@[simp] theorem incSat_invs (r n : Nat) : (incSat s r n).invs = s.invs := rfl
@[simp] theorem incSat_nextInv (r n : Nat) : (incSat s r n).nextInv = s.nextInv := rfl
@[simp] theorem incSat_atsReqs (r n : Nat) : (incSat s r n).atsReqs = s.atsReqs := rfl
@[simp] theorem incSat_hostFails (r n : Nat) : (incSat s r n).hostFails = s.hostFails := rfl
@[simp] theorem incSat_atsEn (r n : Nat) : (incSat s r n).atsEn = s.atsEn := rfl
@[simp] theorem incSat_recorder (r n : Nat) : (incSat s r n).recorder = s.recorder := rfl
@[simp] theorem incSat_repairs (r n : Nat) : (incSat s r n).repairs = s.repairs := rfl
@[simp] theorem incSat_flash (r n : Nat) : (incSat s r n).flash = s.flash := rfl
@[simp] theorem incSat_boot (r n : Nat) : (incSat s r n).boot = s.boot := rfl
@[simp] theorem incSat_sdio (r n : Nat) : (incSat s r n).sdio = s.sdio := rfl
@[simp] theorem incSat_pwr (r n : Nat) : (incSat s r n).pwr = s.pwr := rfl
@[simp] theorem incSat_test (r n : Nat) : (incSat s r n).test = s.test := rfl

@[simp] theorem incWrap_pending (r n : Nat) : (incWrap s r n).pending = s.pending := rfl
@[simp] theorem incWrap_applied (r n : Nat) : (incWrap s r n).applied = s.applied := rfl
@[simp] theorem incWrap_committed (r n : Nat) : (incWrap s r n).committed = s.committed := rfl
@[simp] theorem incWrap_scLocked (r n : Nat) : (incWrap s r n).scLocked = s.scLocked := rfl
@[simp] theorem incWrap_loHeld (r n : Nat) : (incWrap s r n).loHeld = s.loHeld := rfl
@[simp] theorem incWrap_hiLatch (r n : Nat) : (incWrap s r n).hiLatch = s.hiLatch := rfl
@[simp] theorem incWrap_bus (r n : Nat) : (incWrap s r n).bus = s.bus := rfl
@[simp] theorem incWrap_waitAcc (r n : Nat) : (incWrap s r n).waitAcc = s.waitAcc := rfl
@[simp] theorem incWrap_free (r n : Nat) : (incWrap s r n).free = s.free := rfl
@[simp] theorem incWrap_fio (r n : Nat) : (incWrap s r n).fio = s.fio := rfl
@[simp] theorem incWrap_mem (r n : Nat) : (incWrap s r n).mem = s.mem := rfl
@[simp] theorem incWrap_out (r n : Nat) : (incWrap s r n).out = s.out := rfl
@[simp] theorem incWrap_msix (r n : Nat) : (incWrap s r n).msix = s.msix := rfl
@[simp] theorem incWrap_caches (r n : Nat) : (incWrap s r n).caches = s.caches := rfl
@[simp] theorem incWrap_reqs (r n : Nat) : (incWrap s r n).reqs = s.reqs := rfl
@[simp] theorem incWrap_nextReq (r n : Nat) : (incWrap s r n).nextReq = s.nextReq := rfl
@[simp] theorem incWrap_buckets (r n : Nat) : (incWrap s r n).buckets = s.buckets := rfl
@[simp] theorem incWrap_scrubRow (r n : Nat) : (incWrap s r n).scrubRow = s.scrubRow := rfl
@[simp] theorem incWrap_memcLine (r n : Nat) : (incWrap s r n).memcLine = s.memcLine := rfl
@[simp] theorem incWrap_ueWords (r n : Nat) : (incWrap s r n).ueWords = s.ueWords := rfl
@[simp] theorem incWrap_cores (r n : Nat) : (incWrap s r n).cores = s.cores := rfl
@[simp] theorem incWrap_launches (r n : Nat) : (incWrap s r n).launches = s.launches := rfl
@[simp] theorem incWrap_endedWgs (r n : Nat) : (incWrap s r n).endedWgs = s.endedWgs := rfl
@[simp] theorem incWrap_tensors (r n : Nat) : (incWrap s r n).tensors = s.tensors := rfl
@[simp] theorem incWrap_weights (r n : Nat) : (incWrap s r n).weights = s.weights := rfl
@[simp] theorem incWrap_prefetched (r n : Nat) : (incWrap s r n).prefetched = s.prefetched := rfl
@[simp] theorem incWrap_cues (r n : Nat) : (incWrap s r n).cues = s.cues := rfl
@[simp] theorem incWrap_nextUid (r n : Nat) : (incWrap s r n).nextUid = s.nextUid := rfl
@[simp] theorem incWrap_follows (r n : Nat) : (incWrap s r n).follows = s.follows := rfl
@[simp] theorem incWrap_copies (r n : Nat) : (incWrap s r n).copies = s.copies := rfl
@[simp] theorem incWrap_stops (r n : Nat) : (incWrap s r n).stops = s.stops := rfl
@[simp] theorem incWrap_followFails (r n : Nat) : (incWrap s r n).followFails = s.followFails := rfl
@[simp] theorem incWrap_rings (r n : Nat) : (incWrap s r n).rings = s.rings := rfl
@[simp] theorem incWrap_ctxs (r n : Nat) : (incWrap s r n).ctxs = s.ctxs := rfl
@[simp] theorem incWrap_fences (r n : Nat) : (incWrap s r n).fences = s.fences := rfl
@[simp] theorem incWrap_sems (r n : Nat) : (incWrap s r n).sems = s.sems := rfl
@[simp] theorem incWrap_faultReps (r n : Nat) : (incWrap s r n).faultReps = s.faultReps := rfl
@[simp] theorem incWrap_streams (r n : Nat) : (incWrap s r n).streams = s.streams := rfl
@[simp] theorem incWrap_saps (r n : Nat) : (incWrap s r n).saps = s.saps := rfl
@[simp] theorem incWrap_raster (r n : Nat) : (incWrap s r n).raster = s.raster := rfl
@[simp] theorem incWrap_savedPasses (r n : Nat) : (incWrap s r n).savedPasses = s.savedPasses := rfl
@[simp] theorem incWrap_comps (r n : Nat) : (incWrap s r n).comps = s.comps := rfl
@[simp] theorem incWrap_reports (r n : Nat) : (incWrap s r n).reports = s.reports := rfl
@[simp] theorem incWrap_layers (r n : Nat) : (incWrap s r n).layers = s.layers := rfl
@[simp] theorem incWrap_outputs (r n : Nat) : (incWrap s r n).outputs = s.outputs := rfl
@[simp] theorem incWrap_link (r n : Nat) : (incWrap s r n).link = s.link := rfl
@[simp] theorem incWrap_preempts (r n : Nat) : (incWrap s r n).preempts = s.preempts := rfl
@[simp] theorem incWrap_images (r n : Nat) : (incWrap s r n).images = s.images := rfl
@[simp] theorem incWrap_nextImage (r n : Nat) : (incWrap s r n).nextImage = s.nextImage := rfl
@[simp] theorem incWrap_savedWgs (r n : Nat) : (incWrap s r n).savedWgs = s.savedWgs := rfl
@[simp] theorem incWrap_tags (r n : Nat) : (incWrap s r n).tags = s.tags := rfl
@[simp] theorem incWrap_badTags (r n : Nat) : (incWrap s r n).badTags = s.badTags := rfl
@[simp] theorem incWrap_tagJob (r n : Nat) : (incWrap s r n).tagJob = s.tagJob := rfl
@[simp] theorem incWrap_tc (r n : Nat) : (incWrap s r n).tc = s.tc := rfl
@[simp] theorem incWrap_wc (r n : Nat) : (incWrap s r n).wc = s.wc := rfl
@[simp] theorem incWrap_helds (r n : Nat) : (incWrap s r n).helds = s.helds := rfl
@[simp] theorem incWrap_invs (r n : Nat) : (incWrap s r n).invs = s.invs := rfl
@[simp] theorem incWrap_nextInv (r n : Nat) : (incWrap s r n).nextInv = s.nextInv := rfl
@[simp] theorem incWrap_atsReqs (r n : Nat) : (incWrap s r n).atsReqs = s.atsReqs := rfl
@[simp] theorem incWrap_hostFails (r n : Nat) : (incWrap s r n).hostFails = s.hostFails := rfl
@[simp] theorem incWrap_atsEn (r n : Nat) : (incWrap s r n).atsEn = s.atsEn := rfl
@[simp] theorem incWrap_recorder (r n : Nat) : (incWrap s r n).recorder = s.recorder := rfl
@[simp] theorem incWrap_repairs (r n : Nat) : (incWrap s r n).repairs = s.repairs := rfl
@[simp] theorem incWrap_flash (r n : Nat) : (incWrap s r n).flash = s.flash := rfl
@[simp] theorem incWrap_boot (r n : Nat) : (incWrap s r n).boot = s.boot := rfl
@[simp] theorem incWrap_sdio (r n : Nat) : (incWrap s r n).sdio = s.sdio := rfl
@[simp] theorem incWrap_pwr (r n : Nat) : (incWrap s r n).pwr = s.pwr := rfl
@[simp] theorem incWrap_test (r n : Nat) : (incWrap s r n).test = s.test := rfl

@[simp] theorem fincSat_pending (f : Fld) : (fincSat s f).pending = s.pending := rfl
@[simp] theorem fincSat_applied (f : Fld) : (fincSat s f).applied = s.applied := rfl
@[simp] theorem fincSat_committed (f : Fld) : (fincSat s f).committed = s.committed := rfl
@[simp] theorem fincSat_scLocked (f : Fld) : (fincSat s f).scLocked = s.scLocked := rfl
@[simp] theorem fincSat_loHeld (f : Fld) : (fincSat s f).loHeld = s.loHeld := rfl
@[simp] theorem fincSat_hiLatch (f : Fld) : (fincSat s f).hiLatch = s.hiLatch := rfl
@[simp] theorem fincSat_bus (f : Fld) : (fincSat s f).bus = s.bus := rfl
@[simp] theorem fincSat_waitAcc (f : Fld) : (fincSat s f).waitAcc = s.waitAcc := rfl
@[simp] theorem fincSat_free (f : Fld) : (fincSat s f).free = s.free := rfl
@[simp] theorem fincSat_fio (f : Fld) : (fincSat s f).fio = s.fio := rfl
@[simp] theorem fincSat_mem (f : Fld) : (fincSat s f).mem = s.mem := rfl
@[simp] theorem fincSat_out (f : Fld) : (fincSat s f).out = s.out := rfl
@[simp] theorem fincSat_msix (f : Fld) : (fincSat s f).msix = s.msix := rfl
@[simp] theorem fincSat_caches (f : Fld) : (fincSat s f).caches = s.caches := rfl
@[simp] theorem fincSat_reqs (f : Fld) : (fincSat s f).reqs = s.reqs := rfl
@[simp] theorem fincSat_nextReq (f : Fld) : (fincSat s f).nextReq = s.nextReq := rfl
@[simp] theorem fincSat_buckets (f : Fld) : (fincSat s f).buckets = s.buckets := rfl
@[simp] theorem fincSat_scrubRow (f : Fld) : (fincSat s f).scrubRow = s.scrubRow := rfl
@[simp] theorem fincSat_memcLine (f : Fld) : (fincSat s f).memcLine = s.memcLine := rfl
@[simp] theorem fincSat_ueWords (f : Fld) : (fincSat s f).ueWords = s.ueWords := rfl
@[simp] theorem fincSat_cores (f : Fld) : (fincSat s f).cores = s.cores := rfl
@[simp] theorem fincSat_launches (f : Fld) : (fincSat s f).launches = s.launches := rfl
@[simp] theorem fincSat_endedWgs (f : Fld) : (fincSat s f).endedWgs = s.endedWgs := rfl
@[simp] theorem fincSat_tensors (f : Fld) : (fincSat s f).tensors = s.tensors := rfl
@[simp] theorem fincSat_weights (f : Fld) : (fincSat s f).weights = s.weights := rfl
@[simp] theorem fincSat_prefetched (f : Fld) : (fincSat s f).prefetched = s.prefetched := rfl
@[simp] theorem fincSat_cues (f : Fld) : (fincSat s f).cues = s.cues := rfl
@[simp] theorem fincSat_nextUid (f : Fld) : (fincSat s f).nextUid = s.nextUid := rfl
@[simp] theorem fincSat_follows (f : Fld) : (fincSat s f).follows = s.follows := rfl
@[simp] theorem fincSat_copies (f : Fld) : (fincSat s f).copies = s.copies := rfl
@[simp] theorem fincSat_stops (f : Fld) : (fincSat s f).stops = s.stops := rfl
@[simp] theorem fincSat_followFails (f : Fld) : (fincSat s f).followFails = s.followFails := rfl
@[simp] theorem fincSat_rings (f : Fld) : (fincSat s f).rings = s.rings := rfl
@[simp] theorem fincSat_ctxs (f : Fld) : (fincSat s f).ctxs = s.ctxs := rfl
@[simp] theorem fincSat_fences (f : Fld) : (fincSat s f).fences = s.fences := rfl
@[simp] theorem fincSat_sems (f : Fld) : (fincSat s f).sems = s.sems := rfl
@[simp] theorem fincSat_faultReps (f : Fld) : (fincSat s f).faultReps = s.faultReps := rfl
@[simp] theorem fincSat_streams (f : Fld) : (fincSat s f).streams = s.streams := rfl
@[simp] theorem fincSat_saps (f : Fld) : (fincSat s f).saps = s.saps := rfl
@[simp] theorem fincSat_raster (f : Fld) : (fincSat s f).raster = s.raster := rfl
@[simp] theorem fincSat_savedPasses (f : Fld) : (fincSat s f).savedPasses = s.savedPasses := rfl
@[simp] theorem fincSat_comps (f : Fld) : (fincSat s f).comps = s.comps := rfl
@[simp] theorem fincSat_reports (f : Fld) : (fincSat s f).reports = s.reports := rfl
@[simp] theorem fincSat_layers (f : Fld) : (fincSat s f).layers = s.layers := rfl
@[simp] theorem fincSat_outputs (f : Fld) : (fincSat s f).outputs = s.outputs := rfl
@[simp] theorem fincSat_link (f : Fld) : (fincSat s f).link = s.link := rfl
@[simp] theorem fincSat_preempts (f : Fld) : (fincSat s f).preempts = s.preempts := rfl
@[simp] theorem fincSat_images (f : Fld) : (fincSat s f).images = s.images := rfl
@[simp] theorem fincSat_nextImage (f : Fld) : (fincSat s f).nextImage = s.nextImage := rfl
@[simp] theorem fincSat_savedWgs (f : Fld) : (fincSat s f).savedWgs = s.savedWgs := rfl
@[simp] theorem fincSat_tags (f : Fld) : (fincSat s f).tags = s.tags := rfl
@[simp] theorem fincSat_badTags (f : Fld) : (fincSat s f).badTags = s.badTags := rfl
@[simp] theorem fincSat_tagJob (f : Fld) : (fincSat s f).tagJob = s.tagJob := rfl
@[simp] theorem fincSat_tc (f : Fld) : (fincSat s f).tc = s.tc := rfl
@[simp] theorem fincSat_wc (f : Fld) : (fincSat s f).wc = s.wc := rfl
@[simp] theorem fincSat_helds (f : Fld) : (fincSat s f).helds = s.helds := rfl
@[simp] theorem fincSat_invs (f : Fld) : (fincSat s f).invs = s.invs := rfl
@[simp] theorem fincSat_nextInv (f : Fld) : (fincSat s f).nextInv = s.nextInv := rfl
@[simp] theorem fincSat_atsReqs (f : Fld) : (fincSat s f).atsReqs = s.atsReqs := rfl
@[simp] theorem fincSat_hostFails (f : Fld) : (fincSat s f).hostFails = s.hostFails := rfl
@[simp] theorem fincSat_atsEn (f : Fld) : (fincSat s f).atsEn = s.atsEn := rfl
@[simp] theorem fincSat_recorder (f : Fld) : (fincSat s f).recorder = s.recorder := rfl
@[simp] theorem fincSat_repairs (f : Fld) : (fincSat s f).repairs = s.repairs := rfl
@[simp] theorem fincSat_flash (f : Fld) : (fincSat s f).flash = s.flash := rfl
@[simp] theorem fincSat_boot (f : Fld) : (fincSat s f).boot = s.boot := rfl
@[simp] theorem fincSat_sdio (f : Fld) : (fincSat s f).sdio = s.sdio := rfl
@[simp] theorem fincSat_pwr (f : Fld) : (fincSat s f).pwr = s.pwr := rfl
@[simp] theorem fincSat_test (f : Fld) : (fincSat s f).test = s.test := rfl

@[simp] theorem send_pending (m : Msg) : (send s m).pending = s.pending := rfl
@[simp] theorem send_regs (m : Msg) : (send s m).regs = s.regs := rfl
@[simp] theorem send_applied (m : Msg) : (send s m).applied = s.applied := rfl
@[simp] theorem send_committed (m : Msg) : (send s m).committed = s.committed := rfl
@[simp] theorem send_scLocked (m : Msg) : (send s m).scLocked = s.scLocked := rfl
@[simp] theorem send_loHeld (m : Msg) : (send s m).loHeld = s.loHeld := rfl
@[simp] theorem send_hiLatch (m : Msg) : (send s m).hiLatch = s.hiLatch := rfl
@[simp] theorem send_bus (m : Msg) : (send s m).bus = s.bus := rfl
@[simp] theorem send_waitAcc (m : Msg) : (send s m).waitAcc = s.waitAcc := rfl
@[simp] theorem send_free (m : Msg) : (send s m).free = s.free := rfl
@[simp] theorem send_fio (m : Msg) : (send s m).fio = s.fio := rfl
@[simp] theorem send_mem (m : Msg) : (send s m).mem = s.mem := rfl
@[simp] theorem send_msix (m : Msg) : (send s m).msix = s.msix := rfl
@[simp] theorem send_caches (m : Msg) : (send s m).caches = s.caches := rfl
@[simp] theorem send_reqs (m : Msg) : (send s m).reqs = s.reqs := rfl
@[simp] theorem send_nextReq (m : Msg) : (send s m).nextReq = s.nextReq := rfl
@[simp] theorem send_buckets (m : Msg) : (send s m).buckets = s.buckets := rfl
@[simp] theorem send_scrubRow (m : Msg) : (send s m).scrubRow = s.scrubRow := rfl
@[simp] theorem send_memcLine (m : Msg) : (send s m).memcLine = s.memcLine := rfl
@[simp] theorem send_ueWords (m : Msg) : (send s m).ueWords = s.ueWords := rfl
@[simp] theorem send_cores (m : Msg) : (send s m).cores = s.cores := rfl
@[simp] theorem send_launches (m : Msg) : (send s m).launches = s.launches := rfl
@[simp] theorem send_endedWgs (m : Msg) : (send s m).endedWgs = s.endedWgs := rfl
@[simp] theorem send_tensors (m : Msg) : (send s m).tensors = s.tensors := rfl
@[simp] theorem send_weights (m : Msg) : (send s m).weights = s.weights := rfl
@[simp] theorem send_prefetched (m : Msg) : (send s m).prefetched = s.prefetched := rfl
@[simp] theorem send_cues (m : Msg) : (send s m).cues = s.cues := rfl
@[simp] theorem send_nextUid (m : Msg) : (send s m).nextUid = s.nextUid := rfl
@[simp] theorem send_follows (m : Msg) : (send s m).follows = s.follows := rfl
@[simp] theorem send_copies (m : Msg) : (send s m).copies = s.copies := rfl
@[simp] theorem send_stops (m : Msg) : (send s m).stops = s.stops := rfl
@[simp] theorem send_followFails (m : Msg) : (send s m).followFails = s.followFails := rfl
@[simp] theorem send_rings (m : Msg) : (send s m).rings = s.rings := rfl
@[simp] theorem send_ctxs (m : Msg) : (send s m).ctxs = s.ctxs := rfl
@[simp] theorem send_fences (m : Msg) : (send s m).fences = s.fences := rfl
@[simp] theorem send_sems (m : Msg) : (send s m).sems = s.sems := rfl
@[simp] theorem send_faultReps (m : Msg) : (send s m).faultReps = s.faultReps := rfl
@[simp] theorem send_streams (m : Msg) : (send s m).streams = s.streams := rfl
@[simp] theorem send_saps (m : Msg) : (send s m).saps = s.saps := rfl
@[simp] theorem send_raster (m : Msg) : (send s m).raster = s.raster := rfl
@[simp] theorem send_savedPasses (m : Msg) : (send s m).savedPasses = s.savedPasses := rfl
@[simp] theorem send_comps (m : Msg) : (send s m).comps = s.comps := rfl
@[simp] theorem send_reports (m : Msg) : (send s m).reports = s.reports := rfl
@[simp] theorem send_layers (m : Msg) : (send s m).layers = s.layers := rfl
@[simp] theorem send_outputs (m : Msg) : (send s m).outputs = s.outputs := rfl
@[simp] theorem send_link (m : Msg) : (send s m).link = s.link := rfl
@[simp] theorem send_preempts (m : Msg) : (send s m).preempts = s.preempts := rfl
@[simp] theorem send_images (m : Msg) : (send s m).images = s.images := rfl
@[simp] theorem send_nextImage (m : Msg) : (send s m).nextImage = s.nextImage := rfl
@[simp] theorem send_savedWgs (m : Msg) : (send s m).savedWgs = s.savedWgs := rfl
@[simp] theorem send_tags (m : Msg) : (send s m).tags = s.tags := rfl
@[simp] theorem send_badTags (m : Msg) : (send s m).badTags = s.badTags := rfl
@[simp] theorem send_tagJob (m : Msg) : (send s m).tagJob = s.tagJob := rfl
@[simp] theorem send_tc (m : Msg) : (send s m).tc = s.tc := rfl
@[simp] theorem send_wc (m : Msg) : (send s m).wc = s.wc := rfl
@[simp] theorem send_helds (m : Msg) : (send s m).helds = s.helds := rfl
@[simp] theorem send_invs (m : Msg) : (send s m).invs = s.invs := rfl
@[simp] theorem send_nextInv (m : Msg) : (send s m).nextInv = s.nextInv := rfl
@[simp] theorem send_atsReqs (m : Msg) : (send s m).atsReqs = s.atsReqs := rfl
@[simp] theorem send_hostFails (m : Msg) : (send s m).hostFails = s.hostFails := rfl
@[simp] theorem send_atsEn (m : Msg) : (send s m).atsEn = s.atsEn := rfl
@[simp] theorem send_recorder (m : Msg) : (send s m).recorder = s.recorder := rfl
@[simp] theorem send_repairs (m : Msg) : (send s m).repairs = s.repairs := rfl
@[simp] theorem send_flash (m : Msg) : (send s m).flash = s.flash := rfl
@[simp] theorem send_boot (m : Msg) : (send s m).boot = s.boot := rfl
@[simp] theorem send_sdio (m : Msg) : (send s m).sdio = s.sdio := rfl
@[simp] theorem send_pwr (m : Msg) : (send s m).pwr = s.pwr := rfl
@[simp] theorem send_test (m : Msg) : (send s m).test = s.test := rfl

@[simp] theorem useFree_pending : (useFree s).pending = s.pending := rfl
@[simp] theorem useFree_regs : (useFree s).regs = s.regs := rfl
@[simp] theorem useFree_applied : (useFree s).applied = s.applied := rfl
@[simp] theorem useFree_committed : (useFree s).committed = s.committed := rfl
@[simp] theorem useFree_scLocked : (useFree s).scLocked = s.scLocked := rfl
@[simp] theorem useFree_loHeld : (useFree s).loHeld = s.loHeld := rfl
@[simp] theorem useFree_hiLatch : (useFree s).hiLatch = s.hiLatch := rfl
@[simp] theorem useFree_bus : (useFree s).bus = s.bus := rfl
@[simp] theorem useFree_waitAcc : (useFree s).waitAcc = s.waitAcc := rfl
@[simp] theorem useFree_fio : (useFree s).fio = s.fio := rfl
@[simp] theorem useFree_mem : (useFree s).mem = s.mem := rfl
@[simp] theorem useFree_out : (useFree s).out = s.out := rfl
@[simp] theorem useFree_msix : (useFree s).msix = s.msix := rfl
@[simp] theorem useFree_caches : (useFree s).caches = s.caches := rfl
@[simp] theorem useFree_reqs : (useFree s).reqs = s.reqs := rfl
@[simp] theorem useFree_nextReq : (useFree s).nextReq = s.nextReq := rfl
@[simp] theorem useFree_buckets : (useFree s).buckets = s.buckets := rfl
@[simp] theorem useFree_scrubRow : (useFree s).scrubRow = s.scrubRow := rfl
@[simp] theorem useFree_memcLine : (useFree s).memcLine = s.memcLine := rfl
@[simp] theorem useFree_ueWords : (useFree s).ueWords = s.ueWords := rfl
@[simp] theorem useFree_cores : (useFree s).cores = s.cores := rfl
@[simp] theorem useFree_launches : (useFree s).launches = s.launches := rfl
@[simp] theorem useFree_endedWgs : (useFree s).endedWgs = s.endedWgs := rfl
@[simp] theorem useFree_tensors : (useFree s).tensors = s.tensors := rfl
@[simp] theorem useFree_weights : (useFree s).weights = s.weights := rfl
@[simp] theorem useFree_prefetched : (useFree s).prefetched = s.prefetched := rfl
@[simp] theorem useFree_cues : (useFree s).cues = s.cues := rfl
@[simp] theorem useFree_nextUid : (useFree s).nextUid = s.nextUid := rfl
@[simp] theorem useFree_follows : (useFree s).follows = s.follows := rfl
@[simp] theorem useFree_copies : (useFree s).copies = s.copies := rfl
@[simp] theorem useFree_stops : (useFree s).stops = s.stops := rfl
@[simp] theorem useFree_followFails : (useFree s).followFails = s.followFails := rfl
@[simp] theorem useFree_rings : (useFree s).rings = s.rings := rfl
@[simp] theorem useFree_ctxs : (useFree s).ctxs = s.ctxs := rfl
@[simp] theorem useFree_fences : (useFree s).fences = s.fences := rfl
@[simp] theorem useFree_sems : (useFree s).sems = s.sems := rfl
@[simp] theorem useFree_faultReps : (useFree s).faultReps = s.faultReps := rfl
@[simp] theorem useFree_streams : (useFree s).streams = s.streams := rfl
@[simp] theorem useFree_saps : (useFree s).saps = s.saps := rfl
@[simp] theorem useFree_raster : (useFree s).raster = s.raster := rfl
@[simp] theorem useFree_savedPasses : (useFree s).savedPasses = s.savedPasses := rfl
@[simp] theorem useFree_comps : (useFree s).comps = s.comps := rfl
@[simp] theorem useFree_reports : (useFree s).reports = s.reports := rfl
@[simp] theorem useFree_layers : (useFree s).layers = s.layers := rfl
@[simp] theorem useFree_outputs : (useFree s).outputs = s.outputs := rfl
@[simp] theorem useFree_link : (useFree s).link = s.link := rfl
@[simp] theorem useFree_preempts : (useFree s).preempts = s.preempts := rfl
@[simp] theorem useFree_images : (useFree s).images = s.images := rfl
@[simp] theorem useFree_nextImage : (useFree s).nextImage = s.nextImage := rfl
@[simp] theorem useFree_savedWgs : (useFree s).savedWgs = s.savedWgs := rfl
@[simp] theorem useFree_tags : (useFree s).tags = s.tags := rfl
@[simp] theorem useFree_badTags : (useFree s).badTags = s.badTags := rfl
@[simp] theorem useFree_tagJob : (useFree s).tagJob = s.tagJob := rfl
@[simp] theorem useFree_tc : (useFree s).tc = s.tc := rfl
@[simp] theorem useFree_wc : (useFree s).wc = s.wc := rfl
@[simp] theorem useFree_helds : (useFree s).helds = s.helds := rfl
@[simp] theorem useFree_invs : (useFree s).invs = s.invs := rfl
@[simp] theorem useFree_nextInv : (useFree s).nextInv = s.nextInv := rfl
@[simp] theorem useFree_atsReqs : (useFree s).atsReqs = s.atsReqs := rfl
@[simp] theorem useFree_hostFails : (useFree s).hostFails = s.hostFails := rfl
@[simp] theorem useFree_atsEn : (useFree s).atsEn = s.atsEn := rfl
@[simp] theorem useFree_recorder : (useFree s).recorder = s.recorder := rfl
@[simp] theorem useFree_repairs : (useFree s).repairs = s.repairs := rfl
@[simp] theorem useFree_flash : (useFree s).flash = s.flash := rfl
@[simp] theorem useFree_boot : (useFree s).boot = s.boot := rfl
@[simp] theorem useFree_sdio : (useFree s).sdio = s.sdio := rfl
@[simp] theorem useFree_pwr : (useFree s).pwr = s.pwr := rfl
@[simp] theorem useFree_test : (useFree s).test = s.test := rfl

@[simp] theorem memWrite_pending (a : Nat) (bs : List Byte) : (memWrite s a bs).pending = s.pending := rfl
@[simp] theorem memWrite_regs (a : Nat) (bs : List Byte) : (memWrite s a bs).regs = s.regs := rfl
@[simp] theorem memWrite_applied (a : Nat) (bs : List Byte) : (memWrite s a bs).applied = s.applied := rfl
@[simp] theorem memWrite_committed (a : Nat) (bs : List Byte) : (memWrite s a bs).committed = s.committed := rfl
@[simp] theorem memWrite_scLocked (a : Nat) (bs : List Byte) : (memWrite s a bs).scLocked = s.scLocked := rfl
@[simp] theorem memWrite_loHeld (a : Nat) (bs : List Byte) : (memWrite s a bs).loHeld = s.loHeld := rfl
@[simp] theorem memWrite_hiLatch (a : Nat) (bs : List Byte) : (memWrite s a bs).hiLatch = s.hiLatch := rfl
@[simp] theorem memWrite_bus (a : Nat) (bs : List Byte) : (memWrite s a bs).bus = s.bus := rfl
@[simp] theorem memWrite_waitAcc (a : Nat) (bs : List Byte) : (memWrite s a bs).waitAcc = s.waitAcc := rfl
@[simp] theorem memWrite_free (a : Nat) (bs : List Byte) : (memWrite s a bs).free = s.free := rfl
@[simp] theorem memWrite_fio (a : Nat) (bs : List Byte) : (memWrite s a bs).fio = s.fio := rfl
@[simp] theorem memWrite_out (a : Nat) (bs : List Byte) : (memWrite s a bs).out = s.out := rfl
@[simp] theorem memWrite_msix (a : Nat) (bs : List Byte) : (memWrite s a bs).msix = s.msix := rfl
@[simp] theorem memWrite_caches (a : Nat) (bs : List Byte) : (memWrite s a bs).caches = s.caches := rfl
@[simp] theorem memWrite_reqs (a : Nat) (bs : List Byte) : (memWrite s a bs).reqs = s.reqs := rfl
@[simp] theorem memWrite_nextReq (a : Nat) (bs : List Byte) : (memWrite s a bs).nextReq = s.nextReq := rfl
@[simp] theorem memWrite_buckets (a : Nat) (bs : List Byte) : (memWrite s a bs).buckets = s.buckets := rfl
@[simp] theorem memWrite_scrubRow (a : Nat) (bs : List Byte) : (memWrite s a bs).scrubRow = s.scrubRow := rfl
@[simp] theorem memWrite_memcLine (a : Nat) (bs : List Byte) : (memWrite s a bs).memcLine = s.memcLine := rfl
@[simp] theorem memWrite_cores (a : Nat) (bs : List Byte) : (memWrite s a bs).cores = s.cores := rfl
@[simp] theorem memWrite_launches (a : Nat) (bs : List Byte) : (memWrite s a bs).launches = s.launches := rfl
@[simp] theorem memWrite_endedWgs (a : Nat) (bs : List Byte) : (memWrite s a bs).endedWgs = s.endedWgs := rfl
@[simp] theorem memWrite_tensors (a : Nat) (bs : List Byte) : (memWrite s a bs).tensors = s.tensors := rfl
@[simp] theorem memWrite_weights (a : Nat) (bs : List Byte) : (memWrite s a bs).weights = s.weights := rfl
@[simp] theorem memWrite_prefetched (a : Nat) (bs : List Byte) : (memWrite s a bs).prefetched = s.prefetched := rfl
@[simp] theorem memWrite_cues (a : Nat) (bs : List Byte) : (memWrite s a bs).cues = s.cues := rfl
@[simp] theorem memWrite_nextUid (a : Nat) (bs : List Byte) : (memWrite s a bs).nextUid = s.nextUid := rfl
@[simp] theorem memWrite_follows (a : Nat) (bs : List Byte) : (memWrite s a bs).follows = s.follows := rfl
@[simp] theorem memWrite_copies (a : Nat) (bs : List Byte) : (memWrite s a bs).copies = s.copies := rfl
@[simp] theorem memWrite_stops (a : Nat) (bs : List Byte) : (memWrite s a bs).stops = s.stops := rfl
@[simp] theorem memWrite_followFails (a : Nat) (bs : List Byte) : (memWrite s a bs).followFails = s.followFails := rfl
@[simp] theorem memWrite_rings (a : Nat) (bs : List Byte) : (memWrite s a bs).rings = s.rings := rfl
@[simp] theorem memWrite_ctxs (a : Nat) (bs : List Byte) : (memWrite s a bs).ctxs = s.ctxs := rfl
@[simp] theorem memWrite_fences (a : Nat) (bs : List Byte) : (memWrite s a bs).fences = s.fences := rfl
@[simp] theorem memWrite_sems (a : Nat) (bs : List Byte) : (memWrite s a bs).sems = s.sems := rfl
@[simp] theorem memWrite_faultReps (a : Nat) (bs : List Byte) : (memWrite s a bs).faultReps = s.faultReps := rfl
@[simp] theorem memWrite_streams (a : Nat) (bs : List Byte) : (memWrite s a bs).streams = s.streams := rfl
@[simp] theorem memWrite_saps (a : Nat) (bs : List Byte) : (memWrite s a bs).saps = s.saps := rfl
@[simp] theorem memWrite_raster (a : Nat) (bs : List Byte) : (memWrite s a bs).raster = s.raster := rfl
@[simp] theorem memWrite_savedPasses (a : Nat) (bs : List Byte) : (memWrite s a bs).savedPasses = s.savedPasses := rfl
@[simp] theorem memWrite_comps (a : Nat) (bs : List Byte) : (memWrite s a bs).comps = s.comps := rfl
@[simp] theorem memWrite_reports (a : Nat) (bs : List Byte) : (memWrite s a bs).reports = s.reports := rfl
@[simp] theorem memWrite_layers (a : Nat) (bs : List Byte) : (memWrite s a bs).layers = s.layers := rfl
@[simp] theorem memWrite_outputs (a : Nat) (bs : List Byte) : (memWrite s a bs).outputs = s.outputs := rfl
@[simp] theorem memWrite_link (a : Nat) (bs : List Byte) : (memWrite s a bs).link = s.link := rfl
@[simp] theorem memWrite_preempts (a : Nat) (bs : List Byte) : (memWrite s a bs).preempts = s.preempts := rfl
@[simp] theorem memWrite_images (a : Nat) (bs : List Byte) : (memWrite s a bs).images = s.images := rfl
@[simp] theorem memWrite_nextImage (a : Nat) (bs : List Byte) : (memWrite s a bs).nextImage = s.nextImage := rfl
@[simp] theorem memWrite_savedWgs (a : Nat) (bs : List Byte) : (memWrite s a bs).savedWgs = s.savedWgs := rfl
@[simp] theorem memWrite_tags (a : Nat) (bs : List Byte) : (memWrite s a bs).tags = s.tags := rfl
@[simp] theorem memWrite_badTags (a : Nat) (bs : List Byte) : (memWrite s a bs).badTags = s.badTags := rfl
@[simp] theorem memWrite_tagJob (a : Nat) (bs : List Byte) : (memWrite s a bs).tagJob = s.tagJob := rfl
@[simp] theorem memWrite_tc (a : Nat) (bs : List Byte) : (memWrite s a bs).tc = s.tc := rfl
@[simp] theorem memWrite_wc (a : Nat) (bs : List Byte) : (memWrite s a bs).wc = s.wc := rfl
@[simp] theorem memWrite_helds (a : Nat) (bs : List Byte) : (memWrite s a bs).helds = s.helds := rfl
@[simp] theorem memWrite_invs (a : Nat) (bs : List Byte) : (memWrite s a bs).invs = s.invs := rfl
@[simp] theorem memWrite_nextInv (a : Nat) (bs : List Byte) : (memWrite s a bs).nextInv = s.nextInv := rfl
@[simp] theorem memWrite_atsReqs (a : Nat) (bs : List Byte) : (memWrite s a bs).atsReqs = s.atsReqs := rfl
@[simp] theorem memWrite_hostFails (a : Nat) (bs : List Byte) : (memWrite s a bs).hostFails = s.hostFails := rfl
@[simp] theorem memWrite_atsEn (a : Nat) (bs : List Byte) : (memWrite s a bs).atsEn = s.atsEn := rfl
@[simp] theorem memWrite_recorder (a : Nat) (bs : List Byte) : (memWrite s a bs).recorder = s.recorder := rfl
@[simp] theorem memWrite_repairs (a : Nat) (bs : List Byte) : (memWrite s a bs).repairs = s.repairs := rfl
@[simp] theorem memWrite_flash (a : Nat) (bs : List Byte) : (memWrite s a bs).flash = s.flash := rfl
@[simp] theorem memWrite_boot (a : Nat) (bs : List Byte) : (memWrite s a bs).boot = s.boot := rfl
@[simp] theorem memWrite_sdio (a : Nat) (bs : List Byte) : (memWrite s a bs).sdio = s.sdio := rfl
@[simp] theorem memWrite_pwr (a : Nat) (bs : List Byte) : (memWrite s a bs).pwr = s.pwr := rfl
@[simp] theorem memWrite_test (a : Nat) (bs : List Byte) : (memWrite s a bs).test = s.test := rfl

@[simp] theorem modBoot_pending (f : BootSt → BootSt) : (modBoot s f).pending = s.pending := rfl
@[simp] theorem modBoot_regs (f : BootSt → BootSt) : (modBoot s f).regs = s.regs := rfl
@[simp] theorem modBoot_applied (f : BootSt → BootSt) : (modBoot s f).applied = s.applied := rfl
@[simp] theorem modBoot_committed (f : BootSt → BootSt) : (modBoot s f).committed = s.committed := rfl
@[simp] theorem modBoot_scLocked (f : BootSt → BootSt) : (modBoot s f).scLocked = s.scLocked := rfl
@[simp] theorem modBoot_loHeld (f : BootSt → BootSt) : (modBoot s f).loHeld = s.loHeld := rfl
@[simp] theorem modBoot_hiLatch (f : BootSt → BootSt) : (modBoot s f).hiLatch = s.hiLatch := rfl
@[simp] theorem modBoot_bus (f : BootSt → BootSt) : (modBoot s f).bus = s.bus := rfl
@[simp] theorem modBoot_waitAcc (f : BootSt → BootSt) : (modBoot s f).waitAcc = s.waitAcc := rfl
@[simp] theorem modBoot_free (f : BootSt → BootSt) : (modBoot s f).free = s.free := rfl
@[simp] theorem modBoot_fio (f : BootSt → BootSt) : (modBoot s f).fio = s.fio := rfl
@[simp] theorem modBoot_mem (f : BootSt → BootSt) : (modBoot s f).mem = s.mem := rfl
@[simp] theorem modBoot_out (f : BootSt → BootSt) : (modBoot s f).out = s.out := rfl
@[simp] theorem modBoot_msix (f : BootSt → BootSt) : (modBoot s f).msix = s.msix := rfl
@[simp] theorem modBoot_caches (f : BootSt → BootSt) : (modBoot s f).caches = s.caches := rfl
@[simp] theorem modBoot_reqs (f : BootSt → BootSt) : (modBoot s f).reqs = s.reqs := rfl
@[simp] theorem modBoot_nextReq (f : BootSt → BootSt) : (modBoot s f).nextReq = s.nextReq := rfl
@[simp] theorem modBoot_buckets (f : BootSt → BootSt) : (modBoot s f).buckets = s.buckets := rfl
@[simp] theorem modBoot_scrubRow (f : BootSt → BootSt) : (modBoot s f).scrubRow = s.scrubRow := rfl
@[simp] theorem modBoot_memcLine (f : BootSt → BootSt) : (modBoot s f).memcLine = s.memcLine := rfl
@[simp] theorem modBoot_ueWords (f : BootSt → BootSt) : (modBoot s f).ueWords = s.ueWords := rfl
@[simp] theorem modBoot_cores (f : BootSt → BootSt) : (modBoot s f).cores = s.cores := rfl
@[simp] theorem modBoot_launches (f : BootSt → BootSt) : (modBoot s f).launches = s.launches := rfl
@[simp] theorem modBoot_endedWgs (f : BootSt → BootSt) : (modBoot s f).endedWgs = s.endedWgs := rfl
@[simp] theorem modBoot_tensors (f : BootSt → BootSt) : (modBoot s f).tensors = s.tensors := rfl
@[simp] theorem modBoot_weights (f : BootSt → BootSt) : (modBoot s f).weights = s.weights := rfl
@[simp] theorem modBoot_prefetched (f : BootSt → BootSt) : (modBoot s f).prefetched = s.prefetched := rfl
@[simp] theorem modBoot_cues (f : BootSt → BootSt) : (modBoot s f).cues = s.cues := rfl
@[simp] theorem modBoot_nextUid (f : BootSt → BootSt) : (modBoot s f).nextUid = s.nextUid := rfl
@[simp] theorem modBoot_follows (f : BootSt → BootSt) : (modBoot s f).follows = s.follows := rfl
@[simp] theorem modBoot_copies (f : BootSt → BootSt) : (modBoot s f).copies = s.copies := rfl
@[simp] theorem modBoot_stops (f : BootSt → BootSt) : (modBoot s f).stops = s.stops := rfl
@[simp] theorem modBoot_followFails (f : BootSt → BootSt) : (modBoot s f).followFails = s.followFails := rfl
@[simp] theorem modBoot_rings (f : BootSt → BootSt) : (modBoot s f).rings = s.rings := rfl
@[simp] theorem modBoot_ctxs (f : BootSt → BootSt) : (modBoot s f).ctxs = s.ctxs := rfl
@[simp] theorem modBoot_fences (f : BootSt → BootSt) : (modBoot s f).fences = s.fences := rfl
@[simp] theorem modBoot_sems (f : BootSt → BootSt) : (modBoot s f).sems = s.sems := rfl
@[simp] theorem modBoot_faultReps (f : BootSt → BootSt) : (modBoot s f).faultReps = s.faultReps := rfl
@[simp] theorem modBoot_streams (f : BootSt → BootSt) : (modBoot s f).streams = s.streams := rfl
@[simp] theorem modBoot_saps (f : BootSt → BootSt) : (modBoot s f).saps = s.saps := rfl
@[simp] theorem modBoot_raster (f : BootSt → BootSt) : (modBoot s f).raster = s.raster := rfl
@[simp] theorem modBoot_savedPasses (f : BootSt → BootSt) : (modBoot s f).savedPasses = s.savedPasses := rfl
@[simp] theorem modBoot_comps (f : BootSt → BootSt) : (modBoot s f).comps = s.comps := rfl
@[simp] theorem modBoot_reports (f : BootSt → BootSt) : (modBoot s f).reports = s.reports := rfl
@[simp] theorem modBoot_layers (f : BootSt → BootSt) : (modBoot s f).layers = s.layers := rfl
@[simp] theorem modBoot_outputs (f : BootSt → BootSt) : (modBoot s f).outputs = s.outputs := rfl
@[simp] theorem modBoot_link (f : BootSt → BootSt) : (modBoot s f).link = s.link := rfl
@[simp] theorem modBoot_preempts (f : BootSt → BootSt) : (modBoot s f).preempts = s.preempts := rfl
@[simp] theorem modBoot_images (f : BootSt → BootSt) : (modBoot s f).images = s.images := rfl
@[simp] theorem modBoot_nextImage (f : BootSt → BootSt) : (modBoot s f).nextImage = s.nextImage := rfl
@[simp] theorem modBoot_savedWgs (f : BootSt → BootSt) : (modBoot s f).savedWgs = s.savedWgs := rfl
@[simp] theorem modBoot_tags (f : BootSt → BootSt) : (modBoot s f).tags = s.tags := rfl
@[simp] theorem modBoot_badTags (f : BootSt → BootSt) : (modBoot s f).badTags = s.badTags := rfl
@[simp] theorem modBoot_tagJob (f : BootSt → BootSt) : (modBoot s f).tagJob = s.tagJob := rfl
@[simp] theorem modBoot_tc (f : BootSt → BootSt) : (modBoot s f).tc = s.tc := rfl
@[simp] theorem modBoot_wc (f : BootSt → BootSt) : (modBoot s f).wc = s.wc := rfl
@[simp] theorem modBoot_helds (f : BootSt → BootSt) : (modBoot s f).helds = s.helds := rfl
@[simp] theorem modBoot_invs (f : BootSt → BootSt) : (modBoot s f).invs = s.invs := rfl
@[simp] theorem modBoot_nextInv (f : BootSt → BootSt) : (modBoot s f).nextInv = s.nextInv := rfl
@[simp] theorem modBoot_atsReqs (f : BootSt → BootSt) : (modBoot s f).atsReqs = s.atsReqs := rfl
@[simp] theorem modBoot_hostFails (f : BootSt → BootSt) : (modBoot s f).hostFails = s.hostFails := rfl
@[simp] theorem modBoot_atsEn (f : BootSt → BootSt) : (modBoot s f).atsEn = s.atsEn := rfl
@[simp] theorem modBoot_recorder (f : BootSt → BootSt) : (modBoot s f).recorder = s.recorder := rfl
@[simp] theorem modBoot_repairs (f : BootSt → BootSt) : (modBoot s f).repairs = s.repairs := rfl
@[simp] theorem modBoot_flash (f : BootSt → BootSt) : (modBoot s f).flash = s.flash := rfl
@[simp] theorem modBoot_sdio (f : BootSt → BootSt) : (modBoot s f).sdio = s.sdio := rfl
@[simp] theorem modBoot_pwr (f : BootSt → BootSt) : (modBoot s f).pwr = s.pwr := rfl
@[simp] theorem modBoot_test (f : BootSt → BootSt) : (modBoot s f).test = s.test := rfl

@[simp] theorem modPwr_pending (f : PwrSt → PwrSt) : (modPwr s f).pending = s.pending := rfl
@[simp] theorem modPwr_regs (f : PwrSt → PwrSt) : (modPwr s f).regs = s.regs := rfl
@[simp] theorem modPwr_applied (f : PwrSt → PwrSt) : (modPwr s f).applied = s.applied := rfl
@[simp] theorem modPwr_committed (f : PwrSt → PwrSt) : (modPwr s f).committed = s.committed := rfl
@[simp] theorem modPwr_scLocked (f : PwrSt → PwrSt) : (modPwr s f).scLocked = s.scLocked := rfl
@[simp] theorem modPwr_loHeld (f : PwrSt → PwrSt) : (modPwr s f).loHeld = s.loHeld := rfl
@[simp] theorem modPwr_hiLatch (f : PwrSt → PwrSt) : (modPwr s f).hiLatch = s.hiLatch := rfl
@[simp] theorem modPwr_bus (f : PwrSt → PwrSt) : (modPwr s f).bus = s.bus := rfl
@[simp] theorem modPwr_waitAcc (f : PwrSt → PwrSt) : (modPwr s f).waitAcc = s.waitAcc := rfl
@[simp] theorem modPwr_free (f : PwrSt → PwrSt) : (modPwr s f).free = s.free := rfl
@[simp] theorem modPwr_fio (f : PwrSt → PwrSt) : (modPwr s f).fio = s.fio := rfl
@[simp] theorem modPwr_mem (f : PwrSt → PwrSt) : (modPwr s f).mem = s.mem := rfl
@[simp] theorem modPwr_out (f : PwrSt → PwrSt) : (modPwr s f).out = s.out := rfl
@[simp] theorem modPwr_msix (f : PwrSt → PwrSt) : (modPwr s f).msix = s.msix := rfl
@[simp] theorem modPwr_caches (f : PwrSt → PwrSt) : (modPwr s f).caches = s.caches := rfl
@[simp] theorem modPwr_reqs (f : PwrSt → PwrSt) : (modPwr s f).reqs = s.reqs := rfl
@[simp] theorem modPwr_nextReq (f : PwrSt → PwrSt) : (modPwr s f).nextReq = s.nextReq := rfl
@[simp] theorem modPwr_buckets (f : PwrSt → PwrSt) : (modPwr s f).buckets = s.buckets := rfl
@[simp] theorem modPwr_scrubRow (f : PwrSt → PwrSt) : (modPwr s f).scrubRow = s.scrubRow := rfl
@[simp] theorem modPwr_memcLine (f : PwrSt → PwrSt) : (modPwr s f).memcLine = s.memcLine := rfl
@[simp] theorem modPwr_ueWords (f : PwrSt → PwrSt) : (modPwr s f).ueWords = s.ueWords := rfl
@[simp] theorem modPwr_cores (f : PwrSt → PwrSt) : (modPwr s f).cores = s.cores := rfl
@[simp] theorem modPwr_launches (f : PwrSt → PwrSt) : (modPwr s f).launches = s.launches := rfl
@[simp] theorem modPwr_endedWgs (f : PwrSt → PwrSt) : (modPwr s f).endedWgs = s.endedWgs := rfl
@[simp] theorem modPwr_tensors (f : PwrSt → PwrSt) : (modPwr s f).tensors = s.tensors := rfl
@[simp] theorem modPwr_weights (f : PwrSt → PwrSt) : (modPwr s f).weights = s.weights := rfl
@[simp] theorem modPwr_prefetched (f : PwrSt → PwrSt) : (modPwr s f).prefetched = s.prefetched := rfl
@[simp] theorem modPwr_cues (f : PwrSt → PwrSt) : (modPwr s f).cues = s.cues := rfl
@[simp] theorem modPwr_nextUid (f : PwrSt → PwrSt) : (modPwr s f).nextUid = s.nextUid := rfl
@[simp] theorem modPwr_follows (f : PwrSt → PwrSt) : (modPwr s f).follows = s.follows := rfl
@[simp] theorem modPwr_copies (f : PwrSt → PwrSt) : (modPwr s f).copies = s.copies := rfl
@[simp] theorem modPwr_stops (f : PwrSt → PwrSt) : (modPwr s f).stops = s.stops := rfl
@[simp] theorem modPwr_followFails (f : PwrSt → PwrSt) : (modPwr s f).followFails = s.followFails := rfl
@[simp] theorem modPwr_rings (f : PwrSt → PwrSt) : (modPwr s f).rings = s.rings := rfl
@[simp] theorem modPwr_ctxs (f : PwrSt → PwrSt) : (modPwr s f).ctxs = s.ctxs := rfl
@[simp] theorem modPwr_fences (f : PwrSt → PwrSt) : (modPwr s f).fences = s.fences := rfl
@[simp] theorem modPwr_sems (f : PwrSt → PwrSt) : (modPwr s f).sems = s.sems := rfl
@[simp] theorem modPwr_faultReps (f : PwrSt → PwrSt) : (modPwr s f).faultReps = s.faultReps := rfl
@[simp] theorem modPwr_streams (f : PwrSt → PwrSt) : (modPwr s f).streams = s.streams := rfl
@[simp] theorem modPwr_saps (f : PwrSt → PwrSt) : (modPwr s f).saps = s.saps := rfl
@[simp] theorem modPwr_raster (f : PwrSt → PwrSt) : (modPwr s f).raster = s.raster := rfl
@[simp] theorem modPwr_savedPasses (f : PwrSt → PwrSt) : (modPwr s f).savedPasses = s.savedPasses := rfl
@[simp] theorem modPwr_comps (f : PwrSt → PwrSt) : (modPwr s f).comps = s.comps := rfl
@[simp] theorem modPwr_reports (f : PwrSt → PwrSt) : (modPwr s f).reports = s.reports := rfl
@[simp] theorem modPwr_layers (f : PwrSt → PwrSt) : (modPwr s f).layers = s.layers := rfl
@[simp] theorem modPwr_outputs (f : PwrSt → PwrSt) : (modPwr s f).outputs = s.outputs := rfl
@[simp] theorem modPwr_link (f : PwrSt → PwrSt) : (modPwr s f).link = s.link := rfl
@[simp] theorem modPwr_preempts (f : PwrSt → PwrSt) : (modPwr s f).preempts = s.preempts := rfl
@[simp] theorem modPwr_images (f : PwrSt → PwrSt) : (modPwr s f).images = s.images := rfl
@[simp] theorem modPwr_nextImage (f : PwrSt → PwrSt) : (modPwr s f).nextImage = s.nextImage := rfl
@[simp] theorem modPwr_savedWgs (f : PwrSt → PwrSt) : (modPwr s f).savedWgs = s.savedWgs := rfl
@[simp] theorem modPwr_tags (f : PwrSt → PwrSt) : (modPwr s f).tags = s.tags := rfl
@[simp] theorem modPwr_badTags (f : PwrSt → PwrSt) : (modPwr s f).badTags = s.badTags := rfl
@[simp] theorem modPwr_tagJob (f : PwrSt → PwrSt) : (modPwr s f).tagJob = s.tagJob := rfl
@[simp] theorem modPwr_tc (f : PwrSt → PwrSt) : (modPwr s f).tc = s.tc := rfl
@[simp] theorem modPwr_wc (f : PwrSt → PwrSt) : (modPwr s f).wc = s.wc := rfl
@[simp] theorem modPwr_helds (f : PwrSt → PwrSt) : (modPwr s f).helds = s.helds := rfl
@[simp] theorem modPwr_invs (f : PwrSt → PwrSt) : (modPwr s f).invs = s.invs := rfl
@[simp] theorem modPwr_nextInv (f : PwrSt → PwrSt) : (modPwr s f).nextInv = s.nextInv := rfl
@[simp] theorem modPwr_atsReqs (f : PwrSt → PwrSt) : (modPwr s f).atsReqs = s.atsReqs := rfl
@[simp] theorem modPwr_hostFails (f : PwrSt → PwrSt) : (modPwr s f).hostFails = s.hostFails := rfl
@[simp] theorem modPwr_atsEn (f : PwrSt → PwrSt) : (modPwr s f).atsEn = s.atsEn := rfl
@[simp] theorem modPwr_recorder (f : PwrSt → PwrSt) : (modPwr s f).recorder = s.recorder := rfl
@[simp] theorem modPwr_repairs (f : PwrSt → PwrSt) : (modPwr s f).repairs = s.repairs := rfl
@[simp] theorem modPwr_flash (f : PwrSt → PwrSt) : (modPwr s f).flash = s.flash := rfl
@[simp] theorem modPwr_boot (f : PwrSt → PwrSt) : (modPwr s f).boot = s.boot := rfl
@[simp] theorem modPwr_sdio (f : PwrSt → PwrSt) : (modPwr s f).sdio = s.sdio := rfl
@[simp] theorem modPwr_test (f : PwrSt → PwrSt) : (modPwr s f).test = s.test := rfl

@[simp] theorem modLink_pending (f : LinkSt → LinkSt) : (modLink s f).pending = s.pending := rfl
@[simp] theorem modLink_regs (f : LinkSt → LinkSt) : (modLink s f).regs = s.regs := rfl
@[simp] theorem modLink_applied (f : LinkSt → LinkSt) : (modLink s f).applied = s.applied := rfl
@[simp] theorem modLink_committed (f : LinkSt → LinkSt) : (modLink s f).committed = s.committed := rfl
@[simp] theorem modLink_scLocked (f : LinkSt → LinkSt) : (modLink s f).scLocked = s.scLocked := rfl
@[simp] theorem modLink_loHeld (f : LinkSt → LinkSt) : (modLink s f).loHeld = s.loHeld := rfl
@[simp] theorem modLink_hiLatch (f : LinkSt → LinkSt) : (modLink s f).hiLatch = s.hiLatch := rfl
@[simp] theorem modLink_bus (f : LinkSt → LinkSt) : (modLink s f).bus = s.bus := rfl
@[simp] theorem modLink_waitAcc (f : LinkSt → LinkSt) : (modLink s f).waitAcc = s.waitAcc := rfl
@[simp] theorem modLink_free (f : LinkSt → LinkSt) : (modLink s f).free = s.free := rfl
@[simp] theorem modLink_fio (f : LinkSt → LinkSt) : (modLink s f).fio = s.fio := rfl
@[simp] theorem modLink_mem (f : LinkSt → LinkSt) : (modLink s f).mem = s.mem := rfl
@[simp] theorem modLink_out (f : LinkSt → LinkSt) : (modLink s f).out = s.out := rfl
@[simp] theorem modLink_msix (f : LinkSt → LinkSt) : (modLink s f).msix = s.msix := rfl
@[simp] theorem modLink_caches (f : LinkSt → LinkSt) : (modLink s f).caches = s.caches := rfl
@[simp] theorem modLink_reqs (f : LinkSt → LinkSt) : (modLink s f).reqs = s.reqs := rfl
@[simp] theorem modLink_nextReq (f : LinkSt → LinkSt) : (modLink s f).nextReq = s.nextReq := rfl
@[simp] theorem modLink_buckets (f : LinkSt → LinkSt) : (modLink s f).buckets = s.buckets := rfl
@[simp] theorem modLink_scrubRow (f : LinkSt → LinkSt) : (modLink s f).scrubRow = s.scrubRow := rfl
@[simp] theorem modLink_memcLine (f : LinkSt → LinkSt) : (modLink s f).memcLine = s.memcLine := rfl
@[simp] theorem modLink_ueWords (f : LinkSt → LinkSt) : (modLink s f).ueWords = s.ueWords := rfl
@[simp] theorem modLink_cores (f : LinkSt → LinkSt) : (modLink s f).cores = s.cores := rfl
@[simp] theorem modLink_launches (f : LinkSt → LinkSt) : (modLink s f).launches = s.launches := rfl
@[simp] theorem modLink_endedWgs (f : LinkSt → LinkSt) : (modLink s f).endedWgs = s.endedWgs := rfl
@[simp] theorem modLink_tensors (f : LinkSt → LinkSt) : (modLink s f).tensors = s.tensors := rfl
@[simp] theorem modLink_weights (f : LinkSt → LinkSt) : (modLink s f).weights = s.weights := rfl
@[simp] theorem modLink_prefetched (f : LinkSt → LinkSt) : (modLink s f).prefetched = s.prefetched := rfl
@[simp] theorem modLink_cues (f : LinkSt → LinkSt) : (modLink s f).cues = s.cues := rfl
@[simp] theorem modLink_nextUid (f : LinkSt → LinkSt) : (modLink s f).nextUid = s.nextUid := rfl
@[simp] theorem modLink_follows (f : LinkSt → LinkSt) : (modLink s f).follows = s.follows := rfl
@[simp] theorem modLink_copies (f : LinkSt → LinkSt) : (modLink s f).copies = s.copies := rfl
@[simp] theorem modLink_stops (f : LinkSt → LinkSt) : (modLink s f).stops = s.stops := rfl
@[simp] theorem modLink_followFails (f : LinkSt → LinkSt) : (modLink s f).followFails = s.followFails := rfl
@[simp] theorem modLink_rings (f : LinkSt → LinkSt) : (modLink s f).rings = s.rings := rfl
@[simp] theorem modLink_ctxs (f : LinkSt → LinkSt) : (modLink s f).ctxs = s.ctxs := rfl
@[simp] theorem modLink_fences (f : LinkSt → LinkSt) : (modLink s f).fences = s.fences := rfl
@[simp] theorem modLink_sems (f : LinkSt → LinkSt) : (modLink s f).sems = s.sems := rfl
@[simp] theorem modLink_faultReps (f : LinkSt → LinkSt) : (modLink s f).faultReps = s.faultReps := rfl
@[simp] theorem modLink_streams (f : LinkSt → LinkSt) : (modLink s f).streams = s.streams := rfl
@[simp] theorem modLink_saps (f : LinkSt → LinkSt) : (modLink s f).saps = s.saps := rfl
@[simp] theorem modLink_raster (f : LinkSt → LinkSt) : (modLink s f).raster = s.raster := rfl
@[simp] theorem modLink_savedPasses (f : LinkSt → LinkSt) : (modLink s f).savedPasses = s.savedPasses := rfl
@[simp] theorem modLink_comps (f : LinkSt → LinkSt) : (modLink s f).comps = s.comps := rfl
@[simp] theorem modLink_reports (f : LinkSt → LinkSt) : (modLink s f).reports = s.reports := rfl
@[simp] theorem modLink_layers (f : LinkSt → LinkSt) : (modLink s f).layers = s.layers := rfl
@[simp] theorem modLink_outputs (f : LinkSt → LinkSt) : (modLink s f).outputs = s.outputs := rfl
@[simp] theorem modLink_preempts (f : LinkSt → LinkSt) : (modLink s f).preempts = s.preempts := rfl
@[simp] theorem modLink_images (f : LinkSt → LinkSt) : (modLink s f).images = s.images := rfl
@[simp] theorem modLink_nextImage (f : LinkSt → LinkSt) : (modLink s f).nextImage = s.nextImage := rfl
@[simp] theorem modLink_savedWgs (f : LinkSt → LinkSt) : (modLink s f).savedWgs = s.savedWgs := rfl
@[simp] theorem modLink_tags (f : LinkSt → LinkSt) : (modLink s f).tags = s.tags := rfl
@[simp] theorem modLink_badTags (f : LinkSt → LinkSt) : (modLink s f).badTags = s.badTags := rfl
@[simp] theorem modLink_tagJob (f : LinkSt → LinkSt) : (modLink s f).tagJob = s.tagJob := rfl
@[simp] theorem modLink_tc (f : LinkSt → LinkSt) : (modLink s f).tc = s.tc := rfl
@[simp] theorem modLink_wc (f : LinkSt → LinkSt) : (modLink s f).wc = s.wc := rfl
@[simp] theorem modLink_helds (f : LinkSt → LinkSt) : (modLink s f).helds = s.helds := rfl
@[simp] theorem modLink_invs (f : LinkSt → LinkSt) : (modLink s f).invs = s.invs := rfl
@[simp] theorem modLink_nextInv (f : LinkSt → LinkSt) : (modLink s f).nextInv = s.nextInv := rfl
@[simp] theorem modLink_atsReqs (f : LinkSt → LinkSt) : (modLink s f).atsReqs = s.atsReqs := rfl
@[simp] theorem modLink_hostFails (f : LinkSt → LinkSt) : (modLink s f).hostFails = s.hostFails := rfl
@[simp] theorem modLink_atsEn (f : LinkSt → LinkSt) : (modLink s f).atsEn = s.atsEn := rfl
@[simp] theorem modLink_recorder (f : LinkSt → LinkSt) : (modLink s f).recorder = s.recorder := rfl
@[simp] theorem modLink_repairs (f : LinkSt → LinkSt) : (modLink s f).repairs = s.repairs := rfl
@[simp] theorem modLink_flash (f : LinkSt → LinkSt) : (modLink s f).flash = s.flash := rfl
@[simp] theorem modLink_boot (f : LinkSt → LinkSt) : (modLink s f).boot = s.boot := rfl
@[simp] theorem modLink_sdio (f : LinkSt → LinkSt) : (modLink s f).sdio = s.sdio := rfl
@[simp] theorem modLink_pwr (f : LinkSt → LinkSt) : (modLink s f).pwr = s.pwr := rfl
@[simp] theorem modLink_test (f : LinkSt → LinkSt) : (modLink s f).test = s.test := rfl

@[simp] theorem modSdio_pending (f : SdioSt → SdioSt) : (modSdio s f).pending = s.pending := rfl
@[simp] theorem modSdio_regs (f : SdioSt → SdioSt) : (modSdio s f).regs = s.regs := rfl
@[simp] theorem modSdio_applied (f : SdioSt → SdioSt) : (modSdio s f).applied = s.applied := rfl
@[simp] theorem modSdio_committed (f : SdioSt → SdioSt) : (modSdio s f).committed = s.committed := rfl
@[simp] theorem modSdio_scLocked (f : SdioSt → SdioSt) : (modSdio s f).scLocked = s.scLocked := rfl
@[simp] theorem modSdio_loHeld (f : SdioSt → SdioSt) : (modSdio s f).loHeld = s.loHeld := rfl
@[simp] theorem modSdio_hiLatch (f : SdioSt → SdioSt) : (modSdio s f).hiLatch = s.hiLatch := rfl
@[simp] theorem modSdio_bus (f : SdioSt → SdioSt) : (modSdio s f).bus = s.bus := rfl
@[simp] theorem modSdio_waitAcc (f : SdioSt → SdioSt) : (modSdio s f).waitAcc = s.waitAcc := rfl
@[simp] theorem modSdio_free (f : SdioSt → SdioSt) : (modSdio s f).free = s.free := rfl
@[simp] theorem modSdio_fio (f : SdioSt → SdioSt) : (modSdio s f).fio = s.fio := rfl
@[simp] theorem modSdio_mem (f : SdioSt → SdioSt) : (modSdio s f).mem = s.mem := rfl
@[simp] theorem modSdio_out (f : SdioSt → SdioSt) : (modSdio s f).out = s.out := rfl
@[simp] theorem modSdio_msix (f : SdioSt → SdioSt) : (modSdio s f).msix = s.msix := rfl
@[simp] theorem modSdio_caches (f : SdioSt → SdioSt) : (modSdio s f).caches = s.caches := rfl
@[simp] theorem modSdio_reqs (f : SdioSt → SdioSt) : (modSdio s f).reqs = s.reqs := rfl
@[simp] theorem modSdio_nextReq (f : SdioSt → SdioSt) : (modSdio s f).nextReq = s.nextReq := rfl
@[simp] theorem modSdio_buckets (f : SdioSt → SdioSt) : (modSdio s f).buckets = s.buckets := rfl
@[simp] theorem modSdio_scrubRow (f : SdioSt → SdioSt) : (modSdio s f).scrubRow = s.scrubRow := rfl
@[simp] theorem modSdio_memcLine (f : SdioSt → SdioSt) : (modSdio s f).memcLine = s.memcLine := rfl
@[simp] theorem modSdio_ueWords (f : SdioSt → SdioSt) : (modSdio s f).ueWords = s.ueWords := rfl
@[simp] theorem modSdio_cores (f : SdioSt → SdioSt) : (modSdio s f).cores = s.cores := rfl
@[simp] theorem modSdio_launches (f : SdioSt → SdioSt) : (modSdio s f).launches = s.launches := rfl
@[simp] theorem modSdio_endedWgs (f : SdioSt → SdioSt) : (modSdio s f).endedWgs = s.endedWgs := rfl
@[simp] theorem modSdio_tensors (f : SdioSt → SdioSt) : (modSdio s f).tensors = s.tensors := rfl
@[simp] theorem modSdio_weights (f : SdioSt → SdioSt) : (modSdio s f).weights = s.weights := rfl
@[simp] theorem modSdio_prefetched (f : SdioSt → SdioSt) : (modSdio s f).prefetched = s.prefetched := rfl
@[simp] theorem modSdio_cues (f : SdioSt → SdioSt) : (modSdio s f).cues = s.cues := rfl
@[simp] theorem modSdio_nextUid (f : SdioSt → SdioSt) : (modSdio s f).nextUid = s.nextUid := rfl
@[simp] theorem modSdio_follows (f : SdioSt → SdioSt) : (modSdio s f).follows = s.follows := rfl
@[simp] theorem modSdio_copies (f : SdioSt → SdioSt) : (modSdio s f).copies = s.copies := rfl
@[simp] theorem modSdio_stops (f : SdioSt → SdioSt) : (modSdio s f).stops = s.stops := rfl
@[simp] theorem modSdio_followFails (f : SdioSt → SdioSt) : (modSdio s f).followFails = s.followFails := rfl
@[simp] theorem modSdio_rings (f : SdioSt → SdioSt) : (modSdio s f).rings = s.rings := rfl
@[simp] theorem modSdio_ctxs (f : SdioSt → SdioSt) : (modSdio s f).ctxs = s.ctxs := rfl
@[simp] theorem modSdio_fences (f : SdioSt → SdioSt) : (modSdio s f).fences = s.fences := rfl
@[simp] theorem modSdio_sems (f : SdioSt → SdioSt) : (modSdio s f).sems = s.sems := rfl
@[simp] theorem modSdio_faultReps (f : SdioSt → SdioSt) : (modSdio s f).faultReps = s.faultReps := rfl
@[simp] theorem modSdio_streams (f : SdioSt → SdioSt) : (modSdio s f).streams = s.streams := rfl
@[simp] theorem modSdio_saps (f : SdioSt → SdioSt) : (modSdio s f).saps = s.saps := rfl
@[simp] theorem modSdio_raster (f : SdioSt → SdioSt) : (modSdio s f).raster = s.raster := rfl
@[simp] theorem modSdio_savedPasses (f : SdioSt → SdioSt) : (modSdio s f).savedPasses = s.savedPasses := rfl
@[simp] theorem modSdio_comps (f : SdioSt → SdioSt) : (modSdio s f).comps = s.comps := rfl
@[simp] theorem modSdio_reports (f : SdioSt → SdioSt) : (modSdio s f).reports = s.reports := rfl
@[simp] theorem modSdio_layers (f : SdioSt → SdioSt) : (modSdio s f).layers = s.layers := rfl
@[simp] theorem modSdio_outputs (f : SdioSt → SdioSt) : (modSdio s f).outputs = s.outputs := rfl
@[simp] theorem modSdio_link (f : SdioSt → SdioSt) : (modSdio s f).link = s.link := rfl
@[simp] theorem modSdio_preempts (f : SdioSt → SdioSt) : (modSdio s f).preempts = s.preempts := rfl
@[simp] theorem modSdio_images (f : SdioSt → SdioSt) : (modSdio s f).images = s.images := rfl
@[simp] theorem modSdio_nextImage (f : SdioSt → SdioSt) : (modSdio s f).nextImage = s.nextImage := rfl
@[simp] theorem modSdio_savedWgs (f : SdioSt → SdioSt) : (modSdio s f).savedWgs = s.savedWgs := rfl
@[simp] theorem modSdio_tags (f : SdioSt → SdioSt) : (modSdio s f).tags = s.tags := rfl
@[simp] theorem modSdio_badTags (f : SdioSt → SdioSt) : (modSdio s f).badTags = s.badTags := rfl
@[simp] theorem modSdio_tagJob (f : SdioSt → SdioSt) : (modSdio s f).tagJob = s.tagJob := rfl
@[simp] theorem modSdio_tc (f : SdioSt → SdioSt) : (modSdio s f).tc = s.tc := rfl
@[simp] theorem modSdio_wc (f : SdioSt → SdioSt) : (modSdio s f).wc = s.wc := rfl
@[simp] theorem modSdio_helds (f : SdioSt → SdioSt) : (modSdio s f).helds = s.helds := rfl
@[simp] theorem modSdio_invs (f : SdioSt → SdioSt) : (modSdio s f).invs = s.invs := rfl
@[simp] theorem modSdio_nextInv (f : SdioSt → SdioSt) : (modSdio s f).nextInv = s.nextInv := rfl
@[simp] theorem modSdio_atsReqs (f : SdioSt → SdioSt) : (modSdio s f).atsReqs = s.atsReqs := rfl
@[simp] theorem modSdio_hostFails (f : SdioSt → SdioSt) : (modSdio s f).hostFails = s.hostFails := rfl
@[simp] theorem modSdio_atsEn (f : SdioSt → SdioSt) : (modSdio s f).atsEn = s.atsEn := rfl
@[simp] theorem modSdio_recorder (f : SdioSt → SdioSt) : (modSdio s f).recorder = s.recorder := rfl
@[simp] theorem modSdio_repairs (f : SdioSt → SdioSt) : (modSdio s f).repairs = s.repairs := rfl
@[simp] theorem modSdio_flash (f : SdioSt → SdioSt) : (modSdio s f).flash = s.flash := rfl
@[simp] theorem modSdio_boot (f : SdioSt → SdioSt) : (modSdio s f).boot = s.boot := rfl
@[simp] theorem modSdio_pwr (f : SdioSt → SdioSt) : (modSdio s f).pwr = s.pwr := rfl
@[simp] theorem modSdio_test (f : SdioSt → SdioSt) : (modSdio s f).test = s.test := rfl

@[simp] theorem modCtx_pending (c : Nat) (f : Ctx → Ctx) : (modCtx s c f).pending = s.pending := rfl
@[simp] theorem modCtx_regs (c : Nat) (f : Ctx → Ctx) : (modCtx s c f).regs = s.regs := rfl
@[simp] theorem modCtx_applied (c : Nat) (f : Ctx → Ctx) : (modCtx s c f).applied = s.applied := rfl
@[simp] theorem modCtx_committed (c : Nat) (f : Ctx → Ctx) : (modCtx s c f).committed = s.committed := rfl
@[simp] theorem modCtx_scLocked (c : Nat) (f : Ctx → Ctx) : (modCtx s c f).scLocked = s.scLocked := rfl
@[simp] theorem modCtx_loHeld (c : Nat) (f : Ctx → Ctx) : (modCtx s c f).loHeld = s.loHeld := rfl
@[simp] theorem modCtx_hiLatch (c : Nat) (f : Ctx → Ctx) : (modCtx s c f).hiLatch = s.hiLatch := rfl
@[simp] theorem modCtx_bus (c : Nat) (f : Ctx → Ctx) : (modCtx s c f).bus = s.bus := rfl
@[simp] theorem modCtx_waitAcc (c : Nat) (f : Ctx → Ctx) : (modCtx s c f).waitAcc = s.waitAcc := rfl
@[simp] theorem modCtx_free (c : Nat) (f : Ctx → Ctx) : (modCtx s c f).free = s.free := rfl
@[simp] theorem modCtx_fio (c : Nat) (f : Ctx → Ctx) : (modCtx s c f).fio = s.fio := rfl
@[simp] theorem modCtx_mem (c : Nat) (f : Ctx → Ctx) : (modCtx s c f).mem = s.mem := rfl
@[simp] theorem modCtx_out (c : Nat) (f : Ctx → Ctx) : (modCtx s c f).out = s.out := rfl
@[simp] theorem modCtx_msix (c : Nat) (f : Ctx → Ctx) : (modCtx s c f).msix = s.msix := rfl
@[simp] theorem modCtx_caches (c : Nat) (f : Ctx → Ctx) : (modCtx s c f).caches = s.caches := rfl
@[simp] theorem modCtx_reqs (c : Nat) (f : Ctx → Ctx) : (modCtx s c f).reqs = s.reqs := rfl
@[simp] theorem modCtx_nextReq (c : Nat) (f : Ctx → Ctx) : (modCtx s c f).nextReq = s.nextReq := rfl
@[simp] theorem modCtx_buckets (c : Nat) (f : Ctx → Ctx) : (modCtx s c f).buckets = s.buckets := rfl
@[simp] theorem modCtx_scrubRow (c : Nat) (f : Ctx → Ctx) : (modCtx s c f).scrubRow = s.scrubRow := rfl
@[simp] theorem modCtx_memcLine (c : Nat) (f : Ctx → Ctx) : (modCtx s c f).memcLine = s.memcLine := rfl
@[simp] theorem modCtx_ueWords (c : Nat) (f : Ctx → Ctx) : (modCtx s c f).ueWords = s.ueWords := rfl
@[simp] theorem modCtx_cores (c : Nat) (f : Ctx → Ctx) : (modCtx s c f).cores = s.cores := rfl
@[simp] theorem modCtx_launches (c : Nat) (f : Ctx → Ctx) : (modCtx s c f).launches = s.launches := rfl
@[simp] theorem modCtx_endedWgs (c : Nat) (f : Ctx → Ctx) : (modCtx s c f).endedWgs = s.endedWgs := rfl
@[simp] theorem modCtx_tensors (c : Nat) (f : Ctx → Ctx) : (modCtx s c f).tensors = s.tensors := rfl
@[simp] theorem modCtx_weights (c : Nat) (f : Ctx → Ctx) : (modCtx s c f).weights = s.weights := rfl
@[simp] theorem modCtx_prefetched (c : Nat) (f : Ctx → Ctx) : (modCtx s c f).prefetched = s.prefetched := rfl
@[simp] theorem modCtx_cues (c : Nat) (f : Ctx → Ctx) : (modCtx s c f).cues = s.cues := rfl
@[simp] theorem modCtx_nextUid (c : Nat) (f : Ctx → Ctx) : (modCtx s c f).nextUid = s.nextUid := rfl
@[simp] theorem modCtx_follows (c : Nat) (f : Ctx → Ctx) : (modCtx s c f).follows = s.follows := rfl
@[simp] theorem modCtx_copies (c : Nat) (f : Ctx → Ctx) : (modCtx s c f).copies = s.copies := rfl
@[simp] theorem modCtx_stops (c : Nat) (f : Ctx → Ctx) : (modCtx s c f).stops = s.stops := rfl
@[simp] theorem modCtx_followFails (c : Nat) (f : Ctx → Ctx) : (modCtx s c f).followFails = s.followFails := rfl
@[simp] theorem modCtx_rings (c : Nat) (f : Ctx → Ctx) : (modCtx s c f).rings = s.rings := rfl
@[simp] theorem modCtx_fences (c : Nat) (f : Ctx → Ctx) : (modCtx s c f).fences = s.fences := rfl
@[simp] theorem modCtx_sems (c : Nat) (f : Ctx → Ctx) : (modCtx s c f).sems = s.sems := rfl
@[simp] theorem modCtx_faultReps (c : Nat) (f : Ctx → Ctx) : (modCtx s c f).faultReps = s.faultReps := rfl
@[simp] theorem modCtx_streams (c : Nat) (f : Ctx → Ctx) : (modCtx s c f).streams = s.streams := rfl
@[simp] theorem modCtx_saps (c : Nat) (f : Ctx → Ctx) : (modCtx s c f).saps = s.saps := rfl
@[simp] theorem modCtx_raster (c : Nat) (f : Ctx → Ctx) : (modCtx s c f).raster = s.raster := rfl
@[simp] theorem modCtx_savedPasses (c : Nat) (f : Ctx → Ctx) : (modCtx s c f).savedPasses = s.savedPasses := rfl
@[simp] theorem modCtx_comps (c : Nat) (f : Ctx → Ctx) : (modCtx s c f).comps = s.comps := rfl
@[simp] theorem modCtx_reports (c : Nat) (f : Ctx → Ctx) : (modCtx s c f).reports = s.reports := rfl
@[simp] theorem modCtx_layers (c : Nat) (f : Ctx → Ctx) : (modCtx s c f).layers = s.layers := rfl
@[simp] theorem modCtx_outputs (c : Nat) (f : Ctx → Ctx) : (modCtx s c f).outputs = s.outputs := rfl
@[simp] theorem modCtx_link (c : Nat) (f : Ctx → Ctx) : (modCtx s c f).link = s.link := rfl
@[simp] theorem modCtx_preempts (c : Nat) (f : Ctx → Ctx) : (modCtx s c f).preempts = s.preempts := rfl
@[simp] theorem modCtx_images (c : Nat) (f : Ctx → Ctx) : (modCtx s c f).images = s.images := rfl
@[simp] theorem modCtx_nextImage (c : Nat) (f : Ctx → Ctx) : (modCtx s c f).nextImage = s.nextImage := rfl
@[simp] theorem modCtx_savedWgs (c : Nat) (f : Ctx → Ctx) : (modCtx s c f).savedWgs = s.savedWgs := rfl
@[simp] theorem modCtx_tags (c : Nat) (f : Ctx → Ctx) : (modCtx s c f).tags = s.tags := rfl
@[simp] theorem modCtx_badTags (c : Nat) (f : Ctx → Ctx) : (modCtx s c f).badTags = s.badTags := rfl
@[simp] theorem modCtx_tagJob (c : Nat) (f : Ctx → Ctx) : (modCtx s c f).tagJob = s.tagJob := rfl
@[simp] theorem modCtx_tc (c : Nat) (f : Ctx → Ctx) : (modCtx s c f).tc = s.tc := rfl
@[simp] theorem modCtx_wc (c : Nat) (f : Ctx → Ctx) : (modCtx s c f).wc = s.wc := rfl
@[simp] theorem modCtx_helds (c : Nat) (f : Ctx → Ctx) : (modCtx s c f).helds = s.helds := rfl
@[simp] theorem modCtx_invs (c : Nat) (f : Ctx → Ctx) : (modCtx s c f).invs = s.invs := rfl
@[simp] theorem modCtx_nextInv (c : Nat) (f : Ctx → Ctx) : (modCtx s c f).nextInv = s.nextInv := rfl
@[simp] theorem modCtx_atsReqs (c : Nat) (f : Ctx → Ctx) : (modCtx s c f).atsReqs = s.atsReqs := rfl
@[simp] theorem modCtx_hostFails (c : Nat) (f : Ctx → Ctx) : (modCtx s c f).hostFails = s.hostFails := rfl
@[simp] theorem modCtx_atsEn (c : Nat) (f : Ctx → Ctx) : (modCtx s c f).atsEn = s.atsEn := rfl
@[simp] theorem modCtx_recorder (c : Nat) (f : Ctx → Ctx) : (modCtx s c f).recorder = s.recorder := rfl
@[simp] theorem modCtx_repairs (c : Nat) (f : Ctx → Ctx) : (modCtx s c f).repairs = s.repairs := rfl
@[simp] theorem modCtx_flash (c : Nat) (f : Ctx → Ctx) : (modCtx s c f).flash = s.flash := rfl
@[simp] theorem modCtx_boot (c : Nat) (f : Ctx → Ctx) : (modCtx s c f).boot = s.boot := rfl
@[simp] theorem modCtx_sdio (c : Nat) (f : Ctx → Ctx) : (modCtx s c f).sdio = s.sdio := rfl
@[simp] theorem modCtx_pwr (c : Nat) (f : Ctx → Ctx) : (modCtx s c f).pwr = s.pwr := rfl
@[simp] theorem modCtx_test (c : Nat) (f : Ctx → Ctx) : (modCtx s c f).test = s.test := rfl

@[simp] theorem modCue_pending (u : Nat) (f : CueRun → CueRun) : (modCue s u f).pending = s.pending := rfl
@[simp] theorem modCue_regs (u : Nat) (f : CueRun → CueRun) : (modCue s u f).regs = s.regs := rfl
@[simp] theorem modCue_applied (u : Nat) (f : CueRun → CueRun) : (modCue s u f).applied = s.applied := rfl
@[simp] theorem modCue_committed (u : Nat) (f : CueRun → CueRun) : (modCue s u f).committed = s.committed := rfl
@[simp] theorem modCue_scLocked (u : Nat) (f : CueRun → CueRun) : (modCue s u f).scLocked = s.scLocked := rfl
@[simp] theorem modCue_loHeld (u : Nat) (f : CueRun → CueRun) : (modCue s u f).loHeld = s.loHeld := rfl
@[simp] theorem modCue_hiLatch (u : Nat) (f : CueRun → CueRun) : (modCue s u f).hiLatch = s.hiLatch := rfl
@[simp] theorem modCue_bus (u : Nat) (f : CueRun → CueRun) : (modCue s u f).bus = s.bus := rfl
@[simp] theorem modCue_waitAcc (u : Nat) (f : CueRun → CueRun) : (modCue s u f).waitAcc = s.waitAcc := rfl
@[simp] theorem modCue_free (u : Nat) (f : CueRun → CueRun) : (modCue s u f).free = s.free := rfl
@[simp] theorem modCue_fio (u : Nat) (f : CueRun → CueRun) : (modCue s u f).fio = s.fio := rfl
@[simp] theorem modCue_mem (u : Nat) (f : CueRun → CueRun) : (modCue s u f).mem = s.mem := rfl
@[simp] theorem modCue_out (u : Nat) (f : CueRun → CueRun) : (modCue s u f).out = s.out := rfl
@[simp] theorem modCue_msix (u : Nat) (f : CueRun → CueRun) : (modCue s u f).msix = s.msix := rfl
@[simp] theorem modCue_caches (u : Nat) (f : CueRun → CueRun) : (modCue s u f).caches = s.caches := rfl
@[simp] theorem modCue_reqs (u : Nat) (f : CueRun → CueRun) : (modCue s u f).reqs = s.reqs := rfl
@[simp] theorem modCue_nextReq (u : Nat) (f : CueRun → CueRun) : (modCue s u f).nextReq = s.nextReq := rfl
@[simp] theorem modCue_buckets (u : Nat) (f : CueRun → CueRun) : (modCue s u f).buckets = s.buckets := rfl
@[simp] theorem modCue_scrubRow (u : Nat) (f : CueRun → CueRun) : (modCue s u f).scrubRow = s.scrubRow := rfl
@[simp] theorem modCue_memcLine (u : Nat) (f : CueRun → CueRun) : (modCue s u f).memcLine = s.memcLine := rfl
@[simp] theorem modCue_ueWords (u : Nat) (f : CueRun → CueRun) : (modCue s u f).ueWords = s.ueWords := rfl
@[simp] theorem modCue_cores (u : Nat) (f : CueRun → CueRun) : (modCue s u f).cores = s.cores := rfl
@[simp] theorem modCue_launches (u : Nat) (f : CueRun → CueRun) : (modCue s u f).launches = s.launches := rfl
@[simp] theorem modCue_endedWgs (u : Nat) (f : CueRun → CueRun) : (modCue s u f).endedWgs = s.endedWgs := rfl
@[simp] theorem modCue_tensors (u : Nat) (f : CueRun → CueRun) : (modCue s u f).tensors = s.tensors := rfl
@[simp] theorem modCue_weights (u : Nat) (f : CueRun → CueRun) : (modCue s u f).weights = s.weights := rfl
@[simp] theorem modCue_prefetched (u : Nat) (f : CueRun → CueRun) : (modCue s u f).prefetched = s.prefetched := rfl
@[simp] theorem modCue_nextUid (u : Nat) (f : CueRun → CueRun) : (modCue s u f).nextUid = s.nextUid := rfl
@[simp] theorem modCue_follows (u : Nat) (f : CueRun → CueRun) : (modCue s u f).follows = s.follows := rfl
@[simp] theorem modCue_copies (u : Nat) (f : CueRun → CueRun) : (modCue s u f).copies = s.copies := rfl
@[simp] theorem modCue_stops (u : Nat) (f : CueRun → CueRun) : (modCue s u f).stops = s.stops := rfl
@[simp] theorem modCue_followFails (u : Nat) (f : CueRun → CueRun) : (modCue s u f).followFails = s.followFails := rfl
@[simp] theorem modCue_rings (u : Nat) (f : CueRun → CueRun) : (modCue s u f).rings = s.rings := rfl
@[simp] theorem modCue_ctxs (u : Nat) (f : CueRun → CueRun) : (modCue s u f).ctxs = s.ctxs := rfl
@[simp] theorem modCue_fences (u : Nat) (f : CueRun → CueRun) : (modCue s u f).fences = s.fences := rfl
@[simp] theorem modCue_sems (u : Nat) (f : CueRun → CueRun) : (modCue s u f).sems = s.sems := rfl
@[simp] theorem modCue_faultReps (u : Nat) (f : CueRun → CueRun) : (modCue s u f).faultReps = s.faultReps := rfl
@[simp] theorem modCue_streams (u : Nat) (f : CueRun → CueRun) : (modCue s u f).streams = s.streams := rfl
@[simp] theorem modCue_saps (u : Nat) (f : CueRun → CueRun) : (modCue s u f).saps = s.saps := rfl
@[simp] theorem modCue_raster (u : Nat) (f : CueRun → CueRun) : (modCue s u f).raster = s.raster := rfl
@[simp] theorem modCue_savedPasses (u : Nat) (f : CueRun → CueRun) : (modCue s u f).savedPasses = s.savedPasses := rfl
@[simp] theorem modCue_comps (u : Nat) (f : CueRun → CueRun) : (modCue s u f).comps = s.comps := rfl
@[simp] theorem modCue_reports (u : Nat) (f : CueRun → CueRun) : (modCue s u f).reports = s.reports := rfl
@[simp] theorem modCue_layers (u : Nat) (f : CueRun → CueRun) : (modCue s u f).layers = s.layers := rfl
@[simp] theorem modCue_outputs (u : Nat) (f : CueRun → CueRun) : (modCue s u f).outputs = s.outputs := rfl
@[simp] theorem modCue_link (u : Nat) (f : CueRun → CueRun) : (modCue s u f).link = s.link := rfl
@[simp] theorem modCue_preempts (u : Nat) (f : CueRun → CueRun) : (modCue s u f).preempts = s.preempts := rfl
@[simp] theorem modCue_images (u : Nat) (f : CueRun → CueRun) : (modCue s u f).images = s.images := rfl
@[simp] theorem modCue_nextImage (u : Nat) (f : CueRun → CueRun) : (modCue s u f).nextImage = s.nextImage := rfl
@[simp] theorem modCue_savedWgs (u : Nat) (f : CueRun → CueRun) : (modCue s u f).savedWgs = s.savedWgs := rfl
@[simp] theorem modCue_tags (u : Nat) (f : CueRun → CueRun) : (modCue s u f).tags = s.tags := rfl
@[simp] theorem modCue_badTags (u : Nat) (f : CueRun → CueRun) : (modCue s u f).badTags = s.badTags := rfl
@[simp] theorem modCue_tagJob (u : Nat) (f : CueRun → CueRun) : (modCue s u f).tagJob = s.tagJob := rfl
@[simp] theorem modCue_tc (u : Nat) (f : CueRun → CueRun) : (modCue s u f).tc = s.tc := rfl
@[simp] theorem modCue_wc (u : Nat) (f : CueRun → CueRun) : (modCue s u f).wc = s.wc := rfl
@[simp] theorem modCue_helds (u : Nat) (f : CueRun → CueRun) : (modCue s u f).helds = s.helds := rfl
@[simp] theorem modCue_invs (u : Nat) (f : CueRun → CueRun) : (modCue s u f).invs = s.invs := rfl
@[simp] theorem modCue_nextInv (u : Nat) (f : CueRun → CueRun) : (modCue s u f).nextInv = s.nextInv := rfl
@[simp] theorem modCue_atsReqs (u : Nat) (f : CueRun → CueRun) : (modCue s u f).atsReqs = s.atsReqs := rfl
@[simp] theorem modCue_hostFails (u : Nat) (f : CueRun → CueRun) : (modCue s u f).hostFails = s.hostFails := rfl
@[simp] theorem modCue_atsEn (u : Nat) (f : CueRun → CueRun) : (modCue s u f).atsEn = s.atsEn := rfl
@[simp] theorem modCue_recorder (u : Nat) (f : CueRun → CueRun) : (modCue s u f).recorder = s.recorder := rfl
@[simp] theorem modCue_repairs (u : Nat) (f : CueRun → CueRun) : (modCue s u f).repairs = s.repairs := rfl
@[simp] theorem modCue_flash (u : Nat) (f : CueRun → CueRun) : (modCue s u f).flash = s.flash := rfl
@[simp] theorem modCue_boot (u : Nat) (f : CueRun → CueRun) : (modCue s u f).boot = s.boot := rfl
@[simp] theorem modCue_sdio (u : Nat) (f : CueRun → CueRun) : (modCue s u f).sdio = s.sdio := rfl
@[simp] theorem modCue_pwr (u : Nat) (f : CueRun → CueRun) : (modCue s u f).pwr = s.pwr := rfl
@[simp] theorem modCue_test (u : Nat) (f : CueRun → CueRun) : (modCue s u f).test = s.test := rfl

@[simp] theorem modCore_pending (n : Nat) (f : CoreSt → CoreSt) : (modCore s n f).pending = s.pending := rfl
@[simp] theorem modCore_regs (n : Nat) (f : CoreSt → CoreSt) : (modCore s n f).regs = s.regs := rfl
@[simp] theorem modCore_applied (n : Nat) (f : CoreSt → CoreSt) : (modCore s n f).applied = s.applied := rfl
@[simp] theorem modCore_committed (n : Nat) (f : CoreSt → CoreSt) : (modCore s n f).committed = s.committed := rfl
@[simp] theorem modCore_scLocked (n : Nat) (f : CoreSt → CoreSt) : (modCore s n f).scLocked = s.scLocked := rfl
@[simp] theorem modCore_loHeld (n : Nat) (f : CoreSt → CoreSt) : (modCore s n f).loHeld = s.loHeld := rfl
@[simp] theorem modCore_hiLatch (n : Nat) (f : CoreSt → CoreSt) : (modCore s n f).hiLatch = s.hiLatch := rfl
@[simp] theorem modCore_bus (n : Nat) (f : CoreSt → CoreSt) : (modCore s n f).bus = s.bus := rfl
@[simp] theorem modCore_waitAcc (n : Nat) (f : CoreSt → CoreSt) : (modCore s n f).waitAcc = s.waitAcc := rfl
@[simp] theorem modCore_free (n : Nat) (f : CoreSt → CoreSt) : (modCore s n f).free = s.free := rfl
@[simp] theorem modCore_fio (n : Nat) (f : CoreSt → CoreSt) : (modCore s n f).fio = s.fio := rfl
@[simp] theorem modCore_mem (n : Nat) (f : CoreSt → CoreSt) : (modCore s n f).mem = s.mem := rfl
@[simp] theorem modCore_out (n : Nat) (f : CoreSt → CoreSt) : (modCore s n f).out = s.out := rfl
@[simp] theorem modCore_msix (n : Nat) (f : CoreSt → CoreSt) : (modCore s n f).msix = s.msix := rfl
@[simp] theorem modCore_caches (n : Nat) (f : CoreSt → CoreSt) : (modCore s n f).caches = s.caches := rfl
@[simp] theorem modCore_reqs (n : Nat) (f : CoreSt → CoreSt) : (modCore s n f).reqs = s.reqs := rfl
@[simp] theorem modCore_nextReq (n : Nat) (f : CoreSt → CoreSt) : (modCore s n f).nextReq = s.nextReq := rfl
@[simp] theorem modCore_buckets (n : Nat) (f : CoreSt → CoreSt) : (modCore s n f).buckets = s.buckets := rfl
@[simp] theorem modCore_scrubRow (n : Nat) (f : CoreSt → CoreSt) : (modCore s n f).scrubRow = s.scrubRow := rfl
@[simp] theorem modCore_memcLine (n : Nat) (f : CoreSt → CoreSt) : (modCore s n f).memcLine = s.memcLine := rfl
@[simp] theorem modCore_ueWords (n : Nat) (f : CoreSt → CoreSt) : (modCore s n f).ueWords = s.ueWords := rfl
@[simp] theorem modCore_launches (n : Nat) (f : CoreSt → CoreSt) : (modCore s n f).launches = s.launches := rfl
@[simp] theorem modCore_endedWgs (n : Nat) (f : CoreSt → CoreSt) : (modCore s n f).endedWgs = s.endedWgs := rfl
@[simp] theorem modCore_tensors (n : Nat) (f : CoreSt → CoreSt) : (modCore s n f).tensors = s.tensors := rfl
@[simp] theorem modCore_weights (n : Nat) (f : CoreSt → CoreSt) : (modCore s n f).weights = s.weights := rfl
@[simp] theorem modCore_prefetched (n : Nat) (f : CoreSt → CoreSt) : (modCore s n f).prefetched = s.prefetched := rfl
@[simp] theorem modCore_cues (n : Nat) (f : CoreSt → CoreSt) : (modCore s n f).cues = s.cues := rfl
@[simp] theorem modCore_nextUid (n : Nat) (f : CoreSt → CoreSt) : (modCore s n f).nextUid = s.nextUid := rfl
@[simp] theorem modCore_follows (n : Nat) (f : CoreSt → CoreSt) : (modCore s n f).follows = s.follows := rfl
@[simp] theorem modCore_copies (n : Nat) (f : CoreSt → CoreSt) : (modCore s n f).copies = s.copies := rfl
@[simp] theorem modCore_stops (n : Nat) (f : CoreSt → CoreSt) : (modCore s n f).stops = s.stops := rfl
@[simp] theorem modCore_followFails (n : Nat) (f : CoreSt → CoreSt) : (modCore s n f).followFails = s.followFails := rfl
@[simp] theorem modCore_rings (n : Nat) (f : CoreSt → CoreSt) : (modCore s n f).rings = s.rings := rfl
@[simp] theorem modCore_ctxs (n : Nat) (f : CoreSt → CoreSt) : (modCore s n f).ctxs = s.ctxs := rfl
@[simp] theorem modCore_fences (n : Nat) (f : CoreSt → CoreSt) : (modCore s n f).fences = s.fences := rfl
@[simp] theorem modCore_sems (n : Nat) (f : CoreSt → CoreSt) : (modCore s n f).sems = s.sems := rfl
@[simp] theorem modCore_faultReps (n : Nat) (f : CoreSt → CoreSt) : (modCore s n f).faultReps = s.faultReps := rfl
@[simp] theorem modCore_streams (n : Nat) (f : CoreSt → CoreSt) : (modCore s n f).streams = s.streams := rfl
@[simp] theorem modCore_saps (n : Nat) (f : CoreSt → CoreSt) : (modCore s n f).saps = s.saps := rfl
@[simp] theorem modCore_raster (n : Nat) (f : CoreSt → CoreSt) : (modCore s n f).raster = s.raster := rfl
@[simp] theorem modCore_savedPasses (n : Nat) (f : CoreSt → CoreSt) : (modCore s n f).savedPasses = s.savedPasses := rfl
@[simp] theorem modCore_comps (n : Nat) (f : CoreSt → CoreSt) : (modCore s n f).comps = s.comps := rfl
@[simp] theorem modCore_reports (n : Nat) (f : CoreSt → CoreSt) : (modCore s n f).reports = s.reports := rfl
@[simp] theorem modCore_layers (n : Nat) (f : CoreSt → CoreSt) : (modCore s n f).layers = s.layers := rfl
@[simp] theorem modCore_outputs (n : Nat) (f : CoreSt → CoreSt) : (modCore s n f).outputs = s.outputs := rfl
@[simp] theorem modCore_link (n : Nat) (f : CoreSt → CoreSt) : (modCore s n f).link = s.link := rfl
@[simp] theorem modCore_preempts (n : Nat) (f : CoreSt → CoreSt) : (modCore s n f).preempts = s.preempts := rfl
@[simp] theorem modCore_images (n : Nat) (f : CoreSt → CoreSt) : (modCore s n f).images = s.images := rfl
@[simp] theorem modCore_nextImage (n : Nat) (f : CoreSt → CoreSt) : (modCore s n f).nextImage = s.nextImage := rfl
@[simp] theorem modCore_savedWgs (n : Nat) (f : CoreSt → CoreSt) : (modCore s n f).savedWgs = s.savedWgs := rfl
@[simp] theorem modCore_tags (n : Nat) (f : CoreSt → CoreSt) : (modCore s n f).tags = s.tags := rfl
@[simp] theorem modCore_badTags (n : Nat) (f : CoreSt → CoreSt) : (modCore s n f).badTags = s.badTags := rfl
@[simp] theorem modCore_tagJob (n : Nat) (f : CoreSt → CoreSt) : (modCore s n f).tagJob = s.tagJob := rfl
@[simp] theorem modCore_tc (n : Nat) (f : CoreSt → CoreSt) : (modCore s n f).tc = s.tc := rfl
@[simp] theorem modCore_wc (n : Nat) (f : CoreSt → CoreSt) : (modCore s n f).wc = s.wc := rfl
@[simp] theorem modCore_helds (n : Nat) (f : CoreSt → CoreSt) : (modCore s n f).helds = s.helds := rfl
@[simp] theorem modCore_invs (n : Nat) (f : CoreSt → CoreSt) : (modCore s n f).invs = s.invs := rfl
@[simp] theorem modCore_nextInv (n : Nat) (f : CoreSt → CoreSt) : (modCore s n f).nextInv = s.nextInv := rfl
@[simp] theorem modCore_atsReqs (n : Nat) (f : CoreSt → CoreSt) : (modCore s n f).atsReqs = s.atsReqs := rfl
@[simp] theorem modCore_hostFails (n : Nat) (f : CoreSt → CoreSt) : (modCore s n f).hostFails = s.hostFails := rfl
@[simp] theorem modCore_atsEn (n : Nat) (f : CoreSt → CoreSt) : (modCore s n f).atsEn = s.atsEn := rfl
@[simp] theorem modCore_recorder (n : Nat) (f : CoreSt → CoreSt) : (modCore s n f).recorder = s.recorder := rfl
@[simp] theorem modCore_repairs (n : Nat) (f : CoreSt → CoreSt) : (modCore s n f).repairs = s.repairs := rfl
@[simp] theorem modCore_flash (n : Nat) (f : CoreSt → CoreSt) : (modCore s n f).flash = s.flash := rfl
@[simp] theorem modCore_boot (n : Nat) (f : CoreSt → CoreSt) : (modCore s n f).boot = s.boot := rfl
@[simp] theorem modCore_sdio (n : Nat) (f : CoreSt → CoreSt) : (modCore s n f).sdio = s.sdio := rfl
@[simp] theorem modCore_pwr (n : Nat) (f : CoreSt → CoreSt) : (modCore s n f).pwr = s.pwr := rfl
@[simp] theorem modCore_test (n : Nat) (f : CoreSt → CoreSt) : (modCore s n f).test = s.test := rfl

@[simp] theorem modRing_pending (k : Nat) (f : Ring → Ring) : (modRing s k f).pending = s.pending := rfl
@[simp] theorem modRing_regs (k : Nat) (f : Ring → Ring) : (modRing s k f).regs = s.regs := rfl
@[simp] theorem modRing_applied (k : Nat) (f : Ring → Ring) : (modRing s k f).applied = s.applied := rfl
@[simp] theorem modRing_committed (k : Nat) (f : Ring → Ring) : (modRing s k f).committed = s.committed := rfl
@[simp] theorem modRing_scLocked (k : Nat) (f : Ring → Ring) : (modRing s k f).scLocked = s.scLocked := rfl
@[simp] theorem modRing_loHeld (k : Nat) (f : Ring → Ring) : (modRing s k f).loHeld = s.loHeld := rfl
@[simp] theorem modRing_hiLatch (k : Nat) (f : Ring → Ring) : (modRing s k f).hiLatch = s.hiLatch := rfl
@[simp] theorem modRing_bus (k : Nat) (f : Ring → Ring) : (modRing s k f).bus = s.bus := rfl
@[simp] theorem modRing_waitAcc (k : Nat) (f : Ring → Ring) : (modRing s k f).waitAcc = s.waitAcc := rfl
@[simp] theorem modRing_free (k : Nat) (f : Ring → Ring) : (modRing s k f).free = s.free := rfl
@[simp] theorem modRing_fio (k : Nat) (f : Ring → Ring) : (modRing s k f).fio = s.fio := rfl
@[simp] theorem modRing_mem (k : Nat) (f : Ring → Ring) : (modRing s k f).mem = s.mem := rfl
@[simp] theorem modRing_out (k : Nat) (f : Ring → Ring) : (modRing s k f).out = s.out := rfl
@[simp] theorem modRing_msix (k : Nat) (f : Ring → Ring) : (modRing s k f).msix = s.msix := rfl
@[simp] theorem modRing_caches (k : Nat) (f : Ring → Ring) : (modRing s k f).caches = s.caches := rfl
@[simp] theorem modRing_reqs (k : Nat) (f : Ring → Ring) : (modRing s k f).reqs = s.reqs := rfl
@[simp] theorem modRing_nextReq (k : Nat) (f : Ring → Ring) : (modRing s k f).nextReq = s.nextReq := rfl
@[simp] theorem modRing_buckets (k : Nat) (f : Ring → Ring) : (modRing s k f).buckets = s.buckets := rfl
@[simp] theorem modRing_scrubRow (k : Nat) (f : Ring → Ring) : (modRing s k f).scrubRow = s.scrubRow := rfl
@[simp] theorem modRing_memcLine (k : Nat) (f : Ring → Ring) : (modRing s k f).memcLine = s.memcLine := rfl
@[simp] theorem modRing_ueWords (k : Nat) (f : Ring → Ring) : (modRing s k f).ueWords = s.ueWords := rfl
@[simp] theorem modRing_cores (k : Nat) (f : Ring → Ring) : (modRing s k f).cores = s.cores := rfl
@[simp] theorem modRing_launches (k : Nat) (f : Ring → Ring) : (modRing s k f).launches = s.launches := rfl
@[simp] theorem modRing_endedWgs (k : Nat) (f : Ring → Ring) : (modRing s k f).endedWgs = s.endedWgs := rfl
@[simp] theorem modRing_tensors (k : Nat) (f : Ring → Ring) : (modRing s k f).tensors = s.tensors := rfl
@[simp] theorem modRing_weights (k : Nat) (f : Ring → Ring) : (modRing s k f).weights = s.weights := rfl
@[simp] theorem modRing_prefetched (k : Nat) (f : Ring → Ring) : (modRing s k f).prefetched = s.prefetched := rfl
@[simp] theorem modRing_cues (k : Nat) (f : Ring → Ring) : (modRing s k f).cues = s.cues := rfl
@[simp] theorem modRing_nextUid (k : Nat) (f : Ring → Ring) : (modRing s k f).nextUid = s.nextUid := rfl
@[simp] theorem modRing_follows (k : Nat) (f : Ring → Ring) : (modRing s k f).follows = s.follows := rfl
@[simp] theorem modRing_copies (k : Nat) (f : Ring → Ring) : (modRing s k f).copies = s.copies := rfl
@[simp] theorem modRing_stops (k : Nat) (f : Ring → Ring) : (modRing s k f).stops = s.stops := rfl
@[simp] theorem modRing_followFails (k : Nat) (f : Ring → Ring) : (modRing s k f).followFails = s.followFails := rfl
@[simp] theorem modRing_ctxs (k : Nat) (f : Ring → Ring) : (modRing s k f).ctxs = s.ctxs := rfl
@[simp] theorem modRing_fences (k : Nat) (f : Ring → Ring) : (modRing s k f).fences = s.fences := rfl
@[simp] theorem modRing_sems (k : Nat) (f : Ring → Ring) : (modRing s k f).sems = s.sems := rfl
@[simp] theorem modRing_faultReps (k : Nat) (f : Ring → Ring) : (modRing s k f).faultReps = s.faultReps := rfl
@[simp] theorem modRing_streams (k : Nat) (f : Ring → Ring) : (modRing s k f).streams = s.streams := rfl
@[simp] theorem modRing_saps (k : Nat) (f : Ring → Ring) : (modRing s k f).saps = s.saps := rfl
@[simp] theorem modRing_raster (k : Nat) (f : Ring → Ring) : (modRing s k f).raster = s.raster := rfl
@[simp] theorem modRing_savedPasses (k : Nat) (f : Ring → Ring) : (modRing s k f).savedPasses = s.savedPasses := rfl
@[simp] theorem modRing_comps (k : Nat) (f : Ring → Ring) : (modRing s k f).comps = s.comps := rfl
@[simp] theorem modRing_reports (k : Nat) (f : Ring → Ring) : (modRing s k f).reports = s.reports := rfl
@[simp] theorem modRing_layers (k : Nat) (f : Ring → Ring) : (modRing s k f).layers = s.layers := rfl
@[simp] theorem modRing_outputs (k : Nat) (f : Ring → Ring) : (modRing s k f).outputs = s.outputs := rfl
@[simp] theorem modRing_link (k : Nat) (f : Ring → Ring) : (modRing s k f).link = s.link := rfl
@[simp] theorem modRing_preempts (k : Nat) (f : Ring → Ring) : (modRing s k f).preempts = s.preempts := rfl
@[simp] theorem modRing_images (k : Nat) (f : Ring → Ring) : (modRing s k f).images = s.images := rfl
@[simp] theorem modRing_nextImage (k : Nat) (f : Ring → Ring) : (modRing s k f).nextImage = s.nextImage := rfl
@[simp] theorem modRing_savedWgs (k : Nat) (f : Ring → Ring) : (modRing s k f).savedWgs = s.savedWgs := rfl
@[simp] theorem modRing_tags (k : Nat) (f : Ring → Ring) : (modRing s k f).tags = s.tags := rfl
@[simp] theorem modRing_badTags (k : Nat) (f : Ring → Ring) : (modRing s k f).badTags = s.badTags := rfl
@[simp] theorem modRing_tagJob (k : Nat) (f : Ring → Ring) : (modRing s k f).tagJob = s.tagJob := rfl
@[simp] theorem modRing_tc (k : Nat) (f : Ring → Ring) : (modRing s k f).tc = s.tc := rfl
@[simp] theorem modRing_wc (k : Nat) (f : Ring → Ring) : (modRing s k f).wc = s.wc := rfl
@[simp] theorem modRing_helds (k : Nat) (f : Ring → Ring) : (modRing s k f).helds = s.helds := rfl
@[simp] theorem modRing_invs (k : Nat) (f : Ring → Ring) : (modRing s k f).invs = s.invs := rfl
@[simp] theorem modRing_nextInv (k : Nat) (f : Ring → Ring) : (modRing s k f).nextInv = s.nextInv := rfl
@[simp] theorem modRing_atsReqs (k : Nat) (f : Ring → Ring) : (modRing s k f).atsReqs = s.atsReqs := rfl
@[simp] theorem modRing_hostFails (k : Nat) (f : Ring → Ring) : (modRing s k f).hostFails = s.hostFails := rfl
@[simp] theorem modRing_atsEn (k : Nat) (f : Ring → Ring) : (modRing s k f).atsEn = s.atsEn := rfl
@[simp] theorem modRing_recorder (k : Nat) (f : Ring → Ring) : (modRing s k f).recorder = s.recorder := rfl
@[simp] theorem modRing_repairs (k : Nat) (f : Ring → Ring) : (modRing s k f).repairs = s.repairs := rfl
@[simp] theorem modRing_flash (k : Nat) (f : Ring → Ring) : (modRing s k f).flash = s.flash := rfl
@[simp] theorem modRing_boot (k : Nat) (f : Ring → Ring) : (modRing s k f).boot = s.boot := rfl
@[simp] theorem modRing_sdio (k : Nat) (f : Ring → Ring) : (modRing s k f).sdio = s.sdio := rfl
@[simp] theorem modRing_pwr (k : Nat) (f : Ring → Ring) : (modRing s k f).pwr = s.pwr := rfl
@[simp] theorem modRing_test (k : Nat) (f : Ring → Ring) : (modRing s k f).test = s.test := rfl

/-- A change of a fence changes the directory, and the memory only where the fence's table entry is written (R308). -/
theorem modFence_field {α : Type} (g : State → α) (hw : ∀ (u : State) (a : Nat) (bs : List Byte), g (memWrite u a bs) = g u)
    (x : Nat) (f : Fence → Fence) : g (modFence s x f) = g { s with fences := mmod Fence.none s.fences x f } := by
  unfold modFence
  dsimp only
  split
  · exact hw ..
  · rfl

@[simp] theorem modFence_pending (x : Nat) (f : Fence → Fence) : (modFence s x f).pending = s.pending := modFence_field s (·.pending) (fun _ _ _ => rfl) x f
@[simp] theorem modFence_regs (x : Nat) (f : Fence → Fence) : (modFence s x f).regs = s.regs := modFence_field s (·.regs) (fun _ _ _ => rfl) x f
@[simp] theorem modFence_applied (x : Nat) (f : Fence → Fence) : (modFence s x f).applied = s.applied := modFence_field s (·.applied) (fun _ _ _ => rfl) x f
@[simp] theorem modFence_committed (x : Nat) (f : Fence → Fence) : (modFence s x f).committed = s.committed := modFence_field s (·.committed) (fun _ _ _ => rfl) x f
@[simp] theorem modFence_scLocked (x : Nat) (f : Fence → Fence) : (modFence s x f).scLocked = s.scLocked := modFence_field s (·.scLocked) (fun _ _ _ => rfl) x f
@[simp] theorem modFence_loHeld (x : Nat) (f : Fence → Fence) : (modFence s x f).loHeld = s.loHeld := modFence_field s (·.loHeld) (fun _ _ _ => rfl) x f
@[simp] theorem modFence_hiLatch (x : Nat) (f : Fence → Fence) : (modFence s x f).hiLatch = s.hiLatch := modFence_field s (·.hiLatch) (fun _ _ _ => rfl) x f
@[simp] theorem modFence_bus (x : Nat) (f : Fence → Fence) : (modFence s x f).bus = s.bus := modFence_field s (·.bus) (fun _ _ _ => rfl) x f
@[simp] theorem modFence_waitAcc (x : Nat) (f : Fence → Fence) : (modFence s x f).waitAcc = s.waitAcc := modFence_field s (·.waitAcc) (fun _ _ _ => rfl) x f
@[simp] theorem modFence_free (x : Nat) (f : Fence → Fence) : (modFence s x f).free = s.free := modFence_field s (·.free) (fun _ _ _ => rfl) x f
@[simp] theorem modFence_fio (x : Nat) (f : Fence → Fence) : (modFence s x f).fio = s.fio := modFence_field s (·.fio) (fun _ _ _ => rfl) x f
@[simp] theorem modFence_out (x : Nat) (f : Fence → Fence) : (modFence s x f).out = s.out := modFence_field s (·.out) (fun _ _ _ => rfl) x f
@[simp] theorem modFence_msix (x : Nat) (f : Fence → Fence) : (modFence s x f).msix = s.msix := modFence_field s (·.msix) (fun _ _ _ => rfl) x f
@[simp] theorem modFence_caches (x : Nat) (f : Fence → Fence) : (modFence s x f).caches = s.caches := modFence_field s (·.caches) (fun _ _ _ => rfl) x f
@[simp] theorem modFence_reqs (x : Nat) (f : Fence → Fence) : (modFence s x f).reqs = s.reqs := modFence_field s (·.reqs) (fun _ _ _ => rfl) x f
@[simp] theorem modFence_nextReq (x : Nat) (f : Fence → Fence) : (modFence s x f).nextReq = s.nextReq := modFence_field s (·.nextReq) (fun _ _ _ => rfl) x f
@[simp] theorem modFence_buckets (x : Nat) (f : Fence → Fence) : (modFence s x f).buckets = s.buckets := modFence_field s (·.buckets) (fun _ _ _ => rfl) x f
@[simp] theorem modFence_scrubRow (x : Nat) (f : Fence → Fence) : (modFence s x f).scrubRow = s.scrubRow := modFence_field s (·.scrubRow) (fun _ _ _ => rfl) x f
@[simp] theorem modFence_memcLine (x : Nat) (f : Fence → Fence) : (modFence s x f).memcLine = s.memcLine := modFence_field s (·.memcLine) (fun _ _ _ => rfl) x f
@[simp] theorem modFence_cores (x : Nat) (f : Fence → Fence) : (modFence s x f).cores = s.cores := modFence_field s (·.cores) (fun _ _ _ => rfl) x f
@[simp] theorem modFence_launches (x : Nat) (f : Fence → Fence) : (modFence s x f).launches = s.launches := modFence_field s (·.launches) (fun _ _ _ => rfl) x f
@[simp] theorem modFence_endedWgs (x : Nat) (f : Fence → Fence) : (modFence s x f).endedWgs = s.endedWgs := modFence_field s (·.endedWgs) (fun _ _ _ => rfl) x f
@[simp] theorem modFence_tensors (x : Nat) (f : Fence → Fence) : (modFence s x f).tensors = s.tensors := modFence_field s (·.tensors) (fun _ _ _ => rfl) x f
@[simp] theorem modFence_weights (x : Nat) (f : Fence → Fence) : (modFence s x f).weights = s.weights := modFence_field s (·.weights) (fun _ _ _ => rfl) x f
@[simp] theorem modFence_prefetched (x : Nat) (f : Fence → Fence) : (modFence s x f).prefetched = s.prefetched := modFence_field s (·.prefetched) (fun _ _ _ => rfl) x f
@[simp] theorem modFence_cues (x : Nat) (f : Fence → Fence) : (modFence s x f).cues = s.cues := modFence_field s (·.cues) (fun _ _ _ => rfl) x f
@[simp] theorem modFence_nextUid (x : Nat) (f : Fence → Fence) : (modFence s x f).nextUid = s.nextUid := modFence_field s (·.nextUid) (fun _ _ _ => rfl) x f
@[simp] theorem modFence_follows (x : Nat) (f : Fence → Fence) : (modFence s x f).follows = s.follows := modFence_field s (·.follows) (fun _ _ _ => rfl) x f
@[simp] theorem modFence_copies (x : Nat) (f : Fence → Fence) : (modFence s x f).copies = s.copies := modFence_field s (·.copies) (fun _ _ _ => rfl) x f
@[simp] theorem modFence_stops (x : Nat) (f : Fence → Fence) : (modFence s x f).stops = s.stops := modFence_field s (·.stops) (fun _ _ _ => rfl) x f
@[simp] theorem modFence_followFails (x : Nat) (f : Fence → Fence) : (modFence s x f).followFails = s.followFails := modFence_field s (·.followFails) (fun _ _ _ => rfl) x f
@[simp] theorem modFence_rings (x : Nat) (f : Fence → Fence) : (modFence s x f).rings = s.rings := modFence_field s (·.rings) (fun _ _ _ => rfl) x f
@[simp] theorem modFence_ctxs (x : Nat) (f : Fence → Fence) : (modFence s x f).ctxs = s.ctxs := modFence_field s (·.ctxs) (fun _ _ _ => rfl) x f
@[simp] theorem modFence_sems (x : Nat) (f : Fence → Fence) : (modFence s x f).sems = s.sems := modFence_field s (·.sems) (fun _ _ _ => rfl) x f
@[simp] theorem modFence_faultReps (x : Nat) (f : Fence → Fence) : (modFence s x f).faultReps = s.faultReps := modFence_field s (·.faultReps) (fun _ _ _ => rfl) x f
@[simp] theorem modFence_streams (x : Nat) (f : Fence → Fence) : (modFence s x f).streams = s.streams := modFence_field s (·.streams) (fun _ _ _ => rfl) x f
@[simp] theorem modFence_saps (x : Nat) (f : Fence → Fence) : (modFence s x f).saps = s.saps := modFence_field s (·.saps) (fun _ _ _ => rfl) x f
@[simp] theorem modFence_raster (x : Nat) (f : Fence → Fence) : (modFence s x f).raster = s.raster := modFence_field s (·.raster) (fun _ _ _ => rfl) x f
@[simp] theorem modFence_savedPasses (x : Nat) (f : Fence → Fence) : (modFence s x f).savedPasses = s.savedPasses := modFence_field s (·.savedPasses) (fun _ _ _ => rfl) x f
@[simp] theorem modFence_comps (x : Nat) (f : Fence → Fence) : (modFence s x f).comps = s.comps := modFence_field s (·.comps) (fun _ _ _ => rfl) x f
@[simp] theorem modFence_reports (x : Nat) (f : Fence → Fence) : (modFence s x f).reports = s.reports := modFence_field s (·.reports) (fun _ _ _ => rfl) x f
@[simp] theorem modFence_layers (x : Nat) (f : Fence → Fence) : (modFence s x f).layers = s.layers := modFence_field s (·.layers) (fun _ _ _ => rfl) x f
@[simp] theorem modFence_outputs (x : Nat) (f : Fence → Fence) : (modFence s x f).outputs = s.outputs := modFence_field s (·.outputs) (fun _ _ _ => rfl) x f
@[simp] theorem modFence_link (x : Nat) (f : Fence → Fence) : (modFence s x f).link = s.link := modFence_field s (·.link) (fun _ _ _ => rfl) x f
@[simp] theorem modFence_preempts (x : Nat) (f : Fence → Fence) : (modFence s x f).preempts = s.preempts := modFence_field s (·.preempts) (fun _ _ _ => rfl) x f
@[simp] theorem modFence_images (x : Nat) (f : Fence → Fence) : (modFence s x f).images = s.images := modFence_field s (·.images) (fun _ _ _ => rfl) x f
@[simp] theorem modFence_nextImage (x : Nat) (f : Fence → Fence) : (modFence s x f).nextImage = s.nextImage := modFence_field s (·.nextImage) (fun _ _ _ => rfl) x f
@[simp] theorem modFence_savedWgs (x : Nat) (f : Fence → Fence) : (modFence s x f).savedWgs = s.savedWgs := modFence_field s (·.savedWgs) (fun _ _ _ => rfl) x f
@[simp] theorem modFence_tags (x : Nat) (f : Fence → Fence) : (modFence s x f).tags = s.tags := modFence_field s (·.tags) (fun _ _ _ => rfl) x f
@[simp] theorem modFence_badTags (x : Nat) (f : Fence → Fence) : (modFence s x f).badTags = s.badTags := modFence_field s (·.badTags) (fun _ _ _ => rfl) x f
@[simp] theorem modFence_tagJob (x : Nat) (f : Fence → Fence) : (modFence s x f).tagJob = s.tagJob := modFence_field s (·.tagJob) (fun _ _ _ => rfl) x f
@[simp] theorem modFence_tc (x : Nat) (f : Fence → Fence) : (modFence s x f).tc = s.tc := modFence_field s (·.tc) (fun _ _ _ => rfl) x f
@[simp] theorem modFence_wc (x : Nat) (f : Fence → Fence) : (modFence s x f).wc = s.wc := modFence_field s (·.wc) (fun _ _ _ => rfl) x f
@[simp] theorem modFence_helds (x : Nat) (f : Fence → Fence) : (modFence s x f).helds = s.helds := modFence_field s (·.helds) (fun _ _ _ => rfl) x f
@[simp] theorem modFence_invs (x : Nat) (f : Fence → Fence) : (modFence s x f).invs = s.invs := modFence_field s (·.invs) (fun _ _ _ => rfl) x f
@[simp] theorem modFence_nextInv (x : Nat) (f : Fence → Fence) : (modFence s x f).nextInv = s.nextInv := modFence_field s (·.nextInv) (fun _ _ _ => rfl) x f
@[simp] theorem modFence_atsReqs (x : Nat) (f : Fence → Fence) : (modFence s x f).atsReqs = s.atsReqs := modFence_field s (·.atsReqs) (fun _ _ _ => rfl) x f
@[simp] theorem modFence_hostFails (x : Nat) (f : Fence → Fence) : (modFence s x f).hostFails = s.hostFails := modFence_field s (·.hostFails) (fun _ _ _ => rfl) x f
@[simp] theorem modFence_atsEn (x : Nat) (f : Fence → Fence) : (modFence s x f).atsEn = s.atsEn := modFence_field s (·.atsEn) (fun _ _ _ => rfl) x f
@[simp] theorem modFence_recorder (x : Nat) (f : Fence → Fence) : (modFence s x f).recorder = s.recorder := modFence_field s (·.recorder) (fun _ _ _ => rfl) x f
@[simp] theorem modFence_repairs (x : Nat) (f : Fence → Fence) : (modFence s x f).repairs = s.repairs := modFence_field s (·.repairs) (fun _ _ _ => rfl) x f
@[simp] theorem modFence_flash (x : Nat) (f : Fence → Fence) : (modFence s x f).flash = s.flash := modFence_field s (·.flash) (fun _ _ _ => rfl) x f
@[simp] theorem modFence_boot (x : Nat) (f : Fence → Fence) : (modFence s x f).boot = s.boot := modFence_field s (·.boot) (fun _ _ _ => rfl) x f
@[simp] theorem modFence_sdio (x : Nat) (f : Fence → Fence) : (modFence s x f).sdio = s.sdio := modFence_field s (·.sdio) (fun _ _ _ => rfl) x f
@[simp] theorem modFence_pwr (x : Nat) (f : Fence → Fence) : (modFence s x f).pwr = s.pwr := modFence_field s (·.pwr) (fun _ _ _ => rfl) x f
@[simp] theorem modFence_test (x : Nat) (f : Fence → Fence) : (modFence s x f).test = s.test := modFence_field s (·.test) (fun _ _ _ => rfl) x f

@[simp] theorem modSem_pending (x : Nat) (f : Sem → Sem) : (modSem s x f).pending = s.pending := rfl
@[simp] theorem modSem_regs (x : Nat) (f : Sem → Sem) : (modSem s x f).regs = s.regs := rfl
@[simp] theorem modSem_applied (x : Nat) (f : Sem → Sem) : (modSem s x f).applied = s.applied := rfl
@[simp] theorem modSem_committed (x : Nat) (f : Sem → Sem) : (modSem s x f).committed = s.committed := rfl
@[simp] theorem modSem_scLocked (x : Nat) (f : Sem → Sem) : (modSem s x f).scLocked = s.scLocked := rfl
@[simp] theorem modSem_loHeld (x : Nat) (f : Sem → Sem) : (modSem s x f).loHeld = s.loHeld := rfl
@[simp] theorem modSem_hiLatch (x : Nat) (f : Sem → Sem) : (modSem s x f).hiLatch = s.hiLatch := rfl
@[simp] theorem modSem_bus (x : Nat) (f : Sem → Sem) : (modSem s x f).bus = s.bus := rfl
@[simp] theorem modSem_waitAcc (x : Nat) (f : Sem → Sem) : (modSem s x f).waitAcc = s.waitAcc := rfl
@[simp] theorem modSem_free (x : Nat) (f : Sem → Sem) : (modSem s x f).free = s.free := rfl
@[simp] theorem modSem_fio (x : Nat) (f : Sem → Sem) : (modSem s x f).fio = s.fio := rfl
@[simp] theorem modSem_mem (x : Nat) (f : Sem → Sem) : (modSem s x f).mem = s.mem := rfl
@[simp] theorem modSem_out (x : Nat) (f : Sem → Sem) : (modSem s x f).out = s.out := rfl
@[simp] theorem modSem_msix (x : Nat) (f : Sem → Sem) : (modSem s x f).msix = s.msix := rfl
@[simp] theorem modSem_caches (x : Nat) (f : Sem → Sem) : (modSem s x f).caches = s.caches := rfl
@[simp] theorem modSem_reqs (x : Nat) (f : Sem → Sem) : (modSem s x f).reqs = s.reqs := rfl
@[simp] theorem modSem_nextReq (x : Nat) (f : Sem → Sem) : (modSem s x f).nextReq = s.nextReq := rfl
@[simp] theorem modSem_buckets (x : Nat) (f : Sem → Sem) : (modSem s x f).buckets = s.buckets := rfl
@[simp] theorem modSem_scrubRow (x : Nat) (f : Sem → Sem) : (modSem s x f).scrubRow = s.scrubRow := rfl
@[simp] theorem modSem_memcLine (x : Nat) (f : Sem → Sem) : (modSem s x f).memcLine = s.memcLine := rfl
@[simp] theorem modSem_ueWords (x : Nat) (f : Sem → Sem) : (modSem s x f).ueWords = s.ueWords := rfl
@[simp] theorem modSem_cores (x : Nat) (f : Sem → Sem) : (modSem s x f).cores = s.cores := rfl
@[simp] theorem modSem_launches (x : Nat) (f : Sem → Sem) : (modSem s x f).launches = s.launches := rfl
@[simp] theorem modSem_endedWgs (x : Nat) (f : Sem → Sem) : (modSem s x f).endedWgs = s.endedWgs := rfl
@[simp] theorem modSem_tensors (x : Nat) (f : Sem → Sem) : (modSem s x f).tensors = s.tensors := rfl
@[simp] theorem modSem_weights (x : Nat) (f : Sem → Sem) : (modSem s x f).weights = s.weights := rfl
@[simp] theorem modSem_prefetched (x : Nat) (f : Sem → Sem) : (modSem s x f).prefetched = s.prefetched := rfl
@[simp] theorem modSem_cues (x : Nat) (f : Sem → Sem) : (modSem s x f).cues = s.cues := rfl
@[simp] theorem modSem_nextUid (x : Nat) (f : Sem → Sem) : (modSem s x f).nextUid = s.nextUid := rfl
@[simp] theorem modSem_follows (x : Nat) (f : Sem → Sem) : (modSem s x f).follows = s.follows := rfl
@[simp] theorem modSem_copies (x : Nat) (f : Sem → Sem) : (modSem s x f).copies = s.copies := rfl
@[simp] theorem modSem_stops (x : Nat) (f : Sem → Sem) : (modSem s x f).stops = s.stops := rfl
@[simp] theorem modSem_followFails (x : Nat) (f : Sem → Sem) : (modSem s x f).followFails = s.followFails := rfl
@[simp] theorem modSem_rings (x : Nat) (f : Sem → Sem) : (modSem s x f).rings = s.rings := rfl
@[simp] theorem modSem_ctxs (x : Nat) (f : Sem → Sem) : (modSem s x f).ctxs = s.ctxs := rfl
@[simp] theorem modSem_fences (x : Nat) (f : Sem → Sem) : (modSem s x f).fences = s.fences := rfl
@[simp] theorem modSem_faultReps (x : Nat) (f : Sem → Sem) : (modSem s x f).faultReps = s.faultReps := rfl
@[simp] theorem modSem_streams (x : Nat) (f : Sem → Sem) : (modSem s x f).streams = s.streams := rfl
@[simp] theorem modSem_saps (x : Nat) (f : Sem → Sem) : (modSem s x f).saps = s.saps := rfl
@[simp] theorem modSem_raster (x : Nat) (f : Sem → Sem) : (modSem s x f).raster = s.raster := rfl
@[simp] theorem modSem_savedPasses (x : Nat) (f : Sem → Sem) : (modSem s x f).savedPasses = s.savedPasses := rfl
@[simp] theorem modSem_comps (x : Nat) (f : Sem → Sem) : (modSem s x f).comps = s.comps := rfl
@[simp] theorem modSem_reports (x : Nat) (f : Sem → Sem) : (modSem s x f).reports = s.reports := rfl
@[simp] theorem modSem_layers (x : Nat) (f : Sem → Sem) : (modSem s x f).layers = s.layers := rfl
@[simp] theorem modSem_outputs (x : Nat) (f : Sem → Sem) : (modSem s x f).outputs = s.outputs := rfl
@[simp] theorem modSem_link (x : Nat) (f : Sem → Sem) : (modSem s x f).link = s.link := rfl
@[simp] theorem modSem_preempts (x : Nat) (f : Sem → Sem) : (modSem s x f).preempts = s.preempts := rfl
@[simp] theorem modSem_images (x : Nat) (f : Sem → Sem) : (modSem s x f).images = s.images := rfl
@[simp] theorem modSem_nextImage (x : Nat) (f : Sem → Sem) : (modSem s x f).nextImage = s.nextImage := rfl
@[simp] theorem modSem_savedWgs (x : Nat) (f : Sem → Sem) : (modSem s x f).savedWgs = s.savedWgs := rfl
@[simp] theorem modSem_tags (x : Nat) (f : Sem → Sem) : (modSem s x f).tags = s.tags := rfl
@[simp] theorem modSem_badTags (x : Nat) (f : Sem → Sem) : (modSem s x f).badTags = s.badTags := rfl
@[simp] theorem modSem_tagJob (x : Nat) (f : Sem → Sem) : (modSem s x f).tagJob = s.tagJob := rfl
@[simp] theorem modSem_tc (x : Nat) (f : Sem → Sem) : (modSem s x f).tc = s.tc := rfl
@[simp] theorem modSem_wc (x : Nat) (f : Sem → Sem) : (modSem s x f).wc = s.wc := rfl
@[simp] theorem modSem_helds (x : Nat) (f : Sem → Sem) : (modSem s x f).helds = s.helds := rfl
@[simp] theorem modSem_invs (x : Nat) (f : Sem → Sem) : (modSem s x f).invs = s.invs := rfl
@[simp] theorem modSem_nextInv (x : Nat) (f : Sem → Sem) : (modSem s x f).nextInv = s.nextInv := rfl
@[simp] theorem modSem_atsReqs (x : Nat) (f : Sem → Sem) : (modSem s x f).atsReqs = s.atsReqs := rfl
@[simp] theorem modSem_hostFails (x : Nat) (f : Sem → Sem) : (modSem s x f).hostFails = s.hostFails := rfl
@[simp] theorem modSem_atsEn (x : Nat) (f : Sem → Sem) : (modSem s x f).atsEn = s.atsEn := rfl
@[simp] theorem modSem_recorder (x : Nat) (f : Sem → Sem) : (modSem s x f).recorder = s.recorder := rfl
@[simp] theorem modSem_repairs (x : Nat) (f : Sem → Sem) : (modSem s x f).repairs = s.repairs := rfl
@[simp] theorem modSem_flash (x : Nat) (f : Sem → Sem) : (modSem s x f).flash = s.flash := rfl
@[simp] theorem modSem_boot (x : Nat) (f : Sem → Sem) : (modSem s x f).boot = s.boot := rfl
@[simp] theorem modSem_sdio (x : Nat) (f : Sem → Sem) : (modSem s x f).sdio = s.sdio := rfl
@[simp] theorem modSem_pwr (x : Nat) (f : Sem → Sem) : (modSem s x f).pwr = s.pwr := rfl
@[simp] theorem modSem_test (x : Nat) (f : Sem → Sem) : (modSem s x f).test = s.test := rfl

@[simp] theorem modStream_pending (n : Nat) (f : PitStream → PitStream) : (modStream s n f).pending = s.pending := rfl
@[simp] theorem modStream_regs (n : Nat) (f : PitStream → PitStream) : (modStream s n f).regs = s.regs := rfl
@[simp] theorem modStream_applied (n : Nat) (f : PitStream → PitStream) : (modStream s n f).applied = s.applied := rfl
@[simp] theorem modStream_committed (n : Nat) (f : PitStream → PitStream) : (modStream s n f).committed = s.committed := rfl
@[simp] theorem modStream_scLocked (n : Nat) (f : PitStream → PitStream) : (modStream s n f).scLocked = s.scLocked := rfl
@[simp] theorem modStream_loHeld (n : Nat) (f : PitStream → PitStream) : (modStream s n f).loHeld = s.loHeld := rfl
@[simp] theorem modStream_hiLatch (n : Nat) (f : PitStream → PitStream) : (modStream s n f).hiLatch = s.hiLatch := rfl
@[simp] theorem modStream_bus (n : Nat) (f : PitStream → PitStream) : (modStream s n f).bus = s.bus := rfl
@[simp] theorem modStream_waitAcc (n : Nat) (f : PitStream → PitStream) : (modStream s n f).waitAcc = s.waitAcc := rfl
@[simp] theorem modStream_free (n : Nat) (f : PitStream → PitStream) : (modStream s n f).free = s.free := rfl
@[simp] theorem modStream_fio (n : Nat) (f : PitStream → PitStream) : (modStream s n f).fio = s.fio := rfl
@[simp] theorem modStream_mem (n : Nat) (f : PitStream → PitStream) : (modStream s n f).mem = s.mem := rfl
@[simp] theorem modStream_out (n : Nat) (f : PitStream → PitStream) : (modStream s n f).out = s.out := rfl
@[simp] theorem modStream_msix (n : Nat) (f : PitStream → PitStream) : (modStream s n f).msix = s.msix := rfl
@[simp] theorem modStream_caches (n : Nat) (f : PitStream → PitStream) : (modStream s n f).caches = s.caches := rfl
@[simp] theorem modStream_reqs (n : Nat) (f : PitStream → PitStream) : (modStream s n f).reqs = s.reqs := rfl
@[simp] theorem modStream_nextReq (n : Nat) (f : PitStream → PitStream) : (modStream s n f).nextReq = s.nextReq := rfl
@[simp] theorem modStream_buckets (n : Nat) (f : PitStream → PitStream) : (modStream s n f).buckets = s.buckets := rfl
@[simp] theorem modStream_scrubRow (n : Nat) (f : PitStream → PitStream) : (modStream s n f).scrubRow = s.scrubRow := rfl
@[simp] theorem modStream_memcLine (n : Nat) (f : PitStream → PitStream) : (modStream s n f).memcLine = s.memcLine := rfl
@[simp] theorem modStream_ueWords (n : Nat) (f : PitStream → PitStream) : (modStream s n f).ueWords = s.ueWords := rfl
@[simp] theorem modStream_cores (n : Nat) (f : PitStream → PitStream) : (modStream s n f).cores = s.cores := rfl
@[simp] theorem modStream_launches (n : Nat) (f : PitStream → PitStream) : (modStream s n f).launches = s.launches := rfl
@[simp] theorem modStream_endedWgs (n : Nat) (f : PitStream → PitStream) : (modStream s n f).endedWgs = s.endedWgs := rfl
@[simp] theorem modStream_tensors (n : Nat) (f : PitStream → PitStream) : (modStream s n f).tensors = s.tensors := rfl
@[simp] theorem modStream_weights (n : Nat) (f : PitStream → PitStream) : (modStream s n f).weights = s.weights := rfl
@[simp] theorem modStream_prefetched (n : Nat) (f : PitStream → PitStream) : (modStream s n f).prefetched = s.prefetched := rfl
@[simp] theorem modStream_cues (n : Nat) (f : PitStream → PitStream) : (modStream s n f).cues = s.cues := rfl
@[simp] theorem modStream_nextUid (n : Nat) (f : PitStream → PitStream) : (modStream s n f).nextUid = s.nextUid := rfl
@[simp] theorem modStream_follows (n : Nat) (f : PitStream → PitStream) : (modStream s n f).follows = s.follows := rfl
@[simp] theorem modStream_copies (n : Nat) (f : PitStream → PitStream) : (modStream s n f).copies = s.copies := rfl
@[simp] theorem modStream_stops (n : Nat) (f : PitStream → PitStream) : (modStream s n f).stops = s.stops := rfl
@[simp] theorem modStream_followFails (n : Nat) (f : PitStream → PitStream) : (modStream s n f).followFails = s.followFails := rfl
@[simp] theorem modStream_rings (n : Nat) (f : PitStream → PitStream) : (modStream s n f).rings = s.rings := rfl
@[simp] theorem modStream_ctxs (n : Nat) (f : PitStream → PitStream) : (modStream s n f).ctxs = s.ctxs := rfl
@[simp] theorem modStream_fences (n : Nat) (f : PitStream → PitStream) : (modStream s n f).fences = s.fences := rfl
@[simp] theorem modStream_sems (n : Nat) (f : PitStream → PitStream) : (modStream s n f).sems = s.sems := rfl
@[simp] theorem modStream_faultReps (n : Nat) (f : PitStream → PitStream) : (modStream s n f).faultReps = s.faultReps := rfl
@[simp] theorem modStream_saps (n : Nat) (f : PitStream → PitStream) : (modStream s n f).saps = s.saps := rfl
@[simp] theorem modStream_raster (n : Nat) (f : PitStream → PitStream) : (modStream s n f).raster = s.raster := rfl
@[simp] theorem modStream_savedPasses (n : Nat) (f : PitStream → PitStream) : (modStream s n f).savedPasses = s.savedPasses := rfl
@[simp] theorem modStream_comps (n : Nat) (f : PitStream → PitStream) : (modStream s n f).comps = s.comps := rfl
@[simp] theorem modStream_reports (n : Nat) (f : PitStream → PitStream) : (modStream s n f).reports = s.reports := rfl
@[simp] theorem modStream_layers (n : Nat) (f : PitStream → PitStream) : (modStream s n f).layers = s.layers := rfl
@[simp] theorem modStream_outputs (n : Nat) (f : PitStream → PitStream) : (modStream s n f).outputs = s.outputs := rfl
@[simp] theorem modStream_link (n : Nat) (f : PitStream → PitStream) : (modStream s n f).link = s.link := rfl
@[simp] theorem modStream_preempts (n : Nat) (f : PitStream → PitStream) : (modStream s n f).preempts = s.preempts := rfl
@[simp] theorem modStream_images (n : Nat) (f : PitStream → PitStream) : (modStream s n f).images = s.images := rfl
@[simp] theorem modStream_nextImage (n : Nat) (f : PitStream → PitStream) : (modStream s n f).nextImage = s.nextImage := rfl
@[simp] theorem modStream_savedWgs (n : Nat) (f : PitStream → PitStream) : (modStream s n f).savedWgs = s.savedWgs := rfl
@[simp] theorem modStream_tags (n : Nat) (f : PitStream → PitStream) : (modStream s n f).tags = s.tags := rfl
@[simp] theorem modStream_badTags (n : Nat) (f : PitStream → PitStream) : (modStream s n f).badTags = s.badTags := rfl
@[simp] theorem modStream_tagJob (n : Nat) (f : PitStream → PitStream) : (modStream s n f).tagJob = s.tagJob := rfl
@[simp] theorem modStream_tc (n : Nat) (f : PitStream → PitStream) : (modStream s n f).tc = s.tc := rfl
@[simp] theorem modStream_wc (n : Nat) (f : PitStream → PitStream) : (modStream s n f).wc = s.wc := rfl
@[simp] theorem modStream_helds (n : Nat) (f : PitStream → PitStream) : (modStream s n f).helds = s.helds := rfl
@[simp] theorem modStream_invs (n : Nat) (f : PitStream → PitStream) : (modStream s n f).invs = s.invs := rfl
@[simp] theorem modStream_nextInv (n : Nat) (f : PitStream → PitStream) : (modStream s n f).nextInv = s.nextInv := rfl
@[simp] theorem modStream_atsReqs (n : Nat) (f : PitStream → PitStream) : (modStream s n f).atsReqs = s.atsReqs := rfl
@[simp] theorem modStream_hostFails (n : Nat) (f : PitStream → PitStream) : (modStream s n f).hostFails = s.hostFails := rfl
@[simp] theorem modStream_atsEn (n : Nat) (f : PitStream → PitStream) : (modStream s n f).atsEn = s.atsEn := rfl
@[simp] theorem modStream_recorder (n : Nat) (f : PitStream → PitStream) : (modStream s n f).recorder = s.recorder := rfl
@[simp] theorem modStream_repairs (n : Nat) (f : PitStream → PitStream) : (modStream s n f).repairs = s.repairs := rfl
@[simp] theorem modStream_flash (n : Nat) (f : PitStream → PitStream) : (modStream s n f).flash = s.flash := rfl
@[simp] theorem modStream_boot (n : Nat) (f : PitStream → PitStream) : (modStream s n f).boot = s.boot := rfl
@[simp] theorem modStream_sdio (n : Nat) (f : PitStream → PitStream) : (modStream s n f).sdio = s.sdio := rfl
@[simp] theorem modStream_pwr (n : Nat) (f : PitStream → PitStream) : (modStream s n f).pwr = s.pwr := rfl
@[simp] theorem modStream_test (n : Nat) (f : PitStream → PitStream) : (modStream s n f).test = s.test := rfl

@[simp] theorem modSap_pending (p : Nat) (f : SapPort → SapPort) : (modSap s p f).pending = s.pending := rfl
@[simp] theorem modSap_regs (p : Nat) (f : SapPort → SapPort) : (modSap s p f).regs = s.regs := rfl
@[simp] theorem modSap_applied (p : Nat) (f : SapPort → SapPort) : (modSap s p f).applied = s.applied := rfl
@[simp] theorem modSap_committed (p : Nat) (f : SapPort → SapPort) : (modSap s p f).committed = s.committed := rfl
@[simp] theorem modSap_scLocked (p : Nat) (f : SapPort → SapPort) : (modSap s p f).scLocked = s.scLocked := rfl
@[simp] theorem modSap_loHeld (p : Nat) (f : SapPort → SapPort) : (modSap s p f).loHeld = s.loHeld := rfl
@[simp] theorem modSap_hiLatch (p : Nat) (f : SapPort → SapPort) : (modSap s p f).hiLatch = s.hiLatch := rfl
@[simp] theorem modSap_bus (p : Nat) (f : SapPort → SapPort) : (modSap s p f).bus = s.bus := rfl
@[simp] theorem modSap_waitAcc (p : Nat) (f : SapPort → SapPort) : (modSap s p f).waitAcc = s.waitAcc := rfl
@[simp] theorem modSap_free (p : Nat) (f : SapPort → SapPort) : (modSap s p f).free = s.free := rfl
@[simp] theorem modSap_fio (p : Nat) (f : SapPort → SapPort) : (modSap s p f).fio = s.fio := rfl
@[simp] theorem modSap_mem (p : Nat) (f : SapPort → SapPort) : (modSap s p f).mem = s.mem := rfl
@[simp] theorem modSap_out (p : Nat) (f : SapPort → SapPort) : (modSap s p f).out = s.out := rfl
@[simp] theorem modSap_msix (p : Nat) (f : SapPort → SapPort) : (modSap s p f).msix = s.msix := rfl
@[simp] theorem modSap_caches (p : Nat) (f : SapPort → SapPort) : (modSap s p f).caches = s.caches := rfl
@[simp] theorem modSap_reqs (p : Nat) (f : SapPort → SapPort) : (modSap s p f).reqs = s.reqs := rfl
@[simp] theorem modSap_nextReq (p : Nat) (f : SapPort → SapPort) : (modSap s p f).nextReq = s.nextReq := rfl
@[simp] theorem modSap_buckets (p : Nat) (f : SapPort → SapPort) : (modSap s p f).buckets = s.buckets := rfl
@[simp] theorem modSap_scrubRow (p : Nat) (f : SapPort → SapPort) : (modSap s p f).scrubRow = s.scrubRow := rfl
@[simp] theorem modSap_memcLine (p : Nat) (f : SapPort → SapPort) : (modSap s p f).memcLine = s.memcLine := rfl
@[simp] theorem modSap_ueWords (p : Nat) (f : SapPort → SapPort) : (modSap s p f).ueWords = s.ueWords := rfl
@[simp] theorem modSap_cores (p : Nat) (f : SapPort → SapPort) : (modSap s p f).cores = s.cores := rfl
@[simp] theorem modSap_launches (p : Nat) (f : SapPort → SapPort) : (modSap s p f).launches = s.launches := rfl
@[simp] theorem modSap_endedWgs (p : Nat) (f : SapPort → SapPort) : (modSap s p f).endedWgs = s.endedWgs := rfl
@[simp] theorem modSap_tensors (p : Nat) (f : SapPort → SapPort) : (modSap s p f).tensors = s.tensors := rfl
@[simp] theorem modSap_weights (p : Nat) (f : SapPort → SapPort) : (modSap s p f).weights = s.weights := rfl
@[simp] theorem modSap_prefetched (p : Nat) (f : SapPort → SapPort) : (modSap s p f).prefetched = s.prefetched := rfl
@[simp] theorem modSap_cues (p : Nat) (f : SapPort → SapPort) : (modSap s p f).cues = s.cues := rfl
@[simp] theorem modSap_nextUid (p : Nat) (f : SapPort → SapPort) : (modSap s p f).nextUid = s.nextUid := rfl
@[simp] theorem modSap_follows (p : Nat) (f : SapPort → SapPort) : (modSap s p f).follows = s.follows := rfl
@[simp] theorem modSap_copies (p : Nat) (f : SapPort → SapPort) : (modSap s p f).copies = s.copies := rfl
@[simp] theorem modSap_stops (p : Nat) (f : SapPort → SapPort) : (modSap s p f).stops = s.stops := rfl
@[simp] theorem modSap_followFails (p : Nat) (f : SapPort → SapPort) : (modSap s p f).followFails = s.followFails := rfl
@[simp] theorem modSap_rings (p : Nat) (f : SapPort → SapPort) : (modSap s p f).rings = s.rings := rfl
@[simp] theorem modSap_ctxs (p : Nat) (f : SapPort → SapPort) : (modSap s p f).ctxs = s.ctxs := rfl
@[simp] theorem modSap_fences (p : Nat) (f : SapPort → SapPort) : (modSap s p f).fences = s.fences := rfl
@[simp] theorem modSap_sems (p : Nat) (f : SapPort → SapPort) : (modSap s p f).sems = s.sems := rfl
@[simp] theorem modSap_faultReps (p : Nat) (f : SapPort → SapPort) : (modSap s p f).faultReps = s.faultReps := rfl
@[simp] theorem modSap_streams (p : Nat) (f : SapPort → SapPort) : (modSap s p f).streams = s.streams := rfl
@[simp] theorem modSap_raster (p : Nat) (f : SapPort → SapPort) : (modSap s p f).raster = s.raster := rfl
@[simp] theorem modSap_savedPasses (p : Nat) (f : SapPort → SapPort) : (modSap s p f).savedPasses = s.savedPasses := rfl
@[simp] theorem modSap_comps (p : Nat) (f : SapPort → SapPort) : (modSap s p f).comps = s.comps := rfl
@[simp] theorem modSap_reports (p : Nat) (f : SapPort → SapPort) : (modSap s p f).reports = s.reports := rfl
@[simp] theorem modSap_layers (p : Nat) (f : SapPort → SapPort) : (modSap s p f).layers = s.layers := rfl
@[simp] theorem modSap_outputs (p : Nat) (f : SapPort → SapPort) : (modSap s p f).outputs = s.outputs := rfl
@[simp] theorem modSap_link (p : Nat) (f : SapPort → SapPort) : (modSap s p f).link = s.link := rfl
@[simp] theorem modSap_preempts (p : Nat) (f : SapPort → SapPort) : (modSap s p f).preempts = s.preempts := rfl
@[simp] theorem modSap_images (p : Nat) (f : SapPort → SapPort) : (modSap s p f).images = s.images := rfl
@[simp] theorem modSap_nextImage (p : Nat) (f : SapPort → SapPort) : (modSap s p f).nextImage = s.nextImage := rfl
@[simp] theorem modSap_savedWgs (p : Nat) (f : SapPort → SapPort) : (modSap s p f).savedWgs = s.savedWgs := rfl
@[simp] theorem modSap_tags (p : Nat) (f : SapPort → SapPort) : (modSap s p f).tags = s.tags := rfl
@[simp] theorem modSap_badTags (p : Nat) (f : SapPort → SapPort) : (modSap s p f).badTags = s.badTags := rfl
@[simp] theorem modSap_tagJob (p : Nat) (f : SapPort → SapPort) : (modSap s p f).tagJob = s.tagJob := rfl
@[simp] theorem modSap_tc (p : Nat) (f : SapPort → SapPort) : (modSap s p f).tc = s.tc := rfl
@[simp] theorem modSap_wc (p : Nat) (f : SapPort → SapPort) : (modSap s p f).wc = s.wc := rfl
@[simp] theorem modSap_helds (p : Nat) (f : SapPort → SapPort) : (modSap s p f).helds = s.helds := rfl
@[simp] theorem modSap_invs (p : Nat) (f : SapPort → SapPort) : (modSap s p f).invs = s.invs := rfl
@[simp] theorem modSap_nextInv (p : Nat) (f : SapPort → SapPort) : (modSap s p f).nextInv = s.nextInv := rfl
@[simp] theorem modSap_atsReqs (p : Nat) (f : SapPort → SapPort) : (modSap s p f).atsReqs = s.atsReqs := rfl
@[simp] theorem modSap_hostFails (p : Nat) (f : SapPort → SapPort) : (modSap s p f).hostFails = s.hostFails := rfl
@[simp] theorem modSap_atsEn (p : Nat) (f : SapPort → SapPort) : (modSap s p f).atsEn = s.atsEn := rfl
@[simp] theorem modSap_recorder (p : Nat) (f : SapPort → SapPort) : (modSap s p f).recorder = s.recorder := rfl
@[simp] theorem modSap_repairs (p : Nat) (f : SapPort → SapPort) : (modSap s p f).repairs = s.repairs := rfl
@[simp] theorem modSap_flash (p : Nat) (f : SapPort → SapPort) : (modSap s p f).flash = s.flash := rfl
@[simp] theorem modSap_boot (p : Nat) (f : SapPort → SapPort) : (modSap s p f).boot = s.boot := rfl
@[simp] theorem modSap_sdio (p : Nat) (f : SapPort → SapPort) : (modSap s p f).sdio = s.sdio := rfl
@[simp] theorem modSap_pwr (p : Nat) (f : SapPort → SapPort) : (modSap s p f).pwr = s.pwr := rfl
@[simp] theorem modSap_test (p : Nat) (f : SapPort → SapPort) : (modSap s p f).test = s.test := rfl

@[simp] theorem modOut_pending (o : Nat) (f : OutSt → OutSt) : (modOut s o f).pending = s.pending := rfl
@[simp] theorem modOut_regs (o : Nat) (f : OutSt → OutSt) : (modOut s o f).regs = s.regs := rfl
@[simp] theorem modOut_applied (o : Nat) (f : OutSt → OutSt) : (modOut s o f).applied = s.applied := rfl
@[simp] theorem modOut_committed (o : Nat) (f : OutSt → OutSt) : (modOut s o f).committed = s.committed := rfl
@[simp] theorem modOut_scLocked (o : Nat) (f : OutSt → OutSt) : (modOut s o f).scLocked = s.scLocked := rfl
@[simp] theorem modOut_loHeld (o : Nat) (f : OutSt → OutSt) : (modOut s o f).loHeld = s.loHeld := rfl
@[simp] theorem modOut_hiLatch (o : Nat) (f : OutSt → OutSt) : (modOut s o f).hiLatch = s.hiLatch := rfl
@[simp] theorem modOut_bus (o : Nat) (f : OutSt → OutSt) : (modOut s o f).bus = s.bus := rfl
@[simp] theorem modOut_waitAcc (o : Nat) (f : OutSt → OutSt) : (modOut s o f).waitAcc = s.waitAcc := rfl
@[simp] theorem modOut_free (o : Nat) (f : OutSt → OutSt) : (modOut s o f).free = s.free := rfl
@[simp] theorem modOut_fio (o : Nat) (f : OutSt → OutSt) : (modOut s o f).fio = s.fio := rfl
@[simp] theorem modOut_mem (o : Nat) (f : OutSt → OutSt) : (modOut s o f).mem = s.mem := rfl
@[simp] theorem modOut_out (o : Nat) (f : OutSt → OutSt) : (modOut s o f).out = s.out := rfl
@[simp] theorem modOut_msix (o : Nat) (f : OutSt → OutSt) : (modOut s o f).msix = s.msix := rfl
@[simp] theorem modOut_caches (o : Nat) (f : OutSt → OutSt) : (modOut s o f).caches = s.caches := rfl
@[simp] theorem modOut_reqs (o : Nat) (f : OutSt → OutSt) : (modOut s o f).reqs = s.reqs := rfl
@[simp] theorem modOut_nextReq (o : Nat) (f : OutSt → OutSt) : (modOut s o f).nextReq = s.nextReq := rfl
@[simp] theorem modOut_buckets (o : Nat) (f : OutSt → OutSt) : (modOut s o f).buckets = s.buckets := rfl
@[simp] theorem modOut_scrubRow (o : Nat) (f : OutSt → OutSt) : (modOut s o f).scrubRow = s.scrubRow := rfl
@[simp] theorem modOut_memcLine (o : Nat) (f : OutSt → OutSt) : (modOut s o f).memcLine = s.memcLine := rfl
@[simp] theorem modOut_ueWords (o : Nat) (f : OutSt → OutSt) : (modOut s o f).ueWords = s.ueWords := rfl
@[simp] theorem modOut_cores (o : Nat) (f : OutSt → OutSt) : (modOut s o f).cores = s.cores := rfl
@[simp] theorem modOut_launches (o : Nat) (f : OutSt → OutSt) : (modOut s o f).launches = s.launches := rfl
@[simp] theorem modOut_endedWgs (o : Nat) (f : OutSt → OutSt) : (modOut s o f).endedWgs = s.endedWgs := rfl
@[simp] theorem modOut_tensors (o : Nat) (f : OutSt → OutSt) : (modOut s o f).tensors = s.tensors := rfl
@[simp] theorem modOut_weights (o : Nat) (f : OutSt → OutSt) : (modOut s o f).weights = s.weights := rfl
@[simp] theorem modOut_prefetched (o : Nat) (f : OutSt → OutSt) : (modOut s o f).prefetched = s.prefetched := rfl
@[simp] theorem modOut_cues (o : Nat) (f : OutSt → OutSt) : (modOut s o f).cues = s.cues := rfl
@[simp] theorem modOut_nextUid (o : Nat) (f : OutSt → OutSt) : (modOut s o f).nextUid = s.nextUid := rfl
@[simp] theorem modOut_follows (o : Nat) (f : OutSt → OutSt) : (modOut s o f).follows = s.follows := rfl
@[simp] theorem modOut_copies (o : Nat) (f : OutSt → OutSt) : (modOut s o f).copies = s.copies := rfl
@[simp] theorem modOut_stops (o : Nat) (f : OutSt → OutSt) : (modOut s o f).stops = s.stops := rfl
@[simp] theorem modOut_followFails (o : Nat) (f : OutSt → OutSt) : (modOut s o f).followFails = s.followFails := rfl
@[simp] theorem modOut_rings (o : Nat) (f : OutSt → OutSt) : (modOut s o f).rings = s.rings := rfl
@[simp] theorem modOut_ctxs (o : Nat) (f : OutSt → OutSt) : (modOut s o f).ctxs = s.ctxs := rfl
@[simp] theorem modOut_fences (o : Nat) (f : OutSt → OutSt) : (modOut s o f).fences = s.fences := rfl
@[simp] theorem modOut_sems (o : Nat) (f : OutSt → OutSt) : (modOut s o f).sems = s.sems := rfl
@[simp] theorem modOut_faultReps (o : Nat) (f : OutSt → OutSt) : (modOut s o f).faultReps = s.faultReps := rfl
@[simp] theorem modOut_streams (o : Nat) (f : OutSt → OutSt) : (modOut s o f).streams = s.streams := rfl
@[simp] theorem modOut_saps (o : Nat) (f : OutSt → OutSt) : (modOut s o f).saps = s.saps := rfl
@[simp] theorem modOut_raster (o : Nat) (f : OutSt → OutSt) : (modOut s o f).raster = s.raster := rfl
@[simp] theorem modOut_savedPasses (o : Nat) (f : OutSt → OutSt) : (modOut s o f).savedPasses = s.savedPasses := rfl
@[simp] theorem modOut_comps (o : Nat) (f : OutSt → OutSt) : (modOut s o f).comps = s.comps := rfl
@[simp] theorem modOut_reports (o : Nat) (f : OutSt → OutSt) : (modOut s o f).reports = s.reports := rfl
@[simp] theorem modOut_layers (o : Nat) (f : OutSt → OutSt) : (modOut s o f).layers = s.layers := rfl
@[simp] theorem modOut_link (o : Nat) (f : OutSt → OutSt) : (modOut s o f).link = s.link := rfl
@[simp] theorem modOut_preempts (o : Nat) (f : OutSt → OutSt) : (modOut s o f).preempts = s.preempts := rfl
@[simp] theorem modOut_images (o : Nat) (f : OutSt → OutSt) : (modOut s o f).images = s.images := rfl
@[simp] theorem modOut_nextImage (o : Nat) (f : OutSt → OutSt) : (modOut s o f).nextImage = s.nextImage := rfl
@[simp] theorem modOut_savedWgs (o : Nat) (f : OutSt → OutSt) : (modOut s o f).savedWgs = s.savedWgs := rfl
@[simp] theorem modOut_tags (o : Nat) (f : OutSt → OutSt) : (modOut s o f).tags = s.tags := rfl
@[simp] theorem modOut_badTags (o : Nat) (f : OutSt → OutSt) : (modOut s o f).badTags = s.badTags := rfl
@[simp] theorem modOut_tagJob (o : Nat) (f : OutSt → OutSt) : (modOut s o f).tagJob = s.tagJob := rfl
@[simp] theorem modOut_tc (o : Nat) (f : OutSt → OutSt) : (modOut s o f).tc = s.tc := rfl
@[simp] theorem modOut_wc (o : Nat) (f : OutSt → OutSt) : (modOut s o f).wc = s.wc := rfl
@[simp] theorem modOut_helds (o : Nat) (f : OutSt → OutSt) : (modOut s o f).helds = s.helds := rfl
@[simp] theorem modOut_invs (o : Nat) (f : OutSt → OutSt) : (modOut s o f).invs = s.invs := rfl
@[simp] theorem modOut_nextInv (o : Nat) (f : OutSt → OutSt) : (modOut s o f).nextInv = s.nextInv := rfl
@[simp] theorem modOut_atsReqs (o : Nat) (f : OutSt → OutSt) : (modOut s o f).atsReqs = s.atsReqs := rfl
@[simp] theorem modOut_hostFails (o : Nat) (f : OutSt → OutSt) : (modOut s o f).hostFails = s.hostFails := rfl
@[simp] theorem modOut_atsEn (o : Nat) (f : OutSt → OutSt) : (modOut s o f).atsEn = s.atsEn := rfl
@[simp] theorem modOut_recorder (o : Nat) (f : OutSt → OutSt) : (modOut s o f).recorder = s.recorder := rfl
@[simp] theorem modOut_repairs (o : Nat) (f : OutSt → OutSt) : (modOut s o f).repairs = s.repairs := rfl
@[simp] theorem modOut_flash (o : Nat) (f : OutSt → OutSt) : (modOut s o f).flash = s.flash := rfl
@[simp] theorem modOut_boot (o : Nat) (f : OutSt → OutSt) : (modOut s o f).boot = s.boot := rfl
@[simp] theorem modOut_sdio (o : Nat) (f : OutSt → OutSt) : (modOut s o f).sdio = s.sdio := rfl
@[simp] theorem modOut_pwr (o : Nat) (f : OutSt → OutSt) : (modOut s o f).pwr = s.pwr := rfl
@[simp] theorem modOut_test (o : Nat) (f : OutSt → OutSt) : (modOut s o f).test = s.test := rfl

@[simp] theorem modCache_pending (k : Nat) (f : CacheSt → CacheSt) : (modCache s k f).pending = s.pending := rfl
@[simp] theorem modCache_regs (k : Nat) (f : CacheSt → CacheSt) : (modCache s k f).regs = s.regs := rfl
@[simp] theorem modCache_applied (k : Nat) (f : CacheSt → CacheSt) : (modCache s k f).applied = s.applied := rfl
@[simp] theorem modCache_committed (k : Nat) (f : CacheSt → CacheSt) : (modCache s k f).committed = s.committed := rfl
@[simp] theorem modCache_scLocked (k : Nat) (f : CacheSt → CacheSt) : (modCache s k f).scLocked = s.scLocked := rfl
@[simp] theorem modCache_loHeld (k : Nat) (f : CacheSt → CacheSt) : (modCache s k f).loHeld = s.loHeld := rfl
@[simp] theorem modCache_hiLatch (k : Nat) (f : CacheSt → CacheSt) : (modCache s k f).hiLatch = s.hiLatch := rfl
@[simp] theorem modCache_bus (k : Nat) (f : CacheSt → CacheSt) : (modCache s k f).bus = s.bus := rfl
@[simp] theorem modCache_waitAcc (k : Nat) (f : CacheSt → CacheSt) : (modCache s k f).waitAcc = s.waitAcc := rfl
@[simp] theorem modCache_free (k : Nat) (f : CacheSt → CacheSt) : (modCache s k f).free = s.free := rfl
@[simp] theorem modCache_fio (k : Nat) (f : CacheSt → CacheSt) : (modCache s k f).fio = s.fio := rfl
@[simp] theorem modCache_mem (k : Nat) (f : CacheSt → CacheSt) : (modCache s k f).mem = s.mem := rfl
@[simp] theorem modCache_out (k : Nat) (f : CacheSt → CacheSt) : (modCache s k f).out = s.out := rfl
@[simp] theorem modCache_msix (k : Nat) (f : CacheSt → CacheSt) : (modCache s k f).msix = s.msix := rfl
@[simp] theorem modCache_reqs (k : Nat) (f : CacheSt → CacheSt) : (modCache s k f).reqs = s.reqs := rfl
@[simp] theorem modCache_nextReq (k : Nat) (f : CacheSt → CacheSt) : (modCache s k f).nextReq = s.nextReq := rfl
@[simp] theorem modCache_buckets (k : Nat) (f : CacheSt → CacheSt) : (modCache s k f).buckets = s.buckets := rfl
@[simp] theorem modCache_scrubRow (k : Nat) (f : CacheSt → CacheSt) : (modCache s k f).scrubRow = s.scrubRow := rfl
@[simp] theorem modCache_memcLine (k : Nat) (f : CacheSt → CacheSt) : (modCache s k f).memcLine = s.memcLine := rfl
@[simp] theorem modCache_ueWords (k : Nat) (f : CacheSt → CacheSt) : (modCache s k f).ueWords = s.ueWords := rfl
@[simp] theorem modCache_cores (k : Nat) (f : CacheSt → CacheSt) : (modCache s k f).cores = s.cores := rfl
@[simp] theorem modCache_launches (k : Nat) (f : CacheSt → CacheSt) : (modCache s k f).launches = s.launches := rfl
@[simp] theorem modCache_endedWgs (k : Nat) (f : CacheSt → CacheSt) : (modCache s k f).endedWgs = s.endedWgs := rfl
@[simp] theorem modCache_tensors (k : Nat) (f : CacheSt → CacheSt) : (modCache s k f).tensors = s.tensors := rfl
@[simp] theorem modCache_weights (k : Nat) (f : CacheSt → CacheSt) : (modCache s k f).weights = s.weights := rfl
@[simp] theorem modCache_prefetched (k : Nat) (f : CacheSt → CacheSt) : (modCache s k f).prefetched = s.prefetched := rfl
@[simp] theorem modCache_cues (k : Nat) (f : CacheSt → CacheSt) : (modCache s k f).cues = s.cues := rfl
@[simp] theorem modCache_nextUid (k : Nat) (f : CacheSt → CacheSt) : (modCache s k f).nextUid = s.nextUid := rfl
@[simp] theorem modCache_follows (k : Nat) (f : CacheSt → CacheSt) : (modCache s k f).follows = s.follows := rfl
@[simp] theorem modCache_copies (k : Nat) (f : CacheSt → CacheSt) : (modCache s k f).copies = s.copies := rfl
@[simp] theorem modCache_stops (k : Nat) (f : CacheSt → CacheSt) : (modCache s k f).stops = s.stops := rfl
@[simp] theorem modCache_followFails (k : Nat) (f : CacheSt → CacheSt) : (modCache s k f).followFails = s.followFails := rfl
@[simp] theorem modCache_rings (k : Nat) (f : CacheSt → CacheSt) : (modCache s k f).rings = s.rings := rfl
@[simp] theorem modCache_ctxs (k : Nat) (f : CacheSt → CacheSt) : (modCache s k f).ctxs = s.ctxs := rfl
@[simp] theorem modCache_fences (k : Nat) (f : CacheSt → CacheSt) : (modCache s k f).fences = s.fences := rfl
@[simp] theorem modCache_sems (k : Nat) (f : CacheSt → CacheSt) : (modCache s k f).sems = s.sems := rfl
@[simp] theorem modCache_faultReps (k : Nat) (f : CacheSt → CacheSt) : (modCache s k f).faultReps = s.faultReps := rfl
@[simp] theorem modCache_streams (k : Nat) (f : CacheSt → CacheSt) : (modCache s k f).streams = s.streams := rfl
@[simp] theorem modCache_saps (k : Nat) (f : CacheSt → CacheSt) : (modCache s k f).saps = s.saps := rfl
@[simp] theorem modCache_raster (k : Nat) (f : CacheSt → CacheSt) : (modCache s k f).raster = s.raster := rfl
@[simp] theorem modCache_savedPasses (k : Nat) (f : CacheSt → CacheSt) : (modCache s k f).savedPasses = s.savedPasses := rfl
@[simp] theorem modCache_comps (k : Nat) (f : CacheSt → CacheSt) : (modCache s k f).comps = s.comps := rfl
@[simp] theorem modCache_reports (k : Nat) (f : CacheSt → CacheSt) : (modCache s k f).reports = s.reports := rfl
@[simp] theorem modCache_layers (k : Nat) (f : CacheSt → CacheSt) : (modCache s k f).layers = s.layers := rfl
@[simp] theorem modCache_outputs (k : Nat) (f : CacheSt → CacheSt) : (modCache s k f).outputs = s.outputs := rfl
@[simp] theorem modCache_link (k : Nat) (f : CacheSt → CacheSt) : (modCache s k f).link = s.link := rfl
@[simp] theorem modCache_preempts (k : Nat) (f : CacheSt → CacheSt) : (modCache s k f).preempts = s.preempts := rfl
@[simp] theorem modCache_images (k : Nat) (f : CacheSt → CacheSt) : (modCache s k f).images = s.images := rfl
@[simp] theorem modCache_nextImage (k : Nat) (f : CacheSt → CacheSt) : (modCache s k f).nextImage = s.nextImage := rfl
@[simp] theorem modCache_savedWgs (k : Nat) (f : CacheSt → CacheSt) : (modCache s k f).savedWgs = s.savedWgs := rfl
@[simp] theorem modCache_tags (k : Nat) (f : CacheSt → CacheSt) : (modCache s k f).tags = s.tags := rfl
@[simp] theorem modCache_badTags (k : Nat) (f : CacheSt → CacheSt) : (modCache s k f).badTags = s.badTags := rfl
@[simp] theorem modCache_tagJob (k : Nat) (f : CacheSt → CacheSt) : (modCache s k f).tagJob = s.tagJob := rfl
@[simp] theorem modCache_tc (k : Nat) (f : CacheSt → CacheSt) : (modCache s k f).tc = s.tc := rfl
@[simp] theorem modCache_wc (k : Nat) (f : CacheSt → CacheSt) : (modCache s k f).wc = s.wc := rfl
@[simp] theorem modCache_helds (k : Nat) (f : CacheSt → CacheSt) : (modCache s k f).helds = s.helds := rfl
@[simp] theorem modCache_invs (k : Nat) (f : CacheSt → CacheSt) : (modCache s k f).invs = s.invs := rfl
@[simp] theorem modCache_nextInv (k : Nat) (f : CacheSt → CacheSt) : (modCache s k f).nextInv = s.nextInv := rfl
@[simp] theorem modCache_atsReqs (k : Nat) (f : CacheSt → CacheSt) : (modCache s k f).atsReqs = s.atsReqs := rfl
@[simp] theorem modCache_hostFails (k : Nat) (f : CacheSt → CacheSt) : (modCache s k f).hostFails = s.hostFails := rfl
@[simp] theorem modCache_atsEn (k : Nat) (f : CacheSt → CacheSt) : (modCache s k f).atsEn = s.atsEn := rfl
@[simp] theorem modCache_recorder (k : Nat) (f : CacheSt → CacheSt) : (modCache s k f).recorder = s.recorder := rfl
@[simp] theorem modCache_repairs (k : Nat) (f : CacheSt → CacheSt) : (modCache s k f).repairs = s.repairs := rfl
@[simp] theorem modCache_flash (k : Nat) (f : CacheSt → CacheSt) : (modCache s k f).flash = s.flash := rfl
@[simp] theorem modCache_boot (k : Nat) (f : CacheSt → CacheSt) : (modCache s k f).boot = s.boot := rfl
@[simp] theorem modCache_sdio (k : Nat) (f : CacheSt → CacheSt) : (modCache s k f).sdio = s.sdio := rfl
@[simp] theorem modCache_pwr (k : Nat) (f : CacheSt → CacheSt) : (modCache s k f).pwr = s.pwr := rfl
@[simp] theorem modCache_test (k : Nat) (f : CacheSt → CacheSt) : (modCache s k f).test = s.test := rfl

end Sys2Proof.Machine
end

