-- ==== Sys2Proof/WellFormed.lean ====
section
/-! DEFINITION. Which operands a command can carry: the bounds that the spec puts on what arrives from outside, where the
operand's type does not already say it. -/

namespace Sys2Proof

/-- Sizes and offsets of a register access: 1, 2, 4 or 8 bytes, within the 64 KiB page for BAR0 (spec/18_register_map.md
R524), and no hardware event in the same cycle for a read (spec/00_scope.md R19 speaks of writes). -/
def RegAccess.wf (a : RegAccess) : Bool :=
  [1, 2, 4, 8].contains a.size &&
    (match a.path with
      | .bar0 _ => decide (a.off.toNat < 0x10000)
      | .bar2 | .f1 | .racc | .stagehand => true) &&
    (a.write || a.hwSet == 0)

/-- A translated page is 4 KiB or larger, a power of two below 2^47, and aligned to its size (spec/11_translation.md R365). -/
def AtsRes.wf : AtsRes → Bool
  | .ok page sizeLog2 _ _ => decide (12 ≤ sizeLog2) && decide (sizeLog2 < 47) && page.toNat % 2 ^ sizeLog2 == 0
  | .fail => true

/-- A long packet of a camera carries at most 65,535 bytes (spec/05_the_pit.md R182: the word count of CSI-2 has 16 bits). -/
def CsiPkt.wf : CsiPkt → Bool
  | .line _ _ _ _ data => decide (data.length < 65536)
  | .frameStart _ _ | .frameEnd _ _ | .lineSync _ _ | .headerBad | .lineMissing _ _ => true

/-- Bytes of a CMD53: at least one, at most 511 blocks of 512 (spec/15_reset_boot_security.md R474). -/
def cmd53Len (n : Nat) : Bool := decide (0 < n) && decide (n ≤ 511 * 512)

/-- Whether the operands of a command are ones the outside can give. -/
def Instr.wf : Instr → Bool
  | .registerWrite a => a.wf
  | .csiPacket _ pkt => pkt.wf
  | .atsTranslationResponse _ _ res => res.wf
  | .atsInvalidationRequest _ _ lo size => lo.toNat % 4096 == 0 && size.toNat % 4096 == 0 && decide (0 < size.toNat)
  | .frameStart _ ins => decide (ins.length ≤ 4) && ins.all fun l => decide (l.length ≤ 32)
  | .laneErrWindowEnd _ errs => decide (errs.length ≤ 4)
  | .tileFinish _ beats wait extra dup => decide (wait ≤ beats) && decide (dup ≤ extra) && decide (extra ≤ beats)
  | .tensorAbort _ beats extra dup => decide (dup ≤ extra) && decide (extra ≤ beats)
  | .partialRenderDone extra dup | .rasterPassEnd extra dup | .rasterAbort _ extra dup => decide (dup ≤ extra)
  | .sdioCmd53Read _ _ _ count => cmd53Len count.toNat
  | .sdioCmd53Write _ _ data => cmd53Len data.length
  | .sdioF2Write _ _ data => cmd53Len data.length
  | _ => true

end Sys2Proof
end

