-- ==== Sys2Proof/Tests/Slice0.lean ====
section
/-! SUPPORT. The tests: operands that WellFormed refuses, and for every statement with hypotheses a concrete state and
operands that meet them. -/

set_option Elab.async false

namespace Sys2Proof.Machine

open Sys2Proof

/-- A machine with every domain up, every other register at zero and nothing in it: a short state to build witnesses on. -/
def blank : State := fset { State.reset with regs := [], applied := [], committed := [] } F.PWR_DOMAIN_ON.ON 0xFFFFFFF

/-- A machine with its domains gated. -/
def gated (s : State) : State := fset s F.PWR_DOMAIN_ON.ON 0

/-- That machine with memory requests. -/
def withReqs (l : List Req) : State := { blank with reqs := l }


/-! ## Ill-formed operands, refused (Instr.wf) -/

theorem test_wf_access : (Instr.registerWrite ⟨.bar2, 0, 3, true, 0, 0⟩).wf = false ∧
    (Instr.registerWrite ⟨.bar0 0, 0x10000, 4, true, 0, 0⟩).wf = false ∧
    (Instr.registerWrite ⟨.bar2, 0, 4, false, 0, 1⟩).wf = false ∧ (Instr.registerWrite ⟨.bar2, 0x10000, 4, true, 0, 1⟩).wf = true := by
  decide
theorem test_wf_ats : (AtsRes.ok 0 11 true true).wf = false ∧ (AtsRes.ok 0 47 true true).wf = false ∧
    (AtsRes.ok 0x1000 13 true true).wf = false ∧ (AtsRes.ok 0x2000 13 true true).wf = true ∧
    (Instr.atsInvalidationRequest 0 0 0x800 0x1000).wf = false ∧ (Instr.atsInvalidationRequest 0 0 0x1000 0x800).wf = false ∧
    (Instr.atsInvalidationRequest 0 0 0x1000 0).wf = false ∧ (Instr.atsInvalidationRequest 0 0 0x1000 0x1000).wf = true := by decide
theorem test_wf_lists : (Instr.frameStart 0 (List.replicate 5 [])).wf = false ∧ (Instr.frameStart 0 [List.replicate 33 0]).wf = false ∧
    (Instr.laneErrWindowEnd 0 (List.replicate 5 0)).wf = false ∧ cmd53Len 0 = false ∧ cmd53Len (511 * 512 + 1) = false ∧
    (Instr.sdioCmd53Read 1 0 true 0).wf = false ∧ (Instr.sdioCmd53Write 0 true []).wf = false ∧ (Instr.sdioF2Write 0 false []).wf = false := by
  decide
theorem test_wf_packet : (CsiPkt.line 0 0 false false (List.replicate 65536 0)).wf = false := by
  simp only [CsiPkt.wf, List.length_replicate]; decide
theorem test_wf_beats : (Instr.tileFinish 0 5 6 0 0).wf = false ∧ (Instr.tileFinish 0 5 5 6 0).wf = false ∧
    (Instr.tileFinish 0 5 5 4 5).wf = false ∧ (Instr.tileFinish 0 5 5 5 4).wf = true ∧ (Instr.tensorAbort (.stream 0) 5 6 0).wf = false ∧
    (Instr.tensorAbort (.stream 0) 5 4 5).wf = false ∧ (Instr.partialRenderDone 4 5).wf = false ∧ (Instr.rasterPassEnd 4 5).wf = false := by decide

/-! Witnesses of StepRunsFrontCommand. -/

theorem test_front_command : blank.pending = [] ∧ ({ blank with pending := [.cacheEnable .loft] } : State).pending =
    .cacheEnable .loft :: [] := by decide

/-! Witnesses of FlagsAndEventCounters. -/

theorem test_flag_rows : (flagTable.all fun r => rowHas ⟨r.addr, r.n1, r.s1, r.n2, r.s2, 4, []⟩ r.addr) = true ∧
    rowHas ⟨0x501080, 32, 0x100, 1, 0x4, 4, []⟩ 0x502F80 = true ∧ rowHas ⟨0x501080, 32, 0x100, 1, 0x4, 4, []⟩ 0x503080 = false := by
  decide

/-! Witnesses of LoftAddressSelectsBank. -/

theorem test_bank_of : bankOf 0x3FFFFFF = 48 ∧ bankOf 0x440 = 16 * 0 + 0 ∧ lineAddr 48 16383 = 0x3FFFFC0 := by decide

/-! Witnesses of FenceSerialComparison. -/

theorem test_serial : atOrBeyond 0 0xFFFFFFFFFFFFFFFF = true ∧ strictlyBeyond 5 5 = false ∧
    ((7 : W64) - 3).toNat ≠ 2 ^ 63 := by decide

/-! Witnesses of RegisterAccessEffects. -/

def isReg (m : Meets) : Bool := match m with
  | .register => true
  | _ => false
theorem test_meets : isReg (meets blank R.LOFT_SCRUB_INTERVAL) = true ∧ isReg (meets blank R.LOFT_CARVE_STATUS) = true ∧
    isReg (meets blank 0x80FF0) = true ∧ isReg (meets blank 0x80022) = true := by decide

/-! Witnesses of StallLimitAndRates. -/

theorem test_stall : domOn blank dLoft = true ∧ domOn blank (dCore + 16) = true ∧ blank.recorder.queue.length < 64 ∧ coreRole (fset blank (F.CORE_ID.ROLE 4) 3) 4 = 3 := by decide

/-! Witnesses of CarveLockTakesOrRefuses. -/

/-- Sizes of the carving: CACHE, bins, Pit, saves. -/
def sized (c b p v : Nat) : State :=
  fset (fset (fset (fset blank F.LOFT_CACHE_SIZE.CACHE_MIB c) F.LOFT_BIN_SIZE.BIN_MIB b) F.LOFT_PIT_SIZE.PIT_MIB p)
    F.LOFT_SAVE_SIZE.SAVE_MIB v
theorem test_carve_ok : carved (sized 41 8 2 6) = false ∧ carvingOk (sized 41 8 2 6) = true ∧
    fget (sized 41 8 2 6) F.LOFT_SAVE_SIZE.SAVE_MIB = 6 ∧ domOn (sized 41 8 2 6) dLoft = true ∧ (sized 41 8 2 6).fences = [] ∧ carvingOk (sized 42 8 2 6) = false := by decide
theorem test_carve_bad : carved (sized 49 8 1 1) = false ∧ fget (sized 49 8 1 1) F.LOFT_CACHE_SIZE.CACHE_MIB = 49 ∧
    domOn (sized 49 8 1 1) dLoft = true ∧ carved (fset blank F.LOFT_CTRL.CARVE_LOCK 1) = true ∧
    domOn (fset blank F.LOFT_CTRL.CARVE_LOCK 1) dLoft = true := by decide

/-! Witnesses of LoftBankGrants. -/

/-- A request of the Stagehand controllers waiting at bank 3 of quadrant 0. -/
def atBank (k : ReqKind) (c : Cls) (id : Nat) : Req := ⟨id, 20, 0, 0, 256, 1024, 8, 0, c, 0, 0xC0, k, 0, true, true, 0, 0, 0, 0, [], .bank 3, none, id, []⟩
/-- Two requests wait: the later one is of the higher class. -/
def wWaiting (k : ReqKind) : State := { blank with reqs := [atBank (.load 4) .bulk 1, atBank k .normal 2] }
theorem test_bank_pick : bankPick (wWaiting (.load 8)) 3 = some (atBank (.load 8) .normal 2) ∧
    bankPick (wWaiting (.store [1, 2])) 3 = some (atBank (.store [1, 2]) .normal 2) ∧ bankPick blank 3 = none ∧
    reqCheck (wWaiting (.load 8)) (atBank (.load 8) .normal 2) = cOk ∧
    reqCheck (wWaiting (.store [1, 2])) (atBank (.store [1, 2]) .normal 2) = cOk := by decide
theorem test_bank_reads : eccOf (wWaiting (.load 8)) (atBank (.load 8) .normal 2) .clean = .clean ∧
    eccOf (wWaiting (.store [1, 2])) (atBank (.store [1, 2]) .normal 2) .clean = .clean ∧ badLine (wWaiting (.load 8)) 0xC0 = false ∧
    badLine (wWaiting (.store [1, 2])) 0xC0 = false := by decide
theorem test_bank_bad : badLine (modCache (wWaiting (.load 8)) 0 fun c => { c with lines := [⟨3, [], 1, true, 5, true⟩] }) 0xC0 = true ∧
    bankPick (modCache (wWaiting (.load 8)) 0 fun c => { c with lines := [⟨3, [], 1, true, 5, true⟩] }) 3 =
      some (atBank (.load 8) .normal 2) := by decide
theorem test_bank_block : clsRank (atBank (.load 8) .normal 2).cls < clsRank (accCls (wWaiting (.load 8)) ⟨5, .comp, none, false⟩) ∧
    clsRank (accCls (wWaiting (.load 8)) ⟨5, .comp, none, true⟩) ≤ clsRank (atBank (.load 8) .normal 2).cls := by decide
theorem test_bank_refused : bankPick (withReqs [{ atBank (.load 8) .rt 1 with cid := 5 }]) 3 =
    some { atBank (.load 8) .rt 1 with cid := 5 } ∧
    reqCheck (withReqs [{ atBank (.load 8) .rt 1 with cid := 5 }]) { atBank (.load 8) .rt 1 with cid := 5 } ≠ cOk := by
  decide
theorem test_promote : (wWaiting (.load 8)).reqs = [] ++ atBank (.load 4) .bulk 1 :: [atBank (.load 8) .normal 2] ∧
    (atBank (.load 4) .bulk 1).at_ = .bank (3 : Fin 64) := by decide
theorem test_quadrant_up : domOn (wWaiting (.load 8)) (dLoft + (3 : Fin 64).val / 16) = true ∧
    domOn (wWaiting (.store [1, 2])) (dLoft + (3 : Fin 64).val / 16) = true ∧
    domOn (withReqs [{ atBank (.load 8) .rt 1 with cid := 5 }]) (dLoft + (3 : Fin 64).val / 16) = true := by decide +kernel
theorem test_quadrant_gated : domOn (gated (wWaiting (.load 8))) (dLoft + (3 : Fin 64).val / 16) = false ∧
    bankPick (gated (wWaiting (.load 8))) 3 ≠ none ∧ bit { gated blank with fio := true }.pwr.waking (17 : Fin 28) = false ∧
    bit (fget { gated blank with fio := true } F.RST_PENDING.PENDING) (17 : Fin 28) = false ∧
    domOn { gated blank with fio := true } (17 : Fin 28) = false ∧
    relReady { gated blank with fio := true } (17 : Fin 28) = true ∧ fget (gated blank) F.RST_BOOT_STATE.STATE ≠ 8 ∧
    domOn { gated blank with pwr := { blank.pwr with waking := 2 } } (1 : Fin 28) = false ∧
    bit { blank with pwr := { blank.pwr with waking := 2 } }.pwr.waking (1 : Fin 28) = true := by decide +kernel

/-! Witnesses of ScrubbersAndDram. -/

theorem test_scrub : fget (fset blank F.LOFT_SCRUB_INTERVAL.INTERVAL 65535) F.LOFT_SCRUB_INTERVAL.INTERVAL ≠ 0 ∧
    fget blank F.LOFT_SCRUB_INTERVAL.INTERVAL = 0 ∧ aget blank F.MEMC_SCRUB_INTERVAL.INTERVAL = 0 ∧
    aget { blank with applied := [(R.MEMC_SCRUB_INTERVAL, 5)] } F.MEMC_SCRUB_INTERVAL.INTERVAL ≠ 0 ∧
    fbit blank F.MEMC_STATE.SELF_REFRESH = false := by decide
/-- A load of the Stagehand controllers waiting at the memory controller. -/
def atDram : Req := { atBank (.load 4) .normal 1 with at_ := .dram, addr := 0x1000000040 }
theorem test_dram : (withReqs [atDram]).reqs.find? (·.at_ == .dram) = some atDram ∧
    reqCheck (withReqs [atDram]) atDram = cOk ∧ atDram.fills = [] ∧ eccOf (withReqs [atDram]) atDram .clean = .clean ∧
    eccOf (withReqs [atDram]) atDram .single = .single := by decide
theorem test_dram_block : reach (fset blank F.MEMC_CFG.GIB 1) (0x4000000040 : BitVec 48).toNat = .dram ∧
    scPending (wrN blank R.SMGR_SC_PENDING 512) 9 = true ∧ scPending blank 9 = false := by decide
theorem test_dram_up : serves (withReqs [atDram]) dMemc = true ∧ serves (fset blank F.MEMC_CFG.GIB 1) dMemc = true ∧
    badLine (withReqs [atDram]) atDram.addr = false ∧ domOn (fset blank F.MEMC_STATE.SWITCHING 1) dMemc = true ∧
    fbit (fset blank F.MEMC_STATE.SWITCHING 1) F.MEMC_STATE.SWITCHING = true ∧
    domOn (gated (withReqs [atDram])) dMemc = false ∧ (gated (withReqs [atDram])).reqs.find? (·.at_ == .dram) = some atDram := by
  decide +kernel

/-! Witnesses of CacheEnableDisableMode. -/

theorem test_cache_en : fbit (fset blank (cacheInvValid 0) 1) (cacheInvValid (cacheKey .loft)) = true ∧
    fbit blank (cacheInvValid (cacheKey (.l1 3))) = false ∧ fbit blank (cacheEn (cacheKey (.l1 3))) = false ∧
    domOn blank (cacheDom (.l1 3)) = true ∧ domOn (fset blank (cacheInvValid 0) 1) (cacheDom .loft) = true := by decide
theorem test_cache_dis : fbit (fset blank (cacheEn 0) 1) (cacheEn (cacheKey .loft)) = true ∧
    writeThrough (fset blank (cacheEn 0) 1) (cacheKey .loft) = false ∧
    writeThrough (fset (fset blank (cacheEn 0) 1) (cacheModeF 0) 1) (cacheKey .loft) = true ∧
    (cacheOf (modCache blank 4 fun c => { c with disabling := true }) (cacheKey (.l1 3))).disabling = true := by decide
theorem test_cache_mode : cacheForced blank (cacheKey .loft) = false ∧ fbit blank (cacheModeF (cacheKey .loft)) ≠ true ∧
    cacheForced (fset blank F.RST_BOOT_STATE.STATE 8) (cacheKey .loft) = true := by decide

/-! Witnesses of CacheMaintenanceCommands. -/

theorem test_cmo : domOn blank (cacheDom (.l1 16)) = true ∧ portFenced blank (cacheKey (.l1 16)) = false ∧ fbit blank (cacheBusy (cacheKey (.l1 16))) = false ∧ fbit blank (cacheEn (cacheKey (.l1 16))) = false ∧
    fbit (fset blank (cacheBusy 0) 1) (cacheBusy (cacheKey .loft)) = true ∧
    (cacheOf (modCache blank 0 fun c => { c with cmo := some ⟨1, none⟩ }) (cacheKey .loft)).cmo = some ⟨1, none⟩ := by decide
theorem test_cmo_lines : ((cacheOf (modCache blank 0 fun c => { c with lines := [⟨3, List.replicate 64 7, 4, false, 5, true⟩] })
    (cacheKey .loft)).lines.map (·.line)).Nodup ∧ cacheOn blank 0 = false := by decide

/-! Witnesses of CacheAccessAndFill. -/

/-- A load waiting at the L1 of core 2. -/
def atL1 : Req := { atBank (.load 4) .normal 1 with at_ := .cache 3, cid := 5 }
def l1Line : Line := ⟨3, List.replicate 64 7, 0, false, 5, true⟩
def l1Lit : State := fset (modCache (withReqs [atL1]) 3 fun c => { c with lines := [l1Line] }) (cacheEn 3) 1
theorem test_l1 : lookupNext l1Lit ((2 : Fin 17) + 1) = some atL1 ∧ fbit l1Lit (cacheEn 3) = true ∧
    fbit l1Lit (cachePfEn 3) = false ∧ (cacheOf l1Lit 3).lines.find? (·.line == atL1.addr / 64) = some l1Line := by decide
theorem test_l1_off : lookupNext (withReqs [atL1]) 3 = some atL1 ∧ fbit blank (cacheEn 3) = false := by
  decide
theorem test_cache_owner : reqCheck blank { atL1 with at_ := .cache 0 } ≠ cOk ∧
    lookupNext (withReqs [{ atL1 with at_ := .cache 0 }]) 0 = some { atL1 with at_ := .cache 0 } := by
  decide
/-- A load of the Stagehand controllers, and one of a context, waiting at the CACHE region. -/
def atCache : Req := { atBank (.load 4) .normal 1 with at_ := .cache 0 }
def badHeld (l : List Req) : State := modCache (withReqs l) 0 fun c => { c with lines := [⟨3, [], 1, true, 5, true⟩] }
theorem test_cache_bad : lookupNext (badHeld [atCache]) 0 = some atCache ∧ reqCheck (badHeld [atCache]) atCache = cOk ∧
    badLine (badHeld [atCache]) atCache.addr = true ∧
    filling (badHeld [{ atCache with at_ := .fill 0 }]) (cacheKey .loft) = some { atCache with at_ := .fill 0 } ∧
    badLine (badHeld [{ atCache with at_ := .fill 0 }]) 0xC0 = true := by decide
theorem test_cache_tag : lookupNext (fset (withReqs [{ atCache with cid := 5, addr := 0x4000000040 }]) F.MEMC_CFG.GIB 1) 0 =
    some { atCache with cid := 5, addr := 0x4000000040 } ∧
    reach (fset (withReqs [{ atCache with cid := 5, addr := 0x4000000040 }]) F.MEMC_CFG.GIB 1) 0x4000000040 = .dram := by decide
/-- A load of the Stagehand controllers whose line is back for the L1 of core 2. -/
def backL1 : Req := { atL1 with cid := 1024, at_ := .fill 3, fills := [3] }
def filled : State := fset (withReqs [backL1]) (cacheEn 3) 1
theorem test_fill : filling filled (cacheKey (.l1 2)) = some backL1 ∧ badLine filled backL1.addr = false ∧ reqCheck filled backL1 = cOk ∧
    writePast filled 3 backL1 = false ∧
    (cacheOf filled 3).lines.find? (·.line == 3) = none ∧ cacheOn filled 3 = true ∧ writeThrough filled 3 = false ∧
    ((cacheOf filled 3).lines.filter (sameSet filled 3 3)).length < setWays filled 3 ∧
    cacheOn (withReqs [backL1]) 3 = false := by decide
/-- A line of host memory asked for by an L1, through an open window: host memory is checked by no tag. -/
def asked : State :=
  fset (modCache { blank with applied := [(R.XLAT_FN_CFG 0, 1)] } 1 fun c => { c with wanted := [(0x20000000000, 5)] }) (cacheEn 1) 1
theorem test_prefetch : (cacheOf asked (cacheKey (.l1 0))).wanted = [(0x20000000000, 5)] ∧
    prefetchable asked 5 (9 * 64) = false ∧ badLine asked (0x20000000000 * 64) = false ∧ cacheOn asked 1 = true ∧ writeThrough asked 1 = false ∧
    lineTaken asked 1 0x20000000000 = false ∧ prefetchable asked 5 (0x20000000000 * 64) = true := by decide

/-! Witnesses of ControlInstructions. -/

/-- A workgroup of context 5 with 64 registers a thread and 1 KiB of local store, and its one group, at address 0 of the
scratch region, which the context owns and its function maps one to one. -/
def wWg : Wg := ⟨0, 9, 5, .launch, 0, 1, 64, 1, [], List.replicate 16 Barrier.fresh, 0, 1, 1, 1, 0, 0⟩
def wThread : Thread := ⟨0, .run, [0x40], [], [], 0, 0⟩
def wGroup : Group := ⟨3, 0, 0, List.replicate 32 wThread, 0, 0, none, false⟩
def wRun (g : Group) : State :=
  { fset blank F.LOFT_CTRL.CARVE_LOCK 1 with
    applied := [(R.PDESK_G5_MODE, 1)]
    tags := [(0, 0x501)]
    cores := [(2, ⟨0, [wWg], [g], [], 1, []⟩)] }
def wIssue (w : Nat) : Issue := ⟨2, 3, 0, BitVec.ofNat 64 w, false⟩
def wIss (g : Group) (act : List Nat) (w : Nat) : Iss := ⟨2, g, wWg, upTo 32, act, 0, w, false⟩
def fetched (r : XRes) : Bool := match r with
  | .ok .. => true
  | _ => false
theorem fetched_ok (r : XRes) (h : fetched r = true) : ∃ da nc p n b, r = .ok da nc p n b := by
  cases r with
  | ok da nc p n b => exact ⟨da, nc, p, n, b, rfl⟩
  | fault c => cases h
  | waits f p => cases h
/-- A valid word issues from all 32 lanes of a group like `wGroup`, with the lanes `act` whose guard holds. -/
theorem wIssues (g : Group) (act : List Nat) (w : Nat) (hw : w < 2 ^ 64)
    (hg : groupAt (wRun g) 2 3 = some g ∧ wgOf (wRun g) 2 g = some wWg ∧ g.halted = false ∧ (g.th 0).stat = .run ∧
      (g.th 0).pc = 0 ∧ coreRole (wRun g) 2 ≠ 3 ∧ subsetOf g 0 = upTo 32 ∧ fair g (upTo 32) = true ∧ fetched (xcheck (wRun g) 5 0 .fetch) = true)
    (ha : (upTo 32).filter (fun l => (g.th l).guard w) = act) (hb : badWord w 64 = false) :
    Issues (wRun g) (wIssue w) (wIss g act w) :=
  ⟨rfl, hg.1, hg.2.1, hg.2.2.1, hg.2.2.2.1, hg.2.2.2.2.2.1, hg.2.2.2.2.2.2.1.symm, hg.2.2.2.2.2.2.2.1, hg.2.2.2.2.1.symm,
    (Nat.mod_eq_of_lt hw).symm, ha.symm, fetched_ok _ hg.2.2.2.2.2.2.2.2, hb, rfl, fun h => Bool.noConfusion h⟩
/-- A word of a class whose OP encodings the spec does not give: the OP is one that is defined for it, PRED 7, PN 0, and low
bits 0x010203040000. -/
def lowWord (cls op : Nat) : Nat := cls * 2 ^ 60 + op * 2 ^ 54 + 7 * 2 ^ 50 + 0x010203040000
def opWord (cls : Nat) : Nat := lowWord cls (Config.firstOp cls).val
theorem low_word_ok : ∀ cls ∈ [0, 1, 2, 3, 4, 5, 12, 13], ∀ op : Fin 64, wPred (lowWord cls op) = 7 ∧
    wPn (lowWord cls op) = false ∧ wClass (lowWord cls op) = cls ∧ wOp (lowWord cls op) = op ∧ lowWord cls op < 2 ^ 64 ∧
    reservedOk (lowWord cls op) = true ∧ aluOk (lowWord cls op) 64 = true ∧ regOk 64 (wF3 (lowWord cls op)) 1 = true ∧
    wF3 (lowWord cls op) = 1 := by
  decide +kernel
theorem op_word_valid (cls : Nat) (h : cls ∈ [0, 1, 2, 3, 4, 5, 12, 13]) : badWord (opWord cls) 64 = false := by
  obtain ⟨-, -, hc, ho, -, hr, ha, hg, -⟩ := low_word_ok cls h (Config.firstOp cls)
  unfold badWord opOk opWord
  rw [hr, hc, ho]
  simp only [List.mem_cons, List.not_mem_nil, or_false] at h
  rcases h with h | h | h | h | h | h | h | h <;> subst h <;> simp [Config.opDefined, ha, hg]
/-- A word of each such class issues, from a plain group. -/
theorem wIssuesOp (cls : Nat) (h : cls ∈ [0, 1, 2, 3, 4, 5, 12, 13]) :
    Issues (wRun wGroup) (wIssue (opWord cls)) (wIss wGroup (upTo 32) (opWord cls)) := by
  obtain ⟨hp, hn, -, -, hw, -⟩ := low_word_ok cls h (Config.firstOp cls)
  refine wIssues wGroup (upTo 32) (opWord cls) hw (by decide) ?_ (op_word_valid cls h)
  have : (fun l => (wGroup.th l).guard (opWord cls)) = fun _ => true := by
    funext l
    simp [Thread.guard, Thread.pred, opWord, hp, hn]
  rw [this]; decide
theorem test_ctrl_class (cls : Nat) (h : cls ∈ [0, 1, 2, 3, 4, 5, 12, 13]) : isCls cls (opWord cls) = true := by
  simpa [isCls, opWord] using (low_word_ok cls h (Config.firstOp cls)).2.2.1
/-- A call from full return stacks, an exit of lane 0 alone, and an access outstanding. -/
def wFull : Group := { wGroup with threads := List.replicate 32 { wThread with rets := List.replicate 16 8 } }
def wSome : Group := { wGroup with threads := { wThread with preds := 1 } :: List.replicate 31 wThread }
theorem test_full_group : groupAt (wRun wFull) 2 3 = some wFull ∧ wgOf (wRun wFull) 2 wFull = some wWg ∧ wFull.halted = false ∧
    (wFull.th 0).stat = .run ∧ (wFull.th 0).pc = 0 ∧ coreRole (wRun wFull) 2 ≠ 3 ∧ subsetOf wFull 0 = upTo 32 ∧
    fair wFull (upTo 32) = true ∧ fetched (xcheck (wRun wFull) 5 0 .fetch) = true := by decide
theorem test_call_depth : (upTo 32).find? (fun l => 16 ≤ (wFull.th l).rets.length) = some 0 ∧
    ∀ l ∈ upTo 32, (wGroup.th l).rets.length < 16 ∧ (wGroup.th l).rets ≠ [] := by decide
theorem test_some_group : groupAt (wRun wSome) 2 3 = some wSome ∧ wgOf (wRun wSome) 2 wSome = some wWg ∧ wSome.halted = false ∧
    (wSome.th 0).stat = .run ∧ (wSome.th 0).pc = 0 ∧ coreRole (wRun wSome) 2 ≠ 3 ∧ subsetOf wSome 0 = upTo 32 ∧
    fair wSome (upTo 32) = true ∧ fetched (xcheck (wRun wSome) 5 0 .fetch) = true := by decide
theorem test_exit_one : (upTo 32).filter (fun l => (wSome.th l).pred 0) = [0] ∧
    outstanding (wRun wSome) (wIss wSome [0] 0) = false ∧ (∀ l < 32, (wSome.th l).stat = .run ∧ (wSome.th l).joins = []) ∧
    wSome.region = none ∧ ∀ b ∈ wWg.bars, b = Barrier.fresh := by decide
theorem test_exit_waits : outstanding { wRun wGroup with reqs := [{ atBank (.load 4) .normal 1 with core := 2, slot := 3 }] }
    (wIss wGroup (upTo 32) 0) = true := by decide

/-! Witnesses of ArithmeticInstructions. -/

theorem test_no_interlock (w : Nat) (rs : List (Nat × Nat)) : interlocked (wRun wGroup) (wIss wGroup (upTo 32) w) rs = false := rfl

/-! Witnesses of GroupWideInstructions. -/

/-- A GROUP word: the OP, DST 4, SA r2, SB r3, W 32 lanes, unsigned. -/
def groupWord (op : Nat) : Nat := 6 * 2 ^ 60 + op * 2 ^ 54 + 7 * 2 ^ 50 + 4 * 2 ^ 40 + 2 * 2 ^ 32 + 3 * 2 ^ 24 + 0x1400
theorem test_group_words : ∀ op ∈ [0x10, 0x11, 0x12, 0x13, 0x14, 0x15, 0x16, 0x17, 0x18, 0x19, 0x1A, 0x1B],
    badWord (groupWord op) 64 = false ∧ isOp 6 op (groupWord op) = true ∧
      (upTo 32).filter (fun l => (wGroup.th l).guard (groupWord op)) = upTo 32 ∧ groupWord op < 2 ^ 64 := by decide +kernel
theorem test_group_issues (op : Nat) (h : op ∈ [0x10, 0x11, 0x12, 0x13, 0x14, 0x15, 0x16, 0x17, 0x18, 0x19, 0x1A, 0x1B]) :
    Issues (wRun wGroup) (wIssue (groupWord op)) (wIss wGroup (upTo 32) (groupWord op)) :=
  wIssues wGroup _ _ (test_group_words op h).2.2.2 (by decide) (test_group_words op h).2.2.1 (test_group_words op h).1

/-! Witnesses of IllegalWordsAndFetches. -/

theorem test_illegal : badWord (14 * 2 ^ 60) 64 = true ∧ groupAt (wRun wGroup) 2 3 = some wGroup ∧
    wgOf (wRun wGroup) 2 wGroup = some wWg ∧ isCls 13 (groupWord 0x10) = false := by decide
/-- The second of a pair of one group: LOAD_L of r8 before it, and FOLD_ADD of r2 into r4. -/
def wJoined : Iss := { wIss wGroup (upTo 32) (groupWord 0x18) with paired := true }
theorem test_pair : wJoined.joins [⟨3, upTo 32, 2 ^ 48 - 8, 7 * 2 ^ 60 + 7 * 2 ^ 50 + 8 * 2 ^ 40 + 2 * 2 ^ 32 + 2 * 2 ^ 16, 5⟩] = true ∧
    wJoined.joins [] = false := by decide +kernel
def wNoFetch : State := { wRun wGroup with tags := [] }
theorem test_no_fetch : xcheck wNoFetch 5 0 .fetch = .fault cOwner ∧ groupAt wNoFetch 2 3 = some wGroup ∧
    coreRole wNoFetch 2 ≠ 3 := by decide

/-! Witnesses of BarriersAndMatrix. -/

/-- SYNC words (OP, barrier 2, group scope; FENCE with an ORDER), and matrix words of bf16 (A r8, B r12, C r16, D r24). -/
def syncWord (op order : Nat) : Nat := 10 * 2 ^ 60 + op * 2 ^ 54 + 7 * 2 ^ 50 + (if op < 2 then 2 else 0) * 2 ^ 44 + order * 2 ^ 39
def matWord (op : Nat) : Nat :=
  11 * 2 ^ 60 + op * 2 ^ 54 + 7 * 2 ^ 50 + 24 * 2 ^ 40 + 8 * 2 ^ 32 + 12 * 2 ^ 24 + (if op = 0 then 16 else 0) * 2 ^ 16
theorem test_sync_words : ∀ p ∈ [(0, 0), (1, 0), (2, 1), (3, 0), (4, 0)],
    badWord (syncWord p.1 p.2) 64 = false ∧ isOp 10 p.1 (syncWord p.1 p.2) = true ∧ wSScope (syncWord p.1 p.2) = 0 ∧
      (upTo 32).filter (fun l => (wGroup.th l).guard (syncWord p.1 p.2)) = upTo 32 ∧ syncWord p.1 p.2 < 2 ^ 64 := by decide +kernel
theorem test_sync_issues (p : Nat × Nat) (h : p ∈ [(0, 0), (1, 0), (2, 1), (3, 0), (4, 0)]) :
    Issues (wRun wGroup) (wIssue (syncWord p.1 p.2)) (wIss wGroup (upTo 32) (syncWord p.1 p.2)) :=
  wIssues wGroup _ _ (test_sync_words p h).2.2.2.2 (by decide) (test_sync_words p h).2.2.2.1 (test_sync_words p h).1
theorem test_barrier_ready : wWg.bars.getD (wBid (syncWord 0 0)) Barrier.fresh = Barrier.fresh ∧
    wBid (syncWord 0 0) < wWg.bars.length ∧ outstanding (wRun wGroup) (wIss wGroup (upTo 32) (syncWord 0 0)) = false ∧
    ((coreOf (wRun wGroup) 2).groups.filter fun g => g.slot == wGroup.slot || g.wg == wWg.id && g.idx == wGroup.idx) = [wGroup] := by decide +kernel
/-- A barrier reached by lane 0 alone, guarded by p0. -/
def syncSome (op : Nat) : Nat := syncWord op 0 - 7 * 2 ^ 50
theorem test_barrier_some : badWord (syncSome 0) 64 = false ∧ badWord (syncSome 1) 64 = false ∧
    (upTo 32).filter (fun l => (wSome.th l).guard (syncSome 0)) = [0] ∧ isOp 10 1 (syncSome 1) = true ∧
    wSScope (syncSome 1) = 0 := by decide +kernel
theorem test_barrier_some_issues : Issues (wRun wSome) (wIssue (syncSome 0)) (wIss wSome [0] (syncSome 0)) :=
  wIssues wSome _ _ (by decide) test_some_group test_barrier_some.2.2.1 test_barrier_some.1
/-- A group in a matrix region of all its lanes. -/
def wIn : Group := { wGroup with region := some (2 ^ 32 - 1) }
theorem test_in_group : groupAt (wRun wIn) 2 3 = some wIn ∧ wgOf (wRun wIn) 2 wIn = some wWg ∧ wIn.halted = false ∧
    (wIn.th 0).stat = .run ∧ (wIn.th 0).pc = 0 ∧ coreRole (wRun wIn) 2 ≠ 3 ∧ subsetOf wIn 0 = upTo 32 ∧
    fair wIn (upTo 32) = true ∧ fetched (xcheck (wRun wIn) 5 0 .fetch) = true := by decide
theorem test_mat_words : ∀ op ∈ [0, 1], badWord (matWord op) 64 = false ∧ isOp 11 op (matWord op) = true ∧ matWord op < 2 ^ 64 ∧
    (upTo 32).filter (fun l => (wIn.th l).guard (matWord op)) = upTo 32 ∧ regionLanes wIn = upTo 32 ∧ regionLanes wGroup = [] ∧
    etyOf (wType (matWord op)) = some (.flt fmtBf16) ∧ etyOf (bits (matWord op) 11 8) = some (.flt fmtBf16) := by decide +kernel
theorem test_mat_issues (op : Nat) (h : op ∈ [0, 1]) :
    Issues (wRun wIn) (wIssue (matWord op)) (wIss wIn (upTo 32) (matWord op)) :=
  wIssues wIn _ _ (test_mat_words op h).2.2.1 test_in_group (test_mat_words op h).2.2.2.1 (test_mat_words op h).1
theorem test_region_words : badWord (syncWord 3 0) 64 = false ∧ wIn.region.isSome = true ∧
    (upTo 32).find? (fun l => !(regionLanes wGroup).contains l) = some 0 := by decide +kernel

/-! Witnesses of LocalStoreInstructions. -/

/-- Memory words: class, OP, SPACE, RET, DATA, ADDR, third register, ORDER, SCOPE, SIZE, OFFSET; PRED 7. -/
def memWord (cls op space ret data addr third order scope size off : Nat) : Nat :=
  cls * 2 ^ 60 + op * 2 ^ 54 + 7 * 2 ^ 50 + space * 2 ^ 49 + ret * 2 ^ 48 + data * 2 ^ 40 + addr * 2 ^ 32 + third * 2 ^ 24 +
    order * 2 ^ 22 + scope * 2 ^ 19 + size * 2 ^ 16 + off
theorem test_local_words : ∀ op ∈ [0, 1], badWord (memWord 7 op 0 0 8 2 0 0 0 2 4) 64 = false ∧
    isOp 7 op (memWord 7 op 0 0 8 2 0 0 0 2 4) = true ∧ wSize (memWord 7 op 0 0 8 2 0 0 0 2 4) = 2 ∧
    (upTo 32).filter (fun l => (wGroup.th l).guard (memWord 7 op 0 0 8 2 0 0 0 2 4)) = upTo 32 ∧
    memWord 7 op 0 0 8 2 0 0 0 2 4 < 2 ^ 64 := by decide +kernel
theorem test_local_issues (op : Nat) (h : op ∈ [0, 1]) :
    Issues (wRun wGroup) (wIssue (memWord 7 op 0 0 8 2 0 0 0 2 4)) (wIss wGroup (upTo 32) (memWord 7 op 0 0 8 2 0 0 0 2 4)) :=
  wIssues wGroup _ _ (test_local_words op h).2.2.2.2 (by decide) (test_local_words op h).2.2.2.1 (test_local_words op h).1
theorem test_local_fault : localFault (wIss wGroup (upTo 32) (memWord 7 0 0 0 8 2 0 0 0 2 255)) (fun l =>
      localEa (wGroup.th l) (memWord 7 0 0 0 8 2 0 0 0 2 255)) = none ∧
    localFault (wIss wGroup (upTo 32) (memWord 7 0 0 0 8 2 0 0 0 2 256)) (fun l =>
      localEa (wGroup.th l) (memWord 7 0 0 0 8 2 0 0 0 2 256)) = some (cLocalOob, 0) := by decide +kernel

/-! Witnesses of ContextMemoryInstructions. -/

/-- A context whose function maps one to one, with every lane at address 0x100 and its data in r8 and r9. -/
def wMem : Group := { wGroup with threads := List.replicate 32 { wThread with regs := [(2, 0x100), (8, 5)] } }
theorem test_mem_group : groupAt (wRun wMem) 2 3 = some wMem ∧ wgOf (wRun wMem) 2 wMem = some wWg ∧ wMem.halted = false ∧
    (wMem.th 0).stat = .run ∧ (wMem.th 0).pc = 0 ∧ coreRole (wRun wMem) 2 ≠ 3 ∧ subsetOf wMem 0 = upTo 32 ∧
    fair wMem (upTo 32) = true ∧ fetched (xcheck (wRun wMem) 5 0 .fetch) = true := by decide
def ctxWord (op : Nat) : Nat := memWord 8 op 0 0 (if op = 3 then 0 else 8) 2 0 0 0 (if op = 3 then 0 else 2) 0
def rmwWord (op : Nat) : Nat := memWord 9 op 0 1 8 2 8 0 0 2 0
theorem test_ctx_words : (∀ op ∈ [0, 1, 2, 3, 4], isOp 8 op (ctxWord op) = true) ∧
    (∀ op ∈ [0, 1, 2, 3], badWord (ctxWord op) 64 = false ∧ ctxWord op < 2 ^ 64 ∧
      (upTo 32).filter (fun l => (wMem.th l).guard (ctxWord op)) = upTo 32) ∧
    badWord (memWord 8 4 0 0 0 2 0 0 0 0 0) 64 = false := by decide +kernel
theorem test_rmw_words : ∀ op ∈ [0, 1, 2, 3, 4, 5, 6, 7, 8, 9, 10], badWord (rmwWord op) 64 = false ∧ isOp 9 op (rmwWord op) = true ∧
    wSpace (rmwWord op) = false ∧ wOrder (rmwWord op) = 0 ∧ rmwWord op < 2 ^ 64 := by decide +kernel
def lanesOk (r : LaneRes) : Option (List (Nat × Nat × Nat × Bool)) := match r with
  | .ok l => some l
  | _ => none
theorem test_lane_addrs : (lanesOk (laneAddrs (wRun wMem) (wIss wMem (upTo 32) (ctxWord 0)) .read (upTo 32))).map (·.take 2) =
      some [(0, 0x100, 0x100, false), (1, 0x100, 0x100, false)] ∧
    laneBusy (wRun wMem) (wIss wMem (upTo 32) (ctxWord 0)) (fun l => ctxEa (wMem.th l) (ctxWord 0)) = false ∧
    acquirePending (wRun wMem) (wIss wMem (upTo 32) (ctxWord 0)) = false ∧
    walkGated (wRun wMem) 5 ((upTo 32).map fun l => ctxEa (wMem.th l) (ctxWord 0)) = [] := by decide +kernel
def lanesFault (r : LaneRes) : Option (Nat × Nat × Nat) := match r with
  | .fault c l a => some (c, l, a)
  | _ => none
theorem test_lane_faults : lanesFault (laneAddrs (wRun wMem) (wIss wMem (upTo 32) (memWord 8 0 0 0 8 8 0 0 0 2 0)) .read (upTo 32)) =
    some (cMisaligned, 0, 5) := by decide +kernel

/-! Witnesses of LocalAtomics. -/

theorem test_local_rmw : ∀ op ∈ [0, 1, 2, 3, 4, 5, 6, 7, 8, 9, 10], badWord (memWord 9 op 1 1 8 2 8 0 0 2 0) 64 = false ∧
    isOp 9 op (memWord 9 op 1 1 8 2 8 0 0 2 0) = true ∧ wSpace (memWord 9 op 1 1 8 2 8 0 0 2 0) = true ∧
    localFault (wIss wMem (upTo 32) (memWord 9 op 1 1 8 2 8 0 0 2 0)) (fun l => localEa (wMem.th l) (memWord 9 op 1 1 8 2 8 0 0 2 0)) =
      none := by decide +kernel

/-! Witnesses of PlacingAnsweringAndFaults. -/

/-- A live context 5 of partition 0, to which core 2 belongs, and a launch of ring 0 that has a workgroup left. -/
def wLaunch : Launch := ⟨9, 5, 0, 0, 2, 1, 1, 2, 32, 1, 1, 1, 1⟩
def wCue : CueRun := ⟨9, .ring 0, 0, false, List.replicate 64 0, .running, 0, 0, zeroNum, false, true, false, 9, none⟩
def wPlace : State :=
  { blank with
    applied := [(R.SMGR_P_CFG 0, 0x10001)]
    ctxs := [(5, { Ctx.none with state := .live })]
    launches := [wLaunch]
    cues := [wCue] }
theorem test_place : wPlace.launches.find? (fun l => ((cuesOf wPlace (srcOf (.ring 0 0))).map (·.uid)).contains l.uid &&
      decide (l.next < l.gridX * l.gridY * l.gridZ)) = some wLaunch ∧
    coreTakes wPlace (2 : Fin 17) (ctxOf wPlace 5).part = true ∧ homeOk wPlace (srcOf (.ring 0 0)) (2 : Fin 17) = true ∧
    ctxLive wPlace 5 = true ∧ wgFits (coreOf wPlace 2) 2 32 1 1 = true := by decide +kernel
/-- An answered request of lane 4 for r6, an answered store, and a failed load. -/
def wAnswered (reg : Nat) (code : Nat) (bs : List Byte) : State :=
  { wRun wGroup with reqs := [{ atBank (.load 4) .normal 1 with core := 2, slot := 3, lane := 4, reg := reg, at_ := .done code bs }] }
theorem test_answered : ∀ p ∈ [(6, cOk), (256, cOk)], (readyAnswer (wAnswered p.1 p.2 [1, 2, 3, 4]) 2 3).isSome = true ∧
    groupAt (wAnswered p.1 p.2 [1, 2, 3, 4]) 2 3 = some wGroup ∧ wgOf (wAnswered p.1 p.2 [1, 2, 3, 4]) 2 wGroup = some wWg := by
  decide
theorem test_failed : readyAnswer (wAnswered 6 cOwner []) 2 3 = none ∧ ∃ r, (wAnswered 6 cOwner []).reqs = [r] ∧
    (wAnswered 6 cOwner []).reqs.find? (fun r => r.core == (2 : Fin 17).val && r.slot == (3 : Fin 48).val && (failedCode r).isSome) =
      some r ∧ sameInstr r r = true ∧ r.at_ = .done cOwner [] := by
  refine ⟨by decide, _, rfl, by decide, by decide, rfl⟩
/-- A group whose lane 0 has parked at its join address. -/
def wParked (n : Nat) : Group :=
  { wGroup with
    threads := { wThread with stat := .parked 7, joins := [⟨0, 1⟩] } :: List.replicate 31 { wThread with joins := [⟨64, 1⟩] }
    issued := n }
theorem test_parked : groupAt (wRun (wParked 262)) 2 3 = some (wParked 262) ∧ ((wParked 263).th 0).stat = .parked 7 ∧
    (wParked 262).issued < 7 + 256 ∧ 7 + 256 ≤ (wParked 263).issued ∧ groupAt (wRun (wParked 263)) 2 3 = some (wParked 263) := by
  decide
/-- A group whose threads all wait at a matrix instruction outside any region. -/
def wStuck : Group := { wGroup with threads := List.replicate 32 { wThread with stat := .matrix 0 } }
theorem test_deadlock : groupAt (wRun wStuck) 2 3 = some wStuck ∧ wgOf (wRun wStuck) 2 wStuck = some wWg ∧
    deadlocked (wRun wStuck) 2 wWg wStuck = true := by decide
def wFault : State :=
  modCore { blank with ctxs := [(5, { Ctx.none with state := .live })] } 2 fun k => { k with faults := [⟨5, List.replicate 32 1, none⟩] }
theorem test_core_fault : (coreOf wFault (2 : Fin 17)).faults = [⟨5, List.replicate 32 1, none⟩] ∧ (ctxOf wFault 5).state = .live ∧
    wFault.faultReps = [] := by decide
theorem test_place_up : domOn wPlace (dCore + (2 : Fin 17).val) = true ∧ domOn (gated wPlace) (dCore + (2 : Fin 17).val) = false ∧
    mayPlace (noteAll (gated wPlace) (ctxOf wPlace 5).part) (ctxOf wPlace 5).part 5 (srcOf (.ring 0 0)) .workgroup (2 : Fin 17) = true ∧
    ctxStopping wPlace (2 : Fin 17) 5 = false ∧ beingTaken wPlace 5 .workgroup [(2 : Fin 17).val] = false := by decide +kernel

/-! Witnesses of EngineTraffic. -/

theorem test_cache_off : cacheOn blank 0 = false := by decide

/-! Witnesses of TensorOperationsStart. -/

/-- Bytes with little-endian fields (offset, width, value) put into zeros. -/
def fields (n : Nat) (l : List (Nat × Nat × Nat)) : List Byte :=
  l.foldl (fun b p => b.take p.1 ++ leBytes p.2.1 p.2.2 ++ b.drop (p.1 + p.2.1)) (List.replicate n 0)
/-- A cue of context 5 on ring 0 of function 0, number 9: opcode, flags, ADDR, ARG. -/
def cueBytes (opc flags addr arg : Nat) : List Byte := fields 64 [(0, 1, opc), (1, 1, flags), (2, 2, 5), (12, 4, 40), (48, 8, addr), (56, 8, arg)]
def wCueOf (opc flags addr arg : Nat) : CueRun := ⟨9, .ring 0, 0, false, cueBytes opc flags addr arg, .waiting, 0, 0, zeroNum, false, true, true, 9, none⟩
/-- The machine a cue starts in: function 0 in G5 mode with contexts 0 to 15, context 5 live in partition 0 (core 2 among its
cores, NPL 1000), the carving locked, granule 0 of the Loft owned by context 5, ring 0 active, the cue waiting, and bytes at
0x100. -/
def wDesk (opc flags addr arg : Nat) (bs : List Byte) : State :=
  let s := fset (fset blank F.LOFT_CTRL.CARVE_LOCK 1) (F.PDESK_FN_CTX_RANGE.CTX_COUNT 0) 16
  { s with
    applied := [(R.PDESK_G5_MODE, 1), (R.SMGR_P_CFG 0, 0x10001), (R.SMGR_P_NPL 0, 1000)]
    tags := [(0, 0x501)]
    ctxs := [(5, { Ctx.none with state := .live })]
    rings := [(0, { Ring.idle with state := .active, cid := 5, sizeLog2 := 4, csizeLog2 := 4 })]
    cues := [wCueOf opc flags addr arg]
    mem := mputs 0 [] 0x100 bs }
def gemmDesc : List Byte := fields 128 [(0, 1, 1), (1, 1, 1), (16, 4, 1), (20, 4, 1), (24, 4, 1), (32, 8, 0x200), (40, 8, 0x300),
  (56, 8, 0x400), (64, 4, 1), (68, 4, 1), (76, 4, 1)]
def convDesc : List Byte := fields 128 [(0, 1, 2), (1, 1, 1), (16, 4, 1), (20, 2, 1), (22, 2, 1), (24, 1, 1), (26, 2, 1),
  (32, 8, 0x200), (40, 8, 0x300), (56, 8, 0x400)]
def recurDesc : List Byte := fields 128 [(0, 1, 3), (1, 1, 1), (16, 4, 1), (20, 2, 1), (22, 2, 1), (25, 1, 1),
  (32, 8, 0x200), (40, 8, 0x300), (56, 8, 0x400), (64, 8, 0x500), (72, 8, 0x600)]
def scanDesc : List Byte := fields 128 [(0, 1, 4), (1, 1, 1), (16, 4, 1), (20, 4, 1), (32, 8, 0x200), (40, 8, 0x300),
  (48, 8, 0x400), (56, 8, 0x500), (64, 8, 0x600)]
def routeDesc : List Byte := fields 128 [(0, 1, 5), (1, 1, 1), (16, 4, 1), (20, 2, 32), (22, 2, 1), (24, 1, 1), (32, 8, 0x200),
  (40, 8, 0x300), (56, 8, 0x400), (64, 8, 0x500)]
theorem test_starts : Starts (noted (wDesk 1 0 0x100 0 gemmDesc) (2 : Fin 17)) (srcOf (.ring 0 0)) 1 (wCueOf 1 0 0x100 0) :=
  ⟨by decide +kernel, by decide +kernel, by decide +kernel, by decide +kernel, by decide +kernel⟩
theorem test_starts_plain : Starts (wDesk 1 0 0x100 0 gemmDesc) (srcOf (.ring 0 0)) 1 (wCueOf 1 0 0x100 0) :=
  ⟨by decide +kernel, by decide +kernel, by decide +kernel, by decide +kernel, by decide +kernel⟩
theorem test_tensor_engine : opOn (wDesk 1 0 0x100 0 gemmDesc) (2 : Fin 17) = none ∧
    coreTakes (wDesk 1 0 0x100 0 gemmDesc) (2 : Fin 17) (ctxOf (wDesk 1 0 0x100 0 gemmDesc) 5).part = true ∧
    homeOk (wDesk 1 0 0x100 0 gemmDesc) (srcOf (.ring 0 0)) (2 : Fin 17) = true ∧ (wCueOf 1 0 0x100 0).cid = 5 ∧
    mayPlace (noted (wDesk 1 0 0x100 0 gemmDesc) 2) 0 5 (.ring 0) .tensor 2 = true ∧
    gangFirst (noted (wDesk 1 0 0x100 0 gemmDesc) 2) 0 5 = false ∧ beingTaken (noted (wDesk 1 0 0x100 0 gemmDesc) 2) 5 .tensor [2] = false ∧
    (ctxOf (noted (wDesk 1 0 0x100 0 gemmDesc) 2) 5).part = 0 := by
  decide +kernel
/-- Each descriptor is read whole and passes; one whose VERSION is 0 does not. -/
theorem test_desc_ok : ∀ p ∈ [(gemmDesc, 1), (convDesc, 2), (recurDesc, 3), (scanDesc, 4), (routeDesc, 5)],
    xlateUnit (started (wDesk 1 0 0x100 0 p.1) (wCueOf 1 0 0x100 0)) 5 [(0x100, 128, false)] = .ok [⟨0, 65536, 0, false⟩] ∧
    engineWaits (started (wDesk 1 0 0x100 0 p.1) (wCueOf 1 0 0x100 0)) (descEng (started (wDesk 1 0 0x100 0 p.1) (wCueOf 1 0 0x100 0)) 2 (wCueOf 1 0 0x100 0) 0x100)
      [⟨0, 65536, 0, false⟩] [(0x100, 128, false)] = false ∧
    ctxRead (started (wDesk 1 0 0x100 0 p.1) (wCueOf 1 0 0x100 0)) [⟨0, 65536, 0, false⟩] 0x100 128 = p.1 ∧
    dOpc p.1 = p.2 ∧ descOk (started (wDesk 1 0 0x100 0 p.1) (wCueOf 1 0 0x100 0)) 0 p.1 = true ∧
    chainBad blank (srcOf (.ring 0 0)) p.1 = false ∧
    descOk (started (wDesk 1 0 0x100 0 p.1) (wCueOf 1 0 0x100 0)) 0 (fields 128 [(0, 1, p.2)]) = false := by decide +kernel
/-- An operation of core 2 at a stage. -/
def opAt (d : List Byte) (st : TenStage) (next : Nat) : TensorOp :=
  { freshOp 9 5 2 d 0x100 0 with next := next, stage := st }
def wTensor (o : TensorOp) : State := { wDesk 1 0 0x100 0 o.desc with tensors := [o] }
theorem test_engine_busy : opOn (wTensor (opAt scanDesc .boundary 0)) (2 : Fin 17) ≠ none := by decide
theorem test_tensor_up : domOn (noted (wDesk 1 0 0x100 0 gemmDesc) 2) (dCore + (2 : Fin 17)) = true ∧
    domOn (noted (gated (wDesk 1 0 0x100 0 gemmDesc)) 2) (dCore + (2 : Fin 17)) = false ∧
    mayPlace (noted (gated (wDesk 1 0 0x100 0 gemmDesc)) 2) 0 5 (.ring 0) .tensor 2 = true := by decide +kernel
theorem test_tensor_gated : Starts (noted (gated (wDesk 1 0 0x100 0 gemmDesc)) (2 : Fin 17)) (srcOf (.ring 0 0)) 1 (wCueOf 1 0 0x100 0) :=
  ⟨by decide +kernel, by decide +kernel, by decide +kernel, by decide +kernel, by decide +kernel⟩

/-! Witnesses of TensorTiles. -/

def okPages (r : UnitRes) : Option (List HeldPage) := match r with
  | .ok p => some p
  | _ => none
theorem test_tile_start : ∀ d ∈ [gemmDesc, convDesc, recurDesc, scanDesc, routeDesc],
    headOn (wTensor (opAt d .boundary 0)) (2 : Fin 17) = some (opAt d .boundary 0) ∧ 0 < tileCount d ∧
    okPages (unitVerdict (tilePoints (wTensor (opAt d .boundary 0)) (opAt d .boundary 0) 0
      (tilePrint (opAt d .boundary 0) 0))) = some [⟨0, 65536, 0, false⟩] ∧
    okPages (mapUnit (wTensor (opAt d .boundary 0)) 5 (xbufRange d)) = some [] ∧
    heldBad (wTensor (opAt d .boundary 0)) 5 [⟨0, 65536, 0, false⟩] ((tilePrint (opAt d .boundary 0) 0).map (·.plain)) = none ∧
    heldBad (wTensor (opAt d .boundary 0)) 5 [⟨0, 65536, 0, false⟩]
      (((tilePrint (opAt d .boundary 0) 0).filter fun r => !inOb (opAt d .boundary 0) 0 r).map (·.plain)) = none ∧
    tensorWaits (wTensor (opAt d .boundary 0)) (opAt d .boundary 0) [⟨0, 65536, 0, false⟩]
      (tilePrint (opAt d .boundary 0) 0 ++ prePass (opAt d .boundary 0) 0 ++ xbufReads d 0) = false ∧
    obFull (wTensor (opAt d .boundary 0)) (opAt d .boundary 0) = false ∧
    okPages (xlateUnit (wTensor (opAt d .boundary 0)) 5 ((tilePrint (opAt d .boundary 0) 0).map (·.plain))) =
      some [⟨0, 65536, 0, false⟩] ∧ beingTaken (wTensor (opAt d .boundary 0)) 5 .tensor [2] = false ∧
    nextAhead (opAt d .boundary 0) = 0 ∧ (wTensor (opAt d .boundary 0)).ueWords = [] ∧ (wTensor (opAt d .boundary 0)).caches = [] ∧
    (wTensor (opAt d .boundary 0)).buckets = [] := by decide +kernel
def faultOf (r : UnitRes) : Option (Nat × Nat) := match r with
  | .fault c a => some (c, a)
  | _ => none
theorem test_fetch_fault : faultOf (mapUnit { wTensor (opAt scanDesc .boundary 0) with tags := [] } 5
    ((tilePrint (opAt scanDesc .boundary 0) 0).map (·.plain))) = some (cOwner, 0x200) := by decide +kernel
/-- A cue, with OVERLAP in its flags or not, behind the first one of its ring. -/
def wCueNext (flags : Nat) : CueRun := { wCueOf 1 flags 0x100 0 with uid := 10, chain := 10, prev := some 9 }
/-- A second tensor cue waits behind the one that runs its last tile. -/
def wBehind : State :=
  { wTensor (opAt scanDesc .tile 0) with
    cues := [{ wCueOf 1 0 0x100 0 with stage := .running }, wCueNext 0x20] }
theorem test_prefetch_next : cueOf wBehind 9 = some { wCueOf 1 0 0x100 0 with stage := .running } ∧
    nextWaiting wBehind (.ring 0) = some (wCueNext 0x20) ∧ tileCount scanDesc ≤ nextAhead (opAt scanDesc .tile 0) ∧
    cueReady wBehind (wCueNext 0x20) = true ∧ homeOk wBehind (.ring 0) 2 = true ∧
    xlateUnit wBehind 5 [(0x100, 128, false)] = .ok [⟨0, 65536, 0, false⟩] ∧ wBehind.prefetched = [] := by decide +kernel
def wInTile (d : List Byte) : State :=
  { wTensor (opAt d .tile 0) with helds := [⟨.tensor 2, 5, 0, [⟨0, 65536, 0, false⟩], true, []⟩] }
theorem test_tile_finish : headOn (wInTile scanDesc) (2 : Fin 17) = some (opAt scanDesc .tile 0) ∧
    heldPages (wInTile scanDesc) (.tensor (2 : Fin 17)) = [⟨0, 65536, 0, false⟩] ∧
    heldBad (wInTile scanDesc) 5 [⟨0, 65536, 0, false⟩] ((tilePrint (opAt scanDesc .tile 0) 0).map (·.plain)) = none ∧ (ctxOf (wInTile scanDesc) 5).part < 8 ∧
    headOn blank (2 : Fin 17) = none := by decide +kernel

/-! Witnesses of TensorOperationsEnd. -/

def wPair : RoutePair := ⟨0, 0, 0, 0x3F800000⟩
/-- A ROUTE of one pair; with `e` an entry for expert 0 that names member 1 of the root ring, a ring of two units. -/
def wRoute (e : Nat) : State :=
  let s := wTensor { opAt routeDesc .pairs 0 with pairs := [wPair] }
  { s with
    applied := s.applied ++ [(R.UL_DIR_LO 0, BitVec.ofNat 32 e), (R.UL_P_CREDITS 0, 0x80)]
    link := { LinkSt.none with
      pos := [0]
      roster := ⟨[⟨[], 2, false⟩], [⟨[0], 0, [true, true, false]⟩, ⟨[1], 0, [true, true, false]⟩]⟩ } }
theorem test_route_pair : headOn (wRoute 0) (2 : Fin 17) = some { opAt routeDesc .pairs 0 with pairs := [wPair] } ∧
    d2 routeDesc 20 * (ty (dA routeDesc)).width / 8 = 64 ∧ xlateUnit (wRoute 0) 5 [(0x200, 64, false)] = .ok [⟨0, 65536, 0, false⟩] ∧
    bits (dirEntry (wRoute 0) 0) 26 24 = 0 ∧ bits (dirEntry (wRoute 0x1100000) 0) 26 24 = 1 ∧
    unitAddr (bits (dirEntry (wRoute 0x1100000) 0) 23 0) 1 = [1] ∧ me (wRoute 0x1100000) = [0] ∧
    1 + 64 / 64 ≤ firstPool (wRoute 0x1100000) [1] 0 ∧
    canReach (wRoute 0x1100000) (wRoute 0x1100000).link.roster [1] = true := by decide +kernel
/-- The same with a second pair behind the first. -/
theorem test_route_two : headOn { wRoute 0x1100000 with tensors := [{ opAt routeDesc .pairs 0 with pairs := [wPair, wPair] }] } (2 : Fin 17) =
    some { opAt routeDesc .pairs 0 with pairs := [wPair, wPair] } ∧
    engineWaits (wRoute 0x1100000) (tensorEng (wRoute 0x1100000) (opAt routeDesc .pairs 0) 0) [⟨0, 65536, 0, false⟩] [(0x200, 64, false)] =
      false := by decide +kernel
theorem test_route_complete : headOn (wTensor (opAt routeDesc .boundary 1)) (2 : Fin 17) = some (opAt routeDesc .boundary 1) ∧
    tileCount routeDesc = 1 ∧ d8 routeDesc 64 = 0x500 ∧ tileCount scanDesc = 1 ∧ dOpc scanDesc ≠ 5 ∧
    xlateUnit (wTensor (opAt routeDesc .boundary 1)) 5 [(0x500, 32, true)] = .ok [⟨0, 65536, 0, false⟩] ∧
    isHeld [⟨0, 65536, 0, false⟩] 0x500 = true := by decide +kernel
def wStopped (opc : Nat) (s : State) : State :=
  { s with cues := [{ wCueOf opc 0 0x100 0 with stage := .running }], stops := [(9, cAborted)] }
theorem test_tensor_abort : stopOf (wStopped 1 (wTensor (opAt scanDesc .tile 0))) (srcOf (.ring 0 0)) [1] =
      some ({ wCueOf 1 0 0x100 0 with stage := .running }, cAborted) ∧
    (wStopped 1 (wTensor (opAt scanDesc .tile 0))).tensors.find? (·.uid == 9) = some (opAt scanDesc .tile 0) := by decide +kernel
/-- An operation of the running cue of ring 0 saved in image 4. -/
def wSaved : TensorOp := { opAt scanDesc (.saved 4) 0 with cores := [] }
def wResume : State := { wTensor wSaved with cues := [{ wCueOf 1 0 0x100 0 with stage := .running }] }
theorem test_tensor_resume : (noted wResume 2).tensors.find? (resumeFits (noted wResume 2) [2]) = some wSaved ∧ dGang scanDesc = 1 ∧
    opOn wResume (2 : Fin 17) = none ∧ imageBad (noted wResume 2) 4 .single = false := by decide +kernel
theorem test_resume_up : (∀ c ∈ [2], domOn (noted wResume 2) (dCore + c) = true) ∧
    (∃ c ∈ [2], domOn (noted (gated wResume) 2) (dCore + c) = false) ∧
    (noted (gated wResume) 2).tensors.find? (resumeFits (noted (gated wResume) 2) [2]) = some wSaved := by decide +kernel

/-! Witnesses of PitPortsAndFrames. -/

/-- Port 1 as an I2S master, its own clock source, its configuration written and in force. -/
def wPort : State := { fset blank (F.PIT_SAP_CFG.SYNC_SRC 1) 1 with saps := [(1, ⟨0x2001, 0⟩)] }
def wSap : State := fset wPort (F.PIT_SAP_CFG.MODE 1) 1
theorem test_sap_idle : (∀ m < 32, streamArmed wSap m = false) ∧ clockSrc (sapCfg wSap) (1 : Fin 4) = (1 : Fin 4) ∧
    cMode (sapCfg wSap (1 : Fin 4)) ≠ 0 ∧ portInUse wSap (1 : Fin 4) = false := by decide +kernel
/-- Stream 3 of one channel on slot 0 of that port, running in blocks of 8 frames at frame 2, its input blocks at 0. -/
def wStream : State :=
  let s := fset (fset (fset wSap (F.PIT_S_CFG.PORT 3) 1) (F.PIT_S_CFG.CHANNELS 3) 1) (F.PIT_S_STATE.STATE 3) sRunning
  { fset (fset s (F.PIT_S_OWNER.CID 3) 5) F.LOFT_CTRL.CARVE_LOCK 1 with
    tags := [(0, 0x501)]
    streams := [(3, { PitStream.idle with begun := true, t := 2 })]
    helds := [⟨.pit 3, 5, 0, [⟨0, 65536, 0, false⟩], true, []⟩] }
theorem test_sap_frame : (∀ q < 4, sapForce wStream q = sapCfg wStream q) ∧ (∀ m < 32, streamArmed wStream m = true ↔ m = 3) ∧
    stIsSap wStream 3 = true ∧ clockSrc (sapCfg wStream) (stPort wStream 3) = 1 ∧ streamState wStream 3 ≠ sFaulted ∧
    2 + 1 ≠ stN wStream 3 ∧ stCh wStream 3 = 1 ∧ stFmt wStream 3 = 0 ∧ stOutEn wStream 3 = false ∧
    inAddr wStream 3 0 + elemOff wStream 3 2 0 = 8 ∧ isHeld (stPages wStream 3) 8 = true ∧ cMode (sapCfg wStream 1) ≠ 0 ∧
    fbit wStream (F.PIT_SAP_STATUS.LOST 1) = false ∧ portInUse wStream (1 : Fin 4) = true ∧
    heldBad wStream (streamCid wStream 3) (stPages wStream 3) [(8, 4, true)] = none ∧ domOn wStream dPit = true ∧
    reach wStream (heldAddr (stPages wStream 3) 8) ≠ .peer ∧ domOn wSap dPit = true ∧ cacheOn wStream 0 = false := by decide +kernel
/-- Stream 3 of receiver 0, channel 2, RAW8 lines of 4 bytes, armed; and the same at line 2 of its block. -/
def wCam (p : PitStream) : State :=
  let s := fset (fset (fset blank (F.PIT_CSI_CFG.EN 0) 1) (F.PIT_S_CFG.PORT 3) 4) (F.PIT_S_STATE.STATE 3) sArmed
  let s := fset (fset (fset s (F.PIT_S_VIDEO.LINE_BYTES 3) 4) (F.PIT_S_VIDEO.VC 3) 2) (F.PIT_S_VIDEO.DT 3) 0x2A
  { fset (fset s (F.PIT_S_OWNER.CID 3) 5) F.LOFT_CTRL.CARVE_LOCK 1 with
    tags := [(0, 0x501)], streams := [(3, { p with last := [1] })], helds := [⟨.pit 3, 5, 0, [⟨0, 65536, 0, false⟩], true, []⟩] }
theorem test_csi : fbit (wCam PitStream.idle) (F.PIT_CSI_CFG.EN (0 : Fin 2)) = true ∧
    csiStreams (wCam PitStream.idle) (0 : Fin 2) (2 : Fin 16) = [3] ∧ (streamOf (wCam PitStream.idle) 3).t = 0 ∧
    csiStreams (wCam PitStream.idle) (0 : Fin 2) (1 : Fin 16) = [] ∧ fbit blank (F.PIT_CSI_CFG.EN (1 : Fin 2)) = false := by
  decide +kernel
theorem test_csi_line : csiStreams (wCam { PitStream.idle with begun := true, t := 2 }) (0 : Fin 2) (2 : Fin 16) = [3] ∧
    (0x2A : Fin 64).val ∈ csiTypes ∧ fget (wCam { PitStream.idle with begun := true, t := 2 }) (F.PIT_S_VIDEO.DT 3) = 0x2A ∧
    2 + 1 ≠ stN (wCam PitStream.idle) 3 ∧ stLine (wCam PitStream.idle) 3 = 4 ∧ inAddr (wCam PitStream.idle) 3 0 = 0 ∧
    isHeld (stPages (wCam PitStream.idle) 3) (0 + 2 * 4) = true ∧
    heldBad (wCam PitStream.idle) (streamCid (wCam PitStream.idle) 3) (stPages (wCam PitStream.idle) 3) [(8, 4, true)] = none ∧
    reach (wCam PitStream.idle) (heldAddr (stPages (wCam PitStream.idle) 3) 8) ≠ .peer ∧
    cacheOn (wCam PitStream.idle) 0 = false ∧ streamState (wCam PitStream.idle) 3 ≠ sFaulted := by decide +kernel

/-! Witnesses of PitClocks. -/

/-- Port 1 as a slave in TDM, on its own clock. -/
def wSlave : State := { blank with saps := [(1, ⟨0x2006, 3⟩)] }
theorem test_word_clock : cSrc (sapForce wSlave (1 : Fin 4)) = (1 : Fin 4) ∧ cRole (sapForce wSlave (1 : Fin 4)) ≠ 0 ∧
    cMode (sapForce wSlave (1 : Fin 4)) ≠ 0 ∧ fbit wSlave (F.PIT_SAP_STATUS.LOST (1 : Fin 4)) = false ∧
    fbit (fset wSlave (F.PIT_SAP_STATUS.LOST 1) 1) (F.PIT_SAP_STATUS.LOST (1 : Fin 4)) = true ∧
    (sapOf wSlave (1 : Fin 4)).good = 3 ∧ (sapOf blank (1 : Fin 4)).good < 3 := by decide
def wXtal (a : Xtal) : State := modPwr blank fun p => { p with xa := a }
theorem test_xtal : (xtal (wXtal ⟨.judged, 0, 1⟩) (0 : Fin 2)).st = .judged ∧ (xtal (wXtal ⟨.good, 0, 9⟩) (0 : Fin 2)).bad = 0 ∧
    (xtal blank (0 : Fin 2)).st = .off ∧ (xtal (wXtal ⟨.good, 0, 9⟩) (loopXtal (wXtal ⟨.good, 0, 9⟩) (4 : Fin 6))).st = .good ∧
    (xtal blank (loopXtal blank (4 : Fin 6))).st ≠ .good := by decide
theorem test_restore : domOn (wXtal ⟨.good, 0, 65536⟩) dPit = true ∧ ∀ n : Fin 5, onAlt (fset (wXtal ⟨.good, 0, 65536⟩) F.CLK_LOOP_REF.ALT (2 ^ n.val)) n = true ∧
    (xtal (fset (wXtal ⟨.good, 0, 65536⟩) F.CLK_LOOP_REF.ALT (2 ^ n.val)) (normalXtal n)).good = 65536 := by decide
theorem test_no_alt : domOn blank dPit = true ∧ ∀ n < 6, onAlt blank n = false := by decide

/-! Witnesses of PitStreams. -/

/-- Stream 3, a camera stream of context 5 with lines of 64 bytes and blocks of 8 lines, every area in the first page. -/
def wArm : State :=
  let s := fset (fset (wDesk 0 0 0 0 []) (F.PIT_S_CFG.PORT 3) 4) (F.PIT_S_VIDEO.LINE_BYTES 3) 64
  let s := fset (fset s (F.PIT_S_OWNER.CID 3) 5) (F.PIT_S_CRING_SIZE.CRING_LOG2 3) 4
  fset s F.LOFT_PIT_SIZE.PIT_MIB 1
def areaOk (r : AreaRes) : Bool := match r with
  | .ok _ => true
  | _ => false
theorem test_arm : domOn wArm dPit = true ∧ streamArmed wArm (3 : Fin 32) = false ∧ streamConfigOk wArm (3 : Fin 32) = true ∧
    areaOk (checkAreas wArm (streamCid wArm (3 : Fin 32)) (streamPriv wArm (3 : Fin 32))
      ((areas wArm (3 : Fin 32)).flatMap fun a =>
        (checkPoints (checkStep wArm (streamCid wArm (3 : Fin 32))) a.1 a.2.1).map fun v => (v, a.2.2.2))) = true ∧ carved wArm = true ∧
    stagingFits wArm (3 : Fin 32) = true ∧ streamPriv wArm (3 : Fin 32) = false ∧
    streamConfigOk blank (3 : Fin 32) = false ∧ streamArmed wStream (3 : Fin 32) = true := by decide +kernel
def wProc (b : PitBlock) (p : PitStream) : State :=
  { wStream with streams := [(3, { p with proc := some b })] }
def wBlock : PitBlock := ⟨7, 0, 0, false, false, false, false, false, false, [], 0, 0⟩
theorem test_stream_states : streamState wStream (3 : Fin 32) = sRunning ∧
    streamState (fset blank (F.PIT_S_STATE.STATE 3) sFaulted) (3 : Fin 32) = sFaulted ∧
    (streamOf (wProc wBlock { PitStream.idle with forced := true }) (3 : Fin 32)).forced = true ∧
    chainBusy (wProc wBlock PitStream.idle) (3 : Fin 32) = false ∧ stIsSap (wProc wBlock PitStream.idle) (3 : Fin 32) = true ∧
    (streamOf (wProc wBlock PitStream.idle) (3 : Fin 32)).proc = some wBlock ∧ wBlock.head = false ∧
    streamPriv (wProc wBlock PitStream.idle) (3 : Fin 32) = false ∧
    replayBefore (wProc wBlock PitStream.idle) (3 : Fin 32) wBlock = false ∧
    heldBad (wProc wBlock PitStream.idle) (streamCid wStream 3) (stPages wStream 3) [(chainAddr wStream 3 1, 64, false)] = none ∧
    2 * (streamOf (wProc wBlock { PitStream.idle with t := 4 }) (3 : Fin 32)).t = stN wStream (3 : Fin 32) ∧
    (streamOf (wProc wBlock { PitStream.idle with t := 7 }) (3 : Fin 32)).t + 1 = stN wStream (3 : Fin 32) ∧
    domOn wStream dPit = true ∧ stOutEn wStream 3 = false ∧
    cacheOn (wProc wBlock PitStream.idle) 0 = false := by decide +kernel
/-- That stream at its output point, with an output of its one channel. -/
def wOutPoint : State :=
  fset (wProc { wBlock with complete := true } { PitStream.idle with t := 7 }) (F.PIT_S_CFG.OUT_EN 3) 1
theorem test_output : stIsSap wOutPoint (3 : Fin 32) = true ∧ (streamOf wOutPoint (3 : Fin 32)).t + 1 = stN wOutPoint (3 : Fin 32) ∧
    (streamOf wOutPoint (3 : Fin 32)).proc = some { wBlock with complete := true } ∧ stOutEn wOutPoint (3 : Fin 32) = true ∧
    stCh wOutPoint 3 = 1 ∧ heldBad wOutPoint (streamCid wOutPoint 3) (stPages wOutPoint 3)
      [(outAddr wOutPoint 3 7 + elemOff wOutPoint 3 0 0, sampleBytes (stFmt wOutPoint 3), false)] = none := by decide +kernel
/-- That camera stream where the host translates for its function and nothing is cached. -/
def areaWaits (r : AreaRes) : Bool := match r with
  | .waits _ _ => true
  | _ => false
def wArmHost : State :=
  { wArm with
    applied := [(R.XLAT_FN_CFG 0, 1)]
    atsEn := 1
    tc := [⟨false, 5, 0, 65536, hostBase, true, true, false, true⟩] }
theorem test_arm_waits : streamArmed wArmHost (3 : Fin 32) = false ∧ streamConfigOk wArmHost (3 : Fin 32) = true ∧
    areaWaits (checkAreas wArmHost (streamCid wArmHost (3 : Fin 32)) (streamPriv wArmHost (3 : Fin 32))
      ((areas wArmHost (3 : Fin 32)).flatMap fun a =>
        (checkPoints (checkStep wArmHost (streamCid wArmHost (3 : Fin 32))) a.1 a.2.1).map fun v => (v, a.2.2.2))) = true := by
  decide +kernel

/-! Witnesses of RasterGeometry. -/

/-- A pass of one tile with no attachments and one draw of one triangle, its draw record at 0x200. -/
def rasDesc : List Byte := fields 64 [(0, 2, 32), (2, 2, 32), (32, 8, 0x200), (40, 4, 1)]
def rasDraw : List Byte := fields 128 [(8, 4, 3), (40, 1, 16), (41, 1, 16)]
def wRas : State := wDesk 3 0 0x100 0 (rasDesc ++ List.replicate 192 0 ++ rasDraw)
def wPass : RasterRun :=
  ⟨9, 5, rasDesc, 0x100, [], .geometry, [], ⟨0, [], 0, 0⟩, [], 0, none, 0, 64, 8 * mib, 0, 0, 0, 0, 0, 0, 0, false, [], false⟩
def inPass (r : RasterRun) : State := { fset wRas F.LOFT_BIN_SIZE.BIN_MIB 8 with raster := some r }
/-- The pass's machine once the Stage Manager has noted what partition 0 holds. -/
def wRasNoted : State := noteAll wRas 0
theorem test_pass_starts : Starts wRasNoted (srcOf (.ring 0 0)) 3 (wCueOf 3 0 0x100 0) :=
  ⟨by decide +kernel, by decide +kernel, by decide +kernel, by decide +kernel, by decide +kernel⟩
def wRasEng (d : List Byte) : EngAsk := rasEng (RasterRun.fresh 9 5 d 0x100 []) 0x100 (field d 0 4)
theorem test_pass_start : wRas.raster = none ∧ (ctxOf wRas 5).part = 0 ∧ carved wRas = true ∧
    beingTaken wRasNoted 5 .raster [] = false ∧ mayPlace wRasNoted (ctxOf wRasNoted 5).part 5 (.ring 0) .raster 17 = true ∧
    UnitGoes (started wRasNoted (wCueOf 3 0 0x100 0)) (wRasEng []) [(0x100, 64, false)] [⟨0, 65536, 0, false⟩] ∧
    ctxRead (started wRasNoted (wCueOf 3 0 0x100 0)) [⟨0, 65536, 0, false⟩] 0x100 64 = rasDesc ∧ passDescOk 1000 rasDesc = true ∧
    UnitGoes (unitUsed (started wRasNoted (wCueOf 3 0 0x100 0)) (wRasEng []) [⟨0, 65536, 0, false⟩] [(0x100, 64, false)]) (wRasEng rasDesc)
      [(field rasDesc 8 8, 32 * pTargets rasDesc, false)] [] ∧
    passOk rasDesc [] = true ∧ passDescOk 1000 (fields 64 []) = false := by
  refine ⟨rfl, by decide +kernel, by decide +kernel, by decide +kernel, by decide +kernel, ⟨by decide +kernel, by decide +kernel⟩,
    by decide +kernel, by decide +kernel, ⟨by decide +kernel, by decide +kernel⟩, by decide +kernel, by decide +kernel⟩
theorem test_draw_fetch : asmDone wPass = true ∧ 0 < pDraws rasDesc ∧
    xlateUnit (inPass wPass) 5 [(field rasDesc 32 8 + 128 * 0, 128, false)] = .ok [⟨0, 65536, 0, false⟩] ∧
    engineWaits (inPass wPass) (rasEng wPass 0x200 (field rasDesc 0 4)) [⟨0, 65536, 0, false⟩] [(field rasDesc 32 8 + 128 * 0, 128, false)] = false ∧
    ctxRead (unitUsed (inPass wPass) (rasEng wPass 0x200 (field rasDesc 0 4)) [⟨0, 65536, 0, false⟩] [(field rasDesc 32 8 + 128 * 0, 128, false)])
      [⟨0, 65536, 0, false⟩] (field rasDesc 32 8) 128 = rasDraw ∧ drawOk rasDesc rasDraw = true ∧
    drawOk rasDesc (List.replicate 128 0) = false := by decide +kernel
/-- The pass with its draw read, and with one vertex batch of one triangle. -/
def wDrawn : RasterRun := { wPass with draws := [rasDraw] }
def wBatch : RasBatch := ⟨0, 0, [0, 1, 2], [⟨0, [0, 1, 2], ⟨0, [], 0, 0⟩⟩], none⟩
def wShaded : RasterRun := { wDrawn with asm := ⟨3, [], 0, 1⟩, batches := [wBatch], nextNum := 1 }
def gathered (g : Gathered) : Option (RasAsm × List Nat × List RasPrim) := match g with
  | .ok m ids ps => some (m, ids, ps)
  | _ => none
theorem test_vertex_launch : asmDone wDrawn = false ∧ indexHeld (inPass wDrawn) wDrawn rasDraw = false ∧ rasCoreOk (inPass wDrawn) wDrawn (2 : Fin 17) 16 (vertexKib 0) = true ∧
    gathered (gather (inPass wDrawn) 5 rasDraw 3 wDrawn.asm [] []) =
      some (⟨3, [], 3, 1⟩, [0, 1, 2], [⟨0, [0, 1, 2], ⟨2, [0, 1], 2, 0⟩⟩]) := by decide +kernel
/-- The group of that batch has ended; its outputs are zeros, so the triangle is culled. -/
def wEnded : Wg := { wWg with kind := .vertex, index := 0 }
def wBatchEnded (r : RasterRun) : State := { inPass r with endedWgs := [wEnded] }
theorem test_vertex_done : (wBatchEnded wShaded).endedWgs.find? (fun w => w.kind == .vertex && w.uid == wShaded.uid) = some wEnded ∧
    wBatch.num = wEnded.index ∧ wShaded.yielding = false := by decide +kernel
theorem test_bin_prim :
    (binPrim (inPass wShaded) { wShaded with batches := [{ wBatch with outs := some (batchOuts 0 3 []) }] }
      { wBatch with outs := some (batchOuts 0 3 []) } ⟨0, [0, 1, 2], ⟨0, [], 0, 0⟩⟩).isSome = true ∧
    (binPrim (inPass wShaded) { wShaded with batches := [{ wBatch with outs := some (batchOuts 0 3 []) }], recTop := 9 * mib }
      { wBatch with outs := some (batchOuts 0 3 []) } ⟨0, [0, 1, 2], ⟨0, [], 0, 0⟩⟩).isNone = true := by decide +kernel
theorem test_partial_done : nextTileOf (inPass { wDrawn with phase := .partialRender }) { wDrawn with phase := .partialRender } 0 = none ∧
    (ctxOf (inPass wDrawn) 5).part < 8 := by decide +kernel
theorem test_raster_up : domOn wRas dRaster = true ∧ domOn (gated wRas) dRaster = false ∧
    mayPlace (noteAll (gated wRas) 0) 0 5 (.ring 0) .raster 17 = true ∧ beingTaken (noteAll (gated wRas) 0) 5 .raster [] = false ∧
    domOn (inPass wDrawn) (dCore + (2 : Fin 17).val) = true ∧ domOn (gated (inPass wDrawn)) (dCore + (2 : Fin 17).val) = false ∧
    rasCoreOk (gated (inPass wDrawn)) wDrawn (2 : Fin 17) 16 (vertexKib 0) = true := by decide +kernel
theorem test_raster_gated : Starts (noteAll (gated wRas) 0) (srcOf (.ring 0 0)) 3 (wCueOf 3 0 0x100 0) :=
  ⟨by decide +kernel, by decide +kernel, by decide +kernel, by decide +kernel, by decide +kernel⟩

/-! Witnesses of RasterTilesAndEnd. -/

def wFinal : RasterRun := { wDrawn with phase := .final, asm := ⟨3, [], 0, 1⟩ }
theorem test_tile_phase : nextTileOf (inPass wFinal) wFinal 0 = some 0 ∧
    engineWaits (inPass wFinal) (tileEng wFinal) [] (tileLoads (inPass wFinal) wFinal 0) = false ∧ xlateUnit (inPass wFinal) 5 (tileRanges (inPass wFinal) wFinal 0) =
    .ok [] ∧ geometryDone { wFinal with phase := .geometry } = true ∧ pTiles rasDesc = 1 := by decide +kernel
/-- A tile with one quad to launch, and with its group launched. -/
def wTile (qs : List RasQuad) (gs : List RasGroup) : RasTile := ⟨0, [], [], qs, gs⟩
def wQuad : RasQuad := ⟨0, 0, 0, 0, 5⟩
def wInTile2 (qs : List RasQuad) (gs : List RasGroup) : RasterRun := { wFinal with tile := some (wTile qs gs), nextTile := 1 }
theorem test_frag_launch : leadQuads (wTile [wQuad] []).quads = [wQuad] ∧
    rasCoreOk (inPass (wInTile2 [wQuad] [])) (wInTile2 [wQuad] []) (2 : Fin 17) (field rasDraw 41 1) (fragKib (wV rasDraw) 0) = true := by
  decide +kernel
def wFragEnded : State := { inPass (wInTile2 [] [⟨4, [wQuad]⟩]) with endedWgs := [{ wWg with kind := .fragment, index := 4 }] }
theorem test_frag_done : wFragEnded.endedWgs.find? (fun w => w.kind == .fragment && w.uid == wFinal.uid && w.index == 4) =
    some { wWg with kind := .fragment, index := 4 } ∧ (inPass (wInTile2 [] [⟨4, [wQuad]⟩])).endedWgs = [] := by decide
theorem test_pass_end : pTiles rasDesc ≤ { wFinal with nextTile := 1 }.nextTile ∧ (wInTile2 [] []).tile = some (wTile [] []) ∧
    heldPages (inPass (wInTile2 [] [])) .raster = [] ∧ cacheOn (inPass (wInTile2 [] [])) 0 = false ∧
    heldBad (inPass (wInTile2 [] [])) 5 [] (tileStores (inPass (wInTile2 [] [])) (wInTile2 [] []) 0) = none ∧
    engineWaits (inPass (wInTile2 [] [])) (tileEng (wInTile2 [] [])) [] (tileStores (inPass (wInTile2 [] [])) (wInTile2 [] []) 0) = false := by decide +kernel
/-- One saved pass, whose image is number 4. -/
def wSavedPass : State := { inPass wPass with raster := none, savedPasses := [(4, wDrawn)], cues := [{ wCueOf 3 0 0x100 0 with stage := .running }] }
theorem test_saved_pass : wSavedPass.savedPasses = [(4, wDrawn)] ∧ ctxLive wSavedPass 5 = true ∧ wSavedPass.preempts = [] ∧
    imageBad wSavedPass 4 .clean = false ∧ cueOf wSavedPass wDrawn.uid = some { wCueOf 3 0 0x100 0 with stage := .running } ∧
    mayPlace (noteAll wSavedPass (ctxOf wSavedPass 5).part) (ctxOf wSavedPass 5).part 5 (.ring 0) .raster 17 = true ∧ { wPass with yielding := true }.phase = .geometry ∧
    stopOf (wStopped 3 (inPass wPass)) (srcOf (.ring 0 0)) [3] = some ({ wCueOf 3 0 0x100 0 with stage := .running }, cAborted) ∧
    stopOf (inPass wPass) (srcOf (.ring 0 0)) [3] = none := by decide +kernel
theorem test_tile_up : domOn (inPass (wInTile2 [wQuad] [])) (dCore + (2 : Fin 17).val) = true ∧
    domOn (gated (inPass (wInTile2 [wQuad] []))) (dCore + (2 : Fin 17).val) = false ∧ domOn wSavedPass dRaster = true ∧
    domOn (gated wSavedPass) dRaster = false ∧
    mayPlace (noteAll (gated wSavedPass) 0) 0 5 (.ring 0) .raster 17 = true := by decide +kernel

/-! Witnesses of FlipsAndLatching. -/

/-- A flip record of layer 2: 8 x 2 pixels of 4 bytes at 0x400. -/
def flipRec : List Byte := fields 64 [(0, 8, 0x400), (16, 4, 64), (24, 1, 1), (30, 2, 2), (36, 2, 8), (38, 2, 2), (44, 2, 8), (46, 2, 2)]
/-- Layer 2 on output 1, enabled, owned by context 5; the other layers on output 0. Output 1 is 64 pixels by 32 lines of 40. -/
def wOut (fs : List Flip) (line : Nat) : State :=
  let s := wDesk 4 0 0x100 0 flipRec
  let s := fset (fset s (F.PROSC_DO_CFG.EN 1) 1) (F.PROSC_DO_SCAN.LINE 1) line
  { s with
    applied := s.applied ++ [(R.PROSC_DO_HTIME 1, 64), (R.PROSC_DO_VTIME 1, 32 + 40 * 2 ^ 16),
      (oKey 0 (R.PROSC_L_CTRL 2), 2), (oKey 1 (R.PROSC_L_CTRL 2), 0x50003)]
    layers := [(2, ⟨fs, none, true, [], []⟩)] }
def flip1 (uid : Nat) : Flip := ⟨uid, 5, flipRec, 0x100, [⟨0, 65536, 0, false⟩], false⟩
theorem test_flip_starts : Starts (wOut [] 32) (srcOf (.ring 0 0)) 4 (wCueOf 4 0 0x100 0) :=
  ⟨by decide +kernel, by decide +kernel, by decide +kernel, by decide +kernel, by decide +kernel⟩
theorem test_flip_issue : xlateUnit (started (wOut [] 32) (wCueOf 4 0 0x100 0)) 5 [(0x100, 64, false)] = .ok [⟨0, 65536, 0, false⟩] ∧
    ctxRead (started (wOut [] 32) (wCueOf 4 0 0x100 0)) [⟨0, 65536, 0, false⟩] 0x100 64 = flipRec ∧ fLayer flipRec = 2 ∧
    layerOwner (wOut [] 32) 2 = 5 ∧ flipOk (started (wOut [] 32) (wCueOf 4 0 0x100 0)) flipRec = true ∧
    fFenced flipRec = false ∧
    mapUnit (started (wOut [] 32) (wCueOf 4 0 0x100 0)) 5 (flipRanges flipRec) = .ok [⟨0, 65536, 0, false⟩] ∧
    layerOwner { wOut [] 32 with applied := [] } 2 ≠ 5 := by decide +kernel
theorem test_flip_full : (layerOf (wOut [flip1 1, flip1 2, flip1 3, flip1 4] 32) 2).queue.length = 4 := by decide
theorem test_latch : outEn (wOut [flip1 1, flip1 2] 32) (1 : Fin 3) = true ∧
    fget (wOut [flip1 1, flip1 2] 32) (F.PROSC_DO_SCAN.LINE (1 : Fin 3)) = vActive (wOut [flip1 1, flip1 2] 32) (1 : Fin 3) ∧
    scPending (wOut [flip1 1, flip1 2] 32) (5 + (1 : Fin 3)) = false ∧ scPending (wOut [flip1 1] 32) (5 + (1 : Fin 3)) = false ∧
    layersOf (wOut [flip1 1, flip1 2] 32) (1 : Fin 3) = [2] ∧ heldBy (wOut [flip1 1, flip1 2] 32) (1 : Fin 3) 2 = true ∧
    (layerOf (wOut [flip1 1] 32) 2).queue = [flip1 1] ∧ fGroup flipRec = 0 := by decide +kernel
/-- A flip that waits for value 1 of fence 3, which stands at 0. -/
def flipLate : Flip := { flip1 1 with raw := flipRec.take 25 ++ [4] ++ (flipRec.drop 26).take 22 ++ [3, 0, 0, 0, 1] ++ flipRec.drop 53 }
def wLate : State :=
  { fset (wOut [flipLate] 20) (F.PROSC_DO_DEADLINE.LINE 1) 20 with fences := [(3, { Fence.none with state := .active, owner := 9 })] }
theorem test_deadline : outEn wLate (1 : Fin 3) = true ∧ queuedOn wLate (1 : Fin 3) = [(2, flipLate)] ∧
    heldBy wLate (1 : Fin 3) 2 = true ∧ fGroup flipLate.raw = 0 ∧ flipReady wLate flipLate = false ∧
    flipFailed wLate flipLate = none ∧ (ctxOf wLate 5).part = 0 ∧ (outOf wLate (1 : Fin 3)).near = [] ∧
    ctxLive wLate (fenceOf wLate (fFence flipLate.raw)).owner = false ∧ vTotal wLate (1 : Fin 3) = 40 ∧
    fget wLate (F.PROSC_DO_SCAN.LINE (1 : Fin 3)) = fget wLate (F.PROSC_DO_DEADLINE.LINE (1 : Fin 3)) ∧
    queuedOn blank (1 : Fin 3) = [] := by decide +kernel

/-! Witnesses of OutputsAndCurtain. -/

theorem test_no_loss : ∀ l < 24, (layerOf (wOut [] 30) l).losing = [] := by decide
theorem test_out_enable : outEn (wOut [] 32) (1 : Fin 3) = true ∧ outEn blank (2 : Fin 3) = false ∧
    vActive (wOut [] 39) (1 : Fin 3) ≤ fget (wOut [] 39) (F.PROSC_DO_SCAN.LINE (1 : Fin 3)) ∧
    vTotal (wOut [] 39) (1 : Fin 3) ≤ 39 + 1 ∧ fget (wOut [] 30) (F.PROSC_DO_SCAN.LINE (1 : Fin 3)) = 30 ∧
    30 + 1 < vActive (wOut [] 30) (1 : Fin 3) ∧ 32 + 1 < vTotal (wOut [] 32) (1 : Fin 3) ∧
    aget (wOut [] 30) (F.PROSC_DO_CURTAIN_CTRL.EN (1 : Fin 3)) = 0 := by decide +kernel
/-- Output 1 with its Curtain in force over lines 4 to 11. -/
def wCurtain : State :=
  { wOut [] 11 with applied := [(R.PROSC_DO_VTIME 1, 32 + 40 * 2 ^ 16), (R.PROSC_DO_CURTAIN_CTRL 1, 1),
      (R.PROSC_DO_CURTAIN_POS 1, 4 * 2 ^ 16), (R.PROSC_DO_CURTAIN_SIZE 1, 8 * 2 ^ 16)] }
theorem test_curtain_line : aget wCurtain (F.PROSC_DO_CURTAIN_CTRL.EN (1 : Fin 3)) = 1 ∧
    inRange 11 (aget wCurtain (F.PROSC_DO_CURTAIN_POS.Y (1 : Fin 3))) (aget wCurtain (F.PROSC_DO_CURTAIN_SIZE.H (1 : Fin 3))) = true ∧
    11 + 1 < vActive wCurtain (1 : Fin 3) := by decide +kernel
/-- Output 1's Curtain of context 5: 2 lines of 4 pixels, format 1, at 0x400. -/
def wBuffer : State :=
  let s := fset (fset (wOut [] 0) (F.PROSC_DO_CURTAIN_CTRL.FMT 1) 1) (F.PROSC_DO_CURTAIN_CTRL.CID 1) 5
  wrN (wrN (wrN s (R.PROSC_DO_CURTAIN_SIZE 1) (4 + 2 * 2 ^ 16)) (R.PROSC_DO_CURTAIN_STRIDE 1) 64) (R.PROSC_DO_CURTAIN_ADDR_LO 1) 0x400
theorem test_curtain_enable : curtainLocked wBuffer (1 : Fin 3) = false ∧ fbit wBuffer (F.PROSC_DO_CURTAIN_CTRL.EN (1 : Fin 3)) = false ∧
    fget wBuffer (F.PROSC_DO_CURTAIN_CTRL.FMT (1 : Fin 3)) = 1 ∧
    curtainPages wBuffer (1 : Fin 3) (rd64 wBuffer (R.PROSC_DO_CURTAIN_ADDR_LO (1 : Fin 3)) % 2 ^ 48) = .ok [⟨0, 65536, 0, false⟩] ∧
    fget blank (F.PROSC_DO_CURTAIN_CTRL.FMT (1 : Fin 3)) ∉ [1, 2, 4] ∧
    curtainLocked (fset blank (F.PROSC_DO_CURTAIN_CTRL.LOCK 1) 1) (1 : Fin 3) = true := by decide +kernel
/-- That buffer in a host page that is not yet translated. -/
def wBufferHost : State :=
  { wBuffer with
    applied := [(R.XLAT_FN_CFG 0, 1)]
    atsEn := 1
    tc := [⟨false, 5, 0, 65536, hostBase, true, true, false, true⟩] }
def unitWaits (r : UnitRes) : Bool := match r with
  | .waits _ _ => true
  | _ => false
theorem test_curtain_waits : curtainLocked wBufferHost (1 : Fin 3) = false ∧
    fbit wBufferHost (F.PROSC_DO_CURTAIN_CTRL.EN (1 : Fin 3)) = false ∧ fget wBufferHost (F.PROSC_DO_CURTAIN_CTRL.FMT (1 : Fin 3)) = 1 ∧
    unitWaits (curtainPages wBufferHost (1 : Fin 3) (rd64 wBufferHost (R.PROSC_DO_CURTAIN_ADDR_LO (1 : Fin 3)) % 2 ^ 48)) = true := by
  decide +kernel
theorem test_prosc_up : domOn blank dProsc = true ∧ domOn (wOut [] 32) dProsc = true ∧ domOn wBuffer dProsc = true ∧
    domOn wBufferHost dProsc = true := by decide +kernel

/-! Witnesses of SideChannels. -/

theorem test_side : (outOf blank (1 : Fin 3)).side = false ∧ (outOf (modOut blank 1 fun u => { u with side := true }) (1 : Fin 3)).side = true ∧
    ((2 : Fin 3) = 2 ↔ 4 ≤ 7) ∧ ((0 : Fin 3) = 2 ↔ 4 ≤ 3) ∧ ¬((2 : Fin 3) = 2 ↔ 4 ≤ 3) ∧ (16 : Fin 32).val ≤ 16 := by decide

/-! Witnesses of RingCommands. -/

/-- The machine of `wDesk` at boot state RUN, with one ring, of function 0, and cues. -/
def wRing (r : Ring) (q : List CueRun) : State :=
  let s := wrN (fset (wDesk 0 0 0 0 []) F.RST_BOOT_STATE.STATE 7) (R.PDESK_DB_BASE_LO 0) 0x10000
  { s with
    rings := [(0, r)]
    cues := q }
def fullRing : Ring := { Ring.idle with sizeLog2 := 4, csizeLog2 := 5, cid := 5, base := 0x4000, cbase := 0x8000, cons := 0xC000 }
theorem test_ring_fields : selRing (wRing fullRing []) 0 = 0 ∧ (ringOf (wRing fullRing []) 0).state = .off ∧
    ringFieldsOk (wRing fullRing []) (0 : Fin 32).val 0 = true ∧
    ringFieldsOk (wRing { fullRing with vector := 64 } []) (0 : Fin 32).val 0 = false := by decide +kernel
/-- No function of that machine has its host translate, so every access of a ring's is admitted. -/
theorem test_door_open : ∀ r ∈ [fullRing, { fullRing with state := .stalled }, { fullRing with state := .active, pi := 1 }],
    DoorOpen (wRing r []) 0 ∧ HostAdmits (atDoor (wRing r []) 0) 0 (recAddr r) 32 true ∧
      HostAdmits (wRing r []) 0 (cueAddr r) 64 false ∧ HostAdmits (wRing r []) 0 r.cons 4 false := by
  intro r hr
  fin_cases hr <;> refine ⟨⟨?_, ?_⟩, ?_, ?_, ?_⟩ <;> exact Option.isNone_iff_eq_none.mp (by decide +kernel)
theorem test_ring_parked : ∃ p, (ringOf (wRing { fullRing with state := .stalled, parked := [⟨List.replicate 32 0, false, true⟩] } []) 0).parked = [p] ∧
    p.slotHeld = true ∧ p.irq = false ∧ p.bytes.length = 32 := ⟨⟨List.replicate 32 0, false, true⟩, by decide⟩
theorem test_ring_abort : ∀ c ∈ (wRing { fullRing with state := .active, pi := 1 } [{ wCueOf 5 0 0x100 0 with stage := .running }]).cues,
    c.src = .ring 0 → c.stage = .running → c.opc ∈ [1, 3, 5, 6, 7] := by decide
theorem test_ring_abort_fetch : ((ringOf (wRing { fullRing with state := .active, pi := 1 } []) 0).ci + 1) % 2 ^ 15 = 1 := by decide
theorem test_ring_states : cuesOf (wRing { fullRing with state := .aborting } []) (.ring 0) = [] ∧
    (ringOf (wRing { fullRing with state := .aborting } []) 0).disableNext = false ∧
    (ringOf (wRing { fullRing with state := .disabling } []) 0).state = .disabling := by decide

/-! Witnesses of DoorbellsAndFetch. -/

theorem test_bell : (0#32).toNat < 1024 ∧ (ringOf (wRing { fullRing with state := .asleep } []) 0).wake ≠ 0xFFFF ∧
    (ringOf (wRing { fullRing with state := .active, wake := 0xFFFF } []) 0).wake = 0xFFFF ∧ 1024 ≤ (1024#32).toNat := by decide
/-- A PI 16 cues ahead of CI 0 fills a ring of 16, one of 17 is too far, and 0 is nothing new. -/
theorem test_pi : (16 % 2 ^ 15 + 2 ^ 15 - 0) % 2 ^ 15 ≤ 2 ^ fullRing.sizeLog2 ∧
    2 ^ fullRing.sizeLog2 < (17 % 2 ^ 15 + 2 ^ 15 - 0) % 2 ^ 15 ∧ (0 % 2 ^ 15 + 2 ^ 15 - 0) % 2 ^ 15 ≤ 2 ^ fullRing.sizeLog2 := by decide
def wFetch : State := wRing { fullRing with state := .active, pi := 1 } []
def cueFenced : List Byte := fields 64 [(1, 1, 2), (2, 2, 5), (16, 2, 3), (24, 8, 4)]
theorem test_fetch : (ringOf wFetch 0).ci ≠ (ringOf wFetch 0).pi ∧ (ctxOf wFetch 5).state ≠ .dying ∧
    ctxUsable wFetch (0 : Fin 32) 5 = true ∧ cueValid wFetch 5 (cueBytes 11 0 0 0) = false ∧
    cueValid wFetch 5 (fields 64 [(2, 2, 5)]) = true ∧ ctxUsable blank (0 : Fin 32) 5 = false := by decide +kernel
/-- A fence that the function's contexts may wait on, ACTIVE and in ERROR. -/
def wFenced (st : FenceState) : State :=
  { fset wFetch (F.PDESK_FN_FENCE_COUNT.FENCE_COUNT 0) 16 with fences := [(3, { Fence.none with state := st, owner := 5 })] }
theorem test_fetch_fence : cueValid (wFenced .active) 5 cueFenced = true ∧ cueValid (wFenced .error) 5 cueFenced = true ∧
    bit (field cueFenced 1 1) 1 = true := by decide +kernel
theorem test_cons : (ringOf (wRing { fullRing with waitSlot := true } []) 0).waitSlot = true := by decide
theorem test_abort_more : (ringOf (wRing { fullRing with state := .aborting, pi := 1 } []) 0).ci ≠ 1 ∧
    fetchedAhead wFetch 0 < 8 ∧ carved (wRing fullRing []) = true := by decide +kernel
/-- A resume that waits for a slot: 32 slots reserved, CONS read as 0. -/
def fullSlots : Ring :=
  { fullRing with
    state := .stalled
    resuming := true
    waitSlot := true
    reserved := 32
    parked := [⟨List.replicate 32 0, false, false⟩] }
theorem test_resume_waits : slotFree (ringOf (wRing fullSlots []) 0) = false ∧
    slotFree ((ringOf (wRing fullSlots []) 0).consAt 1) = true ∧ (ringOf (wRing fullSlots []) 0).code ≠ cRingLost := by decide

/-! Witnesses of SimpleCues. -/

/-- A launch record of one workgroup, and a copy of 64 bytes from 0x200 to 0x400. -/
def launchRec : List Byte := fields 64 [(16, 4, 1), (20, 4, 1), (24, 4, 1), (28, 1, 1), (29, 1, 2)]
def copyRec (len : Nat) : List Byte := fields 32 [(0, 8, 0x200), (8, 8, 0x400), (16, 8, len)]
def wPage : HeldPage := ⟨0, 65536, 0, false⟩
def wDeskOf (opc arg : Nat) (b : List Byte) : State := wDesk opc 0 0x100 arg b
/-- Whether the cue of a machine of `wDeskOf` may start and read its record of `n` bytes. -/
def startsAs (opc arg n : Nat) (b : List Byte) : Bool :=
  let s := wDeskOf opc arg b
  let q := wCueOf opc 0 0x100 arg
  nextWaiting s (.ring 0) == some q && q.opc == opc && cueReady s q && !q.indirect && (reserveSlot s q).2 &&
    (xlateUnit (started s q) 5 [(0x100, n, false)] == .ok [wPage]) && !engineWaits (started s q) (deskEng q 0xFA) [wPage] [(0x100, n, false)] &&
    ctxRead (started s q) [wPage] 0x100 n == b.take n
theorem test_nop_starts : startsAs 0 0 64 (List.replicate 64 0) = true := by decide +kernel
theorem test_launch : startsAs 2 0 64 launchRec = true ∧ (launchOf 9 5 launchRec).isSome = true ∧
    (launchOf 9 5 (List.replicate 64 0)).isNone = true := by decide +kernel
theorem test_copy : startsAs 5 0 32 (copyRec 64) = true ∧ beingTaken (wDeskOf 5 0 (copyRec 64)) 5 .copy [] = false ∧
    zeros (copyRec 64) 24 8 = true ∧ field (copyRec 64) 16 8 = 64 ∧ overlaps 0x200 64 0x400 64 = false ∧
    overlaps 0x200 0x400 0x400 0x400 = true ∧ field (copyRec 0) 16 8 = 0 := by decide +kernel
theorem test_copy_starts : Starts (noteAll (wDeskOf 5 0 (copyRec 64)) 0) (srcOf (.ring 0 0)) 5 (wCueOf 5 0 0x100 0) ∧
    (ctxOf (wDeskOf 5 0 (copyRec 64)) 5).part = 0 ∧ beingTaken (noteAll (wDeskOf 5 0 (copyRec 64)) 0) 5 .copy [] = false :=
  ⟨⟨by decide +kernel, by decide +kernel, by decide +kernel, by decide +kernel, by decide +kernel⟩, by decide +kernel⟩
/-- That copy, running, with `n` bytes moved. -/
def wCopying (n : Nat) : State :=
  { wDeskOf 5 0 (copyRec 64) with
    cues := [{ wCueOf 5 0 0x100 0 with stage := .running }]
    copies := [⟨9, 0x200, 0x400, 64, n, false⟩] }
theorem test_copy_chunk : ((cuesOf (wCopying 0) (srcOf (.ring 0 0))).findSome? fun c =>
      ((wCopying 0).copies.find? (·.uid == c.uid)).map fun k => (c, k)) =
      some ({ wCueOf 5 0 0x100 0 with stage := .running }, ⟨9, 0x200, 0x400, 64, 0, false⟩) ∧
    beingTaken (wCopying 0) 5 .copy [] = false ∧ xlateUnit (wCopying 0) 5 [(0x200, 64, false), (0x400, 64, true)] = .ok [wPage] ∧
    engineWaits (wCopying 0) (copyEng (wCueOf 5 0 0x100 0)) [wPage] [(0x200, 64, false), (0x400, 64, true)] = false ∧ isHeld [wPage] 0x400 = true ∧
    cacheOn (wCopying 0) 0 = false ∧ min (4096 - 0x400 % 4096) (64 - 0) = 64 := by decide +kernel
/-- A copy of 8 KiB, whose first chunk does not end it. -/
def wCopyLong : State := { wCopying 0 with copies := [⟨9, 0, 0x2000, 8192, 0, false⟩] }
theorem test_copy_first : xlateUnit wCopyLong 5 [(0, 4096, false), (0x2000, 4096, true)] = .ok [wPage] ∧
    min (4096 - 0x2000 % 4096) (8192 - 0) = 4096 ∧ 0 + 4096 ≠ 8192 := by decide +kernel
theorem test_copy_abort : stopOf (wStopped 5 (wCopying 0)) (srcOf (.ring 0 0)) [5] =
      some ({ wCueOf 5 0 0x100 0 with stage := .running }, cAborted) ∧ stopOf (wCopying 0) (srcOf (.ring 0 0)) [5] = none := by
  decide +kernel
/-- A CACHE cue that invalidates 128 bytes from 0x100. -/
def cacheArg : Nat := 128 + 5 * 2 ^ 32
theorem test_cue_cache : startsAs 8 cacheArg 64 (List.replicate 64 0) = true ∧ bits (wCueOf 8 0 0x100 cacheArg).arg 31 0 = 128 ∧
    bits (wCueOf 8 0 0x100 cacheArg).arg 35 32 = 5 ∧
    mapUnit (started (wDeskOf 8 cacheArg []) (wCueOf 8 0 0x100 cacheArg)) 5 [(0x100, 128, false)] = .ok [wPage] ∧
    fbit (wDeskOf 8 cacheArg []) (cacheBusy 0) = false ∧ fbit (fset blank (cacheBusy 0) 1) (cacheBusy 0) = true := by decide +kernel
theorem test_cue_write : startsAs 9 7 8 (List.replicate 8 0) = true ∧
    xlateUnit (started (wDeskOf 9 7 []) (wCueOf 9 0 0x100 7)) 5 [(0x100, 8, true)] = .ok [wPage] ∧
    engineWaits (started (wDeskOf 9 7 []) (wCueOf 9 0 0x100 7)) (deskEng (wCueOf 9 0 0x100 7) 0xFA) [wPage] [(0x100, 8, true)] = false ∧
    (wCueOf 9 0 0x100 7).addr % 8 = 0 ∧ isHeld [wPage] 0x100 = true := by decide +kernel
/-- The same WRITE with INDIRECT, its word at 0x100 naming 0x200. -/
def wIndirect : State := wDesk 9 8 0x100 7 (leBytes 8 0x200)
theorem test_indirect : nextWaiting wIndirect (srcOf (.ring 0 0)) = some (wCueOf 9 8 0x100 7) ∧ (wCueOf 9 8 0x100 7).opc = 9 ∧
    cueReady wIndirect (wCueOf 9 8 0x100 7) = true ∧ (wCueOf 9 8 0x100 7).indirect = true ∧
    (reserveSlot wIndirect (wCueOf 9 8 0x100 7)).2 = true ∧
    xlateUnit (started wIndirect (wCueOf 9 8 0x100 7)) 5 [(0x100, 8, false)] = .ok [wPage] ∧
    leNat (ctxRead (unitUsed (started wIndirect (wCueOf 9 8 0x100 7)) (deskEng (wCueOf 9 8 0x100 7) 0xFA) [wPage] [(0x100, 8, false)]) [wPage] 0x100 8) = 0x200 ∧
    xlateUnit (started wIndirect (wCueOf 9 8 0x100 7)) 5 [(0x200, 8, true)] = .ok [wPage] ∧
    engineWaits (started wIndirect (wCueOf 9 8 0x100 7)) (deskEng (wCueOf 9 8 0x100 7) 0xFA) [wPage] [(0x200, 8, true)] = false := by decide +kernel

/-! Witnesses of CompletionAndFollowOns. -/

/-- A ring of function 0 with an ended cue of tag 0 whose slot is reserved. -/
def wEndedCue (flags : Nat) (res : Bool) : CueRun :=
  { wCueOf 0 flags 0 0 with stage := .ended, reserved := res }
def wDone (r : Ring) (c : CueRun) : State := wRing r [c]
theorem test_complete : (cuesOf (wDone { fullRing with state := .active, reserved := 1 } (wEndedCue 1 true)) (srcOf (.ring 0 0))).find?
      (·.stage == .ended) = some (wEndedCue 1 true) ∧
    recordWaits (wDone { fullRing with state := .active, reserved := 1 } (wEndedCue 1 true)) (wEndedCue 1 true) = false ∧
    (wEndedCue 1 true).num.length = 20 ∧ engWrites (wDone fullRing (wEndedCue 1 true)) 9 = false ∧
    cueOf (wDone fullRing (wEndedCue 1 true)) 9 = some (wEndedCue 1 true) ∧
    (recPlace (wDone { fullRing with state := .active } (wEndedCue 1 true)) (wEndedCue 1 true)).isNone = true ∧ (wEndedCue 1 true).irq = true ∧ (wEndedCue 0 true).irq = false ∧
    recordWaits (wDone { fullRing with state := .active, reserved := 32 } (wEndedCue 0 false)) (wEndedCue 0 false) = true ∧
    parkUsed (wDone { fullRing with state := .stalled } (wEndedCue 0 true)) < 512 ∧
    slotFree { fullRing with state := .disabling, noSlot := true, reserved := 32 } = false ∧
    recordWaits (wDone { fullRing with state := .disabling, noSlot := true, reserved := 32 } (wEndedCue 0 false)) (wEndedCue 0 false) =
      false ∧ (wEndedCue 4 true).signal = true ∧ (wEndedCue 4 true).sigOk = true ∧ streamArmed blank 0 = false := by decide +kernel
theorem test_report : xlateUnit (wDone fullRing (wEndedCue 0 true)) 5 [(0x500, 32, true)] = .ok [wPage] ∧
    engineWaits (wDone fullRing (wEndedCue 0 true)) (deskEng (wEndedCue 0 true) 0xFB) [wPage] [(0x500, 32, true)] = false := by decide +kernel
/-- A follow-on of ring 0 to be read at 0x100: a NOP of context 5. -/
def wFollow : State :=
  { wDesk 0 0 0 0 (fields 64 [(2, 2, 5)]) with
    cues := []
    follows := [⟨.ring 0, 3, 0x100, 8, 8⟩] }
theorem test_follow : wFollow.follows.find? (·.src == srcOf (.ring 0 0)) = some ⟨.ring 0, 3, 0x100, 8, 8⟩ ∧
    srcCid wFollow (srcOf (.ring 0 0)) = 5 ∧ ctxLive wFollow 5 = true ∧ xlateUnit wFollow 5 [(0x100, 64, false)] = .ok [wPage] ∧
    cueValid wFollow 5 (fields 64 [(2, 2, 5)]) = true ∧ fnOfCid wFollow 5 = some (ringFn 0) ∧
    ctxLive blank 5 = false ∧ cueValid wFollow 5 (cueBytes 11 0 0 0) = false := by decide +kernel

/-! Witnesses of FencesAndSemaphores. -/

/-- The machine of `wDesk` with fences 0 to 7 and semaphores 0 to 7 of function 0, fence 2 selected with OWNER 5 and an
argument, and semaphore 3 selected with a count. -/
def wObjects (arg : Nat) (f : Fence) (m : Sem) : State :=
  let s := wDesk 10 0 0 3 []
  let s := fset (fset (fset s (F.PDESK_FN_FENCE_COUNT.FENCE_COUNT 0) 8) (F.PDESK_FENCE_SEL.FENCE 0) 2) (F.PDESK_FENCE_CFG.OWNER 0) 5
  let s := fset (fset (fset s (F.PDESK_FN_SEM_RANGE.SEM_COUNT 0) 8) (F.PDESK_SEM_SEL.SEM 0) 3) (F.PDESK_SEM_CFG.COUNT 0) 2
  { wrN s (R.PDESK_FENCE_ARG_LO 0) arg with
    fences := [(2, f)]
    sems := [(3, m)] }
def wFence (v : Nat) : Fence := ⟨BitVec.ofNat 64 v, 5, 0, .active, 0, false, 0⟩
def wSem (n : Nat) (q : List Nat) : Sem := ⟨.active, 0, n, 0, false, ⟨5, 1⟩ :: List.replicate 7 ⟨0, 0⟩, q⟩
theorem test_fence_alloc : fnOfFence (wObjects 7 Fence.none Sem.none) (selFence (wObjects 7 Fence.none Sem.none) 0) = some 0 ∧
    ctxUsable (wObjects 7 Fence.none Sem.none) 0 (fget (wObjects 7 Fence.none Sem.none) (F.PDESK_FENCE_CFG.OWNER 0)) = true ∧
    carved (wObjects 7 Fence.none Sem.none) = true ∧
    (fenceOf (wObjects 7 Fence.none Sem.none) (selFence (wObjects 7 Fence.none Sem.none) 0)).state = .free ∧
    fnOfFence blank (selFence blank 0) ≠ some 0 := by decide +kernel
theorem test_fence_signal : strictlyBeyond (BitVec.ofNat 64 (rd64 (wObjects 7 (wFence 3) Sem.none) (R.PDESK_FENCE_ARG_LO 0)))
      (fenceOf (wObjects 7 (wFence 3) Sem.none) 2).value = true ∧
    strictlyBeyond (BitVec.ofNat 64 (rd64 (wObjects 7 (wFence 9) Sem.none) (R.PDESK_FENCE_ARG_LO 0)))
      (fenceOf (wObjects 7 (wFence 9) Sem.none) 2).value = false ∧ selFence (wObjects 7 (wFence 9) Sem.none) 0 = 2 ∧
    bits (rd64 (wObjects 7 (wFence 9) Sem.none) (R.PDESK_FENCE_ARG_LO 0)) 15 0 ≠ 0 ∧
    bits (rd64 (wObjects 0 (wFence 9) Sem.none) (R.PDESK_FENCE_ARG_LO 0)) 15 0 = 0 := by decide +kernel
theorem test_sem_alloc : fnOfSem (wObjects 0 Fence.none Sem.none) (selSem (wObjects 0 Fence.none Sem.none) 0) = some 0 ∧
    fget (wObjects 0 Fence.none Sem.none) (F.PDESK_SEM_CFG.COUNT 0) = 2 ∧ selSem (wObjects 0 Fence.none Sem.none) 0 = 3 ∧
    (semOf (wObjects 0 Fence.none Sem.none) 3).state = .free ∧ fnOfSem blank (selSem blank 0) ≠ some 0 := by decide +kernel
/-- The cue of an acquire (or, with 65536, of a release) of semaphore 3, where that semaphore is as given. -/
def wSemCue (r : Nat) : CueRun := wCueOf 10 0 0 (3 + r)
def wSemAt (r : Nat) (m : Sem) (l : List CueRun) : State := { wObjects 0 Fence.none m with cues := wSemCue r :: l }
def semStarts (r : Nat) (m : Sem) (l : List CueRun) : Bool :=
  let s := wSemAt r m l
  nextWaiting s (srcOf (.ring 0 0)) == some (wSemCue r) && (wSemCue r).opc == 10 && cueReady s (wSemCue r) &&
    !(wSemCue r).indirect && (reserveSlot s (wSemCue r)).2 && semOf (started s (wSemCue r)) (bits (wSemCue r).arg 15 0) == m &&
    cidOfCue (started s (wSemCue r)) (wSemCue r).uid == (wSemCue r).cid && bit (wSemCue r).arg 16 == decide (r ≠ 0)
theorem test_sem_starts : ∀ r ∈ [0, 65536], semStarts r Sem.none [] = true ∧ semStarts r { Sem.none with state := .error } [] = true ∧
    semStarts r (wSem 1 []) [] = true ∧ semStarts r (wSem 0 []) [] = true := by decide +kernel
theorem test_sem_room : holderRoom (wSem 1 []) 5 = true ∧ (wSem 0 []).count = 0 ∧ ((wSem 0 []).fifo ++ [9]).head? = some 9 ∧
    (∃ h ∈ (wSem 1 []).holders, h.units ≠ 0 ∧ h.cid = (wSemCue 65536).cid) ∧
    (∀ h ∈ ({ wSem 1 [] with holders := List.replicate 8 ⟨0, 0⟩ } : Sem).holders, h.units = 0 ∨ h.cid ≠ (wSemCue 65536).cid) := by
  decide +kernel
/-- An acquire of another ring waits at the head. -/
def wOther : CueRun := { wSemCue 0 with uid := 4, src := .ring 1, stage := .running }
theorem test_sem_pass : semStarts 65536 (wSem 0 [4]) [wOther] = true ∧
    cidOfCue (started (wSemAt 65536 (wSem 0 [4]) [wOther]) (wSemCue 65536)) 4 = 5 ∧
    holderRoom { wSem 0 [4] with holders := giveUnit (wSem 0 [4]).holders (wSemCue 65536).cid } 5 = true := by decide +kernel

/-! Witnesses of Contexts. -/

theorem test_ranges : rangeOk 1024 (0 : Fin 32) (ctxRange (wDesk 0 0 0 0 []) 0) (0, 32) (ctxRange (wDesk 0 0 0 0 [])) (busyCtxs (wDesk 0 0 0 0 [])) = true ∧
    rangeOk 1024 (0 : Fin 32) (ctxRange (wDesk 0 0 0 0 []) 0) (0, 4) (ctxRange (wDesk 0 0 0 0 [])) (busyCtxs (wDesk 0 0 0 0 [])) = false ∧
    rangeOk 65536 (0 : Fin 32) (fenceRange blank 0) (8, 0) (fenceRange blank) (busyFences blank) = true ∧
    rangeOk 65536 (0 : Fin 32) (fenceRange blank 0) (0, 65536) (fenceRange blank) (busyFences blank) = true ∧
    rangeOk 4096 (0 : Fin 32) (semRange blank 0) (0, 4097) (semRange blank) (busySems blank) = false ∧
    rangeOk 4096 (0 : Fin 32) (semRange blank 0) (4000, 96) (semRange blank) (busySems blank) = true := by decide +kernel
/-- The machine of `wDesk` with context `x` selected and partitions 0 and 1 permitted. -/
def wSel (x : Nat) : State :=
  wrN (fset (wDesk 0 0 0 0 []) (F.PDESK_CTX_SEL.CID 0) x) (R.PDESK_FN_PART_MASK 0) 3
theorem test_ctx_create : fnOfCid (wSel 6) (selCtx (wSel 6) 0) = some 0 ∧ (ctxOf (wSel 6) (selCtx (wSel 6) 0)).state = .free ∧
    bit (rdN (wSel 6) (R.PDESK_FN_PART_MASK 0)) (fget (wSel 6) (F.PDESK_CTX_CFG.PARTITION 0)) = true ∧
    fnOfCid (wSel 20) (selCtx (wSel 20) 0) ≠ some 0 := by decide +kernel
theorem test_ctx_destroy : fnOfCid (wSel 5) (selCtx (wSel 5) 0) = some 0 ∧ (ctxOf (wSel 5) (selCtx (wSel 5) 0)).state = .live ∧
    bits (1000 : BitVec 32).toNat 9 0 = 1000 := by decide +kernel
/-- A fault of context 5 reported for cue 9, or for none, and a second context. -/
def wReport (st : CtxState) (u : Option Nat) (stg : CueStage) (opc : Nat) : State :=
  { wSel 5 with
    ctxs := [(5, { Ctx.none with state := st })]
    cues := [{ wCueOf opc 0 0 0 with stage := stg }]
    faultReps := [⟨5, faultRec cPerm 0xFF 0xFF 5 0xFA 0xFF 0 none 0 false, u⟩] }
theorem test_fault_report : (ctxOf (wReport .live (some 9) .running 1) 5).state = .live ∧
    cueOf (wReport .live (some 9) .running 1) 9 = some { wCueOf 1 0 0 0 with stage := .running } ∧
    (({ wCueOf 1 0 0 0 with stage := .running } : CueRun).opc ∈ [1, 3, 5, 6, 7]) ∧
    (cueOf (wReport .live (some 9) .waiting 1) 9).map (·.stage) = some .waiting ∧
    (wReport .live none .waiting 1).cues = [wCueOf 1 0 0 0] ∧ (wCueOf 1 0 0 0).cid = 5 := by decide +kernel
theorem test_stop_done : (∀ c ∈ ({ wSel 5 with cues := [] } : State).cues, c.cid = (5 : Fin 1024).val → cueStopped (wSel 5) c = true) ∧
    (∃ c ∈ (wReport .faulted (some 9) .running 1).cues, c.cid = (5 : Fin 1024).val ∧ cueStopped (wReport .faulted (some 9) .running 1) c = false) ∧
    fnOfCid (wSel 5) (5 : Fin 1024) = some 0 := by decide +kernel
/-- Context 5 dying with nothing left, owner of fence 2 and holder of semaphore 3. -/
def wDying : State :=
  { wObjects 0 (wFence 3) (wSem 1 []) with
    ctxs := [(5, { Ctx.none with state := .dying, stopping := true })]
    cues := []
    rings := [] }
theorem test_destroy_done : (ctxOf wDying (5 : Fin 1024)).state = .dying ∧ ringsOfCtx wDying (5 : Fin 1024) = [] ∧
    streamsOf wDying (5 : Fin 1024) = [] ∧ mwf Fence.none wDying.fences = true ∧ mwf Sem.none wDying.sems = true ∧
    fnOfCid wDying (5 : Fin 1024) = some 0 ∧ (ctxOf wDying (5 : Fin 1024)).stopping = true := by decide +kernel

/-! Witnesses of StageManager. -/

/-- Context 5 holds an operation at its boundary on core 2, the one active core, with no cue waiting; the save area is one MiB
of partition 0's. -/
def wHolder : State :=
  let s := fset (wTensor (opAt scanDesc .boundary 0)) F.LOFT_SAVE_SIZE.SAVE_MIB 1
  let s := ((upTo 17).filter (· != 2)).foldl (fun s c => fset s (F.CORE_ID.ROLE c) 3) s
  { s with
    applied := (R.SMGR_P_CFG 0, 0x10001) :: (R.SMGR_P_SAVE 0, 0x100) :: (R.SMGR_P_SLICE 0, 800000) :: s.applied
    cues := [{ wCueOf 1 0 0x100 0 with stage := .running }] }
theorem test_work_place : chainCues (noteAll (wDesk 0 0 0 0 []) 0) 0 = [] ∧ mwf Ctx.none (wDesk 0 0 0 0 []).ctxs = true ∧
    ctxLive (wDesk 0 0 0 0 []) 5 = true ∧ holdsWork wHolder 5 = true ∧ holdsWork (wDesk 0 0 0 0 []) (5 : Fin 1024) = false ∧
    readyIn (wDesk 0 0 0 0 []) (0 : Fin 8) = [5] := by decide +kernel
/-- A second context of partition 0, held, with a cue on ring 1; and one that waits for core 2's engine. -/
def wTwo : State :=
  let s := wDesk 0 0 0 0 []
  { s with
    ctxs := [(5, { Ctx.none with state := .live }), (6, { Ctx.none with state := .live, held := true, vt := 7 })]
    rings := s.rings ++ [(1, { Ring.idle with state := .active, cid := 6, sizeLog2 := 4, csizeLog2 := 4 })]
    cues := s.cues ++ [{ wCueOf 0 0 0 0 with uid := 4, src := .ring 1, raw := fields 64 [(2, 2, 6)], chain := 4 }] }
theorem test_two_ready : readyIn wTwo (0 : Fin 8) = [5, 6] ∧ (ctxOf wTwo 6).held = true ∧ (ctxOf wTwo 5).held = false ∧
    strictlyBeyond (ctxOf wTwo 6).vt (ctxOf wTwo 5).vt = true := by decide +kernel
def wSlice (save : Nat) : State :=
  let s := wHolder
  { s with
    applied := (R.SMGR_P_SAVE 0, BitVec.ofNat 32 (save * 0x100)) :: s.applied
    ctxs := [(4, { Ctx.none with state := .live }), (5, { Ctx.none with state := .live, vt := 7 })]
    rings := s.rings ++ [(1, { Ring.idle with state := .active, cid := 4, sizeLog2 := 4, csizeLog2 := 4 })]
    cues := s.cues ++ [{ wCueOf 1 0 0x100 0 with uid := 4, src := .ring 1, raw := fields 64 [(0, 1, 1), (2, 2, 4), (48, 8, 0x100)], chain := 4 }] }
theorem test_slice_end : (∀ c ∈ readyIn (noteAll wHolder 0) 0, c ≠ (5 : Fin 1024).val → earlier (noteAll wHolder 0) c 5 = true →
      blockedBy (noteAll wHolder 0) 0 c 5 = false) ∧
    4 ∈ readyIn (noteAll (wSlice 1) 0) 0 ∧ holdsWork (wSlice 1) (5 : Fin 1024) = true ∧ earlier (noteAll (wSlice 1) 0) 4 5 = true ∧
    blockedBy (noteAll (wSlice 1) 0) 0 4 5 = true ∧ (⟨5, 17, none, false, true⟩ : Preempt).busy (noteAll (wSlice 1) 0) = true ∧
    (⟨5, 17, none, false, true⟩ : Preempt).fits (noteAll (wSlice 1) 0) = true ∧
    (⟨5, 17, none, false, true⟩ : Preempt).fits (noteAll (wSlice 0) 0) = false ∧ blockedBy (noteAll (wSlice 0) 0) 0 4 5 = true ∧
    4 ∈ readyIn (noteAll (wSlice 0) 0) 0 ∧ earlier (noteAll (wSlice 0) 0) 4 5 = true := by decide +kernel
/-- A chain cue of the privileged stream 0 waits for core 2, where context 5 of ring 0 holds the engine. -/
def wChain : State :=
  let s := fset (fset wHolder (F.PIT_S_CFG.PRIV 0) 1) (F.PIT_S_OWNER.CID 0) 6
  { s with
    ctxs := [(5, { Ctx.none with state := .live }), (6, { Ctx.none with state := .live })]
    cues := s.cues ++ [{ wCueOf 1 0 0x100 0 with uid := 4, src := .stream 0, raw := fields 64 [(0, 1, 1), (2, 2, 6), (48, 8, 0x100)], chain := 4 }] }
theorem test_chain_place : (chainCues (noteAll wChain 0) 0).map (·.uid) = [4] ∧
    ((chainCues (noteAll wChain 0) 0).map fun q => victims (noteAll wChain 0) (ctxOf (noteAll wChain 0) q.cid).part q (fun _ => true)) =
      [[⟨5, 2, some .tensor, false, false⟩]] ∧ (⟨5, 2, some .tensor, false, false⟩ : Preempt).busy (noteAll wChain 0) = true ∧
    (⟨5, 2, some .tensor, false, false⟩ : Preempt).fits (noteAll wChain 0) = true := by decide +kernel
/-- A request in force for context 5 at that operation, or at a workgroup of core 2, or for a copy. -/
def wAsked (s : State) : State := { s with preempts := [⟨5, 17, none, false, true⟩], nextImage := 4 }
theorem test_point_op : (wAsked wHolder).preempts.filter (fun q => !q.deferred && q.cid == (5 : Fin 1024).val) = [⟨5, 17, none, false, true⟩] ∧
    (⟨5, 17, none, false, true⟩ : Preempt).wgs wHolder = [] ∧ (⟨5, 17, none, false, true⟩ : Preempt).copies wHolder = [] ∧
    (⟨5, 17, none, false, true⟩ : Preempt).ops wHolder = [opAt scanDesc .boundary 0] ∧
    (⟨5, 17, none, false, true⟩ : Preempt).pass wHolder = none ∧ (⟨5, 17, none, false, true⟩ : Preempt).comps wHolder = [] ∧
    (freeSavePages wHolder (ctxOf wHolder 5).part).length = 256 ∧ (tensorImage (opAt scanDesc .boundary 0)).length ≤ 4096 ∧
    (⟨5, 17, none, false, true⟩ : Preempt).busy (wDesk 0 0 0 0 []) = false ∧
    (⟨5, 17, none, false, true⟩ : Preempt).part (wDesk 0 0 0 0 []) < 8 := by decide +kernel
theorem test_point_wg : (⟨5, 17, none, false, true⟩ : Preempt).wgs (wRun wGroup) = [(2, wWg)] ∧ wgAtPoint (wRun wGroup) 2 wWg = true ∧
    (⟨5, 17, none, false, true⟩ : Preempt).ops (wRun wGroup) = [] ∧ (⟨5, 17, none, false, true⟩ : Preempt).copies (wRun wGroup) = [] ∧
    wgAtPoint (wRun { wGroup with halted := true }) 2 wWg = false := by decide +kernel
theorem test_point_copy : (⟨5, 17, none, false, true⟩ : Preempt).copies (wCopying 0) = [⟨9, 0x200, 0x400, 64, 0, false⟩] ∧
    (⟨5, 17, none, false, true⟩ : Preempt).wgs (wCopying 0) = [] ∧ (⟨5, 17, none, false, true⟩ : Preempt).ops (wCopying 0) = [] := by
  decide +kernel
theorem test_retry : (⟨5, 17, none, true, true⟩ : Preempt).part wHolder = (0 : Fin 8) ∧
    (⟨5, 17, none, true, true⟩ : Preempt).fits { wHolder with preempts := [⟨5, 17, none, true, true⟩] } = true := by decide +kernel
/-- A saved workgroup of the running cue 9, and a saved copy. -/
def wSavedWg : State :=
  { wDesk 2 0 0 0 [] with
    cues := [{ wCueOf 2 0 0 0 with stage := .running }]
    savedWgs := [⟨4, wWg, [wGroup]⟩] }
def wSavedCopy : State :=
  { wCopying 0 with
    copies := [⟨9, 0x200, 0x400, 64, 0, true⟩]
    images := [⟨4, .copy, 5, 9, 0, [0], false⟩] }
theorem test_resume_wg : partOfCore wSavedWg (2 : Fin 17) = some 0 ∧ resumable (noteAll wSavedWg 0) (2 : Fin 17) = some ⟨4, wWg, [wGroup]⟩ ∧
    imageBad (noteAll wSavedWg 0) 4 (.double 0) = true ∧ imageBad (noteAll wSavedWg 0) 4 .clean = false ∧
    partOfCore blank (2 : Fin 17) = none := by decide +kernel
theorem test_resume_copy : partOfCore wSavedCopy (2 : Fin 17) = some 0 ∧ resumable (noteAll wSavedCopy 0) (2 : Fin 17) = none ∧
    wSavedCopy.copies.find? (fun k => k.stopped && (ctxOf (noteAll wSavedCopy 0) (cidOfCue wSavedCopy k.uid)).part == 0 &&
      ctxLive (noteAll wSavedCopy 0) (cidOfCue wSavedCopy k.uid) && !beingTaken wSavedCopy (cidOfCue wSavedCopy k.uid) .copy []) =
      some ⟨9, 0x200, 0x400, 64, 0, true⟩ ∧
    (wSavedCopy.images.find? (fun i => i.uid == 9 && i.kind == .copy)).isSome = true ∧ imageBad wSavedCopy 4 .single = false := by
  decide +kernel
theorem test_max_beats : cueOf (wCopying 0) 9 = some { wCueOf 5 0 0x100 0 with stage := .running } ∧ (kindOf 5).isSome = true ∧
    (wCueOf 5 0 0x100 0).maxBeats = 40 ∧ onEngine (wCopying 0) 9 = true ∧ cueOf blank 9 = none ∧ kindOf 10 = none := by decide +kernel
/-- A checked operation on core 2, whose cue runs. -/
def wGang : State :=
  { wTensor { opAt gemmDesc .gang 0 with cores := [2] } with cues := [{ wCueOf 1 0 0x100 0 with stage := .running }] }
theorem test_gang : (wGang.tensors.find? fun o => o.stage == .gang && ((cuesOf wGang (srcOf (.ring 0 0))).map (·.uid)).contains o.uid).map (·.uid) =
      some 9 ∧ ([2] : List Nat).length = dGang gemmDesc ∧
    coreTakes (noteAll wGang 0) 2 0 = true ∧ homeOk (noteAll wGang 0) (srcOf (.ring 0 0)) 2 = true ∧
    mayPlace (noteAll wGang 0) 0 5 (srcOf (.ring 0 0)) .tensor 2 = true ∧ beingTaken (noteAll wGang 0) 5 .tensor [2] = false := by decide +kernel
theorem test_smgr_up : (∀ c ∈ [2], domOn (noteAll wGang 0) (dCore + c) = true) ∧ (∃ c ∈ [2], domOn (noteAll (gated wGang) 0) (dCore + c) = false) ∧
    domOn (noteAll wSavedWg 0) (dCore + (2 : Fin 17).val) = true ∧ domOn (noteAll (gated wSavedWg) 0) (dCore + (2 : Fin 17).val) = false ∧
    (resumable (noteAll (gated wSavedWg) 0) (2 : Fin 17)).isSome = true := by decide +kernel
/-- A shader request of partition 0 that waits at the Loft's regulator, whose bucket is in debt. -/
def wHeld (t : Int) : State :=
  { withReqs [{ atL1 with part := 0, at_ := .port 1 false }] with
    applied := [(R.SMGR_P_LOFT_BW 0, 0x40010)]
    buckets := [(1, t)] }
theorem test_regulator : regRate (wHeld 0) (0 : Fin 8) (1 : Fin 3) ≠ 0 ∧ (0 : Int) ≤ min (mget 0 (wHeld 5).buckets 1) 5 ∧
    min (mget 0 (wHeld (-900)).buckets 1 + (regRate (wHeld 0) (0 : Fin 8) (1 : Fin 3) * 1 : Nat))
      (regBurst (wHeld 0) (0 : Fin 8) (1 : Fin 3) * 16384 : Nat) < 0 := by decide +kernel

/-! Witnesses of SceneChange. -/

/-- A carved machine with 8 MiB of save area, whose shadow enables partition 0 on logical core 0. -/
def wScene (mask : Nat) : State :=
  let s := fset (fset blank F.LOFT_CTRL.CARVE_LOCK 1) F.LOFT_SAVE_SIZE.SAVE_MIB 8
  let s := wrN (wrN (wrN (wrN s (R.SMGR_P_CFG 0) (1 + mask * 65536)) (R.SMGR_P_SAVE 0) 0x800) (R.SMGR_P_NPL 0) 1000) (R.SMGR_P_SLICE 0) 100000
  s
theorem test_commit : rdN (wScene 1) R.SMGR_SC_PENDING = 0 ∧ scConfigBad (wScene 1) = false ∧ scInUse (wScene 1) = false ∧
    scConfigBad (wScene 0) = true ∧ rdN (wrN (wScene 1) R.SMGR_SC_PENDING 2) R.SMGR_SC_PENDING ≠ 0 := by decide +kernel
/-- A privileged partition's context forbids its going. -/
def wInUse : State :=
  { wScene 1 with
    applied := [(R.SMGR_P_CFG 0, 0x10003)]
    ctxs := [(5, { Ctx.none with state := .live })] }
theorem test_in_use : scConfigBad wInUse = false ∧ scInUse wInUse = true := by decide +kernel
theorem test_no_differ : (∀ u < 26, unitDiffers { fset blank F.LOFT_CTRL.CARVE_LOCK 1 with
      committed := part shadowed (fset blank F.LOFT_CTRL.CARVE_LOCK 1).regs } u = false) ∧
    scConfigBad (fset blank F.LOFT_CTRL.CARVE_LOCK 1) = false ∧ scInUse (fset blank F.LOFT_CTRL.CARVE_LOCK 1) = false := by
  decide +kernel
theorem test_apply : ∀ u : Fin 26, bit (rdN (wrN blank R.SMGR_SC_PENDING 0x3FFFFFF) R.SMGR_SC_PENDING) u = true ∧
    (atBoundary (wrN blank R.SMGR_SC_PENDING 0x3FFFFFF) u = true) ∧ poolsFit (applyLink blank) = true ∧ mwf 0 blank.committed = true ∧
    windowsApplied (applyUnit (wrN blank R.SMGR_SC_PENDING 0x3FFFFFF) 2) = true ∧ blank.invs = [] := by
  decide +kernel
/-- Function 3's host window opens while transfers of it have still to drain. -/
def wWindow : State :=
  { wrN blank R.SMGR_SC_PENDING 4 with
    committed := [(R.XLAT_FN_CFG 3, 1)]
    invs := [⟨0, .window 3, 1024, hostBase, 2 ^ 48, 0⟩] }
theorem test_window_drains : bit (rdN wWindow R.SMGR_SC_PENDING) 2 = true ∧ windowsApplied (applyUnit wWindow 2) = false ∧
    mwf 0 wWindow.committed = true ∧ mwf 0 wWindow.applied = true := by decide +kernel
/-- A port with more credits in use than the committed pool has. -/
def wShrink : State :=
  { wrN blank R.SMGR_SC_PENDING 0x100 with
    committed := [(R.UL_P_CREDITS 0, 2)]
    applied := [(R.UL_P_CREDITS 0, 5)]
    link := { LinkSt.none with ports := [(0, { portOf blank 0 with used := [4] })] } }
theorem test_shrink : bit (rdN wShrink R.SMGR_SC_PENDING) 8 = true ∧ poolsFit (applyLink wShrink) = false := by decide +kernel

/-! Witnesses of Translation. -/

/-- Context 5 of function 0, not in G5 mode, with its tables at 0x1000 to 0x3800 of SCRATCH: virtual page 0 at device page 0. -/
def wTables : State :=
  let s := wDesk 0 0 0 0 []
  let pte := fun (a f : Nat) => leBytes 8 (a + f)
  { s with
    applied := [(R.SMGR_P_CFG 0, 0x10001)]
    ctxs := [(5, { Ctx.none with state := .live, root := 0x1000 })]
    mem := mputs 0 (mputs 0 (mputs 0 (mputs 0 [] 0x1000 (pte 0x2000 1)) 0x2000 (pte 0x3000 1)) 0x3000 (pte 0x3800 1)) 0x3800 (pte 0 15) }
def wCached : State := { wTables with tc := [⟨false, 5, 0, 65536, 0, true, true, true, false⟩] }
def noSum {α β : Type} (r : α ⊕ β) : Option β := match r with
  | .inl _ => none
  | .inr x => some x
theorem test_walk : reach wCached 0 ≠ .host ∧ isG5 wTables ((fnOfCid wTables (5 : Fin 1024)).getD 0) = false ∧ isG5 (wDesk 0 0 0 0 []) 0 = true ∧
    noSum (walkFrom wTables 5 0 (walkStart wTables 5 0).1 (walkStart wTables 5 0).2) = none ∧
    noSum (walkFrom wTables 5 0x10000 (walkStart wTables 5 0x10000).1 (walkStart wTables 5 0x10000).2) = some (.fault cUnmapped) ∧
    (wCached.tc.find? fun e => !e.ats && e.owner == (5 : Fin 1024).val && inRange 0 e.page e.size).isSome = true := by decide +kernel
/-- The same with the root in the host window, behind ATS. -/
def wHostRoot : State := { wTables with ctxs := [(5, { Ctx.none with state := .live, root := hostBase + 0x1000 })], atsEn := 1 }
theorem test_walk_host : noSum (walkFrom wHostRoot 5 0 (walkStart wHostRoot 5 0).1 (walkStart wHostRoot 5 0).2) = some (.waits 0 1) := by
  decide +kernel
def wAts (r : AtsReq) : State := { wTables with atsReqs := [r] }
/-- A request that an invalidation has covered, which is over or not. -/
def wAtsStale (l : List Inv) : State := { wAts ⟨0, 3, true, false⟩ with invs := l }
theorem test_ats_stale : ((wAtsStale []).atsReqs.find? fun r => r.fn == (0 : Fin 32).val && r.page == 3 && !r.answered) =
      some ⟨0, 3, true, false⟩ ∧ (wAtsStale []).atsReqs.Nodup ∧ (∀ q ∈ (wAtsStale []).atsReqs, q.answered = false) ∧
    (∀ v ∈ (wAtsStale []).invs, invCovers v (0 : Fin 32) 3 = false) ∧
    (∃ v ∈ (wAtsStale [⟨0, .ats 0 1, 1024, hostBase, hostBase + 0x10000, 0⟩]).invs, invCovers v (0 : Fin 32) 3 = true) := by decide +kernel
theorem test_ats : ((wAts ⟨0, 3, false, false⟩).atsReqs.find? fun r => r.fn == (0 : Fin 32).val && r.page == 3 && !r.answered) =
      some ⟨0, 3, false, false⟩ ∧ (0x3000 : BitVec 47).toNat / 4096 = 3 ∧
    (∀ n < 32, (streamOf (wAts ⟨0, 3, false, false⟩) n).arming = false) ∧ (∀ o < 3, (outOf (wAts ⟨0, 3, false, false⟩) o).asking = false) ∧
    invCovers ⟨0, .ats 0 1, 1024, hostBase, hostBase + 0x10000, 0⟩ (0 : Fin 32) 3 = true := by decide +kernel
def wHostReq : State := { wTables with reqs := [{ atL1 with at_ := .host, addr := hostBase + 0x3040 }] }
theorem test_host_req : fnOfCid wHostReq { atL1 with at_ := .host, addr := hostBase + 0x3040 }.cid = some (0 : Fin 32).val ∧
    ({ atL1 with at_ := .host, addr := hostBase + 0x3040 } : Req).fills = [] ∧ (hostBase + 0x3040 - hostBase) / 4096 = 3 ∧
    streamsIn blank (0 : Fin 32) 3 = [] ∧ (∃ c ∈ (wCopying 0).cues, c.stage = .running ∧ fnOfCid (wCopying 0) c.cid = some (0 : Fin 32).val) ∧
    streamsIn (wCopying 0) (0 : Fin 32) 3 = [] ∧ (wCopying 0).reqs = [] ∧ (wCopying 0).atsReqs = [] := by decide +kernel
/-- An armed stream whose input area lies in the host window. -/
def wHostArea : State :=
  let s := fset (fset wTables (F.PIT_S_STATE.STATE 1) sArmed) (F.PIT_S_OWNER.CID 1) 5
  { s with helds := [⟨.pit 1, 5, 0, [⟨0, 65536, hostBase, true⟩], true, []⟩] }
theorem test_host_area : 1 ∈ streamsIn wHostArea (0 : Fin 32) 3 ∧ streamState wHostArea 1 ≠ sFaulted := by decide +kernel
def wInvSel : State := fset wCached (F.PDESK_CTX_SEL.CID 0) 5
theorem test_inv_cmd : fbit wInvSel (F.XLAT_INV_STATUS.BUSY (0 : Fin 32)) = false ∧ selCtx wInvSel (0 : Fin 32) = 5 ∧
    fnOfCid wInvSel 5 = some (0 : Fin 32).val ∧ isG5 wInvSel (0 : Fin 32) = false ∧ ctxUsable wInvSel (0 : Fin 32) 5 = true ∧
    ctxUsable wInvSel (1 : Fin 32) 5 = false := by decide +kernel
/-- An invalidation of context 5 in progress, waited for by a held page of an agent or by none. -/
def wInvs (k : InvKind) (l : List Held) : State := { wCached with invs := [⟨7, k, 5, 0, 65536, 0⟩], helds := l }
def wStale (a : Agent) : Held := ⟨a, 5, 0, [wPage], true, [7]⟩
theorem test_drained : (wInvs (.cmd 0) []).invs.find? (·.id == 7) = some ⟨7, .cmd 0, 5, 0, 65536, 0⟩ ∧
    undrained (wInvs (.cmd 0) []) ⟨7, .cmd 0, 5, 0, 65536, 0⟩ = false ∧
    undrained (wInvs (.cmd 0) [wStale (.copy 9)]) ⟨7, .cmd 0, 5, 0, 65536, 0⟩ = true ∧
    (wInvs (.cmd 0) [wStale (.entryRing 3)]).helds.filter (·.stale.contains 7) = [wStale (.entryRing 3)] ∧
    (∀ l < 24, (layerOf (wInvs (.cmd 0) []) l).losing.contains 7 = false ∧ 7 ∉ (layerOf (wInvs (.cmd 0) []) l).lost) := by decide +kernel

/-! Witnesses of TagsAndMessages. -/

/-- A TAG write of `n` granules of the Loft from granule 4 to context `o`, in a carved machine with a quota. -/
def wTag (n o q : Nat) : State :=
  let s := fset (fset (fset (wDesk 0 0 0 0 []) F.XLAT_TAG_SEL.SPACE 1) F.XLAT_TAG_SEL.GRANULE 4) F.XLAT_TAG_COUNT.COUNT n
  let s := wrN s R.XLAT_TAG_VALUE (1 + 256 * o)
  { s with applied := [(R.SMGR_P_LOFT_QUOTA 0, BitVec.ofNat 32 q)] }
theorem test_tag_write : tagOk (rdN (wTag 2 5 8) R.XLAT_TAG_VALUE) = true ∧ fbit (wTag 2 5 8) F.XLAT_STATUS.TAG_BUSY = false ∧
    ctxLive (wTag 2 5 8) 5 = true ∧ tagRange (wTag 2 5 8) 4 2 = true ∧ fget (wTag 2 5 8) F.XLAT_TAG_COUNT.COUNT = 2 ∧
    taggedAfter (wTag 2 5 8) 4 2 0 ≤ aget (wTag 2 5 8) (F.SMGR_P_LOFT_QUOTA.QUOTA 0) ∧
    aget (wTag 2 5 1) (F.SMGR_P_LOFT_QUOTA.QUOTA 0) < taggedAfter (wTag 2 5 1) 4 2 0 ∧ ctxLive (wTag 2 6 8) 6 = false := by decide +kernel
theorem test_tag_apply : ({ blank with tagJob := some ⟨4, 2, 0x501⟩ } : State).tagJob = some ⟨4, 2, 0x501⟩ := by decide

/-! Witnesses of LinkPorts. -/

/-- A unit with its link's domain on and port `p` enabled, in a state with some lanes. -/
def wLink (p st ok : Nat) : State :=
  let s := fset blank (F.UL_P_CFG.EN p) 1
  fset (fset s (F.UL_P_STATE.STATE p) st) (F.UL_P_STATE.LANES_OK p) ok
theorem test_trained : domOn (wLink 0 3 7) dLink = true ∧ fget (wLink 0 3 7) F.UL_SELF.GATEWAY = 0 ∧ mgmtFree (wLink 0 2 15) 0 = true ∧
    (∀ f ∈ [0, 2], mayTrain (wLink 0 f 0) (1 : Fin 3) = false) ∧ mayTrain (wLink 0 1 0) (0 : Fin 3) = true ∧ portState (wLink 0 1 0) (0 : Fin 3) < 2 ∧
    (onesOf 4 (15 : BitVec 4).toNat).length = 4 ∧ (onesOf 4 (7 : BitVec 4).toNat).length = 3 ∧ (onesOf 4 (3 : BitVec 4).toNat).length < 3 ∧
    portState (wLink 0 3 7) (0 : Fin 3) = pUp3 ∧ portState (wLink 0 0 0) (0 : Fin 3) = pDown ∧ portUp (wLink 0 2 15) (0 : Fin 3) = true ∧
    portState (wLink 0 2 15) (0 : Fin 3) = pUp4 ∧ bit (fget (wLink 0 2 15) (F.UL_P_STATE.LANES_OK 0)) (3 : Fin 4) = true ∧
    max 1 (fget blank (F.UL_P_CFG.LANE_ERR_LIMIT 0)) ≤ ([0, 1] : List Nat).getD (1 : Fin 4) 0 ∧
    (portOf { wLink 0 3 7 with link := { LinkSt.none with ports := [(0, { LinkPort.fresh with retrain := true })] } } 0).retrain = true := by
  decide +kernel
/-- A flit with a good check: its kind and number, acknowledging the flit before the first. -/
def wFlit (kind seq : Nat) : List Byte := mkFlit seq 1023 kind 0 0 (List.replicate 64 7)
theorem test_flit : ∀ k ∈ [0, 1, 2], ∀ n ∈ [0, 1], leBytes 72 (BitVec.ofNat 576 (leNat (wFlit k n))).toNat = wFlit k n ∧
    crc32c ((wFlit k n).take 68) = field (wFlit k n) 68 4 ∧ bits (field (wFlit k n) 64 4) 21 20 = k ∧
    bits (field (wFlit k n) 64 4) 9 0 = n := by decide +kernel
/-- An idle flit that returns an MGMT credit for which a roster waits on port 0. -/
def wIdle (n : Nat) : List Byte := mkFlit 0 1023 0 8 n (List.replicate 64 7)
theorem test_flit_idle : bits (field (wIdle 0) 64 4) 31 26 = 0 ∧ bits (field (wIdle 1) 64 4) 31 26 = 1 ∧ bits (field (wIdle 1) 64 4) 25 22 = 8 ∧
    bits (field (wIdle 1) 64 4) 21 20 = 0 ∧ bits (field (wIdle 1) 64 4) 9 0 = (portOf (wLink 0 2 15) 0).rxNext ∧
    ({ LinkSt.none with mgmt := [(0, .roster 0 ⟨[], []⟩)] } : LinkSt).mgmt = [((0 : Fin 3).val, .roster 0 ⟨[], []⟩)] ∧
    (bits (field (wFlit 1 1) 64 4) 9 0 + 1024 - (portOf (wLink 0 2 15) 0).rxNext) % 1024 < 512 := by decide +kernel
theorem test_flit_bad : crc32c ((wFlit 1 0).take 68) ≠ field ((wFlit 1 0).take 71 ++ [0]) 68 4 := by decide +kernel
/-- A unit of a root ring of two, its port 0 up, with the HEAD strap; and one in a group without an address. -/
def wHead (strap : Bool) : State :=
  { wLink 0 2 15 with boot := { BootSt.off with head := strap } }
/-- The head with an address and no token out, and a unit of a group with an uplink, with an address or without. -/
def wHeadOn : State := { wHead true with link := { LinkSt.none with pos := [0], strap := true, pcie := true } }
def wMember (done : Nat) : State :=
  { fset (wLink 2 2 15) F.UL_SELF.ADDR_DONE done with link := { LinkSt.none with pos := [0, 3] } }
theorem test_token : isHead wHeadOn = true ∧ wHeadOn.link.tokOut = false ∧ portUp (wMember 0) 2 = true ∧
    fbit (wMember 0) F.UL_SELF.ADDR_DONE = false ∧ fbit (wMember 1) F.UL_SELF.ADDR_DONE = true ∧
    tokenAddr 0 ⟨[0], 2, false, []⟩ ≠ me (wMember 1) ∧ tokenAddr 0 ⟨[0], 3, false, []⟩ = me (wMember 1) ∧
    isHead (wMember 1) = false ∧ domOn (wHead true) dHost = true ∧ domOn (gated (wHead true)) dHost = false := by decide +kernel
theorem test_head : (wHead true).boot.head = true ∧ (me (wHead true)).isEmpty = true ∧ portUp (wHead true) 0 = true ∧
    portUp (wHead true) 2 = false ∧ (([2] : List Nat).length + 2 ≤ 6) ∧ 6 < ([0, 1, 2, 3, 4] : List Nat).length + 2 := by decide +kernel
/-- A ring of two units with a way to the other one, which a fallen port takes away, and a peer access on its way there. -/
def wRing2 (up : Bool) : State :=
  { wLink 0 2 15 with
    link := { LinkSt.none with
      pos := [0]
      roster := ⟨[⟨[], 2, false⟩], [⟨[0], 0, [up, false, true]⟩, ⟨[1], 0, [true, true, false]⟩]⟩
      flying := [⟨1, [1], 0, none, some atL1.id⟩] }
    reqs := [{ atL1 with at_ := .away }] }
theorem test_topology : (1 : Nat) ∈ updatePorts (wMember 1) (0 : Fin 3) [0, 4] ∧ mgmtFree (wLink 1 2 15) 1 = true ∧
    rosterSetPort (wRing2 true).link.roster [1] 2 false = (wRing2 true).link.roster ∧ atL1.eng = none ∧ canReach (wRing2 true) (rosterSetPort (wRing2 true).link.roster [1] 2 true) [1] = true ∧
    canReach (wRing2 false) (rosterSetPort (wRing2 false).link.roster [1] 1 false) [1] = false ∧ atL1.id % 65536 = 1 ∧
    (∀ x ∈ (rosterSetPort (wRing2 false).link.roster [1] 1 false).units, x.addr ≠ me (wRing2 false) →
      canReach (wRing2 false) (wRing2 false).link.roster x.addr = true →
      canReach (wRing2 false) (rosterSetPort (wRing2 false).link.roster [1] 1 false) x.addr = true) := by decide +kernel

/-! Witnesses of LinkTraffic. -/

/-- A unit of a ring of two at position 0, its port 0 up, with packets waiting, payloads received, packets arrived, and
registers over `blank`. -/
def wUnit (outq : List (Nat × LinkPkt)) (rx : List (List Byte)) (arr : List LinkPkt) : State :=
  let s := wRing2 true
  { s with
    reqs := []
    link := { s.link with
      flying := []
      outq := outq
      arrived := arr
      ports := [(0, { LinkPort.fresh with rx := rx, used := List.replicate 12 0 })] } }
def wResp (d : List Nat) : LinkPkt := .peerResp d [0] 1 0 []
theorem test_quiet : (∀ p < 3, (portOf (wUnit [] [] []) p).give = [] ∧ (portOf (wUnit [] [] []) p).acked = (portOf (wUnit [] [] []) p).rxNext) ∧
    portUp (wUnit [] [] []) 0 = true ∧ ({ LinkPort.fresh with rxNext := 1 } : LinkPort).acked ≠ 1 ∧
    tokenShort (wUnit [] [] []) 0 0 (.token (List.replicate 128 1)) = true ∧
    tokenShort (wUnit [] [] []) 0 9 (wResp [1]) = false := by decide +kernel
theorem test_forward_own : pktOwnXid (me (wUnit [(9, wResp [1])] [] [])) (wResp [1]) = none ∧
    rosterRoute (wUnit [] [] []).link.roster (me (wUnit [] [] [])) (pktDest (wResp [0])) = some none ∧
    rosterRoute (wUnit [] [] []).link.roster (me (wUnit [] [] [])) (pktDest (wResp [1])) = some (some 0) ∧
    rosterRoute (wRing2 false).link.roster (me (wRing2 false)) (pktDest (wResp [1])) = none ∧
    canSend (wUnit [] [] []) 1 9 (wResp [1]) = false := by decide +kernel
/-- A token whose header and one payload flit name entry ring 0 of this unit or the other. -/
def wToken (unit : Nat) : List Byte := padTo 64 ([1, 0, 0, 0] ++ leBytes 3 (unit * 2 ^ 20) ++ [1, 0, 0, 0, 1, 0, 9, 1, 0]) ++ List.replicate 64 5
theorem test_forward_token : pktFlits (pktOnClass (.token (wToken 1)) 0) ≠ [] ∧ pktDest (.token (wToken 1)) = [1] ∧
    pktFlits (.token ((wToken 1).take 64)) = [(wToken 1).take 64] ∧
    pktFlits (pktOnClass (.token ((wToken 1).take 64)) 0) = [(pktOnClass (.token ((wToken 1).take 64)) 0 |> fun p => match p with
      | .token b => b
      | _ => [])] := by decide +kernel
theorem test_forward_port : frontPkt (portOf (wUnit [] [] []) (0 : Fin 3)) 1 9 (wResp [1]) = none ∧
    frontPkt (portOf (wUnit [] [List.replicate 64 0] []) (0 : Fin 3)) 1 9 (wResp [0]) = some (1, 9, wResp [0]) ∧
    frontPkt (portOf (wUnit [] [List.replicate 64 0] []) (0 : Fin 3)) 1 8 (.raccReq [0] [1] 3 0 0) = some (1, 8, .raccReq [0] [1] 3 0 0) ∧
    hopClass (wUnit [] [] []) (.token (wToken 1)) 10 (1 : Fin 3) 0 = 11 ∧ hopClass (wUnit [] [] []) (.token (wToken 1)) 10 (2 : Fin 3) 0 = 10 ∧
    hopClass (wUnit [] [] []) (wResp [1]) 9 (1 : Fin 3) 0 = 9 := by decide +kernel
/-- The same unit with a peer access waiting, or away. -/
def wPeer (st : ReqAt) : State :=
  { fset (wUnit [] [] []) F.UL_SELF.ADDR_DONE 1 with reqs := [{ atL1 with at_ := st, addr := 2 ^ 47 + 2 ^ 40 + 64 }] }
theorem test_forward_peer : peerTarget (wPeer .peer) (2 ^ 47 + 2 ^ 40 + 64) = some ([1], 64) ∧
    rosterRoute (wPeer .peer).link.roster (me (wPeer .peer)) [1] = some (some 0) ∧ (wPeer .peer).link.flying = [] := by decide +kernel
theorem test_peer_request : (wUnit [] [] [.peerReq [0] [1] 7 dramBase (.read 8)]).link.outcomes.lookup ([1], 7) = none ∧
    peerCheck (wUnit [] [] []) dramBase false ≠ cOk ∧ peerCheck { fset (wUnit [] [] []) F.MEMC_CFG.GIB 1 with tags := [(granule dramBase, 0x509)] } dramBase false = cOk ∧
    peerCheck { fset (wUnit [] [] []) F.MEMC_CFG.GIB 1 with tags := [(granule dramBase, 0x509)] } dramBase true = cOk ∧
    badLine (wUnit [] [] []) dramBase = false ∧ domAt (fset (wUnit [] [] []) F.MEMC_CFG.GIB 1) dramBase = some dMemc ∧
    serves (wUnit [] [] []) dMemc = true ∧ serves (gated (wUnit [] [] [])) dMemc = false ∧ kindReads dramBase (.load 8) = true ∧
    reach (fset (wUnit [] [] []) F.MEMC_CFG.GIB 1) dramBase = .dram ∧ foundEcc (wUnit [] [] []) dramBase 8 .clean = .clean ∧
    foundEcc (wUnit [] [] []) dramBase 8 (.double 1) = .double 1 ∧
    (wPeer .away).link.flying = [] := by decide +kernel
theorem test_peer_response : ({ (wPeer .away).link with flying := [⟨7, [1], 0, none, some atL1.id⟩] } : LinkSt).flying.find?
    (fun f => f.xid == 7 && f.req.isSome) = some ⟨7, [1], 0, none, some atL1.id⟩ := by decide +kernel
/-- Entry ring 0 of context 5, with its registers as set up and an active fence. -/
def wEntry (slot en wr : Nat) : State :=
  let s := wObjects 0 (wFence 9) Sem.none
  let s := fset (fset (fset s (F.UL_ER_CFG.CID 0) 5) (F.UL_ER_CFG.COUNT_LOG2 0) 2) (F.UL_ER_CFG.SLOT_LOG2 0) slot
  let s := wrN (wrN (fset (fset s (F.UL_ER_FENCE.FENCE 0) 2) (F.UL_ER_CFG.EN 0) en) (R.UL_ER_BASE_LO 0) 0x400) (R.UL_ER_RD_LO 0) 0x800
  wrN s (R.UL_ER_WR 0) wr
theorem test_entry_ring : ownedScratch (wEntry 7 0 0) 5 [(0x400, 512, true), (0x800, 4, false)] = .ok [wPage] ∧
    ctxLive (wEntry 7 0 0) (fenceOf (wEntry 7 0 0) (fget (wEntry 7 0 0) (F.UL_ER_FENCE.FENCE 0))).owner = true ∧
    (fenceOf (wEntry 7 0 0) 2).state = .active ∧ (fnOfCid (wEntry 7 0 0) 5).isSome = true ∧
    fbit (wEntry 7 1 0) (F.UL_ER_CFG.EN 0) = true := by decide +kernel
/-- Entry ring 0 enabled, its page held, and the consumer count as last read or in memory. -/
def wEntryOn (wr rd : Nat) : State :=
  { wEntry 7 1 wr with
    helds := [⟨.entryRing 0, 5, 0, [wPage], true, []⟩]
    mem := mputs 0 (wEntry 7 1 wr).mem 0x800 (leBytes 4 rd) }
theorem test_slot : heldPages (wEntryOn 3 0) (.entryRing 0) = [wPage] ∧
    heldBad (wEntryOn 3 0) 5 [wPage] ((slotRanges (wEntryOn 3 0) (wToken 0)).filter fun r => r.2.2) = none ∧
    heldBad (wEntryOn 4 0) 5 [wPage] (slotRanges (wEntryOn 4 0) (wToken 0)) = none ∧
    (heldBad (gated { wEntryOn 3 0 with tags := [] }) 5 [wPage] (slotRanges (wEntryOn 3 0) (wToken 0))).isSome = true ∧
    leNat (ctxRead (wEntryOn 4 0) [wPage] 0x800 4) = 0 ∧ leNat (ctxRead (wEntryOn 4 2) [wPage] 0x800 4) = 2 ∧
    (slotDoms (wEntryOn 3 0) (wToken 0)).all (serves (wEntryOn 3 0)) = true ∧
    (slotDoms (wEntryOn 3 0) (wToken 0)).all (serves (gated (wEntryOn 3 0))) = false := by decide +kernel
theorem test_token_slot : field (wToken 0) 12 1 = 0 ∧ bits (field (wToken 0) 7 1) 6 4 = (ctxOf (wEntry 7 1 0) 5).part ∧
    64 * (1 + field (wToken 0) 14 2) ≤ 2 ^ fget (wEntry 7 1 0) (F.UL_ER_CFG.SLOT_LOG2 0) ∧
    (rdN (wEntry 7 1 3) (R.UL_ER_WR 0) + 2 ^ 32 - (erOf (wEntry 7 1 3) 0).rd % 2 ^ 32) % 2 ^ 32 < 2 ^ fget (wEntry 7 1 3) (F.UL_ER_CFG.COUNT_LOG2 0) ∧
    2 ^ fget (wEntry 6 1 0) (F.UL_ER_CFG.SLOT_LOG2 0) < 64 * (1 + field (wToken 0) 14 2) := by decide +kernel
theorem test_racc : fbit (fset blank F.UL_SELF.HEAD 1) F.UL_SELF.HEAD = true ∧ fbit (fset blank F.UL_RACC_STATUS.BUSY 1) F.UL_RACC_STATUS.BUSY = true ∧
    fbit blank F.UL_RACC_STATUS.BUSY = false := by decide +kernel

/-! Witnesses of Compression. -/

/-- A compression record of 64 bytes from 0x200 to 0x400 with its report at 0x800, and a decompression record of one block. -/
def compRec (cap : Nat) : List Byte := fields 64 [(0, 8, 0x200), (8, 8, 0x400), (24, 4, 64), (28, 4, cap), (34, 1, 1), (40, 8, 0x800)]
def decRec (len cap : Nat) : List Byte := fields 64 [(0, 8, 0x200), (8, 8, 0x400), (24, 4, len), (28, 4, cap), (32, 2, 1), (40, 8, 0x800)]
/-- The machine of `wDesk` with a cue that declares a cost high enough, and what it starts from. -/
def wComp (opc : Nat) (b : List Byte) : State :=
  let s := wDesk opc 0 0x100 0 b
  { s with cues := s.cues.map fun c => { c with raw := c.raw.take 12 ++ leBytes 4 100000 ++ c.raw.drop 16 } }
def compStarts (opc : Nat) (dec ok : Bool) (b : List Byte) : Bool :=
  let s := noteAll (wComp opc b) 0
  match nextWaiting s (.ring 0) with
  | none => false
  | some q => q.opc == opc && cueReady s q && !q.indirect && (reserveSlot s q).2 && !beingTaken s 5 .comp [] &&
      mayPlace s 0 5 (.ring 0) .comp 17 && xlateUnit (started s q) 5 [(0x100, 64, false)] == .ok [wPage] &&
      !engineWaits (started s q) (compEng ⟨q.uid, q.cid, 0, dec, [], q.addr, 0, 0, 0, 0⟩) [wPage] [(0x100, 64, false)] && recordOk dec (ctxRead (started s q) [wPage] 0x100 64) q.maxBeats == ok
theorem test_compress : compStarts 6 false true (compRec 128) = true ∧ compStarts 6 false false (fields 64 []) = true ∧
    compStarts 7 true true (decRec 64 64) = true := by decide +kernel
/-- That cue on engine 1, nothing done, with bytes at its source. -/
def wCompRun (dec : Bool) (b bytes : List Byte) : State :=
  let s := wComp 6 []
  { s with comps := [⟨9, 5, 1, dec, b, 0x100, 0, 0, 0, 0⟩], mem := mputs 0 [] 0x200 bytes }
theorem test_comp_on : compOn (wCompRun false (compRec 128) []) (1 : Fin 2) false = some ⟨9, 5, 1, false, compRec 128, 0x100, 0, 0, 0, 0⟩ ∧
    xlateUnit (wCompRun false (compRec 128) []) 5 [(0x200, 64, false)] = .ok [wPage] ∧
    engineWaits (wCompRun false (compRec 128) []) (compEng ⟨9, 5, 1, false, compRec 128, 0x100, 0, 0, 0, 0⟩) [wPage] [(0x200, 64, false)] = false ∧
    xlateUnit (wCompRun false (compRec 128) []) 5 [(0x200, 64, false), (0x400, 128, true)] = .ok [wPage] ∧
    (∃ a, xlateUnit blank 5 [(0x200, 64, false)] = .fault cUnmapped a) ∧
    (∃ a, xlateUnit blank 5 [(0x200, 64, false), (0x400, 128, true)] = .fault cUnmapped a) ∧
    compOn (wCompRun true (decRec 80 64) []) (1 : Fin 2) true = some ⟨9, 5, 1, true, decRec 80 64, 0x100, 0, 0, 0, 0⟩ := by
  refine ⟨?_, ?_, ?_, ?_, ⟨0x200, ?_⟩, ⟨0x200, ?_⟩, ?_⟩ <;> decide +kernel
/-- A stored block of 64 bytes, and one whose check is wrong. -/
def storedBlock (crc : Nat) : List Byte := [0xB7, 0, 0, 0] ++ leBytes 4 64 ++ leBytes 4 80 ++ leBytes 4 crc ++ List.replicate 64 7
theorem test_decompress : ctxRead (wCompRun true (decRec 80 64) (storedBlock 9)) [wPage] 0x200 16 = (storedBlock 9).take 16 ∧
    compHeaderOk ((storedBlock 9).take 16) 80 = true ∧ codedBlockBytes (storedBlock 9) = some (List.replicate 64 7) ∧
    crc32c (List.replicate 64 7) ≠ bCrc (storedBlock 9) ∧
    crc32c (List.replicate 64 7) = bCrc (storedBlock (crc32c (List.replicate 64 7))) ∧ bOrig ((storedBlock 9).take 16) = 64 ∧
    compHeaderOk (List.replicate 16 0) 80 = false := by decide +kernel
theorem test_comp_abort : stopOf { wCompRun false (compRec 128) [] with stops := [(9, cAborted)] } (.ring 0) [6, 7] ≠ none := by
  decide +kernel
theorem test_comp_up : domOn (wComp 6 (compRec 128)) dXfer = true ∧ domOn (gated (wComp 6 (compRec 128))) dXfer = false ∧
    mayPlace (noteAll (gated (wComp 6 (compRec 128))) 0) 0 5 (.ring 0) .comp 17 = true := by decide +kernel

/-! Witnesses of PowerStates. -/

/-- A device with fields set over `blank`, a power state, and a sequencer. -/
def wPower (l : List (Fld × Nat)) (st : Nat) (p : PwrSt) : State :=
  { fset (l.foldl (fun s f => fset s f.1 f.2) blank) F.PWR_STATE.STATE st with pwr := p }
def wEntryOf (t : Nat) (c : Bool) : PwrSt := { PwrSt.off with entry := some ⟨t, c⟩ }
theorem test_wake_done : bit (wPower [] 1 { PwrSt.off with waking := 2 ^ 25 }).pwr.waking (25 : Fin 28) = true ∧
    waitsFor blank (25 : Fin 28) ⟨.bar0 0, 0x2000, 4, true, 0, 0⟩ = false := by decide +kernel
theorem test_gate : domOn (wPower [(F.PWR_DOMAIN_ON.ON, 2 ^ 28 - 1), (F.PWR_AUTO.MASK, 1), (F.LOFT_CTRL.CARVE_LOCK, 1)] 0 PwrSt.off) (25 : Fin 28) = true ∧
    heldOn (wPower [] 0 PwrSt.off) (25 : Fin 28) = false ∧ domBusy (wPower [] 0 PwrSt.off) (25 : Fin 28) = false ∧
    fitsBudget (wPower [] 0 PwrSt.off) (wakeLatency (25 : Fin 28)) = true ∧ heldOn (wPower [] 0 PwrSt.off) (26 : Fin 28) = false ∧
    domBusy (wPower [] 0 PwrSt.off) (26 : Fin 28) = false := by decide +kernel
theorem test_request : armedPriv blank = [] ∧ quiet blank true = true ∧ quiet blank false = false ∧ pwrState (wPower [] 1 PwrSt.off) ≠ pOff ∧
    depth blank = 3 ∧ fitsBudget blank (exitUs blank pDark) = true ∧ anyContext blank = false ∧ anyContext (wDesk 0 0 0 0 []) = true ∧
    fitsBudget (wPower [(F.PWR_VOTE_MASK.MASK, 1)] 1 PwrSt.off) (exitUs (wPower [(F.PWR_VOTE_MASK.MASK, 1)] 1 PwrSt.off) pDark) = false ∧
    armedPriv (wPower [(F.PIT_S_CFG.PRIV 0, 1), (F.PIT_S_STATE.STATE 0, 2)] 1 PwrSt.off) ≠ [] := by decide +kernel
theorem test_request_dark : quiet { blank with ctxs := [(5, { Ctx.none with state := .live })] } true = true ∧
    anyContext { blank with ctxs := [(5, { Ctx.none with state := .live })] } = true ∧ fbit blank F.PWR_DARK_CFG.LOFT_RET = false := by
  decide +kernel
theorem test_states : (wPower [] 1 (wEntryOf pGreen false)).pwr.entry = some ⟨pGreen, false⟩ ∧
    (wPower [] 1 (wEntryOf pOff true)).pwr.entry = some ⟨pOff, true⟩ ∧ pwrState (wPower [] pDark { PwrSt.off with wake := true }) = pDark ∧
    relReady (wPower [(F.CLK_SRC_STATUS.REFCLK_OK, 1)] 3 PwrSt.off) dHost = true ∧ relReady blank dHost = false ∧
    locked (wPower [(F.CLK_ML_FREQ.LOCKED 0, 1)] 3 PwrSt.off) 0 = true ∧ mwf 0 blank.mem = true := by decide +kernel
theorem test_auto : bit (fget (wPower [(F.PWR_AUTO.MASK, 6)] 1 PwrSt.off) F.PWR_AUTO.MASK) (pDark - 1) = true ∧
    quiet (wPower [(F.PWR_AUTO.MASK, 6)] 1 PwrSt.off) true = true := by decide +kernel

/-! Witnesses of OperatingPoints. -/

def wMove (c : ClockStage) (w : Bool) (l : List AvsStep) : PwrSt := { PwrSt.off with move := some ⟨4, 2, c, w, l⟩ }
def wAvs (k : Bool) : AvsStep := ⟨1, 650, 0, k, false⟩
theorem test_op_request : floorPoint blank = 0 ∧ maxPoint (wPower [(F.CHIP_VARIANT.MAX_OP, 7)] 0 PwrSt.off) = 7 ∧
    maxPoint blank = 0 ∧ fget (fset blank F.PWR_OP_REQ.OP (3 : BitVec 3).toNat) F.PWR_OP_REQ.OP = 3 ∧
    onesOf 32 (rdN blank R.PWR_VOTE_MASK) = [] := by decide +kernel
theorem test_floor : floorPoint (wPower [(F.PIT_S_CFG.PRIV 0, 1), (F.PIT_S_STATE.STATE 0, 2), (F.PIT_S_CFG.FLOOR_OP 0, 3)] 0 PwrSt.off) = 3 := by
  decide +kernel
theorem test_avs : stepsOf (wPower [] 0 (wMove .no true [wAvs false])) = [wAvs false] ∧
    (stepsOf (wPower [] 0 (wMove .no true [wAvs true]))).filter (fun x => !(x.acked && if x.rail = 0 then false else true)) = [] ∧
    (stepsOf (wPower [] 0 (wMove .no true [wAvs true, wAvs false]))).filter (fun x => !(x.acked && if x.rail = 0 then false else true)) ≠ [] ∧
    (wMove .no true []).move = some ⟨4, 2, .no, true, []⟩ := by decide +kernel
theorem test_held : fbit (wPower [(F.PWR_STATE.HELD, 1)] 0 PwrSt.off) F.PWR_STATE.HELD = true ∧
    (wPower [] 0 { PwrSt.off with heldSteps := [wAvs true] }).pwr.move = none := by decide +kernel
theorem test_move_done : requestedPoint (wPower [] 0 (wMove .set true [])) = (wMove .set true []).req ∧
    min 2 (fget (wPower [(F.PWR_STATE.CAP_OP, 7)] 0 PwrSt.off) F.PWR_STATE.CAP_OP) = 2 := by decide +kernel
theorem test_thermal : sx 8 (fget (wPower [(F.PWR_THERM_CFG.CAP_TEMP, 100), (F.PWR_THERM_CFG.RELEASE, 90)] 0 PwrSt.off) F.PWR_THERM_CFG.CAP_TEMP) < (101 : BitVec 8).toInt ∧
    (89 : BitVec 8).toInt < sx 8 (fget (wPower [(F.PWR_THERM_CFG.CAP_TEMP, 100), (F.PWR_THERM_CFG.RELEASE, 90)] 0 PwrSt.off) F.PWR_THERM_CFG.RELEASE) ∧
    floorPoint blank < fget (wPower [(F.PWR_STATE.CAP_OP, 5)] 0 PwrSt.off) F.PWR_STATE.CAP_OP := by decide +kernel
theorem test_green : pwrState (wPower [] 2 PwrSt.off) = pGreen ∧ (wPower [] 2 { PwrSt.off with sampling := true }).pwr.sampling = true ∧
    fget blank F.PWR_GR_THRESH.THRESH ≤ 0 ∧ fget blank F.PWR_GR_CFG.HITS + 1 = 1 := by decide +kernel
theorem test_green_hears : grHears blank = false ∧ grHears (wPower [(F.PIT_SAP_CFG.MODE 0, 1), (F.PIT_SAP_CFG.ROLE 0, 1)] 2 PwrSt.off) = true ∧
    grHears (wPower [(F.PIT_SAP_CFG.MODE 0, 1)] 2 PwrSt.off) = false ∧
    grHears (wPower [(F.PIT_SAP_CFG.MODE 0, 1), (F.CLK_ML_FREQ.LOCKED 4, 1)] 2 PwrSt.off) = true := by decide +kernel
theorem test_slews : ({ PwrSt.off with slews := [(0, 1)] }).slews.find? (·.1 == (0 : Fin 2).val) = some (0, 1) ∧
    (∀ x ∈ ({ PwrSt.off with slews := [(0, 1)] }).slews, x.1 ≠ (1 : Fin 2).val) := by decide
theorem test_switch : switchReady blank = true ∧ bootState blank ≠ bLights ∧
    switchReady { blank with reqs := [{ atBank (.load 8) .normal 1 with at_ := .dram }] } = false := by decide +kernel
theorem test_lights_point : bootState (wPower [(F.RST_BOOT_STATE.STATE, 8)] 0 PwrSt.off) = bLights := by decide +kernel

/-! Witnesses of ClocksAndCrystals. -/

theorem test_crystals : (xtal (wPower [] 0 { PwrSt.off with xa := ⟨.delay, 0, 0⟩, xb := ⟨.failed, 0, 0⟩ }) (0 : Fin 2)).st = .delay ∧
    (xtal (wPower [] 0 { PwrSt.off with xa := ⟨.delay, 0, 0⟩, xb := ⟨.failed, 0, 0⟩ }) (1 - (0 : Fin 2).val)).st = .failed ∧
    (xtal (wPower [] 0 { PwrSt.off with xa := ⟨.judged, 0, 0⟩, xb := ⟨.good, 0, 0⟩ }) (0 : Fin 2)).st = .judged ∧
    (xtal (wPower [] 0 { PwrSt.off with xa := ⟨.judged, 0, 0⟩, xb := ⟨.good, 0, 0⟩ }) (1 - (0 : Fin 2).val)).st ≠ .failed ∧
    ({ PwrSt.off with lost := true }).lost = true ∧ PwrSt.off.lost = false ∧ ({ PwrSt.off with refBad := 1 }).refHold = false ∧
    ({ PwrSt.off with refHold := true }).refHold = true := by decide +kernel

/-! Witnesses of Resets. -/

/-- A machine with the start logic in some state, and fields over `blank`. -/
def wBoot (l : List (Fld × Nat)) (b : BootSt) : State := { l.foldl (fun s f => fset s f.1 f.2) blank with boot := b }
theorem test_assert : (reachOf (wBoot [] BootSt.off).boot.shadow.reach 1).1 = 0 ∧ bit (16 : BitVec 32).toNat 4 = true ∧
    bootState (wBoot [(F.RST_BOOT_STATE.STATE, 7)] BootSt.off) = bRunning ∧ (pwrState (wPower [] 4 PwrSt.off) = pOff ∧ 2 ≤ 7) ∧
    ¬(pwrState (wPower [] 4 PwrSt.off) = pOff ∧ 2 ≤ 1) ∧ mwf 0 blank.mem = true ∧ reachBad 0 = false ∧
    reachBad (6 * 2 ^ 42) = true := by decide +kernel
theorem test_tie : fget (assertAt (wBoot [(F.RST_CAUSE.SOURCE, 9)] { BootSt.off with level := some 2 }) 3 2 0 true) F.RST_CAUSE.SOURCE = 3 ∧
    fget (assertAt (wBoot [(F.RST_CAUSE.SOURCE, 2)] { BootSt.off with level := some 2 }) 3 2 0 true) F.RST_CAUSE.SOURCE = 2 := by
  decide +kernel
theorem test_cool : sx 8 (fget (wBoot [(F.PWR_THERM.TJ, 60), (F.PWR_THERM_CFG.RELEASE, 90)] BootSt.off) F.PWR_THERM.TJ) <
    sx 8 (fget (wBoot [(F.PWR_THERM.TJ, 60), (F.PWR_THERM_CFG.RELEASE, 90)] BootSt.off) F.PWR_THERM_CFG.RELEASE) := by decide +kernel
theorem test_fn_reset : inPage 0 (R.PWR_VOTE 0) = true ∧ levelOf (R.PWR_VOTE 0) = 3 ∧ (ringOf (wDesk 0 0 0 0 []) 0).state ≠ .off ∧
    mwf Ctx.none (wDesk 0 0 0 0 []).ctxs = true ∧ (ctxOf (wDesk 0 0 0 0 []) 5).state ≠ .free ∧ fnOfCid (wDesk 0 0 0 0 []) 5 = some 0 ∧
    partPriv (wDesk 0 0 0 0 []) (ctxOf (wDesk 0 0 0 0 []) 5).part = false ∧ curtainNames (wDesk 0 0 0 0 []) 5 = false := by decide +kernel
theorem test_fn_streams : streamArmed (fset (fset (wDesk 0 0 0 0 []) (F.PIT_S_STATE.STATE 3) 2) (F.PIT_S_OWNER.CID 3) 5) 3 = true ∧
    streamPriv (fset (fset (wDesk 0 0 0 0 []) (F.PIT_S_STATE.STATE 3) 2) (F.PIT_S_OWNER.CID 3) 5) 3 = false ∧
    fnOfCid (fset (fset (wDesk 0 0 0 0 []) (F.PIT_S_STATE.STATE 3) 2) (F.PIT_S_OWNER.CID 3) 5) (streamCid (fset (fset (wDesk 0 0 0 0 []) (F.PIT_S_STATE.STATE 3) 2) (F.PIT_S_OWNER.CID 3) 5) 3) = some 0 := by decide +kernel
/-- Function 0 under an L3, its context destroyed, with a fence and a semaphore in ERROR. -/
def wReleased : State :=
  { wObjects 0 { wFence 3 with state := .error } { wSem 1 [] with state := .error } with
    boot := { BootSt.off with l3 := [0] }
    rings := []
    ctxs := [(5, { Ctx.none with byReset := true })] }
theorem test_release_fn : wReleased.boot.l3.contains (0 : Fin 32).val = true ∧ fnQuiet wReleased (0 : Fin 32) = true ∧
    (fenceOf wReleased 2).state = .error ∧ goneCtx wReleased (0 : Fin 32) (fenceOf wReleased 2).owner = true ∧
    (semOf wReleased 3).state = .error ∧ (semOf wReleased 3).holders.any (fun h => h.units != 0 && goneCtx wReleased (0 : Fin 32) h.cid) = true ∧
    fnQuiet (wDesk 0 0 0 0 []) 0 = false := by decide +kernel
theorem test_release : resetHeld (wBoot [] { BootSt.off with level := some 2 }) = false ∧
    (∀ f < 32, fnQuiet (wBoot [] { BootSt.off with level := some 2 }) f = true) ∧
    resetHeld (wBoot [] { BootSt.off with resetN := true }) = true := by decide +kernel
theorem test_held_release : bit (fget (wBoot [(F.RST_PENDING.PENDING, 2 ^ 26), (F.CLK_ML_FREQ.LOCKED 0, 1)] BootSt.off) F.RST_PENDING.PENDING) (26 : Fin 28) = true ∧
    relReady (wBoot [(F.RST_PENDING.PENDING, 2 ^ 26), (F.CLK_ML_FREQ.LOCKED 0, 1)] BootSt.off) (26 : Fin 28) = true ∧
    ({ BootSt.off with train := some (8, 15) }).train = some (8, 15) ∧ (26 : Fin 28).val = dMemc := by decide +kernel

/-! Witnesses of BootAndFuses. -/

theorem test_fuse_read : bootState (wBoot [(F.RST_BOOT_STATE.STATE, 1)] BootSt.off) = bFuses ∧ [FuseRow.uds].any FuseRow.secure = true ∧
    [FuseRow.reach].any FuseRow.secure = false ∧ reachBad (Fuses.blank.without .reach).reach = false ∧ reachBad 6 = true := by decide +kernel
def wRomReady (limit : Nat) : State :=
  { wBoot [(F.RST_BOOT_STATE.STATE, 3), (F.RST_START_FAILS.LIMIT, limit)] BootSt.off with
    fio := true
    pwr := { PwrSt.off with xa := { Xtal.off with st := .good } } }
theorem test_rom : bootState (wRomReady 3) = bRom ∧ (wRomReady 3).boot.level = none ∧ (wRomReady 3).pwr.lost = false ∧
    (wRomReady 3).pwr.xa.st = .good ∧ atLimit (wRomReady 3) = false ∧ atLimit (wRomReady 0) = true ∧ relReady (wRomReady 3) dHost = false := by
  decide +kernel
theorem test_image_take : bootState (wBoot [(F.RST_BOOT_STATE.STATE, 4)] { BootSt.off with f2 := true, fault := true }) = bWait ∧
    (BootSt.off.take.isNone && BootSt.off.image.isNone) = true ∧ ({ BootSt.off with take := some 64 }).take = some 64 := by decide +kernel
/-- An image whose header is good but for its key, and the machine that checks it. -/
def wVerify (img : List Byte) (count : Nat) : State :=
  wBoot [(F.RST_BOOT_STATE.STATE, 5), (F.RST_START_FAILS.LIMIT, 3), (F.RST_START_FAILS.COUNT, count)]
    { BootSt.off with image := some img, counted := true }
theorem test_verify : imgCheck (wVerify [] 1).boot.shadow [] = some cImgFormat ∧ atLimit (wVerify [] 1) = false ∧
    atLimit (wVerify [] 3) = true := by decide +kernel
/-- A machine whose image has been accepted, with cores found bad. -/
def wKeys (bad : Nat) : State :=
  wBoot [(F.RST_BOOT_STATE.STATE, 5), (F.TEST_CORE_FAILED.FAILED, bad)] { BootSt.off with image := some [1], counted := true, fw := [1] }
theorem test_keys : (onesOf 17 (rdN (wKeys 4) R.TEST_CORE_FAILED)).length < 2 ∧ (wKeys 4).boot.loftBad = false ∧ (wKeys 4).boot.fw ≠ [] ∧
    2 ≤ (onesOf 17 (rdN (wKeys 5) R.TEST_CORE_FAILED)).length := by decide +kernel
theorem test_start_ok : bootState (wBoot [(F.RST_BOOT_STATE.STATE, 6)] { BootSt.off with counted := true, floor := 3 }) = bFirmware ∧
    ({ BootSt.off with counted := true, floor := 3 }).floor ≤ 64 ∧ BootSt.off.fuses.svn.length = 3 ∧ BootSt.off.fuses.revoke.length = 3 := by
  decide +kernel
theorem test_burns : (burnList { Fuses.blank with svn := [5, 5, 4] } 3 2).length = 6 ∧
    ((burnList { Fuses.blank with svn := [5, 5, 4] } 3 0).take 1).foldl burnOne { Fuses.blank with svn := [5, 5, 4] } =
      { Fuses.blank with svn := [7, 5, 4] } := by decide +kernel
theorem test_fuse_burn : bootState (wBoot [(F.RST_BOOT_STATE.STATE, 7)] BootSt.off) = bRunning ∧
    fbit (wBoot [(F.RST_BOOT_STATE.STATE, 7)] BootSt.off) F.SEC_FUSE_LOCK.LOCK = false ∧
    rd64 (wrN blank R.SEC_FUSE_DATA_LO 9) R.SEC_FUSE_DATA_LO &&& 7 = 1 ∧ (1 &&& 1 &&& (0 ^^^ (2 ^ 64 - 1)) ≠ 0) := by decide +kernel

/-! Witnesses of SdioAndTrust. -/

/-- An SDIO card in a state, with an address and held bytes. -/
def wCard (c : SdioCard) (rca : Nat) (held : Option (Nat × List (Nat × Nat))) : State :=
  { wPower [] 1 PwrSt.off with sdio := ⟨c, rca, 0, false, false, some (4, 0x1234), none, held, false⟩ }
theorem test_cards : wakeEvent (wCard .standby 7 none) = wCard .standby 7 none ∧ (7 : BitVec 16).toNat = 7 ∧
    (wCard .selected 7 none).sdio.card = .selected ∧ bit (8 : Byte).toNat 3 = true := by decide +kernel
theorem test_held_bytes : heldLow (some (4, [(2, 3), (1, 2), (0, 1)])) 4 = some 0x30201 ∧ heldLow (some (4, [(1, 2), (0, 1)])) 4 = none := by
  decide +kernel
theorem test_f2 : (List.replicate 8 (0 : Byte)).take (2127072 - 2127070) = [0, 0] := by decide
theorem test_attest : fbit (wrN blank (R.ATT_LEN 0) 36432) (F.ATT_STATUS.BUSY (0 : Fin 32)) = false ∧
    rdN (wrN blank (R.ATT_LEN 0) 36432) (R.ATT_LEN (0 : Fin 32)) = 36432 ∧ rdN blank (R.ATT_LEN (0 : Fin 32)) < 35840 := by decide +kernel
theorem test_sign : ({ BootSt.off with attQ := [⟨0, 1⟩], keys := some ⟨[], [], [], [], []⟩ }).attQ = ⟨0, 1⟩ :: [] ∧
    ({ BootSt.off with signing := some (⟨0, 2⟩, [1]) }).signing = some (⟨0, 2⟩, [1]) ∧
    ({ BootSt.off with exts := [(3, 1, 9)] }).exts = [] ++ ((3 : Fin 32).val, 1, 9) :: [] := by decide +kernel
theorem test_att_range : hostRange blank 0 0 4 true = none := by decide +kernel

/-! Witnesses of SelfTestAndShowReport. -/

/-- A machine under test, with fields over `blank`. -/
def wTest (l : List (Fld × Nat)) (u : TestSt) : State := { l.foldl (fun s f => fset s f.1 f.2) blank with test := u }
theorem test_fenced : (wTest [] ⟨none, 0, [⟨3, some 1, false⟩], []⟩).test.fenced = [] ++ ⟨3, some 1, false⟩ :: [] ∧
    min 3 (transient (wTest [] ⟨none, 0, [], []⟩) (3 : Fin 17) + 1) = 1 ∧
    max 1 (fget (wTest [(F.TEST_RT_CFG.TRANSIENT_LIMIT, 3)] ⟨none, 0, [], []⟩) F.TEST_RT_CFG.TRANSIENT_LIMIT) = 3 ∧
    max 1 (fget (wTest [] ⟨none, 0, [], []⟩) F.TEST_RT_CFG.TRANSIENT_LIMIT) = 1 := by decide +kernel
theorem test_slice_units : rtUnits (wTest [(F.TEST_RT_CFG.PIT_EN, 1)] ⟨none, 0, [], []⟩) = [16] ∧
    (rtUnits (wTest [(F.TEST_RT_CFG.PIT_EN, 1)] ⟨none, 17, [], []⟩)).head? = some 16 ∧
    (rtUnits (wTest [(F.TEST_RT_CFG.ALL, 1), (F.CORE_ID.ROLE 16, 1), (F.CORE_ID.LOGICAL 2, 5)] ⟨none, 3, [], []⟩)).find? (3 ≤ ·) = some 5 ∧
    physOf (wTest [(F.TEST_RT_CFG.ALL, 1), (F.CORE_ID.ROLE 16, 1), (F.CORE_ID.LOGICAL 2, 5)] ⟨none, 3, [], []⟩) 5 = some 2 := by
  decide +kernel
theorem test_slice_work : (cuesOn (wRun wGroup) 2).map (cidOfCue (wRun wGroup)) ≠ [] ∧
    Preempt.busy (wRun wGroup) ⟨5, 2, none, false, false⟩ = true := by decide +kernel
theorem test_handover : cuesOn (wTest [(F.CORE_ID.ROLE 16, 1)] ⟨some (.core 2 5 false), 6, [], []⟩) 2 = [] ∧
    (∀ n < 32, chainOn (wTest [(F.CORE_ID.ROLE 16, 1)] ⟨some (.core 2 5 false), 6, [], []⟩) 5 n = false) ∧
    understudy (wTest [(F.CORE_ID.ROLE 16, 1)] ⟨some (.core 2 5 false), 6, [], []⟩) = some 16 ∧
    understudy (wTest [] ⟨some (.core 2 5 false), 6, [], []⟩) = none := by decide +kernel
theorem test_slices : (wTest [] ⟨some (.core 2 5 true), 6, [], []⟩).test.slice = some (.core 2 5 true) ∧
    (wTest [] ⟨some .pit, 17, [], []⟩).test.slice = some .pit ∧
    (wTest [] ⟨some (.curtain 1), 19, [], []⟩).test.slice = some (.curtain (1 : Fin 3)) ∧
    (outOf (wTest [] ⟨some (.curtain 1), 19, [], []⟩) 1).moved = false := by decide +kernel
theorem test_rehearsing : rehearsing { blank with pwr := { PwrSt.off with entry := some ⟨4, true⟩ } } = true ∧
    rehearsing { blank with pwr := { PwrSt.off with entry := some ⟨4, false⟩ } } = false ∧
    ([⟨7, 1⟩] : List Repair) = [] ++ ⟨7, 1⟩ :: [] ∧ (7 : BitVec 32).toNat = 7 ∧ (8 : BitVec 32).toNat ∉ [7] := by decide +kernel
theorem test_rates : takeRate [⟨3, 0, 8, 1⟩] 3 = some (⟨3, 0, 8, 1⟩, []) ∧ takeRate [] 4 = some (⟨4, 0, 0, 0⟩, []) ∧
    takeRate (List.replicate 128 ⟨3, 0, 8, 1⟩) 4 = none ∧ rdN blank R.SHOW_OPSEC / 60 = 0 := by decide +kernel
/-- A board flash whose directory gives a log area of four sectors at an offset. -/
def wLog (off : Nat) : State :=
  let b := leBytes 2 0x01B9 ++ leBytes 30 0 ++ leBytes 4 off ++ leBytes 4 0x4000 ++ leBytes 20 0
  { blank with flash := mputs 0xFF [] 0 (b ++ leBytes 4 (crc32c b)) }
theorem test_log_slots : logSlots (wLog 0x10000) = 128 ∧ slotOff (wLog 0x10000) 64 = 0x10000 + 0x3000 ∧ logSlots blank = 0 ∧
    (recordBytes 1 ⟨plainEv cPitRt 0x27 2, 0, 0, 0, 0⟩).length = 64 := by decide +kernel
theorem test_record_at : recordAt blank false 0 = none ∧ recordAt { blank with recorder := { blank.recorder with ring := [[1]] } } false 0 = some [1] := by
  decide +kernel

end Sys2Proof.Machine
end

/-! # Flags and their event counters (R20) -/

namespace Sys2Proof.Machine

open Sys2Proof

/-- A row holds no register below its first address. -/
theorem addr_le_of_rowHas {r : RegRow} {a : Nat} (h : rowHas r a = true) : r.addr ≤ a := by
  simp only [rowHas, Bool.and_eq_true, decide_eq_true_eq] at h
  exact h.1

/-- Every field that shares no bit with the one written stays, in whichever register it stands. -/
theorem fget_fset_outside (s : State) (f g : Fld) (v : Nat) (hl : f.lo ≤ f.hi) (hh : f.hi < 32)
    (h : g.reg = f.reg → g.hi < f.lo ∨ f.hi < g.lo) : fget (fset s f v) g = fget s g := by
  by_cases hr : g.reg = f.reg
  · exact fget_fset_disjoint s f g v hr hl hh (h hr).symm
  · exact fget_fset_reg s f g v hr

/-- A hardware set leaves every field that shares no bit with the flag or its counter. -/
theorem fget_raise_outside (s : State) (f : Flag) (g : Fld) (hbl : f.bit.lo ≤ f.bit.hi) (hbh : f.bit.hi < 32)
    (hel : f.evt.lo ≤ f.evt.hi) (heh : f.evt.hi < 32) (hb : g.reg = f.bit.reg → g.hi < f.bit.lo ∨ f.bit.hi < g.lo)
    (he : g.reg = f.evt.reg → g.hi < f.evt.lo ∨ f.evt.hi < g.lo) : fget (raise s f) g = fget s g :=
  (fget_fset_outside _ f.evt g _ hel heh he).trans (fget_fset_outside s f.bit g 1 hbl hbh hb)

/-- A hardware set alters the registers of the flag and of its counter alone. -/
theorem alters_raise (s : State) (f : Flag) : Alters [f.bit.reg, f.evt.reg] s (raise s f) :=
  ⟨RegsAlone_raise s f, OnlyRegs_raise s f⟩

/-- Flag and counter of each row of the flag table fit their registers, and a counter in the flag's own register stands
above the flag. -/
theorem flagTable_fits : ∀ r ∈ flagTable, r.bit < 32 ∧ r.evtLo + 15 < 32 ∧ (r.evtAddr = r.addr → r.bit < r.evtLo) := by
  decide

/-- Settles O8: the counter's register is as far from the flag's at every instance of a row as at its first, so the two
meet exactly where the table puts the counter above the flag in one register, and are disjoint everywhere. -/
theorem flagsAndEventCounters : Obligations.FlagsAndEventCounters := by
  intro r a s hr ha f
  obtain ⟨hbit, hevt, hown⟩ := flagTable_fits r hr
  have hle : r.addr ≤ a := addr_le_of_rowHas ha
  refine ⟨?_, alters_raise s f, fun g _ _ hb he =>
    fget_raise_outside s f g le_rfl hbit (Nat.le_add_right ..) hevt hb he⟩
  by_cases hreg : r.evtAddr = r.addr
  case pos =>
    have hsame : f.evt.reg = f.bit.reg := show r.evtAddr + (a - r.addr) = a by omega
    exact raised_raise_own s f hsame rfl (hown hreg) rfl hevt
  case neg =>
    have hother : f.bit.reg ≠ f.evt.reg := show a ≠ r.evtAddr + (a - r.addr) by omega
    exact raised_raise s f hother rfl hbit rfl hevt

end Sys2Proof.Machine

/-! # The banks of the Loft (R36) -/

namespace Sys2Proof.Machine

open Sys2Proof

/-- The number of a bank within its quadrant is below 16. -/
theorem bankInQuadrant_lt (a : Nat) : bits a 9 6 ^^^ bits a 13 10 < 16 :=
  Nat.xor_lt_two_pow (n := 4) (bits_lt a 9 6) (bits_lt a 13 10)

theorem bankOf_div (a : Nat) : bankOf a / 16 = bits a 25 24 := by
  have hb := bankInQuadrant_lt a
  unfold bankOf
  omega

theorem bankOf_mod (a : Nat) : bankOf a % 16 = bits a 9 6 ^^^ bits a 13 10 := by
  have hb := bankInQuadrant_lt a
  unfold bankOf
  omega

theorem bankOf_lt (a : Nat) : bankOf a < 64 := by
  have hq : bankOf a / 16 < 4 := bankOf_div a ▸ bits_lt a 25 24
  omega

/-- Fewer high bits of a part of a number are its remainder. -/
theorem bits_mod_two_pow (v : Nat) {hi k lo : Nat} (hk : k ≤ hi) :
    bits v hi lo % 2 ^ (k + 1 - lo) = bits v k lo :=
  Nat.mod_mod_of_dvd _ (pow_dvd_pow 2 (by omega))

/-- The exclusive or with the row's low bits undoes the one that chose the bank: the quadrant, the row and a[9:6] give the
line address. -/
theorem lineAddr_bankOf (a : Nat) :
    lineAddr (bankOf a) (bits a 23 10) = bits a 25 24 * 2 ^ 24 + bits a 23 10 * 1024 + bits a 9 6 * 64 := by
  have hrow : bits a 23 10 % 16 = bits a 13 10 := bits_mod_two_pow a (show 13 ≤ 23 by decide)
  rw [lineAddr, bankOf_div, bankOf_mod, hrow, Nat.xor_xor_cancel_right]

/-- The parts of a Loft address, each at its weight, add up to the address. -/
theorem loftAddr_eq_parts {a : Nat} (h : a < 2 ^ 26) :
    bits a 25 24 * 2 ^ 24 + bits a 23 10 * 1024 + bits a 9 6 * 64 + bits a 5 0 = a := by
  simp only [bits]
  omega

/-- Settles O9: within a row the bank and a[9:6] are exchanged by the exclusive or with the row's low four bits, which is
its own inverse. -/
theorem loftAddressSelectsBank : Obligations.LoftAddressSelectsBank := by
  intro a ha
  refine ⟨bankOf_div a, bankOf_mod a, bankOf_lt a, ?_⟩
  rw [lineAddr_bankOf, loftAddr_eq_parts ha]

end Sys2Proof.Machine
